-- ==== Sys2Proof/Word.lean ====
section
/-! DEFINITION. The word types of the CX8 (R6, R8): bytes and 16-, 32- and 64-bit words, and nothing else.
Bit fields, byte order and packing are in Machine/Bits.lean, where a later repair may mend them. -/

namespace Sys2Proof

/-- One byte of memory, of a packet or of a response. -/
abbrev Byte := BitVec 8

/-- A 16-bit word. -/
abbrev W16 := BitVec 16

/-- A 32-bit word: FP32 values, counts in descriptors, register images. -/
abbrev W32 := BitVec 32

/-- A 64-bit word: FP64 values, hashes, random keys. -/
abbrev W64 := BitVec 64

end Sys2Proof
end

