-- ==== Sys2Proof/Syntax.lean ====
section
/-! DEFINITION. The commands of the block: one constructor of `Instr` per row of spec/opcode_table.json, in the
table's order, with the operands a step of that row needs (which unit, which packet fields, what the world measured).
The table gives no row any bits, so the operands are this model's (assumption log 1). -/

namespace Sys2Proof

/-- Where an executing command came from (R434, R451): the slot of mailbox `n`, the sideband's slot, or the `i`-th of the
commands whose mailboxes a reset of the host interface closed while they executed. -/
inductive CmdSrc where
  | mbx (n : Nat)
  | sideband
  | orphan (i : Nat)
  deriving DecidableEq, Repr

/-- The header fields of R394 that every link packet carries and a receiver judges (TYPE, SUBTYPE, FMT, HOT and ARG
follow from the command's row and its own operands; LENGTH from its payload). -/
structure Hdr where
  /-- SRC_PKG -/
  src : Nat
  /-- DST_PKG -/
  dst : Nat
  /-- HOPS -/
  hops : Nat
  /-- EPOCH -/
  epoch : Nat
  /-- STEP -/
  step : Nat
  /-- TAG -/
  tag : Nat
  deriving DecidableEq, Repr

/-- Which unit of a logical core issues a memory access (R349, R364, R368). -/
inductive Unit' where
  /-- hardware context Xx -/
  | ctx (x : Nat)
  /-- shunter Si -/
  | shunter (i : Nat)
  /-- the vector engine's streams -/
  | vector
  deriving DecidableEq, Repr

/-- Who issues a memory access: a unit of a logical core, or the stationmaster (R349). -/
inductive Requester where
  | core (lc : Nat) (u : Unit')
  | stationmaster
  deriving DecidableEq, Repr

/-- What one execution of a tile gave (R457): the value the arithmetic rules give, or a wrong value. A wrong value
lists the outputs it changes as (row, column, FP32 word); `id` tells two wrong values apart in bits not listed. -/
inductive TileValue where
  | right
  | wrong (id : Nat) (outs : List (Nat × Nat × W32))
  deriving DecidableEq, Repr

/-- A tile on which the unit that runs an instruction returns what `value` says (ch. 14: a marginal path, a strike). -/
structure TileFault where
  tile : Nat
  value : TileValue
  deriving DecidableEq, Repr

/-- The unit that executes tiles (R458): array A0, array A1 or the vector engine. -/
inductive EngineKind where
  | a0
  | a1
  | ve
  deriving DecidableEq, Repr

/-- A physical engine: die, physical core K and which unit of it (unit index u of R458). -/
structure PhysUnit where
  die : Nat
  k : Nat
  eng : EngineKind
  deriving DecidableEq, Repr

/-- What a codeword holds for the layer above (R385): a frame with its FSEQ. -/
structure Frame where
  fseq : Nat
  data : List Byte
  deriving DecidableEq, Repr

/-- What the RS decoder made of a codeword (R386). -/
inductive DecodeResult where
  | clean
  | corrected
  | uncorrectable
  deriving DecidableEq, Repr

/-- A link-layer control slot (R385): the cumulative acknowledgement, a negative acknowledgement and new credits
for each of the six virtual channels (CTRL0, CTRL1, REQ0, REQ1, RSP0, RSP1). -/
structure LlcSlot where
  ack : Option Nat
  nak : Option Nat
  credits : List Nat
  deriving DecidableEq, Repr

/-- A 32-byte sector of on-chip memory that has no local address of its own (R356): in a logical core's operand cache, by
number; in a line of its prefetch staging buffer; of a staging area, by the pool address staged. -/
inductive SramPlace where
  | opCache (lc sec : Nat)
  | prefetch (lc granule sec : Nat)
  | staged (addr : Nat)
  deriving DecidableEq, Repr

/-- What a code found wrong in one sector as it was read (R356, R367, R370), by the sector's local address: a bit that
the memory die corrected itself, one symbol that the controller corrects, an uncorrectable stack error; a word corrected
or an uncorrectable word in on-chip memory, by local address or in a buffer. -/
inductive EccFinding where
  | onDie (addr : Nat)
  | correctable (addr : Nat)
  | uncorrectable (addr : Nat)
  | sramCorrected (addr : Nat)
  | sramUncorrectable (addr : Nat)
  | bufferCorrected (p : SramPlace)
  | bufferUncorrectable (p : SramPlace)
  deriving DecidableEq, Repr

/-- An item the bring-up tests found (R498 to R500). -/
inductive Finding where
  /-- a row of physical core k's memories failed; `spare`: a spare row of its bank took it -/
  | coreRow (die k bank row : Nat) (spare : Bool)
  | depotRow (die way bank row : Nat) (spare : Bool)
  /-- a row of another buffer of R356 -/
  | bufferRow (die bank row : Nat) (spare : Bool)
  /-- the core cross-check: `retestAgrees` says what the minority unit's retest did -/
  | coreMinority (u : PhysUnit) (retestAgrees : Bool)
  /-- a core listed bad that agreed with every standing result -/
  | corePassed (die k : Nat)
  | stackRow (chan row : Nat)
  /-- the nominal setting failed margining -/
  | channelNominal (chan : Nat)
  | channelMarginal (chan : Nat)
  /-- a listed channel that was tested and passed (never tested under R500; kept for completeness of R503) -/
  | channelPassed (chan : Nat)
  /-- one test tile run -/
  | tiles (n : Nat)
  /-- the internal topology: a die that does not answer; a coupling that fails training -/
  | dieMissing (die : Nat)
  | couplingBad (c : Nat)
  deriving DecidableEq, Repr

/-- The JTAG instructions of R579. -/
inductive JtagInstr where
  | bypass
  | idcode
  | samplePreload
  | extest
  | clamp
  | highz
  | extestPulse
  | extestTrain
  | privateDebug
  | other
  deriving DecidableEq, Repr

/-- MCTP control messages of R450; `other` is any message the table does not list. -/
inductive MctpControl where
  | setEndpointId (eid : Nat)
  | getEndpointId
  | getEndpointUuid
  | getVersionSupport
  | getMessageTypes
  | other (cmd : Nat)
  deriving DecidableEq, Repr

/-- PLDM base and monitoring messages of R450. -/
inductive PldmMsg where
  | getTid
  | getPldmVersion
  | getPldmTypes
  | getPldmCommands
  /-- numeric sensor reading: sensor ID of R528 or R586 and instance -/
  | getSensor (id inst : Nat)
  /-- the state sensor for STATE of PKG_STATE -/
  | getStateSensor
  | other (cmd : Nat)
  deriving DecidableEq, Repr

/-- The steps of a PLDM firmware update that R450 names, from RequestUpdate to ActivateFirmware. -/
inductive PldmFw where
  | requestUpdate (imageBytes : Nat)
  | data (offset : Nat) (bytes : List Byte)
  | complete
  | activate
  | cancel
  deriving DecidableEq, Repr

/-- The commands and events of the block, one per row of spec/opcode_table.json, in its order. -/
inductive Instr where
  -- chapter 1
  /-- COUPLING_UNIT_RECEIVE: unit `seq` of direction `dir` (0: from the coupling's first die) of coupling `c` arrives -/
  | couplingUnitReceive (c dir seq : Nat) (data : List Byte) (crcOk : Bool)
  | couplingLaneFault (c : Nat)
  | couplingRetrainDone (c : Nat) (carries : Bool)
  | couplingRerouteDrainDone (c : Nat)
  | smAliveMark
  | smWatchdogExpiry
  /-- SM_RESTART_DONE: whether the image in SRAM still gives the last boot's measurement, and whether every word of the
  checkpoint there could be read or corrected (R34, R36) -/
  | smRestartDone (imageOk ckptOk : Bool := true)
  | smAliveDeadline
  /-- SM_TAKEOVER_DONE: `ok` false when the takeover fails; `ckptOk` false when D0's checkpoint is uncorrectable (R39) -/
  | smTakeoverDone (ok : Bool) (ckptOk : Bool := true)
  | bridgeWindowWrite (offset : Nat) (data : List Byte)
  /-- METER_REPORT_RX: the oldest report on the bridge; `damaged`: the 320 bytes as received, when not as sent -/
  | meterReportRx (damaged : Option (List Byte))
  | meterStaleTimeout
  -- chapter 2
  | cmdTtJobStart (src : CmdSrc)
  | cmdTtSetHeadway (src : CmdSrc)
  | cmdTtQuiesce (src : CmdSrc)
  | cmdTtResume (src : CmdSrc)
  | cmdTtJobEnd (src : CmdSrc)
  | cmdTtStatus (src : CmdSrc)
  | probe (h : Hdr) (sendTime : Nat)
  /-- PROBE_REPLY: `rtt`, the round trip the master observes for it, in ns -/
  | probeReply (h : Hdr) (sendTime rtt : Nat)
  | join (h : Hdr)
  | trainLoadComplete
  | joinTimeout
  | jobCtrl (h : Hdr) (jobId op : Nat)
  | timeXferTimer (port : Nat)
  /-- TIME_XFER: the three timestamps of the exchange; `offset`, the offset from the tick master, in ns, that the
  package now estimates -/
  | timeXfer (h : Hdr) (t1 t2 t3 : Nat) (offset : Int)
  | cutoff
  | decisionPoint
  | holdDeadline
  | departure (h : Hdr) (fireTime : Nat) (quiesce ends : Bool) (listCount : Nat) (left : List Nat)
  | leftCont (h : Hdr) (left : List Nat)
  | departureFire
  | stagingWritebackDone (die : Nat)
  | embRowCommit (table row : Nat)
  | endOfStepReached
  | late (h : Hdr)
  | arrival (h : Hdr)
  | deputyDeadline
  | takeover (h : Hdr) (master rank : Nat) (isAnswer eosReached : Bool)
  | takeoverAnswerWindow
  | noMasterDeadline
  -- chapter 3
  /-- COMPLETION_NOTICE: the oldest notice in flight from logical core `src` to the dispatcher of `lc` -/
  | completionNotice (src lc : Nat)
  | dispatchTask (lc : Nat)
  | noticeHeldApply (lc : Nat)
  | taskEnd (lc x : Nat)
  | taskBadCode (lc x : Nat)
  | spawn (lc x template target joinTask argAddr : Nat)
  | spawnStallResume (lc : Nat)
  | spawnStallTimeout (lc x : Nat)
  | quantumExpiry (lc x : Nat)
  | suspensionDone (lc x : Nat)
  | cmdDspGraphOpen (src : CmdSrc)
  | cmdDspGraphData (src : CmdSrc)
  | cmdDspGraphCommit (src : CmdSrc)
  | cmdDspGraphUnload (src : CmdSrc)
  | cmdDspGraphInfo (src : CmdSrc)
  -- chapter 4
  | sample (lc i : Nat)
  | samplePieceRun (lc i : Nat)
  | shunterSteal (lc i : Nat)
  | stealRetryTimer (lc i : Nat)
  | shunterSleepTimer (lc i : Nat)
  | cmdSmpAdjSet (src : CmdSrc)
  | cmdSmpAdjClear (src : CmdSrc)
  | cmdSmpSeedsSet (src : CmdSrc)
  | cmdSmpInfo (src : CmdSrc)
  | cmdSmpProbe (src : CmdSrc)
  -- chapter 5
  | gather (lc i : Nat)
  | scatter (lc i : Nat)
  | spmm (lc i : Nat)
  | haccDrain (lc i : Nat)
  | compress24 (lc i : Nat)
  /-- HACC_CONTRIBUTION: key and elements; `task`, `piece`, `seq` are the tags of R187; shunter `j` of logical core `c`
  sends it (R185) -/
  | haccContribution (lc : Nat) (key : Nat) (elems : List W32) (task piece seq : Nat) (c j : Nat := 0)
  | haccCfgWrite (lc width op : Nat)
  | haccOpen (lc : Nat)
  | remoteReadTimeout (tag : Nat)
  | cmdGthConfig (src : CmdSrc)
  | cmdGthInfo (src : CmdSrc)
  | poolRead (h : Hdr) (addr nsect : Nat)
  | poolData (h : Hdr) (hot : Bool) (poison : Nat) (data : List Byte)
  | poolStore (h : Hdr) (addr : Nat) (data : List Byte)
  | poolAccum (h : Hdr) (addr : Nat) (data : List Byte)
  | rowUpdate (h : Hdr) (row table part parts : Nat) (data : List Byte)
  | poolAck (h : Hdr) (status : Nat)
  -- chapter 6
  | poolFwd (h : Hdr) (home slot : Nat)
  | poolErr (h : Hdr) (reason epoch : Nat)
  | slotRequest (h : Hdr) (row table : Nat)
  | slotGrant (h : Hdr) (row table slot : Nat)
  | slotRefusal (h : Hdr) (row table : Nat)
  /-- ROW_COPY: the row image and the poison mark of each of its sectors (R220, R368) -/
  | rowCopy (h : Hdr) (row table : Nat) (image : List Byte) (poison : Nat := 0)
  /-- DIRECTORY_CHANGE: the row's new home and slot; a change back to the default home removes the entry -/
  | directoryChange (h : Hdr) (row table home slot : Nat)
  | forwardedContribution (h : Hdr) (row table origin seq : Nat) (data : List Byte)
  | cmdEmbTableCreate (src : CmdSrc)
  | cmdEmbTableDestroy (src : CmdSrc)
  | cmdEmbWriteRows (src : CmdSrc)
  | cmdEmbReadRows (src : CmdSrc)
  | cmdEmbSetHyper (src : CmdSrc)
  | cmdEmbMigrate (src : CmdSrc)
  | cmdEmbDirRead (src : CmdSrc)
  | cmdEmbInfo (src : CmdSrc)
  -- chapters 7 and 8
  | cmdMxTensorSet (src : CmdSrc)
  | cmdMxTensorInfo (src : CmdSrc)
  | mma (lc x desc : Nat) (faults : List TileFault)
  /-- MMA_RETIRE: the cycles the array was busy, stalled on A and on B, and waited to retire, as they passed -/
  | mmaRetire (lc a busy stallA stallB wait : Nat)
  | mxWait (lc x a : Nat)
  -- chapter 9
  | elem (lc x desc : Nat) (faults : List TileFault)
  | perm (lc x desc : Nat) (faults : List TileFault)
  | move (lc x desc : Nat)
  | veRetire (lc busy drain wait : Nat)
  | veWait (lc x : Nat)
  -- chapter 10
  | sigSet (lc x line : Nat)
  | sigClr (lc x line : Nat)
  /-- SIG_ARRIVE; `dest`: its destination register, by number (R327) -/
  | sigArrive (lc x line : Nat) (dest : Nat := 0)
  | sigArriveRetry (lc x : Nat)
  | sigWait (lc x line value timeout : Nat)
  /-- SIG_READ; `dest` as for SIG_ARRIVE -/
  | sigRead (lc x line : Nat) (dest : Nat := 0)
  | sigValueRegister
  | sigWaitTimeout (lc x : Nat)
  | sigUp (h : Hdr) (line : Nat) (value : Bool)
  /-- SIG_DOWN: a FLAG line's new value (0 or 1), or the completed generation of a BARRIER line -/
  | sigDown (h : Hdr) (line value : Nat)
  | cmdSigConfig (src : CmdSrc)
  | cmdSigInfo (src : CmdSrc)
  -- chapter 11
  | memoryReadRequest (r : Requester) (gaddr len : Nat) (found : List EccFinding)
  | memoryWriteRequest (r : Requester) (gaddr : Nat) (data : List Byte)
  | wcbIdleFlush (line : Nat)
  | prefetchFill (lc granule : Nat)
  | patrolScrub (chan : Nat) (found : List EccFinding)
  | channelRetrainStart (chan : Nat)
  | channelRetrainDone (chan : Nat)
  | channelRetrainTimeout (chan : Nat)
  /-- STACK_TEMP_REPORT: stack j's temperature in 1/8 degrees Celsius -/
  | stackTempReport (j : Nat) (temp : Int)
  | cmdMemAlloc (src : CmdSrc)
  | cmdMemFree (src : CmdSrc)
  | cmdMemWrite (src : CmdSrc)
  | cmdMemRead (src : CmdSrc)
  | cmdMemRegions (src : CmdSrc)
  | cmdMemConfig (src : CmdSrc)
  | cmdMemRetrain (src : CmdSrc)
  /-- CMD_MEM_MARGIN: the pass bitmap the sweep measured, negative extreme first -/
  | cmdMemMargin (src : CmdSrc) (passes : List Bool)
  | cmdMemStatus (src : CmdSrc)
  -- chapter 12
  | linkCodewordReceive (port : Nat) (result : DecodeResult) (frame : Frame)
  | linkLayerControlSlot (port : Nat) (slot : LlcSlot)
  | linkAckTimeout (port : Nat)
  | portTrainingDone (port lanes : Nat)
  | hello (h : Hdr) (port : Nat) (coords : List Nat) (code dim : Nat) (plus portB : Bool) (nbrPort : Nat)
  | portHelloTimeout (port : Nat)
  /-- PORT_LANE_FAULT: the bitmap of the lanes still in service -/
  | portLaneFault (port lanes : Nat)
  | portRetrainTimeout (port : Nat)
  | linkState (h : Hdr) (pkg dim : Nat) (plus portB : Bool) (newState : Nat)
  | futureEpochTimeout (tag : Nat)
  | reduceScatter (die : Nat)
  | gnorm (die : Nat)
  | rdContrib (h : Hdr) (row table nrows fmt : Nat) (data : List Byte)
  | rdAck (h : Hdr) (row table status : Nat) (afterClose : Bool)
  | rdAckTimeout (tag : Nat)
  | shardCloseTime (table : Nat)
  | gnPartial (h : Hdr) (partialSum : W64) (nonfinite : Bool)
  | gnRootClose
  | gnResult (h : Hdr) (total : W64) (count : Nat) (nonfinite : Bool)
  | cmdLnkTopoSet (src : CmdSrc)
  | cmdLnkStatus (src : CmdSrc)
  | cmdLnkRetrain (src : CmdSrc)
  | cmdRdConfig (src : CmdSrc)
  | cmdRdBind (src : CmdSrc)
  | cmdRdDigestRead (src : CmdSrc)
  -- chapter 13
  | registerWrite (bar offset width value : Nat)
  | devReset (full : Bool)
  | pkgEvtStatusWrite (value : W32)
  | mbxWindowWrite (n offset : Nat) (data : List Byte)
  /-- MBX_OPEN: OPEN written 1, with the IRQ_EN of the same write -/
  | mbxOpen (n : Nat) (irqEn : Bool)
  | mbxClose (n : Nat) (irqEn : Bool)
  | mbxAbort (n : Nat)
  | mbxPost (n value : Nat)
  | mbxTakeUp (n : Nat)
  | mbxPostTimeout (n : Nat)
  | mbxCompletion (n : Nat)
  | functionLevelReset
  | d3hotEntry
  | busMasterEnableSet
  /-- SHED_WINDOW: the utilisation measured over the window, in percent -/
  | shedWindow (utilisation : Nat)
  | cmdMbxNop (src : CmdSrc)
  | cmdMbxInfo (src : CmdSrc)
  | mctpCommand (packet : List Byte)
  | mctpControl (msg : MctpControl)
  | pldmMessage (msg : PldmMsg)
  | pldmFirmwareUpdate (msg : PldmFw)
  -- chapter 14
  /-- CHECK_EXECUTION_DONE: capsule `cap` was executed by core (die, k) with result `value` -/
  | checkExecutionDone (cap die k : Nat) (value : TileValue)
  /-- RETEST_DONE: the minority unit's retest of a capsule gave `value` -/
  | retestDone (u : PhysUnit) (cap : Nat) (value : TileValue)
  /-- SIDING_COPY_DONE: the copy of logical core `lc`; the core addresses (R301) of the sectors read with an uncorrectable
  error -/
  | sidingCopyDone (lc : Nat) (poisoned : List Nat)
  | spareRebuildDone (dead : Nat)
  | historyFlush
  | autoFieldTestStart
  /-- FIELD_TEST_END: tiles run, and the units charged with what each retest did -/
  | fieldTestEnd (tiles : Nat) (charged : List (PhysUnit × Bool))
  | cmdChkConfig (src : CmdSrc)
  | cmdChkStatus (src : CmdSrc)
  | cmdChkFieldTest (src : CmdSrc)
  | cmdFncStatus (src : CmdSrc)
  | cmdFncHistoryRead (src : CmdSrc)
  | cmdFncSparesSet (src : CmdSrc)
  -- chapter 15
  | brgPhaseComplete (found : List Finding)
  | brgDecide
  | cmdBrgStart (src : CmdSrc)
  | deferredReset
  | cmdBrgStatus (src : CmdSrc)
  | cmdBrgAllowDegraded (src : CmdSrc)
  | cmdBrgFaultMapRead (src : CmdSrc)
  -- chapter 16
  | eventAdmit
  | tokenRefill (code : Nat)
  | spillBatch
  | freezeTimeout
  | summaryRefresh
  | cmdEvrRead (src : CmdSrc)
  | cmdEvrFreeze (src : CmdSrc)
  | cmdEvrUnfreeze (src : CmdSrc)
  | cmdEvrClear (src : CmdSrc)
  | cmdEvrHistRead (src : CmdSrc)
  | cmdEvrConfig (src : CmdSrc)
  | cmdEvrCountersRead (src : CmdSrc)
  | cmdEvrPhaseRead (src : CmdSrc)
  -- chapter 17
  /-- METER_SAMPLE: one sample of VIN_HV in mV and of its current in mA -/
  | meterSample (mv : Nat) (ma : Int)
  | meterPulseEnd
  | meterCommit
  | meterReportTimer
  | sealChange
  | readReport
  | challenge (bytes : List Byte)
  | readAudit (seq : Nat)
  | accountOpen (id : Nat)
  | accountClose
  | readId
  | paramLoad (blocks : List Byte)
  | meterBadCommand (byte : Nat)
  | cmdMtrReportRead (src : CmdSrc)
  | cmdMtrAuditRead (src : CmdSrc)
  | cmdPkgAttest (src : CmdSrc)
  | cmdPkgOwnerEnroll (src : CmdSrc)
  | cmdPkgFwOpen (src : CmdSrc)
  | cmdPkgFwData (src : CmdSrc)
  | cmdPkgFwCommit (src : CmdSrc)
  | cmdPkgFwActivate (src : CmdSrc)
  -- chapter 18
  /-- VAUX_APPLIED: what the meter's power-up check found of its ROM digest (R545) -/
  | vauxApplied (romOk : Bool)
  | vauxLoss
  | vinLoss
  | vinRangeExit
  | pkgPwrgdFall
  | pkgPwrgdRise
  | pkgRstNFall
  | pkgRstNRise
  | pciePerstNFall
  | pcieRefclkLoss
  | pcieRefclkReturn
  | lrefclkLoss
  | timerefLoss
  | ppsEdge
  /-- DIE_TEMP_REPORT: die d's hottest sensor in 1/8 degrees Celsius -/
  | dieTempReport (d : Nat) (temp : Int)
  /-- POWER_CEILING_UPDATE: VIN in mV, input current in mA, power averaged over 10 ms in mW, and the highest step of
  25 MHz that keeps both limits, as the power control found it -/
  | powerCeilingUpdate (vin iin p10 mhz : Nat)
  | pkgThrottleNFall
  | pkgThrottleNRise
  | jtagInstruction (i : JtagInstr)
  | cmdPkgPowerStatus (src : CmdSrc)
  | cmdPkgPowerLimit (src : CmdSrc)
  | cmdPkgThermalStatus (src : CmdSrc)
  -- the rows that the table lists last
  | pciePerstNRise
  | busMasterEnableClear
  | msixFunctionUnmask
  /-- BAD_LINK_PACKET: the 32 header bytes as they arrived -/
  | badLinkPacket (header : List Byte)
  | timerefReturn
  | cclkChangeDone (d : Nat)
  deriving DecidableEq, Repr

end Sys2Proof
end

