-- ==== Sys2Proof/Machine/HostParts.lean ====
section
/-! DEFINITION. The parts of the state that lie on the host's side of the package: ordering code and fuses, flash,
mailboxes and BAR registers, stationmaster, event recorder, meter die, supplies, clocks and test port.
Chapters 0, 1, 13, 15, 16, 17 and 18 of spec/. Plain data only. -/

namespace Sys2Proof.Machine

/-- A finite map with natural keys, kept in ascending key order without repeats (Machine/Maps.lean). -/
abbrev AMap (α : Type) := List (Nat × α)

/-- The three ordering codes of R1. -/
inductive Code where
  | cx8a
  | cx4a
  | cx2a
  deriving DecidableEq, Repr

/-- One direction of a coupling (R24), by sequence number: the number the receiver expects, the units in the sender's
retry buffer that must be sent again, units that arrived ahead of a missing one, and what the receiver has delivered to
its junction, in order. -/
structure CplDir where
  next : Nat
  retry : AMap (List Byte)
  ahead : AMap (List Byte)
  delivered : List (List Byte)
  deriving DecidableEq, Repr

/-- The service of one coupling (R28). -/
inductive CplPhase where
  | up
  | retraining
  | failed
  deriving DecidableEq, Repr

/-- The couplings (R23, R24, R28, R29): directions by 2c + dir, phases by c, the coupling that the second route table
avoids, and whether its retry buffer is still being delivered on the new routes. -/
structure Couplings where
  dirs : AMap CplDir
  phases : AMap CplPhase
  avoid : Option Nat
  draining : Bool
  deriving DecidableEq, Repr

/-- The device states of R5, numbered by STATE of R426. -/
inductive DevState where
  | off
  | standby
  | bringup
  | limited
  | ready
  | running
  | quiesced
  | quarantined
  deriving DecidableEq, Repr

/-- SM_STATE of R426. -/
inductive SmState where
  | running
  | restarting
  | takeover
  | failed
  deriving DecidableEq, Repr

/-- One entry of the merged fault map, in the fields of R512. -/
structure FaultEntry where
  kind : Nat
  fuse : Bool
  soft : Bool
  found : Bool
  passed : Bool
  repaired : Bool
  die : Nat
  unitNo : Nat
  sub : Nat
  row : Nat
  histS : Nat
  deriving DecidableEq, Repr

/-- What is fixed at manufacture: the fuse block (R502), PKG_SERIAL (R425), the identity secret (R554), DBG_LOCK (R579),
the firmware floor (R560) and the Tabvas keys of the boot ROM (R555). -/
structure Fuses where
  code : Code
  serial : W64
  faults : List FaultEntry
  dbgLockBlown : Bool
  idSecret : List Byte
  svnFloor : Nat
  tabvasKeys : List (List Byte)
  romDigest : List Byte
  deriving DecidableEq, Repr

/-- The boot header of R556, without MAGIC, FORMAT and CRC, which its image adds. -/
structure BootHdr where
  updateNo : Nat
  activeB : Bool
  validA : Bool
  validB : Bool
  session : Bool
  deriving DecidableEq, Repr

/-- One owner slot of the enrolment record (R556). -/
structure OwnerSlot where
  valid : Bool
  use : Nat
  lastNonce : Nat
  pubkey : List Byte
  deriving DecidableEq, Repr

/-- The owner enrolment record of R556. -/
structure Enrol where
  updateNo : Nat
  minSvn : Nat
  tabvasDisable : Nat
  slots : List OwnerSlot
  deriving DecidableEq, Repr

/-- The topology record of R389 and R413: coordinates, lengths and wrap flags of w, x, y, z. -/
structure Topo where
  coords : List Nat
  lens : List Nat
  wraps : List Bool
  deriving DecidableEq, Repr

/-- One entry of the unit history (R489). -/
structure HistEntry where
  kind : Nat
  die : Nat
  k : Nat
  unitNo : Nat
  secs : Nat
  step : Nat
  addr : Nat
  deriving DecidableEq, Repr

/-- The bring-up record in flash (R494, R495, R510, R511). -/
structure BrgRecord where
  allow : Bool
  minLc : Nat
  lastFullPass : Option Nat
  memEvent : Bool
  total : Nat
  startMode : Nat
  deriving DecidableEq, Repr

/-- One record of the event recorder (R516): `time` is the full global time of its raising; TS is its bits [35:12]. -/
structure Rec where
  seq : Nat
  code : Nat
  sev : Nat
  src : Nat
  time : Nat
  payload : List Byte
  deriving DecidableEq, Repr

/-- A firmware slot of R42: the image written at manufacture (its bytes are not given: `Config.factoryHeader`), or the
64-byte units written since the last erase, by unit number. -/
structure FwSlot where
  factory : Bool
  units : AMap (List Byte)
  deriving DecidableEq, Repr

/-- The serial NOR flash of R42, by content. `spill`: its erase blocks in use, oldest first (R523). `histNs`: the powered
time of R469, in ns. `ckpt`: the number of the newest checkpoint whose copy the checkpoint area holds. -/
structure Flash where
  boot1 : BootHdr
  boot2 : BootHdr
  enrol1 : Enrol
  enrol2 : Enrol
  fwA : FwSlot
  fwB : FwSlot
  lastCommitB : Bool
  spill : List (List Rec)
  clearLog : List Rec
  hist : List HistEntry
  histNs : Nat
  softMap : List FaultEntry
  brg : BrgRecord
  topo : Option Topo
  ckpt : Nat
  deriving DecidableEq, Repr

/-- A completion that is due: STATUS, the response payload, DETAIL_STEP and DETAIL_CHECK of R440. -/
structure Completion where
  status : Nat
  resp : List Byte
  dstep : Nat
  dcheck : Nat
  deriving DecidableEq, Repr

/-- A command taken up (R434): the header and payload copied from its window, its posting time, and its completion
once its effect is recorded in a checkpoint (R38). `waits`: it waits for an event and holds no core (R445).
`stale`: the hardware changed the device state after step 6 judged it (R442). -/
structure Slot where
  header : List Byte
  payload : List Byte
  opcode : Nat
  postTime : Nat
  waits : Bool
  stale : Bool
  done : Option Completion
  deriving DecidableEq, Repr

/-- STATE of MBX_STATE (R433). -/
inductive MbxPhase where
  | closed
  | idle
  | posted
  | executing
  deriving DecidableEq, Repr

/-- One mailbox: its control block (R432, R433), its window (R430) and the command it carries. -/
structure Mailbox where
  retBase : Nat
  retSize : Nat
  irqEn : Bool
  phase : MbxPhase
  closing : Bool
  postValue : Nat
  postTime : Nat
  lastSeq : Nat
  lastStatus : Nat
  window : List Byte
  slot : Option Slot
  held : Bool
  deriving DecidableEq, Repr

/-- What the device writes to the host: memory writes and MSI-X messages, in order (R439). -/
inductive HostOut where
  | write (addr : Nat) (data : List Byte)
  | msix (vector : Nat)
  deriving DecidableEq, Repr

/-- How a sideband message is answered (R450, R451, R560); the codes' numbers are the standards'. -/
inductive SideCode where
  | done
  | busy
  | failed
  | unsupported
  deriving DecidableEq, Repr

/-- What the sideband answers (R450, R451): a command's completion record and response, an MCTP or PLDM answer with its
code and the numbers it carries, or a PlatformEventMessage with the old and new device state. -/
inductive SideMsg where
  | vendor (record response : List Byte)
  | mctp (code : SideCode) (data : List Int)
  | pldm (code : SideCode) (data : List Int)
  | platformEvent (old new : Nat)
  deriving DecidableEq, Repr

/-- The host interface (chapter 13). `msixTable` holds the dwords of the MSI-X table written since reset.
`orphans`: the commands whose mailboxes a reset closed while they executed (R434): they keep their effect.
`evtSet`: when the hardware last set each bit of PKG_EVT_STATUS (R13). -/
structure HostIf where
  mbx : AMap Mailbox
  side : Option Slot
  orphans : List Slot
  evtStatus : W32
  evtMask : W32
  evtSet : AMap Nat
  busMaster : Bool
  msixEnable : Bool
  funcMask : Bool
  msixTable : AMap W32
  msixPending : List Nat
  out : List HostOut
  sideOut : List SideMsg
  eid : Nat
  deriving DecidableEq, Repr

/-- What D0's SRAM holds for the stationmaster (R34, R36, R37): the firmware image's measurement by the last boot, whether
the image in it still gives that measurement, the number of the newest checkpoint (what it records of a command is the
command's `Slot.done`, R38), and whether every word of that checkpoint can be corrected. -/
structure SmSram where
  measured : List Byte
  imageOk : Bool
  ckpt : Nat
  ckptOk : Bool
  deriving DecidableEq, Repr

/-- The stationmaster as seen from outside (R34 to R39, R445 to R447). `below`: windows in a row spent below 60 %;
`lastMark`: when the last alive mark was registered. -/
structure Station where
  state : SmState
  sram : SmSram
  lastMark : Option Nat
  onD1 : Bool
  alive : Nat
  lastExpiry : Option Nat
  awaitingMark : Bool
  shed : Nat
  below : Nat
  deriving DecidableEq, Repr

/-- A token bucket of R520; `next`: when the next token is due, while the bucket is below BURST. -/
structure Bucket where
  tokens : Nat
  next : Option Nat
  deriving DecidableEq, Repr

/-- A per-code statistic of R526 beyond the two counters. -/
structure Stat where
  lastSrc : Nat
  first : Nat
  last : Nat
  deriving DecidableEq, Repr

/-- A sensor histogram of R527. -/
structure Hist where
  count : Nat
  min : Int
  max : Int
  tMin : Nat
  tMax : Nat
  sum : Int
  lo : Int
  hi : Int
  bins : List Nat
  deriving DecidableEq, Repr

/-- A freeze in force (R525): its expiry, and EVR_FROZEN_CNT at its beginning. -/
structure Freeze where
  expires : Nat
  startCount : Nat
  deriving DecidableEq, Repr

/-- A phase entry of R529. Times are ns from departure n; `none` is never reached. -/
structure PhaseEntry where
  step : Nat
  depTime : Nat
  tStep : Option Nat
  tLoad : Option Nat
  tEnd : Option Nat
  tNext : Nat
  tHold : Nat
  late : Bool
  left : Bool
  sittingOut : Bool
  forfeit : Bool
  syncLost : Bool
  deriving DecidableEq, Repr

/-- A sample of a sensor instance, taken at `time` (R527). -/
structure Sample where
  id : Nat
  inst : Nat
  value : Int
  time : Nat
  deriving DecidableEq, Repr

/-- The event recorder (chapter 16). `queue` is the event queue on D0, oldest first. `ring` is oldest first.
`spilledTo`: every sequence number at or below it has been offered to the spill. `batch`: the samples that shed level 2
holds for their second's end (R527). -/
structure Recorder where
  ring : List Rec
  queue : List Rec
  nextSeq : Nat
  freeze : Option Freeze
  fatalHold : List Rec
  buckets : AMap Bucket
  rates : AMap (Nat × Nat)
  stats : AMap Stat
  hists : AMap Hist
  ranges : AMap (Int × Int)
  tele : AMap Nat
  spilledTo : Nat
  lastSpill : Nat
  admitted : List Nat
  newestSeq : Nat
  severe : List Rec
  summaryGen : Nat
  summary : List Byte
  phases : List PhaseEntry
  batch : List Sample
  deriving DecidableEq, Repr

/-- One entry of the meter's audit trail (R548). -/
structure AuditEntry where
  seq : Nat
  ms : Nat
  kind : Nat
  data : List Byte
  chain : List Byte
  deriving DecidableEq, Repr

/-- The meter's parameter set (R545): whether it is the one of manufacture, its version and its bytes. -/
structure ParamSet where
  factory : Bool
  version : Nat
  bytes : List Byte
  deriving DecidableEq, Repr

/-- The open account of R542. Energy in mJ, with the fraction of a mJ not yet counted kept by `Meter.frac`. -/
structure Account where
  id : Nat
  energy : Nat
  startMs : Nat
  pMax : Nat
  deriving DecidableEq, Repr

/-- The registers that the meter commits to its non-volatile memory (R540). -/
structure MeterRegs where
  energy : Nat
  ms : Nat
  reportSeq : Nat
  accountSeq : Nat
  sealEvents : Nat
  auditSeq : Nat
  auditHead : List Byte
  account : Option Account
  deriving DecidableEq, Repr

/-- The meter die (R40, R538 to R553): registers, interval sums, seal, key, audit trail, parameter set, and the bridge
queue of reports (with the audit entries that travel with each) not yet received by D0. `auditOut`: the entries written
since the last report; `lastTimerMs`: METER_MS of the last periodic report. -/
structure Meter where
  powered : Bool
  regs : MeterRegs
  nv : MeterRegs
  frac : Nat
  usFrac : Nat
  intSumV : Nat
  intSumI : Int
  intN : Nat
  intStartMs : Nat
  intPMax : Nat
  winSum : Nat
  winN : Nat
  overrange : Bool
  overNow : Bool
  sealOpen : Bool
  selfFail : Bool
  powerUp : Bool
  challenge : Option (List Byte)
  pulseLow : Bool
  secret : List Byte
  metrologyKey : List Byte
  romDigest : List Byte
  fwId : Nat
  serial : W64
  param : ParamSet
  audit : List AuditEntry
  auditOut : List AuditEntry
  lastTimerMs : Nat
  lastReport : List Byte
  bridge : List (List Byte × List AuditEntry)
  portOut : List (Nat × List Byte)
  deriving DecidableEq, Repr

/-- One report slot of the bridge window (R552). -/
structure ReportSlot where
  report : List Byte
  rxTime : Nat
  sigOk : Bool
  deriving DecidableEq, Repr

/-- The bridge window of R552 and D0's checks of R553. -/
structure BridgeWindow where
  gen : Nat
  newest : Nat
  filled : Nat
  slots : AMap ReportSlot
  audit : AMap AuditEntry
  lastRx : Nat
  sealSeen : Bool
  failSeen : Bool
  deriving DecidableEq, Repr

/-- A firmware update session (R560): the image's size, and whether a PLDM update holds it. -/
structure FwSession where
  imageBytes : Nat
  pldm : Bool
  deriving DecidableEq, Repr

/-- A latched event of R590, recorded at the next bring-up. -/
structure Latched where
  code : Nat
  time : Nat
  payload : List Byte
  deriving DecidableEq, Repr

/-- One die's thermal and clock state (R581, R583); `changing`: a CCLK change is in progress. -/
structure DieClock where
  temp : Int
  step : Nat
  cclk : Nat
  changing : Bool
  deriving DecidableEq, Repr

/-- Supplies, reset inputs, reference clocks, power limits and the test port (chapter 18). -/
structure Package where
  vaux : Bool
  vin : Bool
  vinRange : Bool
  pwrgd : Bool
  rstN : Bool
  perstN : Bool
  throttleN : Bool
  thermtrip : Bool
  refclk : Bool
  lrefclk : Bool
  timeref : Bool
  ppsSinceReturn : Nat
  latched : List Latched
  dies : AMap DieClock
  plW : Nat
  tjThr : Nat
  pwrCeil : Nat
  vinMv : Nat
  iinMa : Nat
  p10Mw : Nat
  jtag : JtagInstr
  deriving DecidableEq, Repr

/-- What boot measured and started (R557, R558): the five stage digests, FALLBACK and the running image's header. -/
structure BootState where
  digests : List (List Byte)
  final : List Byte
  fallback : Bool
  started : Bool
  slotB : Bool
  version : Nat
  deriving DecidableEq, Repr

/-- Bring-up (chapter 15): `mode` 0 not chosen, 1 FULL, 2 QUICK; `found`: what this bring-up found; `limitedWhy` of
R511; `m`, logical cores per die;
`resetAt`: the time and bring-up mode of the device reset that CMD_BRG_START or CMD_PKG_FW_ACTIVATE has asked for. -/
structure Bringup where
  phase : Nat
  mode : Nat
  requested : Nat
  startTime : Nat
  elapsedMs : Option Nat
  found : List FaultEntry
  couplingsBad : List Nat
  diesBad : List Nat
  fullDirty : Bool
  spreadOk : Bool
  degraded : Bool
  m : Nat
  limitedWhy : Nat
  resetAt : Option (Nat × Nat)
  deriving DecidableEq, Repr

end Sys2Proof.Machine
end

