-- ==== Sys2Proof/Machine/Maps.lean ====
section
/-! DEFINITION. Finite maps (AMap) and byte lists: the helpers that every part of the machine shares. R6: all
multi-byte quantities are little-endian. -/

namespace Sys2Proof.Machine

/-- The value at key `k`, if the map has one. -/
def mapGet {α : Type} : AMap α → Nat → Option α
  | [], _ => none
  | (k', v) :: m, k => if k' = k then some v else mapGet m k

/-- The value at key `k`, or `d`. -/
def mapGetD {α : Type} (m : AMap α) (k : Nat) (d : α) : α :=
  match mapGet m k with
  | some v => v
  | none => d

/-- `m` with `v` at key `k`, in ascending key order. -/
def mapSet {α : Type} : AMap α → Nat → α → AMap α
  | [], k, v => [(k, v)]
  | (k', v') :: m, k, v =>
    if k < k' then (k, v) :: (k', v') :: m
    else if k = k' then (k, v) :: m
    else (k', v') :: mapSet m k v

/-- `m` without key `k`. -/
def mapDel {α : Type} (m : AMap α) (k : Nat) : AMap α :=
  m.filter (fun p => p.1 ≠ k)

/-- `m` with the value at `k` (or `d`) changed by `f`. -/
def mapUpd {α : Type} (m : AMap α) (k : Nat) (d : α) (f : α → α) : AMap α :=
  mapSet m k (f (mapGetD m k d))

/-- The keys of the map, ascending. -/
def mapKeys {α : Type} (m : AMap α) : List Nat := m.map (fun p => p.1)

/-- Every value changed by `f`. -/
def mapVals {α β : Type} (f : Nat → α → β) (m : AMap α) : AMap β := m.map (fun p => (p.1, f p.1 p.2))

/-- The number that a little-endian list of bytes spells (R6). -/
def leNat : List Byte → Nat
  | [] => 0
  | b :: bs => b.toNat + 256 * leNat bs

/-- The low `n` bytes of `x`, little-endian (R6). -/
def toLE : Nat → Nat → List Byte
  | 0, _ => []
  | n + 1, x => BitVec.ofNat 8 x :: toLE n (x / 256)

/-- `n` zero bytes. -/
def zeros (n : Nat) : List Byte := List.replicate n 0

/-- The `n` bytes of `b` from byte `off`; bytes beyond its end read as zero. -/
def slice (b : List Byte) (off n : Nat) : List Byte :=
  let t := (b.drop off).take n
  t ++ zeros (n - t.length)

/-- Bits [lo + w - 1 : lo] of a field map laid over `b` (R6). -/
def field (b : List Byte) (lo w : Nat) : Nat :=
  (leNat (slice b (lo / 8) ((lo % 8 + w + 7) / 8)) >>> (lo % 8)) % 2 ^ w

/-- A one-bit field. -/
def flag (b : List Byte) (lo : Nat) : Bool := field b lo 1 == 1

/-- `x` read as a `w`-bit two's complement number. -/
def toSigned (w x : Nat) : Int :=
  if x % 2 ^ w < 2 ^ (w - 1) then ((x % 2 ^ w : Nat) : Int) else ((x % 2 ^ w : Nat) : Int) - 2 ^ w

/-- The `w`-bit two's complement word of `i`. -/
def ofSigned (w : Nat) (i : Int) : Nat := (i % (2 ^ w : Int)).toNat

/-- A bit as a number. -/
def bit (b : Bool) : Nat := if b then 1 else 0

/-- The word of a field map: each entry is (low bit, width, value). -/
def packNat : List (Nat × Nat × Nat) → Nat
  | [] => 0
  | (lo, w, v) :: fs => (v % 2 ^ w) <<< lo ||| packNat fs

/-- `n` bytes holding the fields listed. -/
def pack (n : Nat) (fs : List (Nat × Nat × Nat)) : List Byte := toLE n (packNat fs)

/-- `b` padded with zeros to at least `n` bytes. -/
def padTo (n : Nat) (b : List Byte) : List Byte := b ++ zeros (n - b.length)

/-- `b` with `data` written from byte `off`, grown with zeros as needed. -/
def splice (b : List Byte) (off : Nat) (data : List Byte) : List Byte :=
  (padTo off b).take off ++ data ++ b.drop (off + data.length)

/-- Every bit of a list of flags, bit i from element i. -/
def bitmap : List Bool → Nat
  | [] => 0
  | b :: bs => bit b + 2 * bitmap bs

/-- The bitmap with exactly the numbers of `l` below `n` set. -/
def bitmapOf (n : Nat) (l : List Nat) : Nat := bitmap ((List.range n).map (fun i => l.contains i))

/-- The largest value of a 64-bit counter (R15). -/
def max64 : Nat := 2 ^ 64 - 1

/-- `x` capped at `m`. -/
def sat (m x : Nat) : Nat := if x ≤ m then x else m

/-- Quotient rounded up. -/
def cdiv (a b : Nat) : Nat := (a + b - 1) / b

/-- The number of elements of `l` that satisfy `p`. -/
def countIf {α : Type} (p : α → Bool) (l : List α) : Nat := (l.filter p).length

/-- The sum of a list of numbers. -/
def sumNat : List Nat → Nat
  | [] => 0
  | x :: xs => x + sumNat xs

/-- `l` with element `i` replaced (unchanged when it has none). -/
def setAt {α : Type} (l : List α) (i : Nat) (v : α) : List α := l.set i v

/-- Insertion into a list kept in ascending order by `le`, after equal elements. -/
def insertBy {α : Type} (le : α → α → Bool) (x : α) : List α → List α
  | [] => [x]
  | y :: ys => if le y x then y :: insertBy le x ys else x :: y :: ys

/-- Stable insertion sort by `le`. -/
def sortBy {α : Type} (le : α → α → Bool) : List α → List α
  | [] => []
  | x :: xs =>
    let rec ins : List α → List α
      | [] => [x]
      | y :: ys => if le x y then x :: y :: ys else y :: ins ys
    ins (sortBy le xs)

/-- Numbers in ascending order without repeats. -/
def setInsert (x : Nat) : List Nat → List Nat
  | [] => [x]
  | y :: ys => if x < y then x :: y :: ys else if x = y then y :: ys else y :: setInsert x ys

/-- The union of `a` into the sorted set `s`. -/
def setUnion (s a : List Nat) : List Nat := a.foldl (fun t x => setInsert x t) s

/-- The first element of `l` satisfying `p`, and the list without it. -/
def takeFirst {α : Type} (p : α → Bool) : List α → Option (α × List α)
  | [] => none
  | x :: xs =>
    if p x then some (x, xs)
    else match takeFirst p xs with
      | some (y, ys) => some (y, x :: ys)
      | none => none

end Sys2Proof.Machine
end

