-- ==== Sys2Proof/Machine/Crypto.lean ====
section
/-! DEFINITION. The published functions that the spec names: CRC-32 (R95), CRC-64 (R410), Philox-4x32-10 (R137),
SHA-512 and Ed25519 (R438, R547, R550, R554 to R564), over byte lists and numbers. -/

namespace Sys2Proof.Machine

/-- One bit of a reflected CRC with reflected polynomial `p`. -/
def crcBit (p c : Nat) : Nat := if c % 2 = 1 then (c / 2) ^^^ p else c / 2

/-- One byte of a reflected CRC. -/
def crcByte (p c : Nat) (b : Byte) : Nat :=
  let c := c ^^^ b.toNat
  crcBit p (crcBit p (crcBit p (crcBit p (crcBit p (crcBit p (crcBit p (crcBit p c)))))))

/-- The CRC-32 of R95: IEEE 802.3, reflected polynomial 0xEDB88320. -/
def crc32 (b : List Byte) : Nat := b.foldl (crcByte 0xEDB88320) 0xFFFFFFFF ^^^ 0xFFFFFFFF

/-- The CRC-64 of R410: ECMA-182 0x42F0E1EBA9EA3693, reflected. -/
def crc64 (b : List Byte) : Nat :=
  b.foldl (crcByte 0xC96C5795D7870F42) 0xFFFFFFFFFFFFFFFF ^^^ 0xFFFFFFFFFFFFFFFF

/-- One round of Philox-4x32: counter words c0 to c3, key words k0, k1 (R137). -/
def philoxRound (k0 k1 c0 c1 c2 c3 : Nat) : Nat × Nat × Nat × Nat :=
  let p0 := 0xD2511F53 * c0
  let p1 := 0xCD9E8D57 * c2
  ((p1 / 2 ^ 32) ^^^ c1 ^^^ k0, p1 % 2 ^ 32, (p0 / 2 ^ 32) ^^^ c3 ^^^ k1, p0 % 2 ^ 32)

/-- `n` rounds of Philox, the key words advancing after each (R137). -/
def philoxRounds : Nat → Nat → Nat → Nat × Nat × Nat × Nat → Nat × Nat × Nat × Nat
  | 0, _, _, c => c
  | n + 1, k0, k1, (c0, c1, c2, c3) =>
    philoxRounds n ((k0 + 0x9E3779B9) % 2 ^ 32) ((k1 + 0xBB67AE85) % 2 ^ 32) (philoxRound k0 k1 c0 c1 c2 c3)

/-- Philox-4x32-10 with the key of R137, taken from JOB_ID. -/
def philox (jobId c0 c1 c2 c3 : Nat) : Nat × Nat × Nat × Nat :=
  philoxRounds 10 (jobId % 2 ^ 32) (jobId / 2 ^ 32 % 2 ^ 32)
    (c0 % 2 ^ 32, c1 % 2 ^ 32, c2 % 2 ^ 32, c3 % 2 ^ 32)

/-- Output word r_i of a Philox result. -/
def philoxWord (r : Nat × Nat × Nat × Nat) (i : Nat) : Nat :=
  match i % 4 with
  | 0 => r.1
  | 1 => r.2.1
  | 2 => r.2.2.1
  | _ => r.2.2.2

/-- The first 80 primes are those below 410: no divisor up to 20 but the number itself. -/
def smallPrimes : List Nat :=
  (List.range 410).filter (fun n => decide (2 ≤ n) && (List.range 21).all (fun d => decide (d < 2) || d == n || n % d != 0))

/-- The largest number below r + 2^n whose `k`-th power is at most `x`, from `r`, bit by bit. -/
def rootFloor (k x : Nat) : Nat → Nat → Nat
  | 0, r => r
  | n + 1, r => rootFloor k x n (if (r + 2 ^ n) ^ k ≤ x then r + 2 ^ n else r)

/-- The first 64 bits of the fraction of the `k`-th root of `p`: how FIPS 180-4 defines its constants. -/
def rootWord (k p : Nat) : Nat := rootFloor k (p * 2 ^ (64 * k)) 72 0 % 2 ^ 64

/-- The round constants of SHA-512: cube roots of the first 80 primes (FIPS 180-4). -/
def sha512K : List Nat := smallPrimes.map (rootWord 3)

/-- The initial hash value of SHA-512: square roots of the first 8 primes (FIPS 180-4). -/
def sha512H : List Nat := (smallPrimes.take 8).map (rootWord 2)

/-- Rotation right of a 64-bit word. -/
def rotr64 (n x : Nat) : Nat := (x >>> n) ||| (x <<< (64 - n)) % 2 ^ 64

/-- The big-endian number of a byte list. -/
def beNat (b : List Byte) : Nat := b.foldl (fun a x => 256 * a + x.toNat) 0

/-- The low `n` bytes of `x`, big-endian. -/
def toBE (n x : Nat) : List Byte := (toLE n x).reverse

/-- The message schedule, newest word first: `n` more words are added. -/
def sha512Sched : Nat → List Nat → List Nat
  | 0, w => w
  | n + 1, w =>
    let s0 := w.getD 14 0
    let s1 := w.getD 1 0
    let a := rotr64 1 s0 ^^^ rotr64 8 s0 ^^^ (s0 >>> 7)
    let b := rotr64 19 s1 ^^^ rotr64 61 s1 ^^^ (s1 >>> 6)
    sha512Sched n ((w.getD 15 0 + a + w.getD 6 0 + b) % 2 ^ 64 :: w)

/-- One round on the working variables [a, b, c, d, e, f, g, h] with constant plus schedule word `kw`. -/
def sha512Round (v : List Nat) (kw : Nat) : List Nat :=
  match v with
  | [a, b, c, d, e, f, g, h] =>
    let t1 := h + (rotr64 14 e ^^^ rotr64 18 e ^^^ rotr64 41 e)
      + ((e &&& f) ^^^ ((2 ^ 64 - 1 - e) &&& g)) + kw
    let t2 := (rotr64 28 a ^^^ rotr64 34 a ^^^ rotr64 39 a) + ((a &&& b) ^^^ (a &&& c) ^^^ (b &&& c))
    [(t1 + t2) % 2 ^ 64, a, b, c, (d + t1) % 2 ^ 64, e, f, g]
  | v => v

/-- The eight big-endian words of 64 bits, or sixteen for a block. -/
def words64 : Nat → List Byte → List Nat
  | 0, _ => []
  | n + 1, b => beNat (b.take 8) :: words64 n (b.drop 8)

/-- One block of 128 bytes. -/
def sha512Block (h : List Nat) (blk : List Byte) : List Nat :=
  let w := (sha512Sched 64 (words64 16 blk).reverse).reverse
  let v := (List.zipWith (fun k x => (k + x) % 2 ^ 64) sha512K w).foldl sha512Round h
  List.zipWith (fun a b => (a + b) % 2 ^ 64) h v

/-- `n` blocks of a padded message. -/
def sha512Blocks : Nat → List Nat → List Byte → List Nat
  | 0, h, _ => h
  | n + 1, h, b => sha512Blocks n (sha512Block h (b.take 128)) (b.drop 128)

/-- SHA-512 (FIPS 180-4). -/
def sha512 (m : List Byte) : List Byte :=
  let padded := m ++ [0x80] ++ zeros ((239 - m.length % 128) % 128) ++ toBE 16 (8 * m.length)
  ((sha512Blocks (padded.length / 128) sha512H padded).map (toBE 8)).flatten

/-- The field prime 2^255 - 19. -/
def edP : Nat := 2 ^ 255 - 19

/-- The group order of the base point. -/
def edL : Nat := 2 ^ 252 + 27742317777372353535851937790883648493

/-- The curve constant d. -/
def edD : Nat := 37095705934669439343138083508754565189542113879843219016388785533085940283555

/-- A square root of -1. -/
def edI : Nat := 19681161376707505956807079304988542015446066515923890162744021073123829784752

/-- `b ^ e` modulo `m`, over the low `n` bits of `e`. -/
def powMod : Nat → Nat → Nat → Nat → Nat
  | 0, _, _, m => 1 % m
  | n + 1, b, e, m =>
    let r := powMod n (b * b % m) (e / 2) m
    if e % 2 = 1 then b * r % m else r

/-- The inverse modulo the field prime. -/
def edInv (x : Nat) : Nat := powMod 255 x (edP - 2) edP

/-- A point in extended coordinates. -/
abbrev EdPoint := Nat × Nat × Nat × Nat

/-- Point addition (RFC 8032, 5.1.4). -/
def edAdd (p q : EdPoint) : EdPoint :=
  let (x1, y1, z1, t1) := p
  let (x2, y2, z2, t2) := q
  let a := (y1 + edP - x1) * (y2 + edP - x2) % edP
  let b := (y1 + x1) * (y2 + x2) % edP
  let c := 2 * edD * t1 * t2 % edP
  let d := 2 * z1 * z2 % edP
  let e := b + edP - a
  let f := d + edP - c
  let g := d + c
  let h := b + a
  (e * f % edP, g * h % edP, f * g % edP, e * h % edP)

/-- Multiplication of a point by the low `n` bits of `k`. -/
def edMul : Nat → Nat → EdPoint → EdPoint
  | 0, _, _ => (0, 1, 1, 0)
  | n + 1, k, p =>
    let r := edMul n (k / 2) (edAdd p p)
    if k % 2 = 1 then edAdd p r else r

/-- The base point. -/
def edB : EdPoint :=
  let x := 15112221349535400772501151409588531511454012693041857206046113283949847762202
  let y := 46316835694926478169428394003475163141307993866256225615783033603165251855960
  (x, y, 1, x * y % edP)

/-- The 32-byte encoding of a point. -/
def edEncode (p : EdPoint) : List Byte :=
  let zi := edInv p.2.2.1
  let x := p.1 * zi % edP
  let y := p.2.1 * zi % edP
  toLE 32 (y + 2 ^ 255 * (x % 2))

/-- The point that 32 bytes encode, if any. -/
def edDecode (b : List Byte) : Option EdPoint :=
  if b.length ≠ 32 then none else
  let n := leNat b
  let y := n % 2 ^ 255
  let sgn := n / 2 ^ 255
  if edP ≤ y then none else
  let u := (y * y + edP - 1) % edP
  let v := (edD * (y * y) + 1) % edP
  let x0 := u * powMod 4 v 3 edP * powMod 253 (u * powMod 4 v 7 edP % edP) ((edP - 5) / 8) edP % edP
  let ok0 := v * (x0 * x0) % edP = u
  let x1 := x0 * edI % edP
  let ok1 := v * (x1 * x1) % edP = u
  if ok0 ∨ ok1 then
    let x := if ok0 then x0 else x1
    if x = 0 ∧ sgn = 1 then none
    else
      let x := if x % 2 = sgn then x else edP - x
      some (x, y, 1, x * y % edP)
  else none

/-- Whether two points are equal. -/
def edEq (p q : EdPoint) : Bool :=
  (p.1 * q.2.2.1 % edP == q.1 * p.2.2.1 % edP) && (p.2.1 * q.2.2.1 % edP == q.2.1 * p.2.2.1 % edP)

/-- The secret scalar and the prefix of a 32-byte secret key. -/
def edExpand (secret : List Byte) : Nat × List Byte :=
  let h := sha512 secret
  let a := leNat (h.take 32)
  (a % 2 ^ 254 / 8 * 8 + 2 ^ 254, h.drop 32)

/-- The public key of a secret key. -/
def edPublic (secret : List Byte) : List Byte := edEncode (edMul 256 (edExpand secret).1 edB)

/-- Ed25519 signature, pure (RFC 8032). -/
def edSign (secret msg : List Byte) : List Byte :=
  let (a, pre) := edExpand secret
  let pk := edEncode (edMul 256 a edB)
  let r := leNat (sha512 (pre ++ msg)) % edL
  let rEnc := edEncode (edMul 256 r edB)
  let k := leNat (sha512 (rEnc ++ pk ++ msg)) % edL
  rEnc ++ toLE 32 ((r + k * a) % edL)

/-- Ed25519 verification, pure (RFC 8032). -/
def edVerify (pk msg sig : List Byte) : Bool :=
  if sig.length ≠ 64 then false else
  match edDecode pk, edDecode (sig.take 32) with
  | some a, some r =>
    let s := leNat (sig.drop 32)
    if edL ≤ s then false else
    let k := leNat (sha512 (sig.take 32 ++ pk ++ msg)) % edL
    edEq (edMul 256 s edB) (edAdd r (edMul 256 k a))
  | _, _ => false

end Sys2Proof.Machine
end

