-- ==== Sys2Proof/Machine/CmdIndex.lean ====
section
/-! DEFINITION. The command index: opcode, priority class, signature and accepted states of every mailbox command (R453 and
the command tables of the chapters). -/

namespace Sys2Proof.Machine

/-- The states a command is accepted in, as the command tables write them. -/
inductive Accept where
  /-- any state in which the BARs are reachable, and STANDBY over the sideband (R449, R451) -/
  | always
  /-- any state except OFF and STANDBY -/
  | on
  | only (states : List DevState)
  deriving DecidableEq, Repr

/-- One command of the index: its class, whether it is marked S, whether only the tick master takes it, its states. -/
structure CmdInfo where
  op : Nat
  cls : Nat
  signed : Bool
  master : Bool
  accept : Accept
  deriving DecidableEq, Repr

/-- READY only. -/
def accReady : Accept := .only [.ready]

/-- READY, RUNNING, QUIESCED. -/
def accJob : Accept := .only [.ready, .running, .quiesced]

/-- READY, QUIESCED. -/
def accStill : Accept := .only [.ready, .quiesced]

/-- READY, LIMITED. -/
def accLimited : Accept := .only [.ready, .limited]

/-- LIMITED, READY, RUNNING, QUIESCED. -/
def accUpdate : Accept := .only [.limited, .ready, .running, .quiesced]

/-- A command without signature that any package takes. -/
def cmdRow (op cls : Nat) (a : Accept) : CmdInfo := { op := op, cls := cls, signed := false, master := false, accept := a }

/-- A command that only the tick master takes. -/
def cmdMaster (op cls : Nat) (a : Accept) : CmdInfo := { cmdRow op cls a with master := true }

/-- Host interface, timetable, dispatcher and sampler. -/
def cmdIndex1 : List CmdInfo :=
  [cmdRow 0x0100 0 .always, cmdRow 0x0101 0 .always,
   cmdRow 0x0200 1 accReady, cmdMaster 0x0201 1 (.only [.running, .quiesced]), cmdMaster 0x0202 1 (.only [.running]),
   cmdMaster 0x0203 1 (.only [.quiesced]), cmdMaster 0x0204 1 (.only [.running, .quiesced]), cmdRow 0x0205 0 .on,
   cmdRow 0x0300 2 accJob, cmdRow 0x0301 2 accJob, cmdRow 0x0302 2 accJob, cmdRow 0x0303 2 accJob, cmdRow 0x0304 0 .on,
   cmdRow 0x0400 1 accStill, cmdRow 0x0401 1 accStill, cmdRow 0x0402 1 accJob, cmdRow 0x0403 0 .on,
   cmdRow 0x0404 2 accStill]

/-- Gather, embedding pool, formats and signal lines. -/
def cmdIndex2 : List CmdInfo :=
  [cmdRow 0x0500 1 accReady, cmdRow 0x0501 0 .on,
   cmdRow 0x0600 2 accReady, cmdRow 0x0601 2 accReady, cmdRow 0x0602 2 accStill, cmdRow 0x0603 2 .on,
   cmdRow 0x0604 1 accJob, cmdRow 0x0605 1 (.only [.running]), cmdRow 0x0606 2 .on, cmdRow 0x0607 0 .on,
   cmdRow 0x0700 1 accReady, cmdRow 0x0701 0 .on, cmdRow 0x0A00 1 accReady, cmdRow 0x0A01 0 .on]

/-- Memory, links, checking and bring-up. -/
def cmdIndex3 : List CmdInfo :=
  [cmdRow 0x0B00 2 accStill, cmdRow 0x0B01 2 accStill, cmdRow 0x0B02 2 accStill, cmdRow 0x0B03 2 .on,
   cmdRow 0x0B04 0 .on, cmdRow 0x0B05 1 accReady, cmdRow 0x0B06 1 accJob, cmdRow 0x0B07 3 accReady, cmdRow 0x0B08 0 .on,
   cmdRow 0x0C00 1 accLimited, cmdRow 0x0C01 0 .on, cmdRow 0x0C02 1 accJob, cmdRow 0x0C03 1 accReady,
   cmdRow 0x0C04 1 accReady, cmdRow 0x0C05 2 .on,
   cmdRow 0x0D00 1 accReady, cmdRow 0x0D01 0 .on, cmdRow 0x0D02 3 accReady, cmdRow 0x0D03 0 .on, cmdRow 0x0D04 2 .on,
   cmdRow 0x0D05 1 accReady,
   cmdRow 0x0E00 3 accLimited, cmdRow 0x0E01 0 .on, cmdRow 0x0E02 1 (.only [.bringup, .ready, .limited]),
   cmdRow 0x0E03 0 .on]

/-- Recorder, meter, identity and power. -/
def cmdIndex4 : List CmdInfo :=
  [cmdRow 0x0F00 2 .on, cmdRow 0x0F01 1 .on, cmdRow 0x0F02 1 .on,
   { cmdRow 0x0F03 3 (.only [.ready, .limited, .quiesced]) with signed := true },
   cmdRow 0x0F04 2 .on, cmdRow 0x0F05 1 accJob, cmdRow 0x0F06 2 .on, cmdRow 0x0F07 2 .on,
   cmdRow 0x1000 0 .always, cmdRow 0x1001 2 .on, cmdRow 0x1010 2 .on, cmdRow 0x1011 3 accLimited,
   cmdRow 0x1012 3 accUpdate, cmdRow 0x1013 2 accUpdate, cmdRow 0x1014 3 accUpdate, cmdRow 0x1015 3 accLimited,
   cmdRow 0x1100 0 .on, cmdRow 0x1101 1 accJob, cmdRow 0x1102 0 .on]

/-- The whole index (R453). -/
def cmdIndex : List CmdInfo := cmdIndex1 ++ cmdIndex2 ++ cmdIndex3 ++ cmdIndex4

/-- The entry of an opcode, if it is listed. -/
def cmdInfo (op : Nat) : Option CmdInfo := cmdIndex.find? (fun c => c.op == op)

/-- The priority class of an opcode; an opcode that the index does not list has no class, and is served in class 0
(assumption log 14). -/
def cmdClass (op : Nat) : Nat :=
  match cmdInfo op with
  | some c => c.cls
  | none => 0

/-- Whether a command is accepted in a state (step 6 of R441). -/
def accepts (a : Accept) (d : DevState) : Bool :=
  match a with
  | .always => d != .off
  | .on => d != .off && d != .standby
  | .only l => l.contains d

end Sys2Proof.Machine
end

