-- ==== Sys2Proof/Machine/Names.lean ====
section
/-! DEFINITION. The names of the spec for its counters (the counter tables of every chapter: name and ID), its events
(the event tables: code and severity) and its status codes (R444). -/

namespace Sys2Proof.Machine

-- Counter IDs (R15, R429).
abbrev Cnt.pkgCplRetry : Nat := 0x0F10
abbrev Cnt.pkgCplRetrain : Nat := 0x0F11
abbrev Cnt.pkgCplReroute : Nat := 0x0F12
abbrev Cnt.pkgSmWdt : Nat := 0x0F13
abbrev Cnt.pkgSmTakeover : Nat := 0x0F14
abbrev Cnt.pkgMtrBridgeWr : Nat := 0x0F15
abbrev Cnt.ttDep : Nat := 0x0100
abbrev Cnt.ttLate : Nat := 0x0101
abbrev Cnt.ttLeft : Nat := 0x0102
abbrev Cnt.ttHold : Nat := 0x0103
abbrev Cnt.ttHoldNs : Nat := 0x0104
abbrev Cnt.ttLeftOthers : Nat := 0x0105
abbrev Cnt.ttStageDiscard : Nat := 0x0106
abbrev Cnt.ttStageFull : Nat := 0x0107
abbrev Cnt.ttStaleStepDrop : Nat := 0x0108
abbrev Cnt.ttStaleEpochDrop : Nat := 0x0109
abbrev Cnt.ttDepPast : Nat := 0x010A
abbrev Cnt.ttSyncLost : Nat := 0x010B
abbrev Cnt.ttFailover : Nat := 0x010C
abbrev Cnt.dspTaskDone : Nat := 0x0200
abbrev Cnt.dspSpawn : Nat := 0x0201
abbrev Cnt.dspSpawnDrop : Nat := 0x0202
abbrev Cnt.dspPreempt : Nat := 0x0203
abbrev Cnt.dspReadyFull : Nat := 0x0204
abbrev Cnt.dspSpawnStallCclk : Nat := 0x0205
abbrev Cnt.dspSpawnYield : Nat := 0x0206
abbrev Cnt.dspAbandon : Nat := 0x0207
abbrev Cnt.dspIdleCclk : Nat := 0x0208
abbrev Cnt.dspStealBlock : Nat := 0x0209
abbrev Cnt.dspBadCode : Nat := 0x020A
abbrev Cnt.smpTrain : Nat := 0x0300
abbrev Cnt.smpRow : Nat := 0x0301
abbrev Cnt.smpEdge : Nat := 0x0302
abbrev Cnt.smpPiece : Nat := 0x0303
abbrev Cnt.smpLongRow : Nat := 0x0304
abbrev Cnt.smpChunk : Nat := 0x0305
abbrev Cnt.smpInline : Nat := 0x0306
abbrev Cnt.smpStealCore : Nat := 0x0307
abbrev Cnt.smpStealDie : Nat := 0x0308
abbrev Cnt.smpStealXdie : Nat := 0x0309
abbrev Cnt.smpStealFail : Nat := 0x030A
abbrev Cnt.smpSeedDrop : Nat := 0x030B
abbrev Cnt.smpPoisonRow : Nat := 0x030C
abbrev Cnt.smpPoisonEdge : Nat := 0x030D
abbrev Cnt.smpOor : Nat := 0x030E
abbrev Cnt.smpBadRow : Nat := 0x030F
abbrev Cnt.smpBadWeight : Nat := 0x0310
abbrev Cnt.smpTruncEdge : Nat := 0x0311
abbrev Cnt.smpTruncNode : Nat := 0x0312
abbrev Cnt.smpBadDesc : Nat := 0x0313
abbrev Cnt.smpAdjMissing : Nat := 0x0314
abbrev Cnt.gthReq : Nat := 0x0400
abbrev Cnt.gthUniq : Nat := 0x0401
abbrev Cnt.gthDup : Nat := 0x0402
abbrev Cnt.gthLocalRow : Nat := 0x0403
abbrev Cnt.gthRemoteRow : Nat := 0x0404
abbrev Cnt.gthReplicaHit : Nat := 0x0405
abbrev Cnt.gthReplicaFull : Nat := 0x0406
abbrev Cnt.gthOor : Nat := 0x0407
abbrev Cnt.gthPoisonRow : Nat := 0x0408
abbrev Cnt.gthRemoteFail : Nat := 0x0409
abbrev Cnt.gthEdgeDrop : Nat := 0x040A
abbrev Cnt.gthScatterRow : Nat := 0x040B
abbrev Cnt.gthScatterSkip : Nat := 0x040C
abbrev Cnt.gthNonfinite : Nat := 0x040D
abbrev Cnt.gthHaccSpill : Nat := 0x040E
abbrev Cnt.gthHaccDrop : Nat := 0x040F
abbrev Cnt.gthHaccLate : Nat := 0x0410
abbrev Cnt.gthHaccTrunc : Nat := 0x0411
abbrev Cnt.gthBadDesc : Nat := 0x0412
abbrev Cnt.gthPoisonReq : Nat := 0x0413
abbrev Cnt.spOor : Nat := 0x0420
abbrev Cnt.spMergeMiss : Nat := 0x0421
abbrev Cnt.spUnsorted : Nat := 0x0422
abbrev Cnt.spBadPtr : Nat := 0x0423
abbrev Cnt.spPrune : Nat := 0x0424
abbrev Cnt.spMetaBad : Nat := 0x0425
abbrev Cnt.spCompressGroup : Nat := 0x0426
abbrev Cnt.embUpdRow : Nat := 0x0500
abbrev Cnt.embContrib : Nat := 0x0501
abbrev Cnt.embContribDiscard : Nat := 0x0502
abbrev Cnt.embUpdNonfinite : Nat := 0x0503
abbrev Cnt.embUpdPoison : Nat := 0x0504
abbrev Cnt.embDupCommit : Nat := 0x0505
abbrev Cnt.embCommitWait : Nat := 0x0506
abbrev Cnt.embMigStart : Nat := 0x0507
abbrev Cnt.embMigDone : Nat := 0x0508
abbrev Cnt.embMigAbort : Nat := 0x0509
abbrev Cnt.embMigRefuse : Nat := 0x050A
abbrev Cnt.embMigFwdUpd : Nat := 0x050B
abbrev Cnt.embFwdReply : Nat := 0x050C
abbrev Cnt.embMisroute : Nat := 0x050D
abbrev Cnt.embBadRow : Nat := 0x050E
abbrev Cnt.embBadWr : Nat := 0x050F
abbrev Cnt.embUnreach : Nat := 0x0510
abbrev Cnt.mxConv : Nat := 0x0600
abbrev Cnt.mxSat : Nat := 0x0601
abbrev Cnt.mxUfl : Nat := 0x0602
abbrev Cnt.mxNonfinite : Nat := 0x0603
abbrev Cnt.mxEfReset : Nat := 0x0604
abbrev Cnt.mxPromote : Nat := 0x0605
abbrev Cnt.mxTernBad : Nat := 0x0606
abbrev Cnt.mxScaleNan : Nat := 0x0607
abbrev Cnt.mxInstr : Nat := 0x0610
abbrev Cnt.mxMac : Nat := 0x0611
abbrev Cnt.mxBusyCclk : Nat := 0x0612
abbrev Cnt.mxFeedAStallCclk : Nat := 0x0613
abbrev Cnt.mxFeedBStallCclk : Nat := 0x0614
abbrev Cnt.mxBadInstr : Nat := 0x0615
abbrev Cnt.mxAccNonfinite : Nat := 0x0616
abbrev Cnt.mxAccOvf : Nat := 0x0617
abbrev Cnt.mxTrans : Nat := 0x0618
abbrev Cnt.mxSparse : Nat := 0x0619
abbrev Cnt.veInstr : Nat := 0x0700
abbrev Cnt.veElem : Nat := 0x0701
abbrev Cnt.veBusyCclk : Nat := 0x0702
abbrev Cnt.veDrainCclk : Nat := 0x0703
abbrev Cnt.veBadInstr : Nat := 0x0704
abbrev Cnt.vePermOor : Nat := 0x0705
abbrev Cnt.veHaccMiss : Nat := 0x0706
abbrev Cnt.veGnNonfinite : Nat := 0x0707
abbrev Cnt.sigWait : Nat := 0x0800
abbrev Cnt.sigWaitTimeout : Nat := 0x0801
abbrev Cnt.sigWaitNs : Nat := 0x0802
abbrev Cnt.sigWaitClear : Nat := 0x0803
abbrev Cnt.sigArriveStall : Nat := 0x0804
abbrev Cnt.sigBadInstr : Nat := 0x0805
abbrev Cnt.sigWake : Nat := 0x0806
abbrev Cnt.sigGen : Nat := 0x0807
abbrev Cnt.sigMsg : Nat := 0x0808
abbrev Cnt.sigStaleEpochDrop : Nat := 0x0809
abbrev Cnt.sigStaleStepDrop : Nat := 0x080A
abbrev Cnt.memOdecc : Nat := 0x0900
abbrev Cnt.memCe : Nat := 0x0901
abbrev Cnt.memUe : Nat := 0x0902
abbrev Cnt.memSramCe : Nat := 0x0903
abbrev Cnt.memSramUe : Nat := 0x0904
abbrev Cnt.memPoisonRead : Nat := 0x0905
abbrev Cnt.memPoisonConsume : Nat := 0x0906
abbrev Cnt.memPoisonMerge : Nat := 0x0907
abbrev Cnt.memBadAddr : Nat := 0x0908
abbrev Cnt.memWcbMerge : Nat := 0x0909
abbrev Cnt.memWcbFlushRd : Nat := 0x090A
abbrev Cnt.memDepotHit : Nat := 0x090B
abbrev Cnt.memDepotMiss : Nat := 0x090C
abbrev Cnt.memRetrain : Nat := 0x090D
abbrev Cnt.memChFail : Nat := 0x090E
abbrev Cnt.memChFailDrop : Nat := 0x090F
abbrev Cnt.memThrottleNs : Nat := 0x0910
abbrev Cnt.memRefreshBoostNs : Nat := 0x0911
abbrev Cnt.memRemoteFail : Nat := 0x0912
abbrev Cnt.pfIssue : Nat := 0x0980
abbrev Cnt.pfUsed : Nat := 0x0981
abbrev Cnt.pfLate : Nat := 0x0982
abbrev Cnt.pfUnused : Nat := 0x0983
abbrev Cnt.pfDrop : Nat := 0x0984
abbrev Cnt.pfSnoopInv : Nat := 0x0985
abbrev Cnt.pfFlush : Nat := 0x0986
abbrev Cnt.lnkFecCorr : Nat := 0x0A00
abbrev Cnt.lnkFecUncorr : Nat := 0x0A01
abbrev Cnt.lnkReplay : Nat := 0x0A02
abbrev Cnt.lnkRetrain : Nat := 0x0A03
abbrev Cnt.lnkLaneLoss : Nat := 0x0A04
abbrev Cnt.lnkDown : Nat := 0x0A05
abbrev Cnt.lnkMismatch : Nat := 0x0A06
abbrev Cnt.lnkTxBytes : Nat := 0x0A07
abbrev Cnt.lnkRxBytes : Nat := 0x0A08
abbrev Cnt.lnkBadPkt : Nat := 0x0A09
abbrev Cnt.lnkStaleEpochDrop : Nat := 0x0A0A
abbrev Cnt.lnkFutureEpochDrop : Nat := 0x0A0B
abbrev Cnt.lnkUnroutable : Nat := 0x0A0C
abbrev Cnt.rdContribOut : Nat := 0x0A80
abbrev Cnt.rdContribIn : Nat := 0x0A81
abbrev Cnt.rdNonfinite : Nat := 0x0A82
abbrev Cnt.rdNonfiniteAdd : Nat := 0x0A83
abbrev Cnt.rdLateAdd : Nat := 0x0A84
abbrev Cnt.rdRefused : Nat := 0x0A85
abbrev Cnt.rdAckTimeout : Nat := 0x0A86
abbrev Cnt.rdRenormRow : Nat := 0x0A87
abbrev Cnt.rdGnExcluded : Nat := 0x0A88
abbrev Cnt.rdGnMiss : Nat := 0x0A89
abbrev Cnt.rdClip : Nat := 0x0A8A
abbrev Cnt.rdBadDesc : Nat := 0x0A8B
abbrev Cnt.mbxCmd : Nat := 0x0B00
abbrev Cnt.mbxReject : Nat := 0x0B01
abbrev Cnt.mbxBusy : Nat := 0x0B02
abbrev Cnt.mbxTimeout : Nat := 0x0B03
abbrev Cnt.mbxAbort : Nat := 0x0B04
abbrev Cnt.mbxPostIgnored : Nat := 0x0B05
abbrev Cnt.mbxWinWrDrop : Nat := 0x0B06
abbrev Cnt.mbxBarWrDrop : Nat := 0x0B07
abbrev Cnt.mbxFlrDiscard : Nat := 0x0B08
abbrev Cnt.mbxNotPerformed : Nat := 0x0B09
abbrev Cnt.mbxShedNs : Nat := 0x0B0A
abbrev Cnt.mbxMctpCmd : Nat := 0x0B0B
abbrev Cnt.mbxBadSig : Nat := 0x0B0C
abbrev Cnt.mbxServiceNs : Nat := 0x0B0D
abbrev Cnt.chkTile : Nat := 0x0C00
abbrev Cnt.chkSampled : Nat := 0x0C01
abbrev Cnt.chkSkip : Nat := 0x0C02
abbrev Cnt.chkAgree : Nat := 0x0C03
abbrev Cnt.chkThird : Nat := 0x0C04
abbrev Cnt.chkFresh : Nat := 0x0C05
abbrev Cnt.chkUnsettled : Nat := 0x0C06
abbrev Cnt.chkRetireWaitCclk : Nat := 0x0C07
abbrev Cnt.chkExec : Nat := 0x0C08
abbrev Cnt.chkFieldTile : Nat := 0x0C09
abbrev Cnt.fncTransient : Nat := 0x0C80
abbrev Cnt.fncFence : Nat := 0x0C81
abbrev Cnt.fncDiscard : Nat := 0x0C82
abbrev Cnt.fncSidingUse : Nat := 0x0C83
abbrev Cnt.fncSliceCclk : Nat := 0x0C84
abbrev Cnt.fncForfeit : Nat := 0x0C85
abbrev Cnt.fncDead : Nat := 0x0C86
abbrev Cnt.fncReplace : Nat := 0x0C87
abbrev Cnt.fncNoSpare : Nat := 0x0C88
abbrev Cnt.fncMirrorBytes : Nat := 0x0C89
abbrev Cnt.fncQuarDrop : Nat := 0x0C8A
abbrev Cnt.brgSramRepair : Nat := 0x0D00
abbrev Cnt.brgSramWayOff : Nat := 0x0D01
abbrev Cnt.brgCoreBad : Nat := 0x0D02
abbrev Cnt.brgTestTile : Nat := 0x0D03
abbrev Cnt.brgStackRowRepair : Nat := 0x0D04
abbrev Cnt.brgChFail : Nat := 0x0D05
abbrev Cnt.brgMarginal : Nat := 0x0D06
abbrev Cnt.brgDiscrepancy : Nat := 0x0D07
abbrev Cnt.brgPortReject : Nat := 0x0D08
abbrev Cnt.evrRaised : Nat := 0x0E00
abbrev Cnt.evrSuppress : Nat := 0x0E01
abbrev Cnt.evrRecord : Nat := 0x0E02
abbrev Cnt.evrOverwrite : Nat := 0x0E03
abbrev Cnt.evrDropFull : Nat := 0x0E04
abbrev Cnt.evrFrozen : Nat := 0x0E05
abbrev Cnt.evrUnspilled : Nat := 0x0E06
abbrev Cnt.evrSpillBytes : Nat := 0x0E07
abbrev Cnt.mtrReportRx : Nat := 0x0F40
abbrev Cnt.mtrSigFail : Nat := 0x0F41
abbrev Cnt.mtrStale : Nat := 0x0F42
abbrev Cnt.pkgFwCommit : Nat := 0x0F43
abbrev Cnt.pkgFwReject : Nat := 0x0F44
abbrev Cnt.pkgAttest : Nat := 0x0F45
abbrev Cnt.pkgEnroll : Nat := 0x0F46
abbrev Cnt.pkgTempThrottleNs : Nat := 0x0F20
abbrev Cnt.pkgPwrThrottleNs : Nat := 0x0F21
abbrev Cnt.pkgExtThrottleNs : Nat := 0x0F22
abbrev Cnt.pkgRefclkLoss : Nat := 0x0F23
abbrev Cnt.pkgJtagBlock : Nat := 0x0F24
abbrev Cnt.pkgVinRange : Nat := 0x0F25

-- Event codes (R535).
abbrev Ev.ttLate : Nat := 0x1001
abbrev Ev.ttLeftBehind : Nat := 0x1002
abbrev Ev.ttSyncLost : Nat := 0x1003
abbrev Ev.ttFailover : Nat := 0x1004
abbrev Ev.ttNoMaster : Nat := 0x1005
abbrev Ev.ttStepSkew : Nat := 0x1006
abbrev Ev.ttJoinTimeout : Nat := 0x1007
abbrev Ev.dspSpawnDrop : Nat := 0x2001
abbrev Ev.dspGraphCommit : Nat := 0x2002
abbrev Ev.dspAbandon : Nat := 0x2003
abbrev Ev.dspBadCode : Nat := 0x2004
abbrev Ev.smpBadDesc : Nat := 0x3001
abbrev Ev.smpAdjMissing : Nat := 0x3002
abbrev Ev.smpPoison : Nat := 0x3003
abbrev Ev.smpOor : Nat := 0x3004
abbrev Ev.smpBadRow : Nat := 0x3005
abbrev Ev.smpBadWeight : Nat := 0x3006
abbrev Ev.smpBadSeed : Nat := 0x3007
abbrev Ev.smpTruncated : Nat := 0x3008
abbrev Ev.gthBadDesc : Nat := 0x4001
abbrev Ev.gthOor : Nat := 0x4002
abbrev Ev.gthPoison : Nat := 0x4003
abbrev Ev.gthRemoteFail : Nat := 0x4004
abbrev Ev.gthNonfinite : Nat := 0x4005
abbrev Ev.gthHaccDrop : Nat := 0x4006
abbrev Ev.spOor : Nat := 0x4101
abbrev Ev.spMerge : Nat := 0x4102
abbrev Ev.spMeta : Nat := 0x4103
abbrev Ev.embTable : Nat := 0x5001
abbrev Ev.embNonfinite : Nat := 0x5002
abbrev Ev.embPoison : Nat := 0x5003
abbrev Ev.embDupCommit : Nat := 0x5004
abbrev Ev.embMigAbort : Nat := 0x5005
abbrev Ev.embMisroute : Nat := 0x5006
abbrev Ev.embBadRow : Nat := 0x5007
abbrev Ev.mxPromote : Nat := 0x6001
abbrev Ev.mxScaleNan : Nat := 0x6002
abbrev Ev.mxTernBad : Nat := 0x6003
abbrev Ev.mxEfReset : Nat := 0x6004
abbrev Ev.mxBadInstr : Nat := 0x6005
abbrev Ev.mxAccNonfinite : Nat := 0x6006
abbrev Ev.veBadInstr : Nat := 0x7001
abbrev Ev.vePermOor : Nat := 0x7002
abbrev Ev.veGnNonfinite : Nat := 0x7003
abbrev Ev.sigBadInstr : Nat := 0x8001
abbrev Ev.sigTimeout : Nat := 0x8002
abbrev Ev.sigConfig : Nat := 0x8003
abbrev Ev.memUe : Nat := 0x9001
abbrev Ev.memPoisonConsume : Nat := 0x9002
abbrev Ev.memBadAddr : Nat := 0x9003
abbrev Ev.memRetrain : Nat := 0x9004
abbrev Ev.memChFail : Nat := 0x9005
abbrev Ev.memThrottle : Nat := 0x9006
abbrev Ev.memNearfar : Nat := 0x9007
abbrev Ev.memSramUe : Nat := 0x9008
abbrev Ev.lnkLaneLoss : Nat := 0xA001
abbrev Ev.lnkDown : Nat := 0xA002
abbrev Ev.lnkRetrain : Nat := 0xA003
abbrev Ev.lnkMismatch : Nat := 0xA004
abbrev Ev.lnkUnroutable : Nat := 0xA005
abbrev Ev.rdNonfinite : Nat := 0xA101
abbrev Ev.rdAckTimeout : Nat := 0xA102
abbrev Ev.rdGnMiss : Nat := 0xA103
abbrev Ev.rdGnNonfinite : Nat := 0xA104
abbrev Ev.rdBadDesc : Nat := 0xA105
abbrev Ev.mbxBadSig : Nat := 0xB001
abbrev Ev.mbxFlr : Nat := 0xB002
abbrev Ev.mbxShed : Nat := 0xB003
abbrev Ev.mbxNotPerformed : Nat := 0xB004
abbrev Ev.chkDisagree : Nat := 0xC001
abbrev Ev.chkUnsettled : Nat := 0xC002
abbrev Ev.chkFieldDone : Nat := 0xC003
abbrev Ev.fncTransient : Nat := 0xC101
abbrev Ev.fncFence : Nat := 0xC102
abbrev Ev.fncSlice : Nat := 0xC103
abbrev Ev.fncDead : Nat := 0xC104
abbrev Ev.fncReplace : Nat := 0xC105
abbrev Ev.fncNoSpare : Nat := 0xC106
abbrev Ev.fncQuarantine : Nat := 0xC107
abbrev Ev.fncRebuildLost : Nat := 0xC108
abbrev Ev.fncPkgFailed : Nat := 0xC109
abbrev Ev.brgReady : Nat := 0xD001
abbrev Ev.brgLimited : Nat := 0xD002
abbrev Ev.brgDegraded : Nat := 0xD003
abbrev Ev.brgDiscrepancy : Nat := 0xD004
abbrev Ev.brgCoreBad : Nat := 0xD005
abbrev Ev.brgChFail : Nat := 0xD006
abbrev Ev.brgMarginal : Nat := 0xD007
abbrev Ev.brgQuickDenied : Nat := 0xD008
abbrev Ev.evrTime : Nat := 0xE001
abbrev Ev.evrCleared : Nat := 0xE002
abbrev Ev.evrFrozen : Nat := 0xE003
abbrev Ev.evrUnfrozen : Nat := 0xE004
abbrev Ev.pkgFwFallback : Nat := 0xF101
abbrev Ev.pkgFwCommit : Nat := 0xF102
abbrev Ev.pkgFwReject : Nat := 0xF103
abbrev Ev.pkgFwActivate : Nat := 0xF104
abbrev Ev.pkgOwnerEnroll : Nat := 0xF105
abbrev Ev.mtrSigFail : Nat := 0xF110
abbrev Ev.mtrStale : Nat := 0xF111
abbrev Ev.mtrSeal : Nat := 0xF112
abbrev Ev.mtrSelfcheck : Nat := 0xF113
abbrev Ev.pkgThrottle : Nat := 0xF001
abbrev Ev.pkgPwrLimit : Nat := 0xF002
abbrev Ev.pkgVinRange : Nat := 0xF003
abbrev Ev.pkgRefclkLoss : Nat := 0xF004
abbrev Ev.pkgTimerefLoss : Nat := 0xF005
abbrev Ev.pkgVinLoss : Nat := 0xF006
abbrev Ev.pkgLrefclkLoss : Nat := 0xF007
abbrev Ev.pkgThermtrip : Nat := 0xF008

-- Status codes (R444).
abbrev St.ok : Nat := 0x0000
abbrev St.badHeader : Nat := 0x0001
abbrev St.badCrc : Nat := 0x0002
abbrev St.badOpcode : Nat := 0x0003
abbrev St.badLength : Nat := 0x0004
abbrev St.badSig : Nat := 0x0005
abbrev St.badState : Nat := 0x0006
abbrev St.notMaster : Nat := 0x0007
abbrev St.retSmall : Nat := 0x0008
abbrev St.badParam : Nat := 0x0009
abbrev St.badGraph : Nat := 0x000A
abbrev St.noSpace : Nat := 0x000B
abbrev St.inUse : Nat := 0x000C
abbrev St.busy : Nat := 0x000D
abbrev St.timeout : Nat := 0x000E
abbrev St.aborted : Nat := 0x000F
abbrev St.joinTimeout : Nat := 0x0010
abbrev St.notPerformed : Nat := 0x0011
abbrev St.smFailed : Nat := 0x0012

/-- The event codes of severity WARN (1). -/
def evSev1 : List Nat :=
  [0x1003, 0x1006, 0x2001, 0x2004, 0x3001, 0x3002, 0x3003, 0x3004,
   0x3005, 0x3006, 0x3007, 0x3008, 0x4001, 0x4002, 0x4003, 0x4005,
   0x4101, 0x4102, 0x4103, 0x5002, 0x5003, 0x5004, 0x5006, 0x5007,
   0x6001, 0x6002, 0x6003, 0x6004, 0x6005, 0x6006, 0x7001, 0x7003,
   0x8001, 0x9001, 0x9002, 0x9003, 0x9006, 0x9008, 0xA005, 0xA101,
   0xA102, 0xA103, 0xA104, 0xA105, 0xB001, 0xB002, 0xB004, 0xC001,
   0xC101, 0xD004, 0xD007, 0xF103, 0xF105, 0xF111, 0xF112, 0xF001,
   0xF003, 0xF005]

/-- The event codes of severity DEGRADE (2). -/
def evSev2 : List Nat :=
  [0x1002, 0x1004, 0x2003, 0x4004, 0x4006, 0x9005, 0x9007, 0xA001,
   0xA002, 0xC002, 0xC102, 0xC103, 0xC104, 0xC105, 0xD003, 0xD005,
   0xD006, 0xF004]

/-- The event codes of severity ERROR (3). -/
def evSev3 : List Nat :=
  [0x1005, 0x1007, 0xA004, 0xC106, 0xC107, 0xC108, 0xC109, 0xD002,
   0xE002, 0xF101, 0xF110, 0xF113, 0xF006]

/-- The event codes of severity FATAL (4). -/
def evSev4 : List Nat :=
  [0xF007, 0xF008]

/-- The event codes of severity INFO (0). -/
def evSev0 : List Nat :=
  [0x1001, 0x2002, 0x5001, 0x5005, 0x7002, 0x8002, 0x8003, 0x9004,
   0xA003, 0xB003, 0xC003, 0xD001, 0xD008, 0xE001, 0xE003, 0xE004,
   0xF102, 0xF104, 0xF002]

/-- SEV of an event code (R516 and the event tables): 0 INFO, 1 WARN, 2 DEGRADE, 3 ERROR, 4 FATAL. -/
def evSev (code : Nat) : Nat :=
  if evSev4.contains code then 4 else if evSev3.contains code then 3
  else if evSev2.contains code then 2 else if evSev1.contains code then 1 else 0

/-- The event codes of R535. -/
def evKnown (code : Nat) : Bool :=
  evSev0.contains code || evSev1.contains code || evSev2.contains code || evSev3.contains code || evSev4.contains code

/-- SRC of R517: a kind and an index. -/
def srcOf (kind index : Nat) : Nat := kind * 4096 + index % 4096

end Sys2Proof.Machine
end

