-- ==== Sys2Proof/Config.lean ====
section
/-! DEFINITION. What the spec leaves open: free values with no body, so that nothing can be proved about the value
itself (each named in the assumption log), and the constants of manufacture that the model names. -/

namespace Sys2Proof

/-- A fresh unspecified byte or number: applied to the state's counter `free`, which advances at each use. -/
opaque Config.freeNat : Nat → Nat

/-- The 256-byte header of the firmware image that the package leaves manufacture with (R556): its bytes are not given. -/
opaque Config.factoryHeader : List Byte

/-- The version that a meter parameter set holds (R545): where it stands in the set's bytes is not given. -/
opaque Config.paramVersion : List Byte → Nat

/-- The bytes of the fuse map as the boot ROM reads it (R557, stage 2), from its entries in the layout of R512: the fuse
block's own layout is not given. -/
opaque Config.fuseImage : List Byte → List Byte

/-- The endpoint UUID, the MCTP version, and the PLDM terminus ID, version and command bitmap that the sideband answers
(R450): their values are not given. -/
opaque Config.endpointUuid : Nat → Nat

/-- See Config.endpointUuid. -/
opaque Config.mctpVersion : Nat

/-- See Config.endpointUuid. -/
opaque Config.pldmTid : Nat

/-- See Config.endpointUuid. -/
opaque Config.pldmVersion : Nat

/-- See Config.endpointUuid. -/
opaque Config.pldmCommands : Nat

/-- The second route table (R28): the couplings from one die to another that avoid coupling `avoid`. The spec gives only
that it avoids that coupling. -/
opaque Config.altRoute (avoid src dst : Nat) : List Nat

/-- The depot's set function (R357): internal. -/
opaque Config.depotSet : Nat → Nat

/-- The payload bytes of an EMB_CTRL packet (R395), which the digest of R410 covers: their layout is not given. -/
opaque Config.embCtrlPayload : Instr → List Byte

/-- What a sensor holds of a value that its signed 32 bits do not reach (R527). -/
opaque Config.sensorOver : Int → BitVec 32

/-- LENGTH of a CTRL packet whose payload R396 names without widths for all its parts. -/
opaque Config.ctrlLength : Instr → Nat

/-- The slots of a port's receive buffer for a virtual channel, whose credits it gives its neighbour when the link comes up:
R387 has each packet wait for the credit of its channel, and the spec states no buffer sizes. -/
opaque Config.linkBuffer (channel : Nat) : Nat

/-- Where the region of a table begins at another of its homes: a pool read of a row carries the row's address in the
home's table region (R395), and the spec does not say how a requester knows it. -/
opaque Config.tableBase (pkg table : Nat) : Nat

/-- The address at which a substitute holds what a dead package held at a pool address (R478, R480): what names a dead
package goes to its substitute, and the spec gives no address there. -/
opaque Config.heirAddr (sub dead addr : Nat) : Nat

/-- The pooled regions of a member that are neither tables nor reduction bindings, as (base, bytes), for which its buddy
allocates mirrors (R479): the spec does not say how a buddy knows them. -/
opaque Config.memberRegions (job pkg : Nat) : List (Nat × Nat)

/-- The address in its buddy's memory at which a member's pool address is mirrored (R479): not given. -/
opaque Config.mirrorAddr (buddy pkg addr : Nat) : Nat

/-- The bytes in which CMD_SIG_INFO returns a line's value, generation and arrival counts (R343): their layout is not
given. -/
opaque Config.sigInfoState (value : Bool) (gen : Nat) (counts : List Nat) : List Byte

/-- The bytes in which CMD_MX_TENSOR_INFO returns a tensor's counters and the counts of its last step (R266): their
layout is not given. -/
opaque Config.tensorInfoTail (counters : List Nat) (conv sats : Nat) : List Byte

/-- The correctly rounded value of exp, tanh or sigmoid where it lies between two bounds that round to different words
(R311): the model's bounds, 400 bits past the point, do not decide it there. -/
opaque Config.hardRound (lo hi : W32) : W32

/-- The same for -ln(u) in FP64 (R138). -/
opaque Config.hardRound64 (lo hi : W64) : W64

end Sys2Proof
end

