-- ==== Sys2Proof/Machine/CoreParts.lean ====
section
/-! DEFINITION. The parts of the state that chapter 3 names: graphs, tasks, dispatchers and hardware contexts. Plain data
only. -/

namespace Sys2Proof.Machine

/-- A graph handle (R122 to R124): the size given to OPEN, the image written so far by 64-byte unit, whether it is
committed, and from then on where its reservation lies in the scratchpad of each logical core (R96). -/
structure Graph where
  size : Nat
  units : AMap (List Byte)
  committed : Bool
  bases : AMap Nat
  deriving DecidableEq, Repr

/-- A task (R91, R97, R106): its logical core, its index (of its template, where it is spawned), its descriptor, the
address of the argument block it was given (0: the descriptor's own), and the task it joins, where it is spawned.
`uid` tells two spawned tasks apart. `saved`: the save slot it returns from (R109). `bytes`: the 64 bytes of its
descriptor; `cls`: its class, a spawner's for a spawned task. `piece`: the piece of R152 that it is, where it is one.
`since`: when it entered its ready list, ns (R102). -/
structure Task where
  lc : Nat
  idx : Nat
  uid : Nat
  spawned : Bool
  cls : Nat
  bytes : List Byte
  arg : Nat
  join : Option (Nat × Nat)
  piece : Option Nat
  saved : Option Nat
  since : Nat
  deriving DecidableEq, Repr

/-- Where a static task stands in its step (R99, R107): waiting for producers, ready, running or complete. -/
inductive TaskState where
  | waiting
  | ready
  | running
  | complete
  deriving DecidableEq, Repr

/-- A completion notice (R99): from the completed task's logical core `src` to task `idx` of logical core `dst`. `flow`:
it has been counted as held by flow control (R112). -/
structure Notice where
  src : Nat
  dst : Nat
  idx : Nat
  flow : Bool
  deriving DecidableEq, Repr

/-- A SPAWN that found no free ready entry (R112): its context and operands, and when it stalled. -/
structure SpawnStall where
  lc : Nat
  x : Nat
  template : Nat
  target : Nat
  joinTask : Nat
  arg : Nat
  since : Nat
  deriving DecidableEq, Repr

/-- What a context waits for (R104, R112, R115, R330): nothing; a stalled SPAWN; an array, or the vector engine, to retire;
a signal line's condition, with its value and deadline; a SIG_ARRIVE that is stalled, with its destination register; a
unit that cannot take its instruction yet (R275, R304); or, at END, its instructions' retirement (R91). -/
inductive CtxWait where
  | none
  | spawn (z : SpawnStall)
  | array (a : Nat)
  | vector
  | sig (line value : Nat) (since : Nat) (deadline : Option Nat)
  | arrive (line dest since : Nat)
  | issue (i : Instr)
  | ending
  deriving DecidableEq, Repr

/-- A hardware context (R108, R109): the task it holds, when its quantum timer started, what it waits for, whether its
task is being suspended (`yielding`: under R113), SIG_LAST and SIG_LAST_BAD (R341, R342), what signal instructions wrote
to their destination registers, by register (R327), MX_LAST_BAD and VE_LAST_BAD (R298, R320). -/
structure Ctx where
  task : Option Task
  quantumAt : Nat
  wait : CtxWait
  suspending : Bool
  yielding : Bool
  sigLast : Nat
  sigBad : Nat
  regs : AMap Nat
  mxBad : Nat
  veBad : Nat
  deriving DecidableEq, Repr

/-- A signal line (R323 to R330, R338): its configuration in force in the layout of R326, one set for the next job,
contribution bits of a FLAG line by logical core, arrival counts and generation of a BARRIER line, the value that the
cores last received, what this package last reported to its parent and its children to it. -/
structure SigLine where
  cfg : List Byte
  next : Option (List Byte)
  contrib : Nat
  counts : AMap Nat
  gen : Nat
  value : Bool
  sent : Bool
  children : AMap Bool
  deriving DecidableEq, Repr

/-- A dispatcher (R99 to R115): live counts and states of its static tasks, its ready lists by priority, the notices held
by a full list, spawns stalled for its list, in order, the context state in each save slot in use (R109), and its
outstanding count. -/
structure Disp where
  counts : AMap Nat
  states : AMap TaskState
  ready : AMap (List Task)
  held : List Notice
  stalls : List SpawnStall
  slots : AMap Ctx
  outstanding : Nat
  deriving DecidableEq, Repr

/-- A slot of the adjacency or seed table (R129, R131): the payload in force, if any, and one accepted that waits for the
next departure (R132, R156). -/
structure SmpSlot where
  cur : Option (List Byte)
  next : Option (Option (List Byte))
  deriving DecidableEq, Repr

/-- A piece of a shunter's task (R150, R152, R166): a batch of `n` rows or destinations from number `first`, or the chunk
of positions [`lo`, `hi`) of the row of destination `first`. -/
structure SmpPiece where
  id : Nat
  first : Nat
  n : Nat
  chunk : Option (Nat × Nat)
  deriving DecidableEq, Repr

/-- What a destination's row gave: its edges in the order of R143, as (edge ID, neighbour). -/
structure SmpRow where
  dest : Nat
  edges : List (Nat × Nat)
  deriving DecidableEq, Repr

/-- A row cut into chunks (R150, R151): its first edge ID, chunks not yet complete, eligible edges found, and the merged
reservoir as (key, position, neighbour). -/
structure SmpLong where
  dest : Nat
  base : Nat
  left : Nat
  kept : List (Nat × Nat × Nat)
  deriving DecidableEq, Repr

/-- A finished layer (R143, R146): DST_PTR, SRC and EID, its new nodes, and what was dropped. -/
structure SmpLayer where
  ptr : List Nat
  src : List Nat
  eid : List Nat
  added : Nat
  dropped : Nat
  deriving DecidableEq, Repr

/-- A sample task under way (R133, R142 to R152): its number, the shunter (8 lc + i) that cuts its layers, its descriptor,
the step m, the running layer, SEED_MAP, the node list, nk by hop, finished layers, pieces not yet complete, the
running layer's rows, cut rows and drops, and whether it was truncated or degraded. -/
structure SmpJob where
  no : Nat
  task : Task
  home : Nat
  desc : List Byte
  step : Nat
  layer : Nat
  seedMap : List Nat
  nodes : List Nat
  hops : List Nat
  layers : List SmpLayer
  pieces : List SmpPiece
  nextPiece : Nat
  rows : List SmpRow
  longs : List SmpLong
  dropped : Nat
  truncated : Bool
  degraded : Bool
  deriving DecidableEq, Repr

/-- What a gather task works on (R167 to R174): the table or the flat rows it reads, its rows (UNIQ), INV, where waybill
and rows go, the bytes of a row, the positions dropped, those fetched from other packages, each with the die that fetches
it, and whether it was degraded. -/
structure GatherIn where
  table : Option Nat
  flatBase : Nat
  uniq : List Nat
  inv : List Nat
  waybill : Nat
  out : Option Nat
  rowBytes : Nat
  drops : List Nat
  remote : AMap Nat
  degraded : Bool
  deriving DecidableEq, Repr

/-- A waybill as SCATTER and SPMM read it (R169). -/
structure Waybill where
  step : Nat
  reqs : Nat
  uniq : List Nat
  tableId : Nat
  invalid : Bool
  inv : List Nat
  drops : List Byte
  rowBytes : Nat
  flatBase : Nat
  size : Nat
  deriving DecidableEq, Repr

/-- A destination of SPMM cut into chunks (R180): its number, chunks not yet complete, and the partials of the others, each
with its chunk's number, in the order in which they completed. -/
structure SpmmLong where
  dest : Nat
  left : Nat
  parts : List (Nat × Option (List W32))
  deriving DecidableEq, Repr

/-- What a function of chapter 5 works on (R163): a gather; a waybill; the destinations of SPMM, each with its surviving
edges as (edge number, row of X), and those cut into chunks; a drain's keys with their values, whether keys are left, and
WIDTH; or the rows of the descriptor alone. -/
inductive FuncInput where
  | gather (g : GatherIn)
  | scatter (w : Waybill)
  | spmm (dests : List (List (Nat × Nat))) (longs : List SpmmLong)
  | drain (rows : List (Nat × List W32)) (more : Bool) (width : Nat)
  | compress
  deriving DecidableEq, Repr

/-- A task that runs a function of chapter 5 (R163 to R166): its number, the task, the shunter (8 lc + i) that cut it, its
descriptor, its step, what it works on, and its pieces not yet complete. -/
structure FuncJob where
  no : Nat
  task : Task
  home : Nat
  desc : List Byte
  step : Nat
  input : FuncInput
  pieces : List SmpPiece
  nextPiece : Nat
  deriving DecidableEq, Repr

/-- Graphs, dispatchers, contexts (by 4 lc + x), the notices in flight, oldest first, and the shunters' deques and running
tasks (by 8 lc + i; a deque's tail is its last element). `nextHandle` and `nextUid`: the next graph handle and spawned
task number. `frac`: cycles not yet whole of the counters of CCLK cycles, in ns x MHz. Sampling: the slots, the sample
tasks under way, when a shunter without work first and last scanned in vain (R154), the shunters asleep, and the tasks
under way that run a function of chapter 5. -/
structure Dispatch where
  graphs : AMap Graph
  nextHandle : Nat
  nextUid : Nat
  disps : AMap Disp
  ctxs : AMap Ctx
  flight : List Notice
  deques : AMap (List Task)
  running : AMap Task
  frac : AMap Nat
  adj : AMap SmpSlot
  seeds : AMap SmpSlot
  samples : AMap SmpJob
  idle : AMap (Nat × Nat)
  asleep : List Nat
  funcs : AMap FuncJob
  deriving DecidableEq, Repr

end Sys2Proof.Machine
end

