-- ==== Sys2Proof/Machine/EngParts.lean ====
section
/-! DEFINITION. The parts of the state that chapters 5 (hash accumulator), 7, 8, 9 and 14 (tiles) name. Plain data only. -/

namespace Sys2Proof.Machine

/-- An entry of the tensor table (R261 to R264): the image written, CUR_FMT, STAMP0, STAMP1 and PROMOTED, whether each
half has been converted into since the last departure, and the conversions and saturations of the running and of the
last completed step. -/
structure Tensor where
  image : List Byte
  cur : Nat
  stamp0 : Nat
  stamp1 : Nat
  promoted : Bool
  used0 : Bool
  used1 : Bool
  conv : Nat
  sats : Nat
  lastConv : Nat
  lastSats : Nat
  deriving DecidableEq, Repr

/-- An instruction in the queue of an array or a vector engine (R273, R304): its number in order of issue, its context and task, its descriptor, the
formats and the exponent FEXP that it resolved at issue, how many writes had been noted then, in memory and in the
accumulators, and what the unit returns on tiles where it does not return the right values. -/
structure EngInst where
  no : Nat
  x : Nat
  task : Task
  desc : List Byte
  fmts : List Nat
  fexp : Int
  mark : Nat
  accMark : Nat
  faults : List TileFault
  deriving DecidableEq, Repr

/-- An array or a vector engine of a logical core (R275, R284, R287, R304): its queue, whose head runs; the context that
holds it; the accumulator rows and FEXP that are not as after CMD_TT_JOB_START. -/
structure Engine where
  queue : List EngInst
  holder : Option Nat
  acc : AMap (List W32)
  fexp : AMap Int
  deriving DecidableEq, Repr

/-- An entry or spilled partial of a hash accumulator (R184, R187), or a contribution to one: its key and elements, with
the tags of fixed-order mode. `time`: when its latest contribution came; `before`: its elements before that time; `fresh`:
the contributions that came at that time, each with the rank of its sender, in the order of rank (R185). -/
structure HaccEntry where
  key : Nat
  elems : List W32
  task : Nat
  piece : Nat
  seqNo : Nat
  time : Nat
  before : Option (List W32)
  fresh : List (Nat × List W32)
  deriving DecidableEq, Repr

/-- The hash accumulator of a logical core (R181 to R189): WIDTH and OP, resident entries, least recently used first, the
spill log, oldest first, how many contributions of each task's vector instructions it has taken (R317), and those that
came while a drain ran, in order (R189). -/
structure Hacc where
  width : Nat
  op : Nat
  entries : List HaccEntry
  spill : List HaccEntry
  seqs : AMap Nat
  late : List HaccEntry
  deriving DecidableEq, Repr

/-- The engines of the package, by 3 lc + j (j: 0 A0, 1 A1, 2 vector engine); VE_GN_SUM and the cores whose
VE_GN_STATUS has NONFINITE; the tensor table; the hash accumulators; the accumulator rows written in the step (engine,
first row, rows, and the context whose instruction wrote them, latest first), which an abandon leaves unspecified; the
number of the next instruction. -/
structure Engines where
  units : AMap Engine
  gn : AMap W64
  gnBad : List Nat
  tensors : AMap Tensor
  haccs : AMap Hacc
  accWritten : List (Nat × Nat × Nat × Nat)
  nextNo : Nat
  deriving DecidableEq, Repr

/-- One execution of a tile: where, and what it gave. -/
structure Exec where
  unit : PhysUnit
  value : TileValue
  deriving DecidableEq, Repr

/-- A capsule (R459 to R467): the engine (3 lc + j) and tile it was taken from, its executions, the original first, the
unit chosen for the next, the standing result once settled, whether it is unsettled for good, and the minority units
still to be retested. -/
structure Capsule where
  id : Nat
  eng : Nat
  tile : Nat
  execs : List Exec
  next : Option PhysUnit
  standing : Option TileValue
  unsettled : Bool
  retests : List PhysUnit
  deriving DecidableEq, Repr

/-- The roles of a physical core (R475, R488). -/
inductive CoreRole where
  | fusedBad
  | siding
  | serving
  | hosting
  | fenced
  deriving DecidableEq, Repr

/-- A physical core (R471 to R475): its role, the logical core it serves, its guests, the unit that fenced it, the
logical cores whose copy into it is under way (R472), and which of those it serves now has its contexts (R473). -/
structure PhysCore where
  role : CoreRole
  lc : Option Nat
  guests : List Nat
  fenceUnit : Nat
  copying : List Nat
  active : Option Nat
  deriving DecidableEq, Repr

/-- A field test under way (R483, R484): when it began, its length, whether a command asked for it, and whether
a job start has stopped it. -/
structure FieldTest where
  since : Nat
  seconds : Nat
  byCommand : Bool
  stopped : Bool
  deriving DecidableEq, Repr

/-- The parameters of R487. -/
structure SparesCfg where
  deadLeft : Nat
  sliceOk : Bool
  mirror : Bool
  spares : List (Nat × List Byte)
  deriving DecidableEq, Repr

/-- A dead package and who acts for it (R478, R480): its substitute, if any, the spare assigned to it, whether the spare
holds its rows, and whether the spare has joined in its place. -/
structure Subst where
  dead : Nat
  acting : Option Nat
  spare : Option Nat
  rebuilt : Bool
  joined : Bool
  deriving DecidableEq, Repr

/-- A mirror region here (R479): the member it mirrors, the table where it mirrors a table region, and the region. -/
structure Mirror where
  member : Nat
  table : Option Nat
  region : Nat
  deriving DecidableEq, Repr

/-- Checking, fencing and replacement (R456 to R489): parameters in force and set, tiles executed in the step by unit
index, units that owe a sample (R459), capsules, physical cores by 10 d + k, whether the package has forfeited the
step, history entries not yet in flash, the field test, whether the automatic test has run since READY, since when the
device has been idle, the regions that hold guests' images (R473), the spares' parameters set and in force, how often in a row each member has been left behind, substitutions,
the mirrors kept here, the sectors committed since the last mirror commit, and whether the package has failed (R481).
`movedFrom`: by logical core, the fenced physical core that it is being copied from (R471). -/
structure Checking where
  rate : Nat
  rateNext : Nat
  autoField : Bool
  idleS : Nat
  tiles : AMap Nat
  owed : List Nat
  capsules : List Capsule
  nextCap : Nat
  cores : AMap PhysCore
  sliced : List Nat
  forfeited : Bool
  fresh : List HistEntry
  field : Option FieldTest
  autoDone : Bool
  readySince : Nat
  guestRegions : List Nat
  sparesNext : SparesCfg
  spares : SparesCfg
  leftRuns : AMap Nat
  substs : List Subst
  mirrors : List Mirror
  dirty : List Nat
  failed : Bool
  movedFrom : AMap Nat
  deriving DecidableEq, Repr

end Sys2Proof.Machine
end

