-- ==== Sys2Proof/Machine/FabricParts.lean ====
section
/-! DEFINITION. The parts of the state that chapters 2, 6 and 12 name: the job and its timetable, staged writes, tables,
reduce buffers, ports, packets under way and digests. Plain data only. -/

namespace Sys2Proof.Machine

/-- A staged store or accumulate of one sector (R62), in order of arrival. -/
structure Staged where
  step : Nat
  origin : Nat
  addr : Nat
  accum : Bool
  poison : Bool
  data : List Byte
  deriving DecidableEq, Repr

/-- A staged contribution to a row (R212, R222): `seq` is its sequence number at the old home of a migrating row; `owed`:
the sender and TAG that it still has to acknowledge, while the row's migration is RESERVING. -/
structure Contrib where
  step : Nat
  origin : Nat
  table : Nat
  row : Nat
  seq : Nat
  elems : List W32
  owed : Option (Nat × Nat)
  deriving DecidableEq, Repr

/-- The parts of a ROW_UPDATE received so far (R395). -/
structure PartSet where
  src : Nat
  tag : Nat
  parts : AMap (List W32)
  deriving DecidableEq, Repr

/-- An entry of a directory copy (R235). -/
structure DirEntry where
  row : Nat
  home : Nat
  slot : Nat
  deriving DecidableEq, Repr

/-- A staged directory change (R221). -/
structure DirChange where
  step : Nat
  origin : Nat
  row : Nat
  home : Nat
  slot : Nat
  deriving DecidableEq, Repr

/-- The states of R220 in which an old home keeps a migration. -/
inductive MigState where
  | reserving
  | copying
  | forwarding
  deriving DecidableEq, Repr

/-- A migration at its old home (R220, R222): `start` is N; `oldPkg` the package in whose layout the row lay then; `oldSlot` and `newSlot` the row's slot here and at its target
(0xFFFF_FFFF: default storage); `seqNo` the last sequence number given. -/
structure Migration where
  row : Nat
  target : Nat
  start : Nat
  oldPkg : Nat
  oldSlot : Nat
  newSlot : Nat
  st : MigState
  seqNo : Nat
  deriving DecidableEq, Repr

/-- A shadow at the new home (R220): the slot reserved for it, and the copy once staged, with its sectors' marks. -/
structure Shadow where
  row : Nat
  source : Nat
  start : Nat
  slot : Nat
  image : Option (List Byte)
  marks : List Bool
  deriving DecidableEq, Repr

/-- A tracker entry (R217): the row, and for each step of the window, newest first, the total of its accesses and those of
up to four requesters. -/
structure Track where
  row : Nat
  win : List (Nat × AMap Nat)
  deriving DecidableEq, Repr

/-- The hyperparameters that CMD_EMB_SET_HYPER sets (R234). -/
structure HyperSet where
  lr : W32
  wd : W32
  gs : W32
  deriving DecidableEq, Repr

/-- A row of a reduce buffer (R399): its sums, count c and closed flag. `time`: when its latest unit came; `before`: its
sums before that time, where it had any; `fresh`: what came at that time, in ascending SRC_PKG (R402). -/
structure RdRow where
  sums : List W32
  c : Nat
  closed : Bool
  time : Nat
  before : Option (List W32)
  fresh : List (Nat × List W32)
  deriving DecidableEq, Repr

/-- A reduce buffer for one step: its rows with contributions or closed, and whether its close time has passed (R403). -/
structure RdBuf where
  rows : AMap RdRow
  closedAll : Bool
  deriving DecidableEq, Repr

/-- A dead package of a table and who acts for it (R478), with the region here of its rows where that is this package. -/
structure Heir where
  dead : Nat
  sub : Nat
  region : Option Nat
  deriving DecidableEq, Repr

/-- A table on this package (R204 to R206): the payload of its creation, its region where this package is a home, its
directory copy, hyperparameters in force and to come, migration slots in use, trackers by die, migrations, shadows,
staged directory changes, its binding with CLIP_EN (R399), reduce buffers by step, and CLIP of the step (R409).
`committing`: the rows whose update for the ended step is not yet written (R216). `heirs`: who acts for dead homes (R478).
`gone`: the migration slots freed by rows that have moved away, with those rows (R224). -/
structure Table where
  payload : List Byte
  region : Option Nat
  dir : List DirEntry
  hyper : HyperSet
  hyperNext : List (Nat × HyperSet)
  usedSlots : List Nat
  trackers : AMap (List Track)
  migs : List Migration
  queued : List (Nat × Nat)
  shadows : List Shadow
  dirNext : List DirChange
  bind : Option Bool
  rdRegions : List Nat
  bufs : AMap RdBuf
  clip : W32
  committing : List Nat
  heirs : List Heir
  gone : List (Nat × Nat)
  deriving DecidableEq, Repr

/-- A hot-row replica in a die's replica area (R173): the home and address it copies. -/
structure Replica where
  die : Nat
  pkg : Nat
  addr : Nat
  data : List Byte
  poison : List Bool
  deriving DecidableEq, Repr

/-- The parameters of R200. -/
structure GthCfg where
  hotReads : Nat
  replicaMib : Nat
  spillMib : Nat
  timeoutUs : Nat
  deriving DecidableEq, Repr

/-- The pool at this package: staged writes and contributions, rows in parts, packets held back by a full staging area
(R65), dies whose committed sectors are not yet written back, with how many (R64). `commitStep`: the step whose row
updates `committing` names. `reads`: the reads served in the step, by 2^40 table + row (R173); hot-row replicas; the
parameters of R200 in force and set. -/
structure Pool where
  tables : AMap Table
  staged : List Staged
  contribs : List Contrib
  parts : List PartSet
  full : List Instr
  writeback : AMap Nat
  commitStep : Nat
  reads : AMap Nat
  replicas : List Replica
  gthCfg : GthCfg
  gthCfgNext : GthCfg
  deriving DecidableEq, Repr

/-- What a request of this package waits for (R49, R398, R171): a demand read; a piece of a row of a gather
(its number, the row's place in UNIQ, the offset in the row); a store or accumulate of a logical core, where one
issued it; a row update; a reduction contribution; a slot request; a row copy or directory change; a forwarded contribution or
relayed update, with the package and TAG that its acknowledgement answers. -/
inductive PendKind where
  | demand (r : Requester) (gaddr len : Nat)
  | gather (no pos offset : Nat)
  | write (lc : Option Nat)
  | rowUpdate (table row : Nat)
  | contrib (coll : Nat)
  | slotReq (table row : Nat)
  | mig (table row : Nat)
  | fwd (src tag : Nat)
  deriving DecidableEq, Repr

/-- A request under way (R394: its TAG). -/
structure Pend where
  tag : Nat
  dst : Nat
  step : Nat
  time : Nat
  kind : PendKind
  deriving DecidableEq, Repr

/-- The states of a port (R388). -/
inductive PortSt where
  | disabled
  | training
  | up
  | retraining
  | down
  deriving DecidableEq, Repr

/-- A frame of ten slots, as sent and as a retry buffer holds it (R385, R386): its FSEQ; the control slot in its slot 0,
where it has one; the packet that runs on into it; the packets that start in it; and how many of its slots are taken. -/
structure TxFrame where
  fseq : Nat
  llc : Option LlcSlot
  runOn : Option Instr
  starts : List Instr
  used : Nat
  deriving DecidableEq, Repr

/-- What a port puts on its link: a codeword, with its frame control and the bitmap of the lanes over which its symbols are
distributed (R385), or its HELLO after training (R390). -/
inductive TxItem where
  | codeword (port lanes : Nat) (control : BitVec 20) (frame : TxFrame)
  | hello (port : Nat) (packet : Instr)
  deriving DecidableEq, Repr

/-- A link port (R385 to R390): state, REASON, lanes in service, last HELLO, when its window began, whether this training's
HELLO has matched, the next FSEQ to send and to receive, packets waiting for credit, the retry buffer and credits by
virtual channel. `trained`: the lanes in service that this training has reached, at least 6. What the next control slot
carries: `owes`, one is due; `nakOut`, the FSEQ that it asks for again; `credOut`, the credits to return. `lead`: how many
slots RSP has sent more than REQ while both could go (R387). `ackFrom`: since when the port waits for an acknowledgement.
`badTimes`: when uncorrectable codewords arrived in the last second. -/
structure Port where
  st : PortSt
  reason : Nat
  lanes : Nat
  nbrPkg : Nat
  nbrPort : Nat
  since : Nat
  matched : Bool
  trained : Option Nat
  txSeq : Nat
  rxSeq : Nat
  owes : Bool
  nakOut : Option Nat
  credOut : List Nat
  queue : List Instr
  retry : List TxFrame
  credits : List Nat
  lead : Int
  ackFrom : Nat
  badTimes : List Nat
  deriving DecidableEq, Repr

/-- A port of some member as LINK_STATE names it (R392, R396). -/
structure PortName where
  pkg : Nat
  dim : Nat
  plus : Bool
  portB : Bool
  deriving DecidableEq, Repr

/-- The digest of one step and peer (R411). -/
structure Digest where
  sentCnt : Nat
  recvCnt : Nat
  sentSum : Nat
  recvSum : Nat
  deriving DecidableEq, Repr

/-- A COLL task at the link engine of its die (R400 to R409): started; TAGs not yet acknowledged; its shard partial or
package partial done. `no` numbers collectives. -/
structure Coll where
  no : Nat
  die : Nat
  task : Task
  desc : List Byte
  step : Nat
  started : Bool
  unacked : List Nat
  partialDone : Bool
  deriving DecidableEq, Repr

/-- The parameters of R416. -/
structure RdCfg where
  nonfiniteAdd : Bool
  ackUs : Nat
  deriving DecidableEq, Repr

/-- Links and collectives. `tx`: what the ports sent, in order. `crossing`: packets that wait for a coupling on their way
to their port, each with the die it comes from (R393). `heldEpoch`: packets of a newer epoch with their arrival times (R397); `heldStep`: pooled reads one step ahead
(R66); `early`: JOINs received before this package has a job, with their epochs. `digests`: by 4096 step + peer. `gnParts`: shard partials of the step with GN_FUSE, in order; `gnRoot`:
partials at the root by package; `gnResult`: a GN_RESULT that
arrived before the GNORM task of this package ran. -/
structure Fabric where
  ports : AMap Port
  downMap : List PortName
  tx : List TxItem
  crossing : List (Nat × Instr)
  nextTag : Nat
  pend : List Pend
  heldEpoch : List (Nat × Instr)
  heldStep : List Instr
  early : List (Nat × Nat)
  digests : AMap Digest
  colls : List Coll
  nextColl : Nat
  rdCfg : RdCfg
  rdCfgNext : RdCfg
  gnParts : List (W64 × Bool)
  gnRoot : AMap (W64 × Bool)
  gnClosed : Bool
  gnApplied : Bool
  gnResult : Option (W64 × Bool)
  deriving DecidableEq, Repr

/-- A departure message held until its fire time (R59). -/
structure DepMsg where
  step : Nat
  fireTime : Nat
  epoch : Nat
  quiesce : Bool
  ends : Bool
  left : List Nat
  deriving DecidableEq, Repr

/-- A change of headway to come (R87). -/
structure HeadwayChange where
  step : Nat
  headway : Nat
  hold : Nat
  lead : Nat
  deriving DecidableEq, Repr

/-- A deputy's takeover (R75): when it was announced, who has answered, and who has not reached its end of step. -/
structure Takeover where
  time : Nat
  answered : List Nat
  notReached : List Nat
  deriving DecidableEq, Repr

/-- Where a job stands (R79): loading before departure 0 or the resume departure, in a step, or paused. -/
inductive JobPhase where
  | loading
  | inStep
  | paused
  deriving DecidableEq, Repr

/-- The job this package runs (R47 to R87). `next`: the number of the next departure; `nominal`: its nominal time;
`loaded`: the train before that departure is loaded; `joined`: members that have joined; `probes`: members whose probe
is out; `measured`: the longest round trip; `late`, `arrived`, `endAt`: late signal raised and end of step reached, and
when, for the next departure; `readied`, `done`, `doneAt`: by class, the step's tasks readied and completed and when the
last completed (R529); `syncLost`: SYNC_OK was 0 in the step; `owes`: an answer to a takeover reported the end of step
not reached; `pending`: late signals outstanding at the master; `sent`: the
departure message in hand; `leftCont`: entries of continuation messages; `partDep`: a departure message whose list is not
yet complete, and the length of that list (R59); `adopted`: when a takeover was adopted; `noMaster`: QUIESCED under R77;
`replaced`: the former master that the next departure declares dead; `decided`: the decision point has passed; `depTime`:
the time of the last departure; `parent`: this package's parent in the tree of R56; `areas`: the regions that the device
created for the job (R184, R350). -/
structure Job where
  id : Nat
  graph : Nat
  role : Nat
  rank : Nat
  master : Nat
  deputies : List Nat
  stageMib : Nat
  joinNs : Nat
  members : List Nat
  stepLimit : Nat
  fixedOrder : Bool
  epoch : Nat
  headway : Nat
  hold : Nat
  lead : Nat
  leadGiven : Nat
  prop : Nat
  measured : Nat
  probes : List Nat
  phase : JobPhase
  started : Bool
  next : Nat
  nominal : Nat
  depTime : Nat
  startTime : Nat
  loaded : Bool
  onceDone : Bool
  joined : List Nat
  late : Bool
  arrived : Bool
  endAt : Option Nat
  readied : AMap Nat
  done : AMap Nat
  doneAt : AMap Nat
  syncLost : Bool
  owes : Bool
  sittingOut : Bool
  sitting : List Nat
  holding : Bool
  decided : Bool
  pending : List Nat
  sent : Option DepMsg
  leftCont : List Nat
  quiesceReq : Bool
  endReq : Bool
  change : List HeadwayChange
  offset : Int
  syncOk : Bool
  takeover : Option Takeover
  adopted : Option Nat
  noMaster : Bool
  replaced : Option Nat
  partDep : Option (DepMsg × Nat)
  parent : Option Nat
  areas : List Nat
  deriving DecidableEq, Repr

end Sys2Proof.Machine
end

