-- ==== Sys2Proof/Machine/MemParts.lean ====
section
/-! DEFINITION. The parts of the state that chapter 11 names: memory contents and poison, regions, channels, stacks, depot,
write-combining buffer, prefetch. Plain data only. -/

namespace Sys2Proof.Machine

/-- A region (R350): attributes, base and size, and the frames f0 to f0 + frames - 1 of its channel set. The set starts
at package channel `chan0` and has 2^n channels. `hint`: 0 normal, 1 stream, 2 keep. `table`: its TABLE_ID, where
TABLE is 1. `device`: created by the device (R597). -/
structure Region where
  base : Nat
  size : Nat
  spread : Bool
  die : Nat
  far : Bool
  pooled : Bool
  progR : Bool
  progW : Bool
  pfEn : Bool
  hint : Nat
  table : Option Nat
  device : Bool
  f0 : Nat
  frames : Nat
  chan0 : Nat
  n : Nat
  deriving DecidableEq, Repr

/-- The service of a channel (R371, R372). -/
inductive ChanState where
  | up
  | retraining (since : Nat)
  | failed
  deriving DecidableEq, Repr

/-- A stack's last temperature in 1/8 degree, its throttle step, its refresh (0 nominal, 1 halved, 2 quartered), and
whether it is held at step 3 from 105 degrees (R373, R374, R598). -/
structure StackState where
  temp : Int
  step : Nat
  refresh : Nat
  hot : Bool
  deriving DecidableEq, Repr

/-- A pending line of the write-combining buffer (R362): 64-byte line number, which of its bytes are written, when it was
last written. -/
structure WcbLine where
  line : Nat
  mask : Nat
  last : Nat
  deriving DecidableEq, Repr

/-- A line of the depot (R357, R359): 128-byte line number, valid sectors, dirty, hint in force, and whether a prefetch
brought it and no demand read has hit it. A die's lines are listed least recently used first. -/
structure DepotLine where
  line : Nat
  valid : Nat
  dirty : Bool
  hint : Nat
  prefetched : Bool
  deriving DecidableEq, Repr

/-- A stream tracker (R364): its region, the granule of its latest demand read, its stride and how many successive reads
have it. -/
structure Tracker where
  region : Nat
  last : Nat
  stride : Int
  run : Nat
  deriving DecidableEq, Repr

/-- A line of a prefetch staging buffer (R364, R366): its granule (local address div 256), whether the fill has arrived,
whether a demand read has hit it, whether its region is pooled, and what the fill brought. -/
structure PfLine where
  granule : Nat
  ready : Bool
  hit : Bool
  pooled : Bool
  data : List Byte
  poison : List Bool
  deriving DecidableEq, Repr

/-- The parameters of R379. -/
structure MemCfg where
  thermalMode : Nat
  tThr : Nat
  pfDepth : Nat
  scrubHours : Nat
  retrainErrs : Nat
  deriving DecidableEq, Repr

/-- What a read returned to its unit: the global address it began at, the bytes, the poison mark of each sector touched,
whether it was a bad access, and how many of its packets to other packages are still unanswered. -/
structure ReadReply where
  base : Nat
  data : List Byte
  poison : List Bool
  bad : Bool
  pending : Nat
  deriving DecidableEq, Repr

/-- Chapter 11. `cells`: the bytes of the local address space, an unlisted byte reads 0; `poison`: the numbers (address
div 32) of poisoned sectors, ascending; `opCache`: the operand cache of each logical core, by core address offset;
`waysOff`: depot ways switched off per die; `reserved`: ways reserved on
every die (R358); `stacksOut`: stacks out of service; `badChans`: channels bad under R502;
`replies`: the last read reply of each unit (requesterKey); `waiting`: accesses that wait for a coupling or a channel, in
order; `written`: where tasks wrote in the running step, latest first: 0 for scratchpads or 1 + lc for an operand cache,
address, bytes, and 1 + lc for a write of the vector engine of `lc` (R116, R303); `opPoison`: the poisoned sectors of each
operand cache (R356, R368); `held`: by channel under retrain, the committed writes that wait for it (R64, R371). For the row that runs, and of no meaning between rows: `via`, the die of the unit whose accesses
it makes, and `met`, whether one of them met a channel or a coupling that must be waited for (R28, R371). -/
structure Mem where
  cells : List Host.Cell
  poison : List Nat
  opCache : AMap (List Host.Cell)
  regions : AMap Region
  chans : AMap ChanState
  stk : AMap StackState
  stacksOut : List Nat
  badChans : List Nat
  wcb : List WcbLine
  depot : AMap (List DepotLine)
  waysOff : AMap (List Nat)
  reserved : Nat
  trackers : AMap (List Tracker)
  staging : AMap (List PfLine)
  cfg : MemCfg
  cfgNext : MemCfg
  replies : AMap ReadReply
  waiting : List Instr
  written : List (Nat × Nat × Nat × Nat)
  opPoison : AMap (List Nat)
  held : AMap Nat
  via : Option Nat
  met : Bool
  deriving DecidableEq, Repr

end Sys2Proof.Machine
end

