-- ==== Sys2Proof/Machine/State.lean ====
section
/-! DEFINITION. The state of one CX8 package, its faults and refusals, and the state right after reset. INVENTORY.md
lists every piece with the rule that names it. -/

namespace Sys2Proof.Machine

/-- Why a step can stop with a fault. -/
inductive Fault where
  /-- Raised by a meaning whose operands name a unit (a die, coupling, port, channel, logical core, context, mailbox)
  that the package's ordering code does not hold (R3, R23): no such event exists. Safe: the model stops. -/
  | absentUnit
  deriving DecidableEq, Repr

/-- Why a step can be refused. -/
inductive Refusal where
  /-- Answered by an arm of `exec` that has no meaning yet. Safe: the model stops. -/
  | notModelled (mnemonic : String)
  /-- Answered by JTAG_INSTRUCTION for a private debug instruction on a part whose DBG_LOCK fuse is intact: R579 allows
  it there and gives it no effect. Safe: the model stops. -/
  | privateDebug
  deriving DecidableEq, Repr

/-- The state of one package. -/
structure State where
  /-- TT_NOW (R9, R82): TCLK of D0, ns -/
  now : Nat
  /-- STATE of PKG_STATE (R5, R426) -/
  dev : DevState
  /-- STATE_SEQ (R426) -/
  stateSeq : Nat
  /-- TT_STEP (R82): the current step number -/
  step : Nat
  /-- every counter of every chapter (R15): by ID * 65536 + instance -/
  ctr : AMap Nat
  fuse : Fuses
  flash : Flash
  cpl : Couplings
  mem : Mem
  pool : Pool
  fab : Fabric
  job : Option Job
  dsp : Dispatch
  /-- the signal lines by number (R323) -/
  sig : AMap SigLine
  eng : Engines
  chk : Checking
  sm : Station
  host : HostIf
  evr : Recorder
  meter : Meter
  win : BridgeWindow
  pkg : Package
  boot : BootState
  brg : Bringup
  fw : Option FwSession
  /-- the commands that wait, first in first out (the block's queue) -/
  pending : List Instr
  /-- the model's own counter for free values (Config.freeNat) -/
  free : Nat
  deriving DecidableEq, Repr

/-- The package maximum power of R3 in watts, the reset value of PL (R584). -/
def codeMaxW : Code → Nat
  | .cx8a => 4800
  | .cx4a => 2450
  | .cx2a => 1250

/-- The compute dies of a code (R3). -/
def codeDies : Code → Nat
  | .cx8a => 8
  | .cx4a => 4
  | .cx2a => 2

/-- The fuses of a part as the model takes them (assumption log 8). -/
def resetFuses : Fuses :=
  { code := .cx8a, serial := 1, faults := [], dbgLockBlown := true, idSecret := List.replicate 32 0, svnFloor := 0,
    tabvasKeys := List.replicate 4 (List.replicate 32 0), romDigest := List.replicate 64 0 }

/-- The flash as it leaves manufacture (R556, R502, R495). -/
def factoryFlash : Flash :=
  let hdr : BootHdr := { updateNo := 1, activeB := false, validA := true, validB := false, session := false }
  let own : OwnerSlot := { valid := false, use := 0, lastNonce := 0, pubkey := List.replicate 32 0 }
  let enr : Enrol := { updateNo := 1, minSvn := 0, tabvasDisable := 0, slots := List.replicate 8 own }
  { boot1 := hdr, boot2 := hdr, enrol1 := enr, enrol2 := enr,
    fwA := { factory := true, units := [] }, fwB := { factory := false, units := [] },
    lastCommitB := false,
    spill := [], clearLog := [], hist := [], histNs := 0, softMap := [],
    brg := { allow := false, minLc := 0, lastFullPass := none, memEvent := false, total := 0, startMode := 0 },
    topo := none, ckpt := 0 }

/-- The event recorder right after a device reset (R519, R520, R522, R527, R534). -/
def resetRecorder : Recorder :=
  { ring := [], queue := [], nextSeq := 1, freeze := none, fatalHold := [], buckets := [], rates := [], stats := [],
    hists := [], ranges := [], tele := [], spilledTo := 0, lastSpill := 0, admitted := [0, 0, 0, 0, 0], newestSeq := 0,
    severe := [], summaryGen := 0, summary := [], phases := [], batch := [] }

/-- The host interface right after a device reset (R426, R428, R432 to R434). -/
def resetHost : HostIf :=
  { mbx := [], side := none, orphans := [], evtStatus := 0, evtMask := 0xF, evtSet := [], busMaster := false,
    msixEnable := true,
    funcMask := false, msixTable := [], msixPending := [], out := [], sideOut := [], eid := 0 }

/-- The stationmaster right after a device reset (R425, R426): its SRAM holds no measured image and no checkpoint. -/
def resetStation : Station :=
  { state := .running, sram := { measured := [], imageOk := true, ckpt := 0, ckptOk := true }, lastMark := none,
    onD1 := false, alive := 0, lastExpiry := none, awaitingMark := false, shed := 0, below := 0 }

/-- The meter die as it leaves manufacture, with VAUX applied (R540, R548, R550). -/
def factoryMeter : Meter :=
  let regs : MeterRegs :=
    { energy := 0, ms := 0, reportSeq := 0, accountSeq := 0, sealEvents := 0, auditSeq := 0,
      auditHead := List.replicate 16 0, account := none }
  { powered := true, regs := regs, nv := regs, frac := 0, usFrac := 0, intSumV := 0, intSumI := 0, intN := 0,
    intStartMs := 0, intPMax := 0, winSum := 0, winN := 0, overrange := false, overNow := false, sealOpen := false,
    selfFail := false, powerUp := false, challenge := none, pulseLow := false, secret := List.replicate 32 1,
    metrologyKey := List.replicate 32 0, romDigest := List.replicate 64 0, fwId := 0, serial := 1,
    param := { factory := true, version := 0, bytes := [] }, audit := [], auditOut := [], lastTimerMs := 0, lastReport := List.replicate 320 0, bridge := [],
    portOut := [] }

/-- The bridge window before any report (R552). -/
def resetWindow : BridgeWindow :=
  { gen := 0, newest := 0, filled := 0, slots := [], audit := [], lastRx := 0, sealSeen := false, failSeen := false }

/-- Supplies, clocks and pins with everything in range (R572 to R584). -/
def resetPackage : Package :=
  { vaux := true, vin := true, vinRange := true, pwrgd := true, rstN := true, perstN := true, throttleN := true,
    thermtrip := false, refclk := true, lrefclk := true, timeref := true, ppsSinceReturn := 2, latched := [],
    dies := [], plW := codeMaxW .cx8a, tjThr := 95, pwrCeil := 700, vinMv := 12000, iinMa := 0, p10Mw := 0,
    jtag := .idcode }

/-- Bring-up at its start, in phase 0 (R496, R511). -/
def resetBringup : Bringup :=
  { phase := 0, mode := 0, requested := 0, startTime := 0, elapsedMs := none, found := [], couplingsBad := [],
    diesBad := [], fullDirty := false, spreadOk := false, degraded := false, m := 0, limitedWhy := 0,
    resetAt := none }

/-- Boot before the boot ROM has measured anything (R557). -/
def resetBoot : BootState :=
  { digests := [], final := [], fallback := false, started := false, slotB := false, version := 0 }

/-- No coupling has carried anything (R24, R28). -/
def resetCouplings : Couplings :=
  { dirs := [], phases := [], avoid := none, draining := false }

/-- Memory right after reset: nothing listed, no region, every parameter at its reset value (R347, R379). -/
def resetMem : Mem :=
  let cfg : MemCfg := { thermalMode := 0, tThr := 95, pfDepth := 16, scrubHours := 24, retrainErrs := 16 }
  { cells := [], poison := [], opCache := [], regions := [], chans := [], stk := [], stacksOut := [], badChans := [],
    wcb := [], depot := [], waysOff := [], reserved := 0, trackers := [], staging := [], cfg := cfg, cfgNext := cfg, replies := [],
    waiting := [], written := [], opPoison := [], held := [], via := none, met := false }

/-- No table, nothing staged, the parameters of R200 at reset. -/
def resetPool : Pool :=
  let cfg : GthCfg := { hotReads := 8, replicaMib := 32, spillMib := 256, timeoutUs := 100 }
  { tables := [], staged := [], contribs := [], parts := [], full := [], writeback := [], commitStep := 0,
    reads := [], replicas := [], gthCfg := cfg, gthCfgNext := cfg }

/-- Every port DISABLED, nothing sent (R388, R416). -/
def resetFabric : Fabric :=
  let cfg : RdCfg := { nonfiniteAdd := false, ackUs := 200 }
  { ports := [], downMap := [], tx := [], crossing := [], nextTag := 1, pend := [], heldEpoch := [], heldStep := [], early := [], digests := [],
    colls := [], nextColl := 0, rdCfg := cfg, rdCfgNext := cfg, gnParts := [], gnRoot := [], gnClosed := false,
    gnApplied := false, gnResult := none }

/-- No graph, every context free (R122). -/
def resetDispatch : Dispatch :=
  { graphs := [], nextHandle := 1, nextUid := 0, disps := [], ctxs := [], flight := [], deques := [],
    running := [], frac := [], adj := [], seeds := [], samples := [], idle := [], asleep := [],
    funcs := [] }

/-- Engines idle, accumulators zero, no tensor (R261, R284). -/
def resetEngines : Engines :=
  { units := [], gn := [], gnBad := [], tensors := [], haccs := [], accWritten := [], nextNo := 0 }

/-- Checking before bring-up assigns cores: the parameters of R486 and R487 at reset. -/
def resetChecking : Checking :=
  let sp : SparesCfg := { deadLeft := 2, sliceOk := true, mirror := false, spares := [] }
  { rate := 64, rateNext := 64, autoField := true, idleS := 60, tiles := [], owed := [], capsules := [], nextCap := 0,
    cores := [], sliced := [], forfeited := false, fresh := [], field := none, autoDone := false, readySince := 0,
    guestRegions := [],
    sparesNext := sp, spares := sp, leftRuns := [], substs := [], mirrors := [], dirty := [], failed := false,
    movedFrom := [] }

/-- The machine right after reset: BRINGUP, STATE = 2 (R426), as it left manufacture (R556), every counter zero (R15),
every mailbox closed (R433), nothing waiting. Where the spec gives no value, the assumption log names the one here. -/
def State.reset : State :=
  { now := 0, dev := .bringup, stateSeq := 0, step := 0, ctr := [], fuse := resetFuses, flash := factoryFlash,
    cpl := resetCouplings, mem := resetMem, pool := resetPool, fab := resetFabric,
    job := none, dsp := resetDispatch, sig := [], eng := resetEngines,
    chk := resetChecking, sm := resetStation, host := resetHost, evr := resetRecorder, meter := factoryMeter,
    win := resetWindow, pkg := resetPackage, boot := resetBoot, brg := resetBringup, fw := none, pending := [],
    free := 0 }

end Sys2Proof.Machine
end

