-- ==== Sys2Proof/Machine/Ops.lean ====
section
/-! DEFINITION. The operations that every part of the machine shares: counters, free values, messages to the host, event
records, device and stationmaster state, units of the ordering code, and the passing of time. -/

namespace Sys2Proof.Machine

/-- What a meaning answers. -/
abbrev Result := Host.Outcome State Fault Refusal

/-- The meaning of a command that names a unit: its effect where the package holds the unit (R3). -/
def onUnit (present : Bool) (t : State) : Result := if present then .next t else .fault .absentUnit

-- Contributions of one cycle (R185, R402).

/-- Contributions in the order of their senders' ranks; of one rank, in order of arrival. -/
def insertRank (x : Nat × List W32) : List (Nat × List W32) → List (Nat × List W32)
  | [] => [x]
  | y :: l => if x.1 < y.1 then x :: y :: l else y :: insertRank x l

/-- What a row holds from what it held before and what came at one time; the first of all is taken as it is. -/
def foldFresh (join : List W32 → List W32 → List W32) (before : Option (List W32)) (fresh : List (Nat × List W32)) :
    List W32 :=
  match before.toList ++ fresh.map (fun e => e.2) with
  | [] => []
  | x :: l => l.foldl join x

-- Units of the ordering code (R3, R17).

/-- Compute dies of the package. -/
def nDies (s : State) : Nat := codeDies s.fuse.code

/-- Memory stacks: two beside each die (R3, R17). -/
def nStacks (s : State) : Nat := 2 * nDies s

/-- Memory channels: 128 per stack (R17). -/
def nChans (s : State) : Nat := 128 * nStacks s

/-- Link ports: two per die (R17). -/
def nPorts (s : State) : Nat := 2 * nDies s

/-- Logical cores per die as bring-up assigned them (R505, R511). -/
def lcPerDie (s : State) : Nat := s.brg.m

/-- The device's logical core count (R505). -/
def nLc (s : State) : Nat := s.brg.m * nDies s

/-- The die that serves logical core `lc` (R505). -/
def lcDie (s : State) (lc : Nat) : Nat := lc / s.brg.m

/-- CODE of PKG_ID_CODE (R425). -/
def codeByte : Code → Nat
  | .cx8a => 8
  | .cx4a => 4
  | .cx2a => 2

-- The flash (R42).

/-- The areas of the flash. -/
inductive FlashPart where
  | boot
  | slotA
  | slotB
  | spill
  | history
  | checkpoints
  | reserved
  deriving DecidableEq, Repr

/-- First byte and size of an area (R42). -/
def flashArea : FlashPart → Nat × Nat
  | .boot => (0x0000000, 0x0100000)
  | .slotA => (0x0100000, 0x4000000)
  | .slotB => (0x4100000, 0x4000000)
  | .spill => (0x8100000, 0x2000000)
  | .history => (0xA100000, 0x1000000)
  | .checkpoints => (0xB100000, 0x1000000)
  | .reserved => (0xC100000, 0x3F00000)

-- Counters (R15).

/-- The key of counter `id`, instance `inst`. -/
def ctrKey (id inst : Nat) : Nat := id * 65536 + inst

/-- The value of a counter: an instance that does not exist reads as zero (R429). -/
def ctrGet (s : State) (id inst : Nat) : Nat := mapGetD s.ctr (ctrKey id inst) 0

/-- Counter `id` of instance `inst` rises by `n`, saturating (R15). -/
def bump (id inst n : Nat) (s : State) : State :=
  { s with ctr := mapSet s.ctr (ctrKey id inst) (sat max64 (ctrGet s id inst + n)) }

/-- Every counter whose ID satisfies `p` goes to zero. -/
def clearCtrs (p : Nat → Bool) (s : State) : State :=
  { s with ctr := s.ctr.filter (fun e => !p (e.1 / 65536)) }

-- Free values.

/-- A fresh unspecified number below `n` (assumption log 2). -/
def freeVal (n : Nat) (s : State) : Nat × State :=
  (Sys2Proof.Config.freeNat s.free % n, { s with free := s.free + 1 })

-- Messages to the host (R428, R439, R591).

/-- Vector `v` is masked by its entry of the MSI-X table; a dword never written has its mask bit set (assumption log 11). -/
def msixMasked (s : State) (v : Nat) : Bool :=
  s.host.funcMask || (mapGetD s.host.msixTable (4 * v + 3) 1).toNat % 2 == 1

/-- An MSI-X message of vector `v` falls due (R591). -/
def msix (v : Nat) (s : State) : State :=
  if s.host.msixEnable && s.host.busMaster then
    if msixMasked s v then { s with host := { s.host with msixPending := setInsert v s.host.msixPending } }
    else { s with host := { s.host with out := s.host.out ++ [.msix v] } }
  else s

/-- Bit `i` of PKG_EVT_STATUS is set; when it rises unmasked, vector 64 is sent (R428). The time is kept for R13. -/
def pkgEvt (i : Nat) (s : State) : State :=
  let st := s.host.evtStatus.toNat
  let s' : State := { s with host := { s.host with
    evtStatus := BitVec.ofNat 32 (st ||| 2 ^ i)
    evtSet := mapSet s.host.evtSet i s.now } }
  if st.testBit i || s.host.evtMask.toNat.testBit i then s' else msix 64 s'

/-- STATE of PKG_STATE (R426). -/
def devCode : DevState → Nat
  | .off => 0
  | .standby => 1
  | .bringup => 2
  | .limited => 3
  | .ready => 4
  | .running => 5
  | .quiesced => 6
  | .quarantined => 7

/-- SM_STATE of PKG_STATE (R426). -/
def smCode : SmState → Nat
  | .running => 0
  | .restarting => 1
  | .takeover => 2
  | .failed => 3

/-- STATE_SEQ rises by one and STATE_CHANGE is set (R426, R428). -/
def stateChanged (s : State) : State :=
  pkgEvt 0 { s with stateSeq := (s.stateSeq + 1) % 65536 }

/-- A command in a mailbox or the sideband that is executing and not yet recorded as performed fails (R442). -/
def staleSlot (c : Slot) : Slot := if c.done.isNone then { c with stale := true } else c

/-- Every executing command was judged in a state that the hardware has left (R442). -/
def staleAll (s : State) : State :=
  { s with host := { s.host with
      mbx := mapVals (fun _ m => { m with slot := m.slot.map staleSlot }) s.host.mbx
      side := s.host.side.map staleSlot
      orphans := s.host.orphans.map staleSlot } }

/-- The device enters state `d`: STATE_SEQ, STATE_CHANGE and the PLDM event of R450; READY begins anew (R484). -/
def setDev (d : DevState) (s : State) : State :=
  if s.dev = d then s
  else stateChanged { s with
    dev := d
    chk := if d = .ready then { s.chk with readySince := s.now, autoDone := false } else s.chk
    host := { s.host with sideOut := s.host.sideOut ++ [.platformEvent (devCode s.dev) (devCode d)] } }

/-- The hardware changes the device state by itself (R442). -/
def setDevHw (d : DevState) (s : State) : State := if s.dev = d then s else setDev d (staleAll s)

/-- SM_STATE becomes `d` (R426). -/
def setSm (d : SmState) (s : State) : State :=
  if s.sm.state = d then s else stateChanged { s with sm := { s.sm with state := d } }

-- Event records (R516 to R520).

/-- RATE and BURST of a code: 16 and 64 unless set (R520). -/
def rateOf (s : State) (code : Nat) : Nat × Nat := mapGetD s.evr.rates code (16, 64)

/-- The token bucket of a code: full until a raising takes a token (R520). -/
def bucketOf (s : State) (code : Nat) : Bucket :=
  mapGetD s.evr.buckets code { tokens := (rateOf s code).2, next := none }

/-- The interval between tokens: 10^9 / RATE ns, rounded down (R520). -/
def tokenNs (s : State) (code : Nat) : Nat := 1000000000 / (rateOf s code).1

/-- The bucket with every token that is due by now added (R520, R78: a token due in the same cycle counts first). -/
def bucketDue (s : State) (code : Nat) : Bucket :=
  let b := bucketOf s code
  match b.next with
  | none => b
  | some t =>
    if s.now < t then b
    else
      let iv := tokenNs s code
      let k := (s.now - t) / iv + 1
      let burst := (rateOf s code).2
      if burst ≤ b.tokens + k then { tokens := if b.tokens < burst then burst else b.tokens, next := none }
      else { tokens := b.tokens + k, next := some (t + k * iv) }

/-- The statistics of R526 and EVR_RAISED_CNT at one raising (stage 1 of R520). -/
def countRaising (code src : Nat) (s : State) : State :=
  let st := match mapGet s.evr.stats code with
    | some e => { e with lastSrc := src, last := s.now }
    | none => { lastSrc := src, first := s.now, last := s.now : Stat }
  bump Cnt.evrRaised code 1 { s with evr := { s.evr with stats := mapSet s.evr.stats code st } }

/-- Stages 2 and 3 of R520 for a record whose time is `time`. -/
def enqueue (code src time : Nat) (payload : List Byte) (s : State) : State :=
  let b := bucketDue s code
  if b.tokens = 0 then
    bump Cnt.evrSuppress code 1 { s with evr := { s.evr with buckets := mapSet s.evr.buckets code b } }
  else
    let b' : Bucket := { tokens := b.tokens - 1,
                         next := match b.next with
                           | some t => some t
                           | none => if b.tokens - 1 < (rateOf s code).2 then some (s.now + tokenNs s code) else none }
    let s' : State := { s with evr := { s.evr with buckets := mapSet s.evr.buckets code b' } }
    if 4096 ≤ s'.evr.queue.length then bump Cnt.evrSuppress code 1 s'
    else
      let r : Rec := { seq := 0, code := code, sev := evSev code, src := src, time := time, payload := payload }
      { s' with evr := { s'.evr with queue := s'.evr.queue ++ [r] } }

/-- The events that set MEM_EVENT of the bring-up record (R495). -/
def memEventCodes : List Nat := [Ev.memUe, Ev.memSramUe, Ev.memChFail]

/-- MEM_EVENT is written to flash at once (R495). -/
def noteMemEvent (code : Nat) (s : State) : State :=
  if memEventCodes.contains code then
    { s with flash := { s.flash with brg := { s.flash.brg with memEvent := true } } }
  else s

/-- An event of `code` is raised by unit `src` with `payload` (R520); its time is the time it is registered at D0. -/
def raise (code src : Nat) (payload : List Byte) (s : State) : State :=
  noteMemEvent code (enqueue code src s.now payload (countRaising code src s))

/-- A latched event is recorded with the time at which its latch was set (R590). -/
def raiseAt (code src time : Nat) (payload : List Byte) (s : State) : State :=
  enqueue code src time payload (countRaising code src s)

/-- `n` raisings in turn. -/
def raiseAll (code : Nat) (srcs : List Nat) (s : State) : State :=
  srcs.foldl (fun s src => raise code src [] s) s

/-- An 8-byte payload (R516: payloads are padded to 8 bytes). -/
def pay64 (x : Nat) : List Byte := toLE 8 x

end Sys2Proof.Machine
end

