-- ==== Sys2Proof/Machine/Command.lean ====
section
/-! DEFINITION. How a taken-up command is performed (R434, R438, R441, R442): the slot it executes in, step 10 of its
checks, its completion. -/

namespace Sys2Proof.Machine

/-- A mailbox that has never been opened: the reset values of R432 to R434. -/
def closedMailbox : Mailbox :=
  { retBase := 0, retSize := 0, irqEn := false, phase := .closed, closing := false, postValue := 0, postTime := 0,
    lastSeq := 0, lastStatus := 0, window := [], slot := none, held := false }

/-- Mailbox MBn. -/
def mailbox (s : State) (n : Nat) : Mailbox := mapGetD s.host.mbx n closedMailbox

/-- Mailbox MBn becomes `m`. -/
def setMailbox (n : Nat) (m : Mailbox) (s : State) : State :=
  { s with host := { s.host with mbx := mapSet s.host.mbx n m } }

/-- The command that `src` is executing, if any. -/
def slotOf (s : State) : CmdSrc → Option Slot
  | .mbx n => if (mailbox s n).phase = .executing then (mailbox s n).slot else none
  | .sideband => s.host.side
  | .orphan i => s.host.orphans[i]?

/-- The completion record of a command at time `now` (R440): bytes 0 to 63 with their CRC at byte 32. -/
def recordBytes (c : Slot) (r : Completion) (now : Nat) : List Byte :=
  let b := pack 64 [(0, 16, r.status), (16, 16, c.opcode), (32, 32, field c.header 32 32), (64, 32, r.resp.length),
    (96, 8, r.dstep), (104, 8, r.dcheck), (128, 64, now), (192, 32, sat 0xFFFFFFFF ((now - c.postTime) / 1000)),
    (224, 2, cmdClass c.opcode)]
  splice b 32 (toLE 4 (crc32 (b ++ r.resp)))

/-- A command has ended: the device is idle from now (R484). -/
def noteIdle (s : State) : State := { s with chk := { s.chk with readySince := s.now } }

/-- The sideband's command completes: record and response are sent back (R451). -/
def answerSide (c : Slot) (r : Completion) (s : State) : State :=
  noteIdle { s with host := { s.host with
      side := none
      sideOut := s.host.sideOut ++ [.vendor (recordBytes c r s.now) r.resp] } }

/-- The executing command of `src` becomes `c`. A sideband command that is done is answered; one whose mailbox a reset
closed leaves nothing behind but its effect (R434). -/
def putSlot (src : CmdSrc) (c : Slot) (s : State) : State :=
  match src with
  | .mbx n => setMailbox n { mailbox s n with slot := some c } s
  | .sideband =>
    match c.done with
    | some r => answerSide c r s
    | none => { s with host := { s.host with side := some c } }
  | .orphan i =>
    { s with host := { s.host with
        orphans := if c.done.isSome then s.host.orphans.eraseIdx i else s.host.orphans.set i c } }

/-- ST_OK with a response. -/
def okWith (resp : List Byte) : Completion := { status := St.ok, resp := resp, dstep := 0, dcheck := 0 }

/-- A command that failed step 10, at check `k` of its list (0 where its chapter numbers none). -/
def failWith (st k : Nat) : Completion := { status := st, resp := [], dstep := 10, dcheck := k }

/-- A command that failed an earlier step of R441. -/
def failStep (st step : Nat) : Completion := { status := st, resp := [], dstep := step, dcheck := 0 }

/-- A completion in which no step failed. -/
def plain (st : Nat) : Completion := { status := st, resp := [], dstep := 0, dcheck := 0 }

/-- What performing a command gives: the new state with its completion, or a wait for an event (R445). -/
inductive Performed where
  | done (t : State) (c : Completion)
  | wait (t : State)

/-- Whether a slot may be performed now: taken up, its effect not yet recorded, not waiting, and of this opcode. -/
def runnable (op : Nat) (c : Slot) : Bool := c.opcode == op && c.done.isNone && !c.waits

/-- The command of opcode `op` that `src` executes is performed (R442): a stale one completes with ST_BAD_STATE and no
effect; otherwise `f` gives its effect and completion, both recorded together (R38). Where `src` executes no such
command, or the stationmaster is not running, there is nothing to perform. -/
def performCmd (op : Nat) (src : CmdSrc) (f : Slot → State → Performed) (s : State) : State :=
  match slotOf s src with
  | none => s
  | some c =>
    if runnable op c && s.sm.state == .running then
      if c.stale then putSlot src { c with done := some (plain St.badState) } s
      else
        match f c s with
        | .done t r => putSlot src { c with done := some r } t
        | .wait t => putSlot src { c with waits := true } t
    else s

/-- A command that completes as soon as it is performed. -/
def performNow (op : Nat) (src : CmdSrc) (f : List Byte → State → State × Completion) (s : State) : State :=
  performCmd op src (fun c s => let r := f c.payload s; .done r.1 r.2) s

/-- A query: it changes nothing and answers from the state. -/
def performQuery (op : Nat) (src : CmdSrc) (f : List Byte → State → Completion) (s : State) : State :=
  performNow op src (fun p s => (s, f p s)) s

/-- Executing commands that are neither performed nor waiting for an event. -/
def unperformed (s : State) : Nat :=
  let p : Slot → Bool := fun c => c.done.isNone && !c.waits
  countIf (fun e => e.2.phase == .executing && e.2.slot.any p) s.host.mbx + bit (s.host.side.any p)
    + countIf p s.host.orphans

/-- A command of `src` that changes the device state waits until every other command judged in the old state has been
performed (R442, assumption log 56). -/
def heldBack (src : CmdSrc) (s : State) : Bool :=
  1 < unperformed s && (match slotOf s src with
    | some c => !c.stale
    | none => false)

/-- Every executing command of opcode `op` that waits is answered with `r` (R445). -/
def answerWaiting (op : Nat) (r : Completion) (s : State) : State :=
  let f : Slot → Slot := fun c =>
    if c.opcode = op ∧ c.waits ∧ c.done = none then { c with waits := false, done := some r } else c
  { s with host := { s.host with
      mbx := mapVals (fun _ m => { m with slot := m.slot.map f }) s.host.mbx
      side := s.host.side.map f
      orphans := (s.host.orphans.map f).filter (fun c => c.done.isNone) } }

/-- Some executing command of opcode `op` is not yet performed. -/
def anyExecuting (op : Nat) (s : State) : Bool :=
  let p : Option Slot → Bool := fun o => match o with
    | some c => c.opcode == op && c.done.isNone
    | none => false
  s.host.mbx.any (fun e => e.2.phase == .executing && p e.2.slot) || p s.host.side
    || s.host.orphans.any (fun c => c.opcode == op && c.done.isNone)

end Sys2Proof.Machine
end

