-- ==== Sys2Proof/Machine/Time.lean ====
section
/-! DEFINITION. The passing of time: TCLK counts nanoseconds (R9), and the counters of time run with it (R447, R469,
R581, R583). -/

namespace Sys2Proof.Machine

/-- The compute dies run (R575): any state but OFF and STANDBY. -/
def diesRun (s : State) : Bool := s.dev != .off && s.dev != .standby

/-- The counters of time that the package keeps while its dies run rise by `dt` ns. -/
def hostTime (dt : Nat) (s : State) : State :=
  let s := s.pkg.dies.foldl
    (fun s e => if e.2.step = 0 then s else bump Cnt.pkgTempThrottleNs e.1 dt s) s
  let s := if s.pkg.pwrCeil < 700 then bump Cnt.pkgPwrThrottleNs 0 dt s else s
  let s := if s.pkg.throttleN then s else bump Cnt.pkgExtThrottleNs 0 dt s
  let s := if s.sm.shed = 0 then s else bump Cnt.mbxShedNs s.sm.shed dt s
  { s with flash := { s.flash with histNs := s.flash.histNs + dt } }

/-- `dt` ns of the counters of the stacks (R373, R374, R380). -/
def stackTime (dt : Nat) (s : State) : State :=
  s.mem.stk.foldl (fun s e =>
    let s := if e.2.step = 0 then s else bump Cnt.memThrottleNs e.1 dt s
    if e.2.refresh = 0 then s else bump Cnt.memRefreshBoostNs e.1 dt s) s

/-- The CCLK cycles of logical core `lc` in `dt` ns, `k` times over, are added to a counter; what is less than a cycle
is kept (R8, R581). -/
def addCclk (id lc k dt : Nat) (s : State) : State :=
  let mhz := match mapGet s.pkg.dies (lcDie s lc) with
    | some c => c.cclk
    | none => 700
  let x := mapGetD s.dsp.frac (ctrKey id lc) 0 + k * dt * mhz
  let s := { s with dsp := { s.dsp with frac := mapSet s.dsp.frac (ctrKey id lc) (x % 1000) } }
  if x / 1000 = 0 then s else bump id lc (x / 1000) s

/-- A context is runnable: it holds a task that does not wait on a signal line (R115). -/
def ctxRunnable (c : Ctx) : Bool :=
  c.task.isSome && (match c.wait with
    | .sig _ _ _ _ => false
    | .arrive _ _ _ => false
    | _ => true)

/-- CCLK to the contexts of a logical core is stopped: none is runnable and its ready lists are empty (R115). -/
def coreStopped (s : State) (lc : Nat) : Bool :=
  let busy := (List.range 4).any (fun x => match mapGet s.dsp.ctxs (4 * lc + x) with
    | some c => ctxRunnable c
    | none => false)
  let ready := match mapGet s.dsp.disps lc with
    | some d => d.ready.any (fun e => e.2 != [])
    | none => false
  !busy && !ready

/-- Contexts of a logical core that are stalled at SPAWN (R112). -/
def stalledAt (s : State) (lc : Nat) : Nat :=
  countIf (fun z => z.lc == lc) (s.dsp.disps.flatMap (fun e => e.2.stalls))

/-- A logical core runs as the guest of a host (R473). -/
def guestActive (s : State) (lc : Nat) : Bool :=
  s.chk.cores.any (fun e => e.2.active == some lc && e.2.guests.contains lc)

/-- `dt` ns of the CCLK counters of a logical core (R112, R115, R473). -/
def coreTime (dt : Nat) (s : State) (lc : Nat) : State :=
  let n := stalledAt s lc
  let s := if n = 0 then s else addCclk Cnt.dspSpawnStallCclk lc n dt s
  let s := if coreStopped s lc then addCclk Cnt.dspIdleCclk lc 1 dt s else s
  if guestActive s lc then addCclk Cnt.fncSliceCclk lc 1 dt s else s

/-- `dt` ns pass. -/
def advance (dt : Nat) (s : State) : State :=
  if dt = 0 then s
  else
    let s := if diesRun s then (List.range (nLc s)).foldl (coreTime dt) (stackTime dt (hostTime dt s)) else s
    { s with now := s.now + dt }

/-- Time passes until `t`, if `t` is still to come. -/
def reachTime (t : Nat) (s : State) : State := advance (t - s.now) s

/-- History seconds (R469). -/
def histSeconds (s : State) : Nat := s.flash.histNs / 1000000000

/-- An entry of the soft fault map as the device records it (R502, R512). -/
def softEntry (kind die unitNo sub row : Nat) (found repaired : Bool) (s : State) : FaultEntry :=
  { kind := kind, fuse := false, soft := false, found := found, passed := false, repaired := repaired, die := die,
    unitNo := unitNo, sub := sub, row := row, histS := histSeconds s }

/-- Two entries name the same item. -/
def sameItem (a b : FaultEntry) : Bool :=
  a.kind == b.kind && a.die == b.die && a.unitNo == b.unitNo && a.sub == b.sub && a.row == b.row

/-- An item enters the soft fault map in flash, once (R502). -/
def addSoft (e : FaultEntry) (s : State) : State :=
  let l := s.flash.softMap
  let l := if l.any (sameItem e) then
      l.map (fun x => if sameItem e x then { x with found := x.found || e.found, repaired := x.repaired || e.repaired } else x)
    else l ++ [e]
  { s with flash := { s.flash with softMap := l } }

end Sys2Proof.Machine
end

