-- ==== Sys2Proof/Machine/Recorder.lean ====
section
/-! DEFINITION. The event recorder (chapter 16): admission to the ring, the flash spill, freezing, statistics, sensor
histograms, the summary, and the recorder's commands. -/

namespace Sys2Proof.Machine

/-- The length of a record in bytes: an 8-byte header and the payload padded to 8 bytes (R516). -/
def recLen (r : Rec) : Nat := 8 + 8 * cdiv r.payload.length 8

/-- The bytes of a record (R516): TS is bits [35:12] of its time. -/
def recBytes (r : Rec) : List Byte :=
  pack 8 [(0, 16, r.code), (16, 3, r.sev), (19, 5, recLen r / 8 - 1), (24, 16, r.src), (40, 24, r.time >>> 12)]
    ++ padTo (recLen r - 8) r.payload

/-- The ring holds 2 MiB of record bytes (R521). -/
def ringCap : Nat := 2097152

/-- The record bytes in the ring. -/
def ringBytes (ring : List Rec) : Nat := sumNat (ring.map recLen)

/-- An anchor of R518. -/
def isAnchor (r : Rec) : Bool := r.code == Ev.evrTime

/-- Anchors with no record but anchors between them and the next anchor are removed (R518). -/
def pruneAnchors : List Rec → List Rec
  | [] => []
  | [r] => [r]
  | r :: q :: rest =>
    if isAnchor r && isAnchor q then pruneAnchors (q :: rest) else r :: pruneAnchors (q :: rest)

/-- Whether a record at `time` needs an anchor: the latest anchor in the ring has other bits [63:36], or there is none
(R518). -/
def needsAnchor (ring : List Rec) (time : Nat) : Bool :=
  match ring.reverse.find? isAnchor with
  | some a => a.time >>> 36 != time >>> 36
  | none => true

/-- R521 may remove a record for a new one of severity `sev`. -/
def removable (sev : Nat) (r : Rec) : Bool := !isAnchor r && r.sev ≤ sev

/-- Records removed from the oldest onward until `need` bytes are free: the ring left and the records removed (R521). -/
def makeRoom (sev need : Nat) : Nat → List Rec → List Rec → List Rec × List Rec
  | 0, ring, gone => (ring, gone)
  | n + 1, ring, gone =>
    if ringBytes ring + need ≤ ringCap then (ring, gone)
    else
      match takeFirst (removable sev) ring with
      | some (r, rest) => makeRoom sev need n (pruneAnchors rest) (gone ++ [r])
      | none => (ring, gone)

/-- Add one to element `i` of a list of counts. -/
def countAt (l : List Nat) (i : Nat) : List Nat := l.set i (l.getD i 0 + 1)

/-- One record enters the ring with sequence number NEXT_SEQ, or with the one it already took (R519). -/
def putRec (r : Rec) (s : State) : State :=
  let e := s.evr
  let fresh : Bool := r.seq == 0
  let r' : Rec := if fresh then { r with seq := e.nextSeq } else r
  let s := { s with evr := { e with
    ring := e.ring ++ [r']
    nextSeq := if fresh then e.nextSeq + 1 else e.nextSeq
    admitted := countAt e.admitted r'.sev
    newestSeq := r'.seq
    severe := if 2 ≤ r'.sev then (r' :: e.severe).take 64 else e.severe } }
  bump Cnt.evrRecord 0 1 s

/-- Records removed from the ring before they are spilled are counted: they never will be (R523). -/
def countLost (gone : List Rec) (s : State) : State :=
  let lost := countIf (fun r => s.evr.spilledTo < r.seq) gone
  if lost = 0 then s else bump Cnt.evrUnspilled 0 lost s

/-- Records removed under R521 are counted. -/
def countRemoved (gone : List Rec) (s : State) : State :=
  countLost gone (if gone.isEmpty then s else bump Cnt.evrOverwrite 0 gone.length s)

/-- A record is admitted to the ring, with its anchor when it needs one, or dropped (R518, R521). -/
def admitRec (r : Rec) (s : State) : State :=
  let anchor := needsAnchor s.evr.ring r.time
  let need := recLen r + if anchor then 16 else 0
  let (ring, gone) := makeRoom r.sev need s.evr.ring.length s.evr.ring []
  if ringCap < ringBytes ring + need then
    let s := if r.seq = 0 then { s with evr := { s.evr with nextSeq := s.evr.nextSeq + 1 } } else s
    bump Cnt.evrDropFull 0 1 s
  else
    let s := countRemoved gone { s with evr := { s.evr with ring := ring } }
    let a : Rec := { seq := 0, code := Ev.evrTime, sev := 0, src := 0, time := r.time, payload := pay64 r.time }
    let s := if anchor then putRec a s else s
    let s := { s with evr := { s.evr with ring := pruneAnchors s.evr.ring } }
    let s := putRec r s
    if 3 ≤ r.sev then pkgEvt 1 s else s

/-- A record that the ring does not admit because it is frozen takes its sequence number (R525): one of severity FATAL is
held, up to sixteen. -/
def frozenRec (r : Rec) (s : State) : State :=
  let r' : Rec := { r with seq := s.evr.nextSeq }
  let s := { s with evr := { s.evr with nextSeq := s.evr.nextSeq + 1 } }
  if r.sev = 4 ∧ s.evr.fatalHold.length < 16 then
    { s with evr := { s.evr with fatalHold := s.evr.fatalHold ++ [r'] } }
  else bump Cnt.evrFrozen 0 1 s

/-- The oldest record of the event queue is moved to the ring, or numbered and counted while that is frozen (R518 to R521,
R525). -/
def takeEvent (s : State) : State :=
  match s.evr.queue with
  | [] => s
  | r :: rest =>
    let s := { s with evr := { s.evr with queue := rest } }
    match s.evr.freeze with
    | some _ => frozenRec r s
    | none => admitRec r s

/-- Every record of the event queue is moved on, oldest first: what is written at once comes after what was raised before
it (R518). -/
def drainQueue (s : State) : State := s.evr.queue.foldl (fun s _ => takeEvent s) s

/-- A raising that is admitted at once (R525): its code's token bucket applies. -/
def raiseDirect (code src : Nat) (payload : List Byte) (s : State) : State :=
  let s := raise code src payload (drainQueue s)
  match s.evr.queue with
  | [] => s
  | r :: _ => admitRec r { s with evr := { s.evr with queue := [] } }

/-- The freeze ends (R525): what was raised in it is counted, held FATAL records are admitted, then EV_EVR_UNFROZEN with
the freeze's count. -/
def endFreeze (s : State) : State :=
  match s.evr.freeze with
  | none => s
  | some f =>
    let s := drainQueue s
    let held := s.evr.fatalHold
    let s := held.foldl (fun s r => admitRec r s)
      { s with evr := { s.evr with freeze := none, fatalHold := [] } }
    raiseDirect Ev.evrUnfrozen 0 (pay64 (ctrGet s Cnt.evrFrozen 0 - f.startCount)) s

/-- EVENT_ADMIT: the stationmaster moves the oldest record of the event queue. -/
def eventAdmitS (s : State) : State := if s.sm.state ≠ .running then s else takeEvent s

def execEventAdmit (s : State) : Result := .next (eventAdmitS s)

/-- TOKEN_REFILL: the time of the code's next token is reached and its bucket gains it (R520). -/
def tokenRefillS (code : Nat) (s : State) : State :=
  match (bucketOf s code).next with
  | none => s
  | some t =>
    let s := reachTime t s
    { s with evr := { s.evr with buckets := mapSet s.evr.buckets code (bucketDue s code) } }

def execTokenRefill (code : Nat) (s : State) : Result := .next (tokenRefillS code s)

-- The flash spill (R523).

/-- An erase block of flash. -/
def blockBytes : Nat := 65536

/-- One record is appended to the spill; a full spill erases its oldest block first. -/
def spillRec (sp : List (List Rec)) (r : Rec) : List (List Rec) :=
  match sp.getLast? with
  | some b =>
    if ringBytes b + recLen r ≤ blockBytes then sp.dropLast ++ [b ++ [r]]
    else (if 511 ≤ sp.length then sp.drop 1 else sp) ++ [[r]]
  | none => [[r]]

/-- The records of the ring that the spill has not yet taken, those below any that a freeze still holds: the spill is
written in sequence order. -/
def unspilled (s : State) : List Rec :=
  let bound := match s.evr.fatalHold with
    | r :: _ => r.seq
    | [] => s.evr.nextSeq
  s.evr.ring.filter (fun r => s.evr.spilledTo < r.seq && r.seq < bound)

/-- A batch is written when 256 KiB are pending; otherwise 10 s after the last one. -/
def spillBatchS (s : State) : State :=
  if s.sm.state ≠ .running then s
  else
    let s := if 262144 ≤ ringBytes (unspilled s) then s else reachTime (s.evr.lastSpill + 10000000000) s
    let rs := sortBy (fun a b => a.seq ≤ b.seq) (unspilled s)
    let s' := { s with
      flash := { s.flash with spill := rs.foldl spillRec s.flash.spill }
      evr := { s.evr with
        lastSpill := s.now
        spilledTo := rs.foldl (fun m r => if m < r.seq then r.seq else m) s.evr.spilledTo } }
    if rs.isEmpty then s' else bump Cnt.evrSpillBytes 0 (ringBytes rs) s'

def execSpillBatch (s : State) : Result := .next (spillBatchS s)

/-- FREEZE_TIMEOUT: the freeze's timeout expires (R525). -/
def freezeTimeoutS (s : State) : State :=
  match s.evr.freeze with
  | none => s
  | some f => endFreeze (reachTime f.expires s)

def execFreezeTimeout (s : State) : Result := .next (freezeTimeoutS s)

-- Sensor histograms (R527, R528, R586).

/-- The default LO and HI of a sensor. -/
def sensorRange : Nat → Option (Int × Int)
  | 0x0001 => some (-64, 64)
  | 0x0002 => some (320, 832)
  | 0x0003 => some (0, 4194304)
  | 0x0004 => some (0, 4194304)
  | 0x0100 => some (10000, 14000)
  | 0x0101 => some (0, 409600)
  | 0x0102 => some (0, 5120000)
  | 0x0103 => some (256, 1024)
  | 0x0104 => some (0, 768)
  | _ => none

/-- The number of instances of a sensor. -/
def sensorInsts (s : State) : Nat → Nat
  | 0x0002 => nStacks s
  | 0x0103 => nDies s
  | 0x0104 => nDies s
  | _ => 1

/-- The sensors, in ascending ID. -/
def sensorIds : List Nat := [0x0001, 0x0002, 0x0003, 0x0004, 0x0100, 0x0101, 0x0102, 0x0103, 0x0104]

/-- The key of a sensor instance. -/
def sensorKey (id inst : Nat) : Nat := id * 65536 + inst

/-- The range in force for a sensor instance. -/
def rangeOf (s : State) (id inst : Nat) : Int × Int :=
  match mapGet s.evr.ranges (sensorKey id inst) with
  | some r => r
  | none => (sensorRange id).getD (0, 32)

/-- An empty histogram (R527). -/
def emptyHist (r : Int × Int) : Hist :=
  { count := 0, min := 2147483647, max := -2147483648, tMin := 0, tMax := 0, sum := 0, lo := r.1, hi := r.2,
    bins := List.replicate 34 0 }

/-- The bin of a sample: 0 below LO, 33 at or above HI, 1 to 32 by equal widths between (R527). -/
def binOf (lo hi x : Int) : Nat :=
  if x < lo then 0 else if hi ≤ x then 33 else ((x - lo) * 32 / (hi - lo)).toNat + 1

/-- A signed value held within 64 bits. -/
def satInt64 (x : Int) : Int :=
  if x < -9223372036854775808 then -9223372036854775808
  else if 9223372036854775807 < x then 9223372036854775807 else x

/-- One sample enters a histogram at time `t`. -/
def addSample (h : Hist) (x : Int) (t : Nat) : Hist :=
  let b := binOf h.lo h.hi x
  { h with
    count := sat max64 (h.count + 1)
    min := if x < h.min then x else h.min
    tMin := if x < h.min then t else h.tMin
    max := if h.max < x then x else h.max
    tMax := if h.max < x then t else h.tMax
    sum := satInt64 (h.sum + x)
    bins := h.bins.set b (sat (2 ^ 32 - 1) (h.bins.getD b 0 + 1)) }

/-- Samples enter the histograms, in order. -/
def applySamples (s : State) (hists : AMap Hist) (l : List Sample) : AMap Hist :=
  l.foldl (fun m e =>
    let h := match mapGet m (sensorKey e.id e.inst) with
      | some h => h
      | none => emptyHist (rangeOf s e.id e.inst)
    mapSet m (sensorKey e.id e.inst) (addSample h e.value e.time)) hists

/-- A batch is applied at every whole second (R447, R527): the batched sample's time has come. -/
def sampleDue (s : State) (e : Sample) : Bool := e.time / 1000000000 < s.now / 1000000000

/-- The histograms with the batches that are due. -/
def histsNow (s : State) : AMap Hist := applySamples s s.evr.hists (s.evr.batch.filter (sampleDue s))

/-- The samples of the running second. -/
def batchNow (s : State) : List Sample := s.evr.batch.filter (fun e => !sampleDue s e)

/-- The histogram of a sensor instance. -/
def histOf (s : State) (id inst : Nat) : Hist :=
  match mapGet (histsNow s) (sensorKey id inst) with
  | some h => h
  | none => emptyHist (rangeOf s id inst)

/-- A value as the signed 32-bit integer that a sensor holds (R527): what it holds of one outside that range is not
stated. -/
def sensorValue (x : Int) : Int :=
  if -2147483648 ≤ x ∧ x ≤ 2147483647 then x else (Config.sensorOver x).toInt

/-- A sensor instance is sampled: at once, after all that waits, or into the running second's batch from shed level 2 on. -/
def sample (id inst : Nat) (x : Int) (s : State) : State :=
  let e : Sample := { id := id, inst := inst, value := sensorValue x, time := s.now }
  if 2 ≤ s.sm.shed then
    { s with evr := { s.evr with hists := histsNow s, batch := batchNow s ++ [e] } }
  else { s with evr := { s.evr with hists := applySamples s s.evr.hists (s.evr.batch ++ [e]), batch := [] } }

/-- A sensor instance of telemetry is offered a sample: one in four is taken at shed level 1 and above (R447, R586). -/
def telemetry (id inst : Nat) (x : Int) (s : State) : State :=
  let k := sensorKey id inst
  let n := mapGetD s.evr.tele k 0
  let s := { s with evr := { s.evr with tele := mapSet s.evr.tele k ((n + 1) % 4) } }
  if s.sm.shed = 0 ∨ n = 0 then sample id inst x s else s

-- The summary in BAR4 (R431, R533).

/-- The recorder summary's content from BAR4 offset 0x0010_0008 on. -/
def summaryBytes (s : State) : List Byte :=
  toLE 8 s.evr.newestSeq ++ (s.evr.admitted.map (toLE 8)).flatten
    ++ toLE 8 (bit s.evr.freeze.isSome + 2 * bit (1024 ≤ s.flash.clearLog.length))
    ++ padTo 16896 ((s.evr.severe.map (fun r => toLE 8 r.seq ++ padTo 256 (recBytes r))).flatten)

/-- SUMMARY_REFRESH: the summary is rewritten between an odd and the next even generation, and SUMMARY is set. -/
def summaryRefreshS (s : State) : State :=
  if s.sm.state ≠ .running then s
  else pkgEvt 3 { s with evr := { s.evr with summaryGen := s.evr.summaryGen + 2, summary := summaryBytes s } }

def execSummaryRefresh (s : State) : Result := .next (summaryRefreshS s)

-- The recorder's commands (R530 to R532).

/-- Records at or above `first`, each after its sequence number, for as many whole records as fit in `room` bytes. -/
def takeRecords (first : Nat) : Nat → List Rec → List Byte
  | _, [] => []
  | room, r :: rs =>
    if r.seq < first then takeRecords first room rs
    else
      let b := toLE 8 r.seq ++ recBytes r
      if room < b.length then [] else b ++ takeRecords first (room - b.length) rs

/-- The records of a source of CMD_EVR_READ, by sequence number. -/
def evrSource (s : State) : Nat → List Rec
  | 0 => sortBy (fun a b => a.seq ≤ b.seq) s.evr.ring
  | 1 => s.flash.spill.flatten
  | _ => s.flash.clearLog

/-- CMD_EVR_READ (R532). -/
def evrRead (p : List Byte) (s : State) : Completion :=
  let src := field p 0 2
  let maxB := field p 128 32
  if src = 3 ∨ field p 2 62 ≠ 0 ∨ maxB < 64 ∨ 524288 < maxB then failWith St.badParam 0
  else
    let rs := evrSource s src
    let oldest := match rs with
      | r :: _ => r.seq
      | [] => s.evr.nextSeq
    okWith (toLE 8 s.evr.nextSeq ++ toLE 8 oldest ++ takeRecords (field p 64 64) (maxB - 16) rs)

def execCmdEvrRead (src : CmdSrc) (s : State) : Result := .next (performQuery 0x0F00 src evrRead s)

/-- CMD_EVR_FREEZE (R525, R532): a second freeze restarts the timeout. -/
def evrFreeze (p : List Byte) (s : State) : State × Completion :=
  let t := field p 0 16
  if 600 < t then (s, failWith St.badParam 0)
  else
    let secs := if t = 0 then 60 else t
    let s := if s.evr.freeze.isSome then s else raiseDirect Ev.evrFrozen 0 [] s
    let start := match s.evr.freeze with
      | some f => f.startCount
      | none => ctrGet s Cnt.evrFrozen 0
    let f : Freeze := { expires := s.now + secs * 1000000000, startCount := start }
    ({ s with evr := { s.evr with freeze := some f } }, okWith [])

def execCmdEvrFreeze (src : CmdSrc) (s : State) : Result := .next (performNow 0x0F01 src evrFreeze s)

/-- CMD_EVR_UNFREEZE: ends a freeze (R525). -/
def evrUnfreeze (_ : List Byte) (s : State) : State × Completion := (endFreeze s, okWith [])

def execCmdEvrUnfreeze (src : CmdSrc) (s : State) : Result := .next (performNow 0x0F02 src evrUnfreeze s)

/-- The payload of an EV_EVR_CLEARED record (R524): scope, key slot, nonce and step number. -/
def clearedPayload (p : List Byte) (step : Nat) : List Byte :=
  pack 8 [(0, 2, field p 0 2), (8, 8, field p 72 8)] ++ toLE 8 (field p 8 64) ++ toLE 8 step

/-- The ring without the records that RECORDS removes (R524): anchors stay only where R518 keeps them. -/
def clearedRing (ring : List Rec) : List Rec :=
  pruneAnchors (ring.filter (fun r => isAnchor r || r.code == Ev.evrCleared))

/-- The nonce of an accepted signed command is recorded for its owner slot (R438, R556). -/
def recordNonce (slot nonce : Nat) (s : State) : State :=
  let e := s.flash.enrol1
  let slots := e.slots.mapIdx (fun i o => if i + 4 = slot then { o with lastNonce := nonce } else o)
  let e' : Enrol := { e with updateNo := e.updateNo + 1, slots := slots }
  { s with flash := { s.flash with enrol1 := e', enrol2 := e' } }

/-- CMD_EVR_CLEAR (R524): the clear, then its record in the ring and in the clear log. The payload is the scope byte and
the trailer of R438, whose NONCE starts at byte 1 and KEY_SLOT at byte 9. -/
def evrClear (p : List Byte) (s : State) : State × Completion :=
  let scope := field p 0 2
  if scope = 0 ∨ field p 2 6 ≠ 0 then (s, failWith St.badParam 0)
  else if 1024 ≤ s.flash.clearLog.length then (s, failWith St.noSpace 0)
  else
    let s := if scope % 2 = 1 then
        countLost (s.evr.ring.filter (fun r => !isAnchor r && r.code != Ev.evrCleared))
          { s with evr := { s.evr with ring := clearedRing s.evr.ring }, flash := { s.flash with spill := [] } }
      else s
    let s := if 2 ≤ scope then
        clearCtrs (fun i => i == Cnt.evrRaised || i == Cnt.evrSuppress)
          { s with evr := { s.evr with stats := [], hists := [], batch := batchNow s } }
      else s
    let s := recordNonce (field p 72 8) (field p 8 64) s
    let r : Rec := { seq := 0, code := Ev.evrCleared, sev := evSev Ev.evrCleared, src := 0, time := s.now,
                     payload := clearedPayload p s.step }
    let s := countRaising Ev.evrCleared 0 s
    let s := admitRec r (drainQueue s)
    let kept : Rec := { r with seq := s.evr.nextSeq - 1 }
    ({ s with flash := { s.flash with clearLog := s.flash.clearLog ++ [kept] } }, okWith [])

def execCmdEvrClear (src : CmdSrc) (s : State) : Result := .next (performNow 0x0F03 src evrClear s)

/-- A statistic entry of R526. -/
def statBytes (s : State) (e : Nat × Stat) : List Byte :=
  pack 48 [(0, 16, e.1), (16, 16, e.2.lastSrc), (64, 64, ctrGet s Cnt.evrRaised e.1),
    (128, 64, ctrGet s Cnt.evrSuppress e.1), (192, 64, e.2.first), (256, 64, e.2.last)]

/-- A histogram entry of R527. -/
def histBytes (id inst : Nat) (h : Hist) : List Byte :=
  pack 56 [(0, 16, id), (16, 16, inst), (64, 64, h.count), (128, 32, ofSigned 32 h.min), (160, 32, ofSigned 32 h.max),
    (192, 64, h.tMin), (256, 64, h.tMax), (320, 64, ofSigned 64 h.sum), (384, 32, ofSigned 32 h.lo),
    (416, 32, ofSigned 32 h.hi)]
  ++ (h.bins.map (toLE 4)).flatten

/-- Every sensor instance, in ascending sensor and instance. -/
def sensorList (s : State) : List (Nat × Nat) :=
  (sensorIds.map (fun id => (List.range (sensorInsts s id)).map (fun i => (id, i)))).flatten

/-- CMD_EVR_HIST_READ (R526, R527, R532). -/
def evrHistRead (p : List Byte) (s : State) : Completion :=
  let kind := field p 0 2
  let first := field p 16 16
  let n := field p 32 16
  if 2 ≤ kind ∨ field p 2 14 ≠ 0 ∨ n = 0 ∨ 4096 < n then failWith St.badParam 0
  else if kind = 0 then okWith (((s.evr.stats.drop first).take n).map (statBytes s)).flatten
  else okWith ((((sensorList s).drop first).take n).map (fun e => histBytes e.1 e.2 (histOf s e.1 e.2))).flatten

def execCmdEvrHistRead (src : CmdSrc) (s : State) : Result := .next (performQuery 0x0F04 src evrHistRead s)

/-- A new rate limit for one code (R520): the bucket keeps its tokens, cut to the new BURST; a token already due comes at
its time, later ones at the new interval. -/
def setRate (code rate burst : Nat) (s : State) : State :=
  let b := bucketDue s code
  let s := { s with evr := { s.evr with rates := mapSet s.evr.rates code (rate, burst) } }
  let b' : Bucket :=
    if burst ≤ b.tokens then { tokens := burst, next := none }
    else { tokens := b.tokens,
           next := match b.next with
             | some t => some t
             | none => some (s.now + tokenNs s code) }
  { s with evr := { s.evr with buckets := mapSet s.evr.buckets code b' } }

/-- A new range for one sensor instance (R527, R532): the bins and SUM go to zero. -/
def setRange (id inst : Nat) (lo hi : Int) (s : State) : State :=
  let h := histOf s id inst
  let h' : Hist := { h with lo := lo, hi := hi, sum := 0, bins := List.replicate 34 0 }
  { s with evr := { s.evr with
      ranges := mapSet s.evr.ranges (sensorKey id inst) (lo, hi)
      hists := mapSet (histsNow s) (sensorKey id inst) h'
      batch := batchNow s } }

/-- CMD_EVR_CONFIG (R532). -/
def evrConfig (p : List Byte) (s : State) : State × Completion :=
  let id := field p 16 16
  let bad := (s, failWith St.badParam 0)
  if field p 1 15 ≠ 0 then bad
  else if field p 0 1 = 0 then
    let rate := field p 32 16
    let burst := field p 48 16
    if !evKnown id || id == Ev.evrTime || id == Ev.evrCleared || 1000 < rate || 1024 < burst || field p 64 64 != 0
    then bad
    else (setRate id (if rate = 0 then 16 else rate) (if burst = 0 then 64 else burst) s, okWith [])
  else
    let inst := field p 32 16
    let lo := toSigned 32 (field p 64 32)
    let hi := toSigned 32 (field p 96 32)
    let n := sensorInsts s id
    if (sensorRange id).isNone || field p 48 16 != 0 || (inst != 0xFFFF && n ≤ inst) || hi ≤ lo
        || (hi - lo) % 32 != 0 then bad
    else if inst = 0xFFFF then ((List.range n).foldl (fun s i => setRange id i lo hi s) s, okWith [])
    else (setRange id inst lo hi s, okWith [])

def execCmdEvrConfig (src : CmdSrc) (s : State) : Result := .next (performNow 0x0F05 src evrConfig s)

/-- The ranges of CMD_EVR_COUNTERS_READ: 8 bytes each from byte 8. -/
def counterRanges (p : List Byte) : List (Nat × Nat × Nat × Nat) :=
  (List.range (field p 0 8)).map (fun i =>
    let b := 64 + 64 * i
    (field p b 16, field p (b + 16) 16, field p (b + 32) 16, field p (b + 48) 16))

/-- CMD_EVR_COUNTERS_READ (R530, R532): the reads take no time of their own in this model. -/
def evrCountersRead (p : List Byte) (s : State) : Completion :=
  let n := field p 0 8
  let rs := counterRanges p
  if n = 0 ∨ 64 < n ∨ field p 8 56 ≠ 0 then failWith St.badParam 0
  else if rs.any (fun r => r.2.2.1 == 0 || 4096 < r.2.2.1 || r.2.2.2 != 0) then failWith St.badParam 0
  else if 65536 < sumNat (rs.map (fun r => r.2.2.1)) then failWith St.badParam 0
  else okWith (toLE 8 s.now ++ toLE 8 s.now
    ++ (rs.map (fun r => ((List.range r.2.2.1).map (fun k => toLE 8 (ctrGet s r.1 (r.2.1 + k)))).flatten)).flatten)

def execCmdEvrCountersRead (src : CmdSrc) (s : State) : Result := .next (performQuery 0x0F06 src evrCountersRead s)

/-- A time of a phase entry: never reached reads all ones, larger times saturate below it (R529). -/
def phaseTime : Option Nat → Nat
  | none => 0xFFFFFFFF
  | some t => sat 0xFFFFFFFE t

/-- A phase entry of R529. -/
def phaseBytes (e : PhaseEntry) : List Byte :=
  pack 48 [(0, 64, e.step), (64, 64, e.depTime), (128, 32, phaseTime e.tStep), (160, 32, phaseTime e.tLoad),
    (192, 32, phaseTime e.tEnd), (224, 32, phaseTime (some e.tNext)), (256, 32, phaseTime (some e.tHold)),
    (288, 1, bit e.late), (289, 1, bit e.left), (290, 1, bit e.sittingOut), (291, 1, bit e.forfeit),
    (292, 1, bit e.syncLost)]

/-- A phase entry is written; the last 4,096 are kept (R529). -/
def addPhase (e : PhaseEntry) (s : State) : State :=
  let l := s.evr.phases ++ [e]
  { s with evr := { s.evr with phases := l.drop (l.length - 4096) } }

/-- CMD_EVR_PHASE_READ (R529, R532). -/
def evrPhaseRead (p : List Byte) (s : State) : Completion :=
  let n := field p 64 16
  if n = 0 ∨ 4096 < n then failWith St.badParam 0
  else okWith (((s.evr.phases.filter (fun e => field p 0 64 ≤ e.step)).take n).map phaseBytes).flatten

def execCmdEvrPhaseRead (src : CmdSrc) (s : State) : Result := .next (performQuery 0x0F07 src evrPhaseRead s)

end Sys2Proof.Machine
end

