-- ==== Sys2Proof/Machine/Reset.lean ====
section
/-! DEFINITION. Resets: of the host interface alone (R423, R434, R575, R578), of the device (R427, R493), and the holding of
the compute dies in reset (R573 to R575, R578, R582). -/

namespace Sys2Proof.Machine

/-- A mailbox that holds a posted or executing command. -/
def occupied (m : Mailbox) : Bool := m.phase == .posted || m.phase == .executing

/-- The number of mailboxes whose posted or executing command a reset discards (R434). -/
def discards (s : State) : Nat := countIf (fun e => occupied e.2) s.host.mbx

/-- The commands that were executing and are not yet performed: they keep their effect (R434). -/
def unfinished (s : State) : List Slot :=
  (s.host.mbx.filterMap (fun e => if e.2.phase = .executing then e.2.slot else none)).filter (fun c => c.done.isNone)

/-- Discarded completions are counted, and EV_MBX_FLR is raised once when there is one (R434, R455). -/
def countDiscards (n : Nat) (s : State) : State :=
  if n = 0 then s else raise Ev.mbxFlr 0 (pay64 n) (bump Cnt.mbxFlrDiscard 0 n s)

/-- Every mailbox closes; window contents stay, as nothing clears them (R430, R434). -/
def closeMailboxes (s : State) : State :=
  let n := discards s
  let orphans := s.host.orphans ++ unfinished s
  countDiscards n { s with host := { s.host with
    mbx := mapVals (fun _ m => { closedMailbox with window := m.window }) s.host.mbx
    orphans := orphans
    busMaster := false
    funcMask := false
    msixTable := []
    msixPending := [] } }

/-- A Function Level Reset or an entry to D3hot (R423, R428). -/
def hostReset (s : State) : State :=
  closeMailboxes { s with host := { s.host with evtStatus := 0, evtMask := 0xF, evtSet := [] } }

/-- The flash as a device reset leaves it: an update session ends (R560); a new bring-up is counted (R511). -/
def resetFlash (bringup : Bool) (s : State) : Flash :=
  let f := s.flash
  let b := f.boot1
  let f := if b.session then
      let b' : BootHdr := { b with session := false, updateNo := b.updateNo + 1 }
      { f with boot1 := b', boot2 := b' }
    else f
  let old : List FaultEntry := f.softMap.map (fun e => { e with soft := true, found := false, passed := false })
  if bringup then { f with
    brg := { f.brg with
      total := f.brg.total + 1
      startMode := 0 }
    softMap := old }
  else f

/-- What a reset of the compute dies keeps of the host interface: the PCIe function's registers, and what was sent. -/
def keptHost (pcie : Bool) (s : State) : HostIf :=
  { resetHost with
    mbx := s.host.mbx.map (fun e => (e.1, { closedMailbox with window := e.2.window }))
    busMaster := pcie && s.host.busMaster
    msixEnable := s.host.msixEnable
    funcMask := pcie && s.host.funcMask
    msixTable := if pcie then s.host.msixTable else []
    out := s.host.out
    sideOut := s.host.sideOut
    eid := s.host.eid }

/-- The package's pins, supplies and clocks through a reset: PL, TJ_THR and the dies' clocks return to reset (R584). -/
def keptPackage (s : State) : Package :=
  let dies := mapVals (fun _ (d : DieClock) => { d with step := 0, cclk := 700, changing := false }) s.pkg.dies
  { s.pkg with plW := codeMaxW s.fuse.code, tjThr := 95, pwrCeil := 700, dies := dies }

/-- The couplings that have failed: they fail training at the next bring-up, which finds a topology mismatch (R29). -/
def failedCouplings (s : State) : List Nat :=
  setUnion s.brg.couplingsBad (mapKeys (s.cpl.phases.filter (fun e => e.2 == .failed)))

/-- The stationmaster after a reset of its complex: a cold boot has the checkpoint of the flash copy (R42). -/
def coldStation (s : State) : Station :=
  { resetStation with sram := { resetStation.sram with ckpt := s.flash.ckpt } }

/-- The compute dies and the stationmaster are reset: everything but time, fuses, flash, meter, bridge window, pins and
the PCIe function returns to its reset value. `pcie`: the PCIe link stays in service. -/
def resetDies (pcie bringup : Bool) (s : State) : State :=
  { State.reset with
    now := s.now
    dev := s.dev
    stateSeq := s.stateSeq
    fuse := s.fuse
    flash := resetFlash bringup s
    host := keptHost pcie s
    meter := s.meter
    win := { s.win with failSeen := false }
    pkg := keptPackage s
    pending := s.pending
    free := s.free
    sm := coldStation s
    brg := { resetBringup with startTime := s.now, couplingsBad := failedCouplings s } }

/-- The latched events are recorded with the times of their latches (R590). -/
def recordLatched (s : State) : State :=
  s.pkg.latched.foldl (fun s l => raiseAt l.code 0 l.time l.payload s) { s with pkg := { s.pkg with latched := [] } }

/-- A bring-up begins after a reset, with the mode asked for: 0 AUTO, 1 FULL, 2 QUICK (R493, R494). Discarded completions
are counted after the counters cleared (R434, R427). -/
def startBringup (pcie : Bool) (mode : Nat) (s : State) : State :=
  let n := discards s
  let d := s.dev
  let t := resetDies pcie true s
  let t := { t with brg := { t.brg with requested := mode } }
  countDiscards n (setDev .bringup (recordLatched { t with dev := d }))

/-- A device reset by PKG_RESET, or the one after CMD_BRG_START or CMD_PKG_FW_ACTIVATE (R427, R493). -/
def deviceReset (mode : Nat) (s : State) : State := startBringup true mode s

/-- The compute dies are held in reset and the device enters STANDBY (R575); in OFF it stays OFF. -/
def holdReset (s : State) : State :=
  if s.dev = .off ∨ s.dev = .standby then s
  else
    let d := s.dev
    let t := resetDies false false s
    setDev .standby { t with dev := d }

/-- A latched event of R590 is kept in the VAUX domain until the next bring-up. -/
def latch (code : Nat) (payload : List Byte) (s : State) : State :=
  { s with pkg := { s.pkg with latched := s.pkg.latched ++ [{ code := code, time := s.now, payload := payload }] } }

/-- Nothing keeps the compute dies in reset: VAUX and both reset inputs good, no thermal trip (R573, R575, R582). -/
def mayRelease (s : State) : Bool :=
  s.pkg.vaux && s.pkg.pwrgd && s.pkg.rstN && !s.pkg.thermtrip

/-- The compute dies leave reset if nothing holds them: BRINGUP in AUTO mode (R494, R506, R575). -/
def tryRelease (s : State) : State :=
  if s.dev = .standby ∧ mayRelease s then startBringup false 0 s else s

end Sys2Proof.Machine
end

