-- ==== Sys2Proof/Machine/Power.lean ====
section
/-! DEFINITION. Supplies, reset inputs, reference clocks, test port, thermal steps, power ceilings and the power commands
(chapter 18). The commands that need the timetable's role or the meter are in their own files. -/

namespace Sys2Proof.Machine

-- Supplies and reset inputs (R573 to R576).

/-- R574: the dies were running and are held in reset; EV_PKG_VIN_LOSS is latched. -/
def vinHold (s : State) : State :=
  if diesRun s then holdReset (latch Ev.pkgVinLoss [] s) else s

/-- VIN_LOSS: VIN_HV below 10.6 V for 20 us. -/
def vinLossS (s : State) : State := vinHold { s with pkg := { s.pkg with vin := false, vinRange := false } }

def execVinLoss (s : State) : Result := .next (vinLossS s)

/-- VIN_RANGE_EXIT: VIN_HV leaves 11.0 to 13.2 V without falling below 10.6 V (R574). -/
def vinRangeExitS (s : State) : State :=
  if !s.pkg.vinRange then s
  else
    let s := { s with pkg := { s.pkg with vinRange := false } }
    if diesRun s then raise Ev.pkgVinRange 0 [] (bump Cnt.pkgVinRange 0 1 s) else s

def execVinRangeExit (s : State) : Result := .next (vinRangeExitS s)

/-- PKG_PWRGD_FALL (R574, R575). -/
def pwrgdFallS (s : State) : State := vinHold { s with pkg := { s.pkg with pwrgd := false } }

def execPkgPwrgdFall (s : State) : Result := .next (pwrgdFallS s)

/-- PKG_PWRGD_RISE: VIN_HV is in range (R573); the dies leave reset if PKG_RST_N is high (R575). -/
def pwrgdRiseS (s : State) : State :=
  if s.pkg.pwrgd then s
  else tryRelease { s with pkg := { s.pkg with pwrgd := true, vin := true, vinRange := true, lrefclk := true } }

def execPkgPwrgdRise (s : State) : Result := .next (pwrgdRiseS s)

/-- PKG_RST_N_FALL: dies and stationmaster held in reset (R575). -/
def rstFallS (s : State) : State := holdReset { s with pkg := { s.pkg with rstN := false } }

def execPkgRstNFall (s : State) : Result := .next (rstFallS s)

/-- Some die is above 95 degrees Celsius (R582). -/
def anyHot (s : State) : Bool := s.pkg.dies.any (fun e => 760 < e.2.temp)

/-- PKG_RST_N_RISE: the pulse clears PKG_THERMTRIP_N unless a die is above 95 degrees (R582), and the dies leave reset
while PKG_PWRGD is high (R575). -/
def rstRiseS (s : State) : State :=
  if s.pkg.rstN then s
  else
    let trip := s.pkg.thermtrip && anyHot s
    tryRelease { s with pkg := { s.pkg with rstN := true, thermtrip := trip, lrefclk := true } }

def execPkgRstNRise (s : State) : Result := .next (rstRiseS s)

/-- PCIE_PERST_N_FALL: the PCIe controller alone is reset and the mailboxes close (R575). -/
def perstFallS (s : State) : State :=
  let s := { s with pkg := { s.pkg with perstN := false } }
  if diesRun s then closeMailboxes s else s

def execPciePerstNFall (s : State) : Result := .next (perstFallS s)

/-- PCIE_PERST_N_RISE: the controller leaves reset. -/
def execPciePerstNRise (s : State) : Result := .next { s with pkg := { s.pkg with perstN := true } }

-- Reference clocks (R578).

/-- PCIE_REFCLK_LOSS: MPCLK runs on from LREFCLK, the PCIe link goes down, the mailboxes close. -/
def refclkLossS (s : State) : State :=
  if !s.pkg.refclk then s
  else
    let s := { s with pkg := { s.pkg with refclk := false } }
    if diesRun s then raise Ev.pkgRefclkLoss 0 [] (bump Cnt.pkgRefclkLoss 0 1 (closeMailboxes s)) else s

def execPcieRefclkLoss (s : State) : Result := .next (refclkLossS s)

/-- PCIE_REFCLK_RETURN: the link retrains. -/
def execPcieRefclkReturn (s : State) : Result := .next { s with pkg := { s.pkg with refclk := true } }

/-- LREFCLK_LOSS: dies held in reset, STANDBY, the event latched. -/
def lrefclkLossS (s : State) : State :=
  let s := { s with pkg := { s.pkg with lrefclk := false } }
  if diesRun s then holdReset (latch Ev.pkgLrefclkLoss [] s) else s

def execLrefclkLoss (s : State) : Result := .next (lrefclkLossS s)

-- Thermal steps and CCLK (R581 to R583).

/-- A die before its first report: 25 degrees Celsius (assumption log 17). -/
def coldDie : DieClock := { temp := 200, step := 0, cclk := 700, changing := false }

/-- Die d's thermal and clock state. -/
def dieClock (s : State) (d : Nat) : DieClock := mapGetD s.pkg.dies d coldDie

/-- Die d's clock becomes `c`. -/
def setDie (d : Nat) (c : DieClock) (s : State) : State :=
  { s with pkg := { s.pkg with dies := mapSet s.pkg.dies d c } }

/-- The step that a temperature enters: min(3, (T - TJ_THR) / 3 + 1) from TJ_THR on; temperatures in 1/8 degree. -/
def enteredStep (thr : Nat) (temp : Int) : Nat :=
  let t8 : Int := 8 * thr
  if temp < t8 then 0 else Nat.min 3 (((temp - t8) / 24).toNat + 1)

/-- The largest step at or below `k` that a temperature does not leave: it leaves a step below the entry temperature less 2
degrees, as in the worked example after R585. -/
def heldStep (thr : Nat) (temp : Int) : Nat → Nat
  | 0 => 0
  | k + 1 => if 8 * (thr : Int) + 24 * k - 16 ≤ temp then k + 1 else heldStep thr temp k

/-- The thermal step after a report (R581). -/
def nextStep (thr cur : Nat) (temp : Int) : Nat := Nat.max (enteredStep thr temp) (heldStep thr temp cur)

/-- The thermal ceiling of a step in MHz (R583). -/
def thermalMhz : Nat → Nat
  | 0 => 700
  | 1 => 600
  | 2 => 500
  | _ => 350

/-- The external ceiling (R583). -/
def extMhz (s : State) : Nat := if s.pkg.throttleN then 700 else 350

/-- The lowest of a die's three ceilings (R583). -/
def targetMhz (s : State) (c : DieClock) : Nat := Nat.min (thermalMhz c.step) (Nat.min s.pkg.pwrCeil (extMhz s))

/-- Every die whose CCLK differs from its target begins a change (R583). -/
def retarget (s : State) : State :=
  let f : Nat → DieClock → DieClock := fun _ c => { c with changing := c.changing || c.cclk != targetMhz s c }
  { s with pkg := { s.pkg with dies := mapVals f s.pkg.dies } }

/-- PKG_ALERT_N is asserted while a die's CCLK is below 700 MHz (R583). -/
def alertN (s : State) : Bool := !s.pkg.dies.any (fun e => e.2.cclk < 700)

/-- Every populated die has an entry. -/
def fillDies (s : State) : State :=
  (List.range (nDies s)).foldl (fun s d => setDie d (dieClock s d) s) s

/-- DIE_TEMP_REPORT: telemetry, the thermal step, and the thermal trip at 125 degrees (R581, R582, R586). -/
def dieTempReportS (d : Nat) (temp : Int) (s : State) : State :=
  let c := dieClock s d
  if diesRun s then
    let s := telemetry 0x0104 d c.cclk (telemetry 0x0103 d temp s)
    let k := nextStep s.pkg.tjThr c.step temp
    let s := setDie d { c with temp := temp, step := k } (fillDies s)
    let s := if c.step = 0 ∧ 0 < k then raise Ev.pkgThrottle (srcOf 1 d) [] s else s
    if 1000 ≤ temp then
      holdReset (latch Ev.pkgThermtrip (pay64 d) { s with pkg := { s.pkg with thermtrip := true } })
    else retarget s
  else if s.dev = .standby then setDie d { c with temp := temp } s
  else s

def execDieTempReport (d : Nat) (temp : Int) (s : State) : Result := onUnit (d < nDies s) (dieTempReportS d temp s)

/-- A ceiling in steps of 25 MHz from 350 to 700 MHz (R583). -/
def ceilStep (mhz : Nat) : Nat := Nat.max 350 (Nat.min 700 (mhz / 25 * 25))

/-- POWER_CEILING_UPDATE: the measurements and the power ceiling that the power control found (R583, R586); VIN_HV is back
in its range where it measures so. -/
def powerCeilingUpdateS (vin iin p10 mhz : Nat) (s : State) : State :=
  if !diesRun s then s
  else
    let s := telemetry 0x0102 0 p10 (telemetry 0x0101 0 iin (telemetry 0x0100 0 vin s))
    retarget (fillDies { s with pkg := { s.pkg with
      vinMv := vin, iinMa := iin, p10Mw := p10, pwrCeil := ceilStep mhz,
      vinRange := s.pkg.vinRange || (11000 ≤ vin && vin ≤ 13200) } })

def execPowerCeilingUpdate (vin iin p10 mhz : Nat) (s : State) : Result :=
  .next (powerCeilingUpdateS vin iin p10 mhz s)

/-- PKG_THROTTLE_N falls or rises (R583). -/
def throttleS (high : Bool) (s : State) : State :=
  let s := { s with pkg := { s.pkg with throttleN := high } }
  if diesRun s then retarget (fillDies s) else s

def execPkgThrottleNFall (s : State) : Result := .next (throttleS false s)

def execPkgThrottleNRise (s : State) : Result := .next (throttleS true s)

/-- CCLK_CHANGE_DONE: die d runs at its target (R583). -/
def cclkChangeDoneS (d : Nat) (s : State) : State :=
  let c := dieClock s d
  if c.changing then setDie d { c with cclk := targetMhz s c, changing := false } s else s

def execCclkChangeDone (d : Nat) (s : State) : Result := onUnit (d < nDies s) (cclkChangeDoneS d s)

-- Test access (R579).

/-- Whether an instruction of the table acts: its condition holds. -/
def jtagActs (s : State) : JtagInstr → Bool
  | .bypass | .idcode | .samplePreload => true
  | .extest | .clamp | .highz | .extestPulse | .extestTrain => !s.pkg.rstN
  | .privateDebug => !s.fuse.dbgLockBlown
  | .other => false

/-- The instruction in force: the one loaded where it acts, BYPASS elsewhere, counted for instructions of the table. -/
def jtagS (i : JtagInstr) (s : State) : State :=
  if jtagActs s i then { s with pkg := { s.pkg with jtag := i } }
  else
    let s := { s with pkg := { s.pkg with jtag := .bypass } }
    if i = .other then s else bump Cnt.pkgJtagBlock 0 1 s

/-- JTAG_INSTRUCTION. In OFF the port has no supply. A private debug instruction on a part whose DBG_LOCK fuse is intact
is refused: R579 gives it no effect. -/
def execJtagInstruction (i : JtagInstr) (s : State) : Result :=
  if s.dev = .off then .next s
  else if i = .privateDebug ∧ !s.fuse.dbgLockBlown then .refused .privateDebug
  else .next (jtagS i s)

/-- IDCODE of the part (R579). -/
def idcode (s : State) : Nat := 0x1C000A6B + codeByte s.fuse.code * 65536

-- The power commands (R584, R585, R588).

/-- The ceiling that sets a die's CCLK: 0 none, 1 thermal, 2 power or current, 3 external; the lower number on a tie. -/
def cclkCause (s : State) (c : DieClock) : Nat :=
  let t := targetMhz s c
  if t = 700 then 0 else if thermalMhz c.step = t then 1 else if s.pkg.pwrCeil = t then 2 else 3

/-- CMD_PKG_POWER_STATUS. -/
def powerStatus (_ : List Byte) (s : State) : Completion :=
  okWith (pack 24 [(0, 32, s.pkg.vinMv), (32, 32, s.pkg.iinMa), (64, 32, s.pkg.p10Mw), (96, 16, s.pkg.plW),
    (112, 8, s.pkg.tjThr), (128, 16, s.pkg.pwrCeil), (144, 1, bit !s.pkg.throttleN)])

def execCmdPkgPowerStatus (src : CmdSrc) (s : State) : Result := .next (performQuery 0x1100 src powerStatus s)

/-- The smallest PL of a code in watts (R584). -/
def codeMinW : Code → Nat
  | .cx8a => 1200
  | .cx4a => 620
  | .cx2a => 320

/-- CMD_PKG_POWER_LIMIT (R584): a PL or a TJ_THR of 0 leaves that value. -/
def powerLimit (p : List Byte) (s : State) : State × Completion :=
  let pl := field p 0 16
  let tj := field p 16 8
  if field p 24 40 ≠ 0 ∨ (pl ≠ 0 ∧ (pl < codeMinW s.fuse.code ∨ codeMaxW s.fuse.code < pl))
      ∨ (tj ≠ 0 ∧ (tj < 85 ∨ 100 < tj)) then (s, failWith St.badParam 0)
  else
    (raise Ev.pkgPwrLimit 0 [] { s with pkg := { s.pkg with
        plW := if pl = 0 then s.pkg.plW else pl, tjThr := if tj = 0 then s.pkg.tjThr else tj } }, okWith [])

def execCmdPkgPowerLimit (src : CmdSrc) (s : State) : Result := .next (performNow 0x1101 src powerLimit s)

/-- CMD_PKG_THERMAL_STATUS: 8 bytes per populated die. -/
def thermalStatus (_ : List Byte) (s : State) : Completion :=
  okWith (((List.range (nDies s)).map (fun d =>
    let c := dieClock s d
    pack 8 [(0, 16, ofSigned 16 c.temp), (16, 2, c.step), (24, 16, c.cclk), (40, 2, cclkCause s c)])).flatten)

def execCmdPkgThermalStatus (src : CmdSrc) (s : State) : Result := .next (performQuery 0x1102 src thermalStatus s)

end Sys2Proof.Machine
end

