-- ==== Sys2Proof/Machine/Meter.lean ====
section
/-! DEFINITION. The meter die, its port, its reports over the one-way bridge, and D0's bridge window (R40, R41, R538 to R553),
and VAUX, which powers it (R540, R573). -/

namespace Sys2Proof.Machine

/-- A change of the meter die. -/
def onMeter (f : Meter → Meter) (s : State) : State :=
  if s.meter.powered then { s with meter := f s.meter } else s

-- The audit trail (R548, R549).

/-- Bytes 0 to 47 of an audit entry. -/
def auditHeadBytes (seq ms kind : Nat) (data : List Byte) : List Byte :=
  toLE 8 seq ++ toLE 8 ms ++ toLE 8 kind ++ (padTo 24 data).take 24

/-- The 64 bytes of an audit entry. -/
def auditBytes (e : AuditEntry) : List Byte := auditHeadBytes e.seq e.ms e.kind e.data ++ e.chain

/-- The kinds that a full trail overwrites first. -/
def auditSoft (kind : Nat) : Bool := 4 ≤ kind && kind ≤ 7

/-- The kinds that a full trail without those overwrites within their own kind. -/
def auditOwn (kind : Nat) : Bool := kind == 1 || kind == 2 || kind == 8 || kind == 9

/-- The trail holds 16,384 entries. -/
def auditCap : Nat := 16384

/-- The trail with a new entry, under R549. -/
def auditInsert (l : List AuditEntry) (e : AuditEntry) : List AuditEntry :=
  if l.length < auditCap then l ++ [e]
  else
    match takeFirst (fun x => auditSoft x.kind) l with
    | some (_, rest) => rest ++ [e]
    | none =>
      if auditOwn e.kind then
        match takeFirst (fun x => x.kind == e.kind) l with
        | some (_, rest) => rest ++ [e]
        | none => l
      else l

/-- The trail is full and holds nothing that a parameter load may overwrite (R549). -/
def auditFull (m : Meter) : Bool := auditCap ≤ m.audit.length && !m.audit.any (fun e => auditSoft e.kind)

/-- An audit entry is written: number, time, data and the hash chain go on (R548). -/
def audit (kind : Nat) (data : List Byte) (m : Meter) : Meter :=
  let seq := m.regs.auditSeq + 1
  let chain := (sha512 (m.regs.auditHead ++ auditHeadBytes seq m.regs.ms kind data)).take 16
  let e : AuditEntry := { seq := seq, ms := m.regs.ms, kind := kind, data := (padTo 24 data).take 24, chain := chain }
  { m with
    regs := { m.regs with auditSeq := seq, auditHead := chain }
    audit := auditInsert m.audit e
    auditOut := m.auditOut ++ [e] }

/-- DATA of an entry whose kind has no other: ENERGY, then zeros. -/
def energyData (m : Meter) : List Byte := toLE 8 m.regs.energy

-- Reports (R550, R551).

/-- PARAM_DIGEST: the first 32 bytes of the SHA-512 of the parameter set. -/
def paramDigest (m : Meter) : List Byte := (sha512 m.param.bytes).take 32

/-- FLAGS of a report. -/
def reportFlags (m : Meter) (final : Bool) : Nat :=
  bitmap [m.sealOpen, m.regs.account.isSome && !final, m.overrange, m.selfFail, final, m.challenge.isSome, m.powerUp]

/-- The 256-byte body of the report of account `acc`, with REPORT_SEQ `seq`. -/
def reportBody (m : Meter) (seq : Nat) (acc : Option Account) (final : Bool) : List Byte :=
  let avg : Nat → Nat := fun x => if m.intN = 0 then 0 else x / m.intN
  let iAvg : Int := if m.intN = 0 then 0 else m.intSumI / m.intN
  let (aId, aE, aMs, aP) := match acc with
    | some a => (a.id, a.energy, m.regs.ms - a.startMs, a.pMax)
    | none => (0, 0, 0, 0)
  pack 96 [(0, 16, 1), (16, 16, reportFlags m final), (64, 64, seq), (128, 64, m.regs.ms), (192, 64, m.serial.toNat),
    (256, 64, m.regs.energy), (320, 32, avg m.intSumV), (352, 32, ofSigned 32 iAvg), (384, 32, m.intPMax),
    (416, 32, m.regs.ms - m.intStartMs), (448, 64, aId), (512, 64, aE), (576, 64, aMs), (640, 32, aP),
    (672, 32, m.regs.accountSeq), (704, 32, m.regs.sealEvents), (736, 32, m.regs.auditSeq)]
  ++ padTo 16 m.regs.auditHead ++ toLE 4 m.param.version ++ toLE 4 m.fwId ++ paramDigest m
  ++ (match m.challenge with
      | some c => padTo 16 c
      | none => zeros 16)
  ++ toLE 8 (m.regs.energy / 360000) ++ zeros 80

/-- A report is signed with the meter key and sent over the bridge; a new interval begins (R550, R551). -/
def report (acc : Option Account) (final : Bool) (m : Meter) : Meter :=
  let seq := m.regs.reportSeq + 1
  let body := reportBody m seq acc final
  let bytes := body ++ edSign m.secret body
  { m with
    regs := { m.regs with reportSeq := seq }
    intSumV := 0, intSumI := 0, intN := 0, intPMax := 0, intStartMs := m.regs.ms
    overrange := false, challenge := none, powerUp := false, lastReport := bytes
    bridge := m.bridge ++ [(bytes, m.auditOut)]
    auditOut := [] }

/-- A report outside an account's close. -/
def reportNow (m : Meter) : Meter := report m.regs.account false m

-- Sampling (R538 to R543).

/-- The power of a sample in microwatts; power that does not flow into the package adds nothing. -/
def sampleUw (mv : Nat) (ma : Int) : Nat := mv * ma.toNat

/-- A sample outside the range of R539. -/
def outOfRange (mv : Nat) (ma : Int) : Bool := mv < 11000 || 13200 < mv || 400000 < ma

/-- The time of one sample: 4 us of the meter's oscillator (R538, R540). -/
def sampleTime (m : Meter) : Meter :=
  if 996 ≤ m.usFrac then { m with usFrac := m.usFrac + 4 - 1000, regs := { m.regs with ms := m.regs.ms + 1 } }
  else { m with usFrac := m.usFrac + 4 }

/-- Energy of one sample: picojoules gather in `frac` until they make millijoules; the open account gets each of them
(R538, R542, R543), and a crossing of a multiple of 360,000 mJ starts a pulse (R541). -/
def sampleEnergy (uw : Nat) (m : Meter) : Meter :=
  if m.selfFail then m
  else
    let pj := m.frac + 4 * uw
    let mj := pj / 1000000000
    let e := m.regs.energy + mj
    { m with
      frac := pj % 1000000000
      pulseLow := m.pulseLow || e / 360000 != m.regs.energy / 360000
      regs := { m.regs with
        energy := e
        account := m.regs.account.map (fun a => { a with energy := a.energy + mj }) } }

/-- Interval sums and the 1 ms windows of the largest power (R542, R550). -/
def sampleInterval (mv : Nat) (ma : Int) (uw : Nat) (m : Meter) : Meter :=
  let m := { m with intSumV := m.intSumV + mv, intSumI := m.intSumI + ma, intN := m.intN + 1 }
  if m.winN + 1 < 250 then { m with winSum := m.winSum + uw, winN := m.winN + 1 }
  else
    let p := (m.winSum + uw) / 250 / 1000
    { m with
      winSum := 0, winN := 0, intPMax := Nat.max m.intPMax p
      regs := { m.regs with account := m.regs.account.map (fun a => { a with pMax := Nat.max a.pMax p }) } }

/-- METER_SAMPLE. -/
def meterSampleM (mv : Nat) (ma : Int) (m : Meter) : Meter :=
  let uw := sampleUw mv ma
  let out := outOfRange mv ma
  let m := sampleInterval mv ma uw (sampleEnergy uw (sampleTime m))
  let m := if out && !m.overNow then audit 8 (energyData m) m else m
  { m with overNow := out, overrange := m.overrange || out }

def execMeterSample (mv : Nat) (ma : Int) (s : State) : Result := .next (onMeter (meterSampleM mv ma) s)

/-- METER_PULSE_END: MTR_PULSE is released 5 ms after a pulse began (R541). -/
def execMeterPulseEnd (s : State) : Result := .next (onMeter (fun m => { m with pulseLow := false }) s)

/-- METER_COMMIT: the registers go to non-volatile memory (R540). -/
def execMeterCommit (s : State) : Result := .next (onMeter (fun m => { m with nv := m.regs }) s)

/-- METER_REPORT_TIMER: METER_MS reaches its next multiple of 1,000 and a report is issued (R551). -/
def reportTimerM (m : Meter) : Meter :=
  let ms := m.regs.ms
  let t := if ms % 1000 = 0 ∧ ms ≠ m.lastTimerMs then ms else (ms / 1000 + 1) * 1000
  let m := if t = ms then m else { m with usFrac := 0, regs := { m.regs with ms := t } }
  reportNow { m with lastTimerMs := t }

def execMeterReportTimer (s : State) : Result := .next (onMeter reportTimerM s)

/-- SEAL_CHANGE: the loop opens or closes; an audit entry and a report (R544, R551). -/
def sealChangeM (m : Meter) : Meter :=
  if m.sealOpen then reportNow (audit 2 (energyData m) { m with sealOpen := false })
  else
    let m := { m with sealOpen := true, regs := { m.regs with sealEvents := m.regs.sealEvents + 1 } }
    reportNow (audit 1 (energyData m) m)

def execSealChange (s : State) : Result := .next (onMeter sealChangeM s)

-- The meter port (R547).

/-- The port answers a status and, after status 0, the result. -/
def answer (status : Nat) (bytes : List Byte) (m : Meter) : Meter :=
  { m with portOut := m.portOut ++ [(status, bytes)] }

/-- READ_REPORT: the newest report. -/
def execReadReport (s : State) : Result := .next (onMeter (fun m => answer 0 m.lastReport m) s)

/-- CHALLENGE: the next report, issued at once, carries the 16 bytes. -/
def challengeM (b : List Byte) (m : Meter) : Meter :=
  if b.length ≠ 16 then answer 1 [] m else answer 0 [] (reportNow { m with challenge := some b })

def execChallenge (bytes : List Byte) (s : State) : Result := .next (onMeter (challengeM bytes) s)

/-- READ_AUDIT: an entry still held. -/
def readAuditM (seq : Nat) (m : Meter) : Meter :=
  match m.audit.find? (fun e => e.seq == seq) with
  | some e => answer 0 (auditBytes e) m
  | none => answer 1 [] m

def execReadAudit (seq : Nat) (s : State) : Result := .next (onMeter (readAuditM seq) s)

/-- DATA of KIND 4 and 5: ACCOUNT_ID, ACCOUNT_ENERGY, ACCOUNT_SEQ. -/
def accountData (m : Meter) (a : Account) : List Byte := toLE 8 a.id ++ toLE 8 a.energy ++ toLE 8 m.regs.accountSeq

/-- The open account closes: an audit entry and the FINAL report with its totals (R542). -/
def closeAccount (a : Account) (m : Meter) : Meter :=
  let m := report (some a) true (audit 5 (accountData m a) m)
  { m with regs := { m.regs with account := none } }

/-- ACCOUNT_OPEN closes any open account and opens a new one (R542). -/
def accountOpenM (id : Nat) (m : Meter) : Meter :=
  let m := match m.regs.account with
    | some a => closeAccount a m
    | none => m
  let a : Account := { id := id, energy := 0, startMs := m.regs.ms, pMax := 0 }
  let m := { m with regs := { m.regs with account := some a, accountSeq := m.regs.accountSeq + 1 } }
  let m := reportNow (audit 4 (accountData m a) m)
  answer 0 m.lastReport m

def execAccountOpen (id : Nat) (s : State) : Result := .next (onMeter (accountOpenM id) s)

/-- ACCOUNT_CLOSE: the FINAL report, or status 1 without an open account. -/
def accountCloseM (m : Meter) : Meter :=
  match m.regs.account with
  | some a =>
    let m := closeAccount a m
    answer 0 m.lastReport m
  | none => answer 1 [] m

def execAccountClose (s : State) : Result := .next (onMeter accountCloseM s)

/-- READ_ID. -/
def readIdM (m : Meter) : Meter :=
  answer 0 (toLE 4 m.fwId ++ padTo 64 m.romDigest ++ toLE 4 m.param.version ++ paramDigest m ++ edPublic m.secret
    ++ toLE 8 m.serial.toNat) m

def execReadId (s : State) : Result := .next (onMeter readIdM s)

/-- The signature of a parameter set: its last 64 bytes, over what precedes them (assumption log 12). -/
def paramSigned (key b : List Byte) : Bool := edVerify key (b.take (b.length - 64)) (b.drop (b.length - 64))

/-- PARAM_LOAD: whole, with the seal loop open, its signature verified, and room in the trail (R545, R547, R549). -/
def paramLoadM (b : List Byte) (m : Meter) : Meter :=
  if b.isEmpty ∨ b.length % 256 ≠ 0 then answer 1 [] m
  else if !m.sealOpen then answer 2 [] m
  else if !paramSigned m.metrologyKey b then answer 3 [] m
  else if auditFull m then answer 4 [] m
  else
    let v := Sys2Proof.Config.paramVersion b % 2 ^ 32
    let old := m.param.version
    let m := { m with param := { factory := false, version := v, bytes := b } }
    answer 0 [] (audit 3 (toLE 4 old ++ toLE 4 v ++ (paramDigest m).take 16) m)

def execParamLoad (blocks : List Byte) (s : State) : Result := .next (onMeter (paramLoadM blocks) s)

/-- METER_BAD_COMMAND: a command byte that is none of the seven returns status 1. -/
def badCommandM (byte : Nat) (m : Meter) : Meter := if 1 ≤ byte ∧ byte ≤ 7 then m else answer 1 [] m

def execMeterBadCommand (byte : Nat) (s : State) : Result := .next (onMeter (badCommandM byte) s)

-- VAUX (R540, R545, R573).

/-- The meter at VAUX power-up: the committed registers, the self-check, audit entries and a report (R540, R545, R551). -/
def meterPowerUp (romOk : Bool) (m : Meter) : Meter :=
  let ok := romOk && (m.param.factory || paramSigned m.metrologyKey m.param.bytes)
  let m := { m with
    powered := true, regs := m.nv, usFrac := 0, winSum := 0, winN := 0, intSumV := 0, intSumI := 0, intN := 0,
    intPMax := 0, intStartMs := m.nv.ms, overrange := false, overNow := false, selfFail := !ok, powerUp := true,
    challenge := none, pulseLow := false }
  let m := audit 6 (energyData m) m
  let m := if ok then m else audit 9 (energyData m) m
  reportNow m

/-- VAUX_APPLIED: the device is in STANDBY from the moment VAUX is in range (R573); PKG_THERMTRIP_N is released (R582). -/
def vauxAppliedS (romOk : Bool) (s : State) : State :=
  if s.pkg.vaux then s
  else { s with
    dev := .standby
    stateSeq := 0
    pkg := { s.pkg with vaux := true, thermtrip := false, jtag := .idcode }
    meter := meterPowerUp romOk s.meter }

def execVauxApplied (romOk : Bool) (s : State) : Result := .next (vauxAppliedS romOk s)

/-- The meter at a loss of VAUX: a last entry and a commit from its hold-up supply (R540, R548). -/
def meterPowerDown (m : Meter) : Meter :=
  let m := audit 7 (energyData m) m
  { m with nv := m.regs, powered := false, bridge := [], portOut := m.portOut }

/-- VAUX_LOSS: OFF. The flash and the meter's non-volatile memory keep their contents (R5); the VAUX domain of D0 with
its bridge window and latches does not. -/
def vauxLossS (s : State) : State :=
  if !s.pkg.vaux then s
  else
    let s := holdReset s
    { s with
      dev := .off
      win := resetWindow
      pkg := { s.pkg with vaux := false, latched := [] }
      meter := meterPowerDown s.meter }

def execVauxLoss (s : State) : Result := .next (vauxLossS s)

-- The bridge window (R41, R552, R553).

/-- BRIDGE_WINDOW_WRITE: discarded and counted (R41). -/
def bridgeWriteS (s : State) : State := if diesRun s then bump Cnt.pkgMtrBridgeWr 0 1 s else s

def execBridgeWindowWrite (offset : Nat) (data : List Byte) (s : State) : Result :=
  if offset + data.length ≤ 65536 then .next (bridgeWriteS s) else .next s

/-- The report and its slot after RX (R552). -/
def storeReport (bytes : List Byte) (entries : List AuditEntry) (ok : Bool) (s : State) : State :=
  let w := s.win
  let i := if w.filled = 0 then 0 else (w.newest + 1) % 64
  { s with win := { w with
      gen := w.gen + 2
      newest := i
      filled := Nat.min 64 (w.filled + 1)
      slots := mapSet w.slots i { report := bytes, rxTime := s.now, sigOk := ok }
      audit := entries.foldl (fun a e => mapSet a (e.seq % 256) e) w.audit
      lastRx := s.now } }

/-- What the flags of a received report raise (R569). -/
def reportEvents (bytes : List Byte) (s : State) : State :=
  let open_ := flag bytes 16
  let fail := flag bytes 19
  let s := if open_ = s.win.sealSeen then s
    else raise Ev.mtrSeal 0 (toLE 4 (bit open_) ++ slice bytes 88 4) { s with win := { s.win with sealSeen := open_ } }
  if fail && !s.win.failSeen then raise Ev.mtrSelfcheck 0 [] { s with win := { s.win with failSeen := true } } else s

/-- METER_REPORT_RX: the bridge logic stores the oldest report, D0 verifies it (R552, R553). -/
def reportRxS (damaged : Option (List Byte)) (s : State) : State :=
  match s.meter.bridge with
  | [] => s
  | (sent, entries) :: rest =>
    let bytes := match damaged with
      | some b => (padTo 320 b).take 320
      | none => sent
    let ok := edVerify (edPublic s.meter.secret) (bytes.take 256) (bytes.drop 256)
    let s := storeReport bytes entries ok { s with meter := { s.meter with bridge := rest } }
    if diesRun s then
      let s := bump Cnt.mtrReportRx 0 1 s
      let s := if ok then s else raise Ev.mtrSigFail 0 [] (bump Cnt.mtrSigFail 0 1 s)
      pkgEvt 2 (reportEvents bytes s)
    else s

def execMeterReportRx (damaged : Option (List Byte)) (s : State) : Result := .next (reportRxS damaged s)

/-- METER_STALE_TIMEOUT: 5 s without a report (R553). -/
def staleS (s : State) : State :=
  if diesRun s then
    let s := reachTime (s.win.lastRx + 5000000000) s
    raise Ev.mtrStale 0 [] (bump Cnt.mtrStale 0 1 { s with win := { s.win with lastRx := s.now } })
  else s

def execMeterStaleTimeout (s : State) : Result := .next (staleS s)

/-- Bytes 0 to 511 of report slot i (R552). -/
def slotBytes (w : BridgeWindow) (i : Nat) : List Byte :=
  match mapGet w.slots i with
  | some r => padTo 320 r.report ++ toLE 8 r.rxTime ++ toLE 8 (bit r.sigOk) ++ zeros 176
  | none => zeros 512

/-- AUDIT_SEQ of the newest entry held. -/
def newestAudit (w : BridgeWindow) : Nat := w.audit.foldl (fun m e => Nat.max m e.2.seq) 0

/-- The byte at window offset `o` (R552). -/
def winByte (w : BridgeWindow) (o : Nat) : Byte :=
  if o < 0x400 then (toLE 8 w.gen ++ toLE 8 w.newest ++ toLE 8 (newestAudit w)).getD o 0
  else if o < 0x400 + 512 * 64 then (slotBytes w ((o - 0x400) / 512)).getD ((o - 0x400) % 512) 0
  else if o < 0xC000 then 0
  else if o < 0xC000 + 64 * 256 then
    match mapGet w.audit ((o - 0xC000) / 64) with
    | some e => (auditBytes e).getD ((o - 0xC000) % 64) 0
    | none => 0
  else 0

/-- `n` bytes of the window from offset `o`. -/
def winRead (w : BridgeWindow) (o n : Nat) : List Byte := (List.range n).map (fun i => winByte w (o + i))

-- The commands (R565, R566).

/-- CMD_MTR_REPORT_READ: the newest COUNT report slots that hold a report, newest first. -/
def mtrReportRead (p : List Byte) (s : State) : Completion :=
  let n := field p 0 8
  if n = 0 ∨ 64 < n then failWith St.badParam 0
  else
    let w := s.win
    okWith (((List.range (Nat.min n w.filled)).map (fun k => slotBytes w ((w.newest + 64 - k) % 64))).flatten)

def execCmdMtrReportRead (src : CmdSrc) (s : State) : Result := .next (performQuery 0x1000 src mtrReportRead s)

/-- CMD_MTR_AUDIT_READ: the entries held in the window from FIRST_SEQ, ascending. -/
def mtrAuditRead (p : List Byte) (s : State) : Completion :=
  let n := field p 64 16
  if n = 0 ∨ 256 < n then failWith St.badParam 0
  else
    let es := (s.win.audit.map (fun e => e.2)).filter (fun e => field p 0 64 ≤ e.seq)
    okWith ((((sortBy (fun a b => a.seq ≤ b.seq) es).take n).map auditBytes).flatten)

def execCmdMtrAuditRead (src : CmdSrc) (s : State) : Result := .next (performQuery 0x1001 src mtrAuditRead s)

end Sys2Proof.Machine
end

