-- ==== Sys2Proof/Machine/Fp.lean ====
section
/-! DEFINITION. Floating-point arithmetic on exact values (R240, R242, R259, R260): a word is decoded to an exact dyadic
value, the operation is exact (or carries a sticky bit), and the result is rounded once. -/

namespace Sys2Proof.Machine

/-- An exact value: NaN, an infinity, or mantissa times two to the exponent, with a sign (which zeros keep). -/
inductive Val where
  | nan
  | inf (neg : Bool)
  | fin (neg : Bool) (m : Nat) (e : Int)
  deriving DecidableEq, Repr

/-- The number of bits of `n`. -/
def bitLen (n : Nat) : Nat := if n = 0 then 0 else Nat.log2 n + 1

/-- `m` times two to the `e`, cut to the grid of `p` significant bits whose finest step is two to the `qmin`: the kept
part, its exponent, the dropped part and its width. -/
def cutGrid (p : Nat) (qmin : Int) (m : Nat) (e : Int) : Nat × Int × Nat × Nat :=
  let q0 : Int := e + (bitLen m : Int) - (p : Int)
  let q : Int := if q0 < qmin then qmin else q0
  if q ≤ e then (m <<< (e - q).toNat, q, 0, 0)
  else
    let d := (q - e).toNat
    (m >>> d, q, m % 2 ^ d, d)

/-- Round to nearest, ties to even: whether the kept part goes up. -/
def rneUp (hi rem d : Nat) : Bool :=
  if d = 0 then false else
    let half := 2 ^ (d - 1)
    half < rem || (rem == half && hi % 2 == 1)

/-- The first 32 dropped bits (R252). -/
def dropped32 (rem d : Nat) : Nat := rem * 2 ^ 32 / 2 ^ d

/-- Whether the kept part goes up: to nearest, or with random word `u` (R246, R252). -/
def goesUp (u : Option Nat) (hi rem d : Nat) : Bool :=
  match u with
  | none => rneUp hi rem d
  | some u => 2 ^ 32 ≤ dropped32 rem d + u

/-- A finite value rounded to the grid of an exponent of `eb` bits and a fraction of `mb` bits: fraction with its hidden
bit, and exponent. -/
def roundGrid (eb mb : Nat) (u : Option Nat) (m : Nat) (e : Int) : Nat × Int :=
  let bias : Int := 2 ^ (eb - 1) - 1
  let c := cutGrid (mb + 1) (1 - bias - mb) m e
  let hi := if goesUp u c.1 c.2.2.1 c.2.2.2 then c.1 + 1 else c.1
  if 2 ^ (mb + 1) ≤ hi then (hi / 2, c.2.1 + 1) else (hi, c.2.1)

/-- The word of a format with IEEE 754 infinities, rounded as said; NaN is the canonical one (R242). -/
def encIeee (eb mb : Nat) (u : Option Nat) (v : Val) : Nat :=
  let top := 2 ^ eb - 1
  match v with
  | .nan => top <<< mb ||| 2 ^ (mb - 1)
  | .inf neg => (bit neg) <<< (eb + mb) ||| top <<< mb
  | .fin neg m e =>
    let s := (bit neg) <<< (eb + mb)
    let r := roundGrid eb mb u m e
    if r.1 < 2 ^ mb then s ||| r.1
    else
      let f : Int := r.2 + mb + (2 ^ (eb - 1) - 1)
      if (top : Int) ≤ f then s ||| top <<< mb else s ||| f.toNat <<< mb ||| (r.1 - 2 ^ mb)

/-- The value of a word of a format with IEEE 754 infinities and NaNs (R240). -/
def decIeee (eb mb : Nat) (w : Nat) : Val :=
  let neg := w.testBit (eb + mb)
  let f := (w >>> mb) % 2 ^ eb
  let frac := w % 2 ^ mb
  let bias : Int := 2 ^ (eb - 1) - 1
  if f = 2 ^ eb - 1 then (if frac = 0 then .inf neg else .nan)
  else if f = 0 then .fin neg frac (1 - bias - mb)
  else .fin neg (2 ^ mb + frac) (f - bias - mb)

/-- The value of an FP32 word. -/
def val32 (w : W32) : Val := decIeee 8 23 w.toNat

/-- An exact value rounded to FP32, to nearest, ties to even. -/
def round32 (v : Val) : W32 := BitVec.ofNat 32 (encIeee 8 23 none v)

/-- The value of an FP64 word. -/
def val64 (w : W64) : Val := decIeee 11 52 w.toNat

/-- An exact value rounded to FP64. -/
def round64 (v : Val) : W64 := BitVec.ofNat 64 (encIeee 11 52 none v)

/-- A signed mantissa. -/
def sgn (neg : Bool) (m : Nat) : Int := if neg then -(m : Int) else m

/-- The value of a signed mantissa; an exact zero is +0 (R259). -/
def ofInt (i : Int) (e : Int) : Val := .fin (i < 0) i.natAbs e

/-- The exact sum. The sum of two zeros is -0 only for two -0 (R259). -/
def addVal : Val → Val → Val
  | .nan, _ => .nan
  | _, .nan => .nan
  | .inf a, .inf b => if a = b then .inf a else .nan
  | .inf a, _ => .inf a
  | _, .inf b => .inf b
  | .fin n1 m1 e1, .fin n2 m2 e2 =>
    if m1 = 0 ∧ m2 = 0 then .fin (n1 && n2) 0 e1
    else
      let e := if e1 < e2 then e1 else e2
      ofInt (sgn n1 (m1 <<< (e1 - e).toNat) + sgn n2 (m2 <<< (e2 - e).toNat)) e

/-- The value with its sign turned. -/
def negVal : Val → Val
  | .nan => .nan
  | .inf a => .inf (!a)
  | .fin n m e => .fin (!n) m e

/-- The exact product. -/
def mulVal : Val → Val → Val
  | .nan, _ => .nan
  | _, .nan => .nan
  | .inf a, .inf b => .inf (a != b)
  | .inf a, .fin n m _ => if m = 0 then .nan else .inf (a != n)
  | .fin n m _, .inf a => if m = 0 then .nan else .inf (a != n)
  | .fin n1 m1 e1, .fin n2 m2 e2 => .fin (n1 != n2) (m1 * m2) (e1 + e2)

/-- The quotient to 200 bits past the point, with a sticky bit below: enough for one correct rounding. -/
def divVal : Val → Val → Val
  | .nan, _ => .nan
  | _, .nan => .nan
  | .inf _, .inf _ => .nan
  | .inf a, .fin n _ _ => .inf (a != n)
  | .fin n _ _, .inf a => .fin (n != a) 0 0
  | .fin n1 m1 e1, .fin n2 m2 e2 =>
    if m2 = 0 then (if m1 = 0 then .nan else .inf (n1 != n2))
    else
      let a := m1 <<< 200
      .fin (n1 != n2) (2 * (a / m2) + bit (a % m2 != 0)) (e1 - e2 - 201)

/-- The integer square root, bit by bit from bit `k`. -/
def isqrtFrom (n : Nat) : Nat → Nat → Nat
  | 0, r => r
  | k + 1, r =>
    let t := r + 2 ^ k
    isqrtFrom n k (if t * t ≤ n then t else r)

/-- The integer square root. -/
def isqrt (n : Nat) : Nat := isqrtFrom n (bitLen n / 2 + 1) 0

/-- The square root to 100 bits past the mantissa, with a sticky bit below. -/
def sqrtVal : Val → Val
  | .nan => .nan
  | .inf neg => if neg then .nan else .inf false
  | .fin neg m e =>
    if m = 0 then .fin neg 0 0
    else if neg then .nan
    else
      let odd := e % 2 == 1
      let m' := (if odd then 2 * m else m) <<< 200
      let e' : Int := (if odd then e - 1 else e) - 200
      let r := isqrt m'
      .fin false (2 * r + bit (r * r != m')) (e' / 2 - 1)

/-- `a < b` as ordered numbers; false when either is a NaN (R260). -/
def ltVal (a b : Val) : Bool :=
  match a, b with
  | .nan, _ => false
  | _, .nan => false
  | .inf n, .inf k => n && !k
  | .inf n, .fin _ _ _ => n
  | .fin _ _ _, .inf n => !n
  | .fin n1 m1 e1, .fin n2 m2 e2 =>
    let e := if e1 < e2 then e1 else e2
    sgn n1 (m1 <<< (e1 - e).toNat) < sgn n2 (m2 <<< (e2 - e).toNat)

/-- The value is a NaN. -/
def isNan : Val → Bool
  | .nan => true
  | _ => false

/-- The value is finite. -/
def isFin : Val → Bool
  | .fin _ _ _ => true
  | _ => false

/-- The value is a zero. -/
def isZero : Val → Bool
  | .fin _ m _ => m == 0
  | _ => false

/-- The sign of a value. -/
def isNeg : Val → Bool
  | .nan => false
  | .inf n => n
  | .fin n _ _ => n

/-- `a = b` as ordered numbers. -/
def eqVal (a b : Val) : Bool := !isNan a && !isNan b && !ltVal a b && !ltVal b a

/-- `a <= b` as ordered numbers. -/
def leVal (a b : Val) : Bool := !isNan a && !isNan b && !ltVal b a

-- FP32 operations (R259, R260).

def add32 (a b : W32) : W32 := round32 (addVal (val32 a) (val32 b))
def sub32 (a b : W32) : W32 := round32 (addVal (val32 a) (negVal (val32 b)))
def mul32 (a b : W32) : W32 := round32 (mulVal (val32 a) (val32 b))
def div32 (a b : W32) : W32 := round32 (divVal (val32 a) (val32 b))
def sqrt32 (a : W32) : W32 := round32 (sqrtVal (val32 a))

/-- The canonical quiet NaN of FP32 (R242). -/
def nan32 : W32 := 0x7FC00000

/-- The word with every NaN canonical (R242). -/
def quiet32 (a : W32) : W32 := if isNan (val32 a) then nan32 else a

/-- maximumNumber (R260): the other operand for a NaN; -0 below +0. -/
def max32 (a b : W32) : W32 :=
  let x := val32 a
  let y := val32 b
  if isNan x then quiet32 b
  else if isNan y then a
  else if ltVal x y || (isZero x && isZero y && isNeg x) then b else a

/-- minimumNumber (R260). -/
def min32 (a b : W32) : W32 :=
  let x := val32 a
  let y := val32 b
  if isNan x then quiet32 b
  else if isNan y then a
  else if ltVal y x || (isZero x && isZero y && isNeg y) then b else a

/-- An FP32 word is a NaN or an infinity. -/
def nonfinite32 (a : W32) : Bool := !isFin (val32 a)

-- FP64 operations.

def add64 (a b : W64) : W64 := round64 (addVal (val64 a) (val64 b))
def div64 (a b : W64) : W64 := round64 (divVal (val64 a) (val64 b))
def sqrt64 (a : W64) : W64 := round64 (sqrtVal (val64 a))

/-- The FP32 words of a list of bytes, little-endian (R6). -/
def words32 : List Byte → List W32
  | a :: b :: c :: d :: l => BitVec.ofNat 32 (leNat [a, b, c, d]) :: words32 l
  | _ => []

/-- The bytes of FP32 words (R6). -/
def bytes32 (l : List W32) : List Byte := l.flatMap (fun w => toLE 4 w.toNat)

/-- The FP32 word of a natural number. -/
def nat32 (n : Nat) : W32 := round32 (.fin false n 0)

/-- A value converted with a random word to a format with infinities: within range a carry out of the largest finite value
gives that value; beyond it there is no draw (R248, R252). -/
def encStoch (eb mb : Nat) (u : Option Nat) (v : Val) : Nat :=
  let big := (2 ^ eb - 1) <<< mb
  let top := decIeee eb mb (big - 1)
  let r := encIeee eb mb u v
  if u.isSome && isFin v && !(ltVal top v || ltVal v (negVal top)) && big ≤ r % 2 ^ (eb + mb)
  then (bit (isNeg v)) <<< (eb + mb) ||| (big - 1)
  else if u.isSome && (ltVal top v || ltVal v (negVal top)) then encIeee eb mb none v
  else r

/-- The elements of 16 or 32 bits of a storage format (13 FP32, 0 BF16, 1 FP16) as FP32 words, exactly (R239, R240). -/
def decElem (fmt : Nat) (w : Nat) : W32 :=
  match fmt with
  | 0 => round32 (decIeee 8 7 w)
  | 1 => round32 (decIeee 5 10 w)
  | _ => BitVec.ofNat 32 w

/-- Bytes of an element in one of those formats. -/
def elemBytes (fmt : Nat) : Nat := if fmt = 13 then 4 else 2

/-- An FP32 word converted to one of those formats, to nearest or with a random word (R246, R252). -/
def encElem (fmt : Nat) (u : Option Nat) (w : W32) : Nat :=
  match fmt with
  | 0 => encStoch 8 7 u (val32 w)
  | 1 => encStoch 5 10 u (val32 w)
  | _ => (quiet32 w).toNat

/-- Every group of `k` bytes of a list as a number. -/
def groupsOf (k : Nat) : Nat → List Byte → List Nat
  | 0, _ => []
  | n + 1, b => leNat (b.take k) :: groupsOf k n (b.drop k)

end Sys2Proof.Machine
end

