-- ==== Sys2Proof/Machine/Couplings.lean ====
section
/-! DEFINITION. The couplings between dies (R23 to R29): which of them a transfer passes, and when it must wait. -/

namespace Sys2Proof.Machine

/-- Column and row of a die (R23). -/
def dieCol (d : Nat) : Nat := ([0, 1, 0, 1, 2, 3, 2, 3][d]?).getD 0

/-- See dieCol. -/
def dieRow (d : Nat) : Nat := ([0, 0, 1, 1, 0, 0, 1, 1][d]?).getD 0

/-- The coupling between the two rows in a column (R23). -/
def colCoupling (col : Nat) : Nat := ([1, 2, 7, 8][col]?).getD 0

/-- The coupling between columns `col` and `col + 1` of a row (R23). -/
def rowCoupling (row col : Nat) : Nat :=
  if row = 0 then ([0, 4, 6][col]?).getD 0 else ([3, 5, 9][col]?).getD 0

/-- The couplings that a code has (R23). -/
def hasCoupling (s : State) (c : Nat) : Bool :=
  match s.fuse.code with
  | .cx8a => c < 10
  | .cx4a => c < 4
  | .cx2a => c == 0

/-- The route of R25: across the rows in the source's column, then along the destination's row. -/
def fixedRoute (src dst : Nat) : List Nat :=
  let a := dieCol src
  let b := dieCol dst
  let vert := if dieRow src = dieRow dst then [] else [colCoupling a]
  let lo := Nat.min a b
  vert ++ (List.range (Nat.max a b - lo)).map (fun i => rowCoupling (dieRow dst) (lo + i))

/-- The route in force from die to die: where the fixed one needs the coupling that failed, the second route table (R28). -/
def dieRoute (s : State) (src dst : Nat) : List Nat :=
  let r := fixedRoute src dst
  match s.cpl.avoid with
  | none => r
  | some a => if r.contains a then (Sys2Proof.Config.altRoute a src dst).filter (fun c => c != a) else r

/-- The service of a coupling. -/
def cplPhase (s : State) (c : Nat) : CplPhase := mapGetD s.cpl.phases c .up

/-- A transfer from die to die must wait: a coupling on its way retrains, or its route has just changed and the failed
coupling's retry buffer is still being delivered (R28). -/
def routeBlocked (s : State) (src dst : Nat) : Bool :=
  let affected := match s.cpl.avoid with
    | none => false
    | some a => (fixedRoute src dst).contains a
  (s.cpl.draining && affected) || (dieRoute s src dst).any (fun c => cplPhase s c != .up)

/-- Coupling `c` enters `p`. -/
def setCplPhase (c : Nat) (p : CplPhase) (s : State) : State :=
  { s with cpl := { s.cpl with phases := mapSet s.cpl.phases c p } }

end Sys2Proof.Machine
end

