-- ==== Sys2Proof/Machine/Memory.lean ====
section
/-! DEFINITION. Memory at its home (chapter 11): contents in canonical form, the local address map, placement, poison, the
write-combining buffer, the depot, and the prefetch staging buffers. -/

namespace Sys2Proof.Machine

-- Contents: a list of (address, byte) pairs, addresses rising, no byte zero; an unlisted byte reads zero.

/-- The canonical form of contents, as a check. -/
def cellsWf : List Host.Cell → Bool
  | [] => true
  | [c] => c.2 != 0
  | c :: d :: l => c.2 != 0 && c.1 < d.1 && cellsWf (d :: l)

/-- The canonical form of a memory: its local contents and every operand cache. -/
def Mem.wf (m : Mem) : Bool := cellsWf m.cells && m.opCache.all (fun e => cellsWf e.2)

/-- The byte at an address. -/
def cellByte (cells : List Host.Cell) (a : Nat) : Byte :=
  match cells.find? (fun c => c.1 == a) with
  | some c => c.2
  | none => 0

/-- `n` bytes from `a`, out of the cells in that range. -/
def walkBytes : List Host.Cell → Nat → Nat → List Byte
  | _, _, 0 => []
  | [], a, n + 1 => 0 :: walkBytes [] (a + 1) n
  | c :: cs, a, n + 1 => if c.1 = a then c.2 :: walkBytes cs (a + 1) n else 0 :: walkBytes (c :: cs) (a + 1) n

/-- `n` bytes from `a`. -/
def cellsRead (cells : List Host.Cell) (a n : Nat) : List Byte :=
  walkBytes (cells.filter (fun c => a ≤ c.1 && c.1 < a + n)) a n

/-- The cells of bytes written from `a`: those that are not zero. -/
def dataCells : Nat → List Byte → List Host.Cell
  | _, [] => []
  | a, b :: bs => if b = 0 then dataCells (a + 1) bs else (a, b) :: dataCells (a + 1) bs

/-- Contents with `data` written from `a`. -/
def cellsWrite (cells : List Host.Cell) (a : Nat) (data : List Byte) : List Host.Cell :=
  cells.filter (fun c => c.1 < a) ++ dataCells a data ++ cells.filter (fun c => a + data.length ≤ c.1)

/-- Contents with `n` bytes from `a` zero. -/
def cellsClear (cells : List Host.Cell) (a n : Nat) : List Host.Cell :=
  cells.filter (fun c => c.1 < a) ++ cells.filter (fun c => a + n ≤ c.1)

/-- The units of `w` bytes that `n` bytes from `a` touch. -/
def unitsOf (w a n : Nat) : List Nat :=
  if n = 0 then [] else (List.range ((a + n - 1) / w - a / w + 1)).map (fun i => a / w + i)

-- The local address map (R17, R19, R347).

/-- This package's number (R17, R425). -/
def pkgNo (s : State) : Nat :=
  match s.flash.topo with
  | some t => (t.coords.getD 0 0) * 512 + (t.coords.getD 1 0) * 64 + (t.coords.getD 2 0) * 8 + t.coords.getD 3 0
  | none => 0

/-- The package number of a global address (R19). -/
def gPkg (g : Nat) : Nat := g / 2 ^ 42 % 4096

/-- The local address of a global address (R19). -/
def gLocal (g : Nat) : Nat := g % 2 ^ 42

/-- Scratchpad windows begin here, 128 MiB each (R347). -/
def scratchBase : Nat := 0x30000000000

/-- The bytes of a scratchpad (R347). -/
def scratchBytes : Nat := 0x8000000

/-- The meter bridge window (R41, R347). -/
def bridgeBase : Nat := 0x3FFFFFF0000

/-- What a local address names (R347). -/
inductive Place where
  | scratch (lc : Nat)
  | bridge
  | region (id : Nat) (r : Region)
  deriving DecidableEq, Repr

/-- The region that holds an address, with its number. -/
def regionAt (s : State) (a : Nat) : Option (Nat × Region) :=
  s.mem.regions.find? (fun e => e.2.base ≤ a && a < e.2.base + e.2.size)

/-- The place of an address; `none` is unmapped or outside every region. -/
def placeOf (s : State) (a : Nat) : Option Place :=
  if a < 2 ^ 41 then (regionAt s a).map (fun e => .region e.1 e.2)
  else if scratchBase ≤ a ∧ a < scratchBase + nLc s * scratchBytes then some (.scratch ((a - scratchBase) / scratchBytes))
  else if bridgeBase ≤ a ∧ a < bridgeBase + 65536 then some .bridge
  else none

/-- The region that holds all `n` bytes from `a`. -/
def regionOfRange (s : State) (a n : Nat) : Option (Nat × Region) :=
  match regionAt s a with
  | some (id, r) => if a + n ≤ r.base + r.size then some (id, r) else none
  | none => none

/-- The exclusive-or of the `n`-bit fields of `q` (R354). -/
def hashFold (n : Nat) : Nat → Nat → Nat
  | 0, _ => 0
  | fuel + 1, q => if q = 0 then 0 else (q % 2 ^ n) ^^^ hashFold n fuel (q >>> n)

/-- The package channel that holds address `a` of region `r` (R353, R354). -/
def chanOf (r : Region) (a : Nat) : Nat := r.chan0 + hashFold r.n 34 ((a - r.base) / 256)

/-- Frame and byte within it of address `a` of region `r` (R354). -/
def frameOf (r : Region) (a : Nat) : Nat × Nat :=
  let q := ((a - r.base) / 256) >>> r.n
  (r.f0 + q / 256, (q % 256) * 256 + (a - r.base) % 256)

/-- The channel of an address, where it is stack memory. -/
def chanAt (s : State) (a : Nat) : Option Nat := (regionAt s a).map (fun e => chanOf e.2 a)

/-- The home die of an address: its channel's, its logical core's, or D0 for the bridge window (R41). -/
def homeDie (s : State) (a : Nat) : Nat :=
  match placeOf s a with
  | some (.region _ r) => chanOf r a / 256
  | some (.scratch lc) => lcDie s lc
  | _ => 0

/-- The service of a channel (R371, R372). -/
def chanState (s : State) (p : Nat) : ChanState := mapGetD s.mem.chans p .up

/-- The sector's channel has failed (R372). -/
def sectorFailed (s : State) (sec : Nat) : Bool :=
  match chanAt s (sec * 32) with
  | some p => chanState s p == .failed
  | none => false

/-- The sector reads as poisoned: its mark is set or its channel has failed (R368, R372). -/
def sectorPoisoned (s : State) (sec : Nat) : Bool := s.mem.poison.contains sec || sectorFailed s sec

/-- The mark of a sector is set. -/
def markPoison (sec : Nat) (s : State) : State :=
  { s with mem := { s.mem with poison := setInsert sec s.mem.poison } }

/-- The mark of a sector is cleared. -/
def clearPoison (sec : Nat) (s : State) : State :=
  { s with mem := { s.mem with poison := s.mem.poison.filter (fun x => x != sec) } }

/-- Bytes are written at their home, marks untouched. -/
def putBytes (a : Nat) (data : List Byte) (s : State) : State :=
  { s with mem := { s.mem with cells := cellsWrite s.mem.cells a data } }

-- Accesses that must wait (R28, R371).

/-- An access from die `src` must wait: a channel it touches retrains, or a coupling on its way (R28, R371). -/
def accessBlocked (s : State) (src a n : Nat) : Bool :=
  (unitsOf 256 a n).any (fun g =>
    let d := homeDie s (g * 256)
    routeBlocked s src d || routeBlocked s d src ||
      (match chanAt s (g * 256) with
        | some p => match chanState s p with
          | .retraining _ => true
          | _ => false
        | none => false))

/-- The running row makes an access: one that must wait is noted. -/
def touch (a n : Nat) (s : State) : State :=
  match s.mem.via with
  | some d => if accessBlocked s d a n then { s with mem := { s.mem with met := true } } else s
  | none => s

/-- A transfer between two dies for the running row. -/
def touchRoute (src dst : Nat) (s : State) : State :=
  if s.mem.via.isSome && (routeBlocked s src dst || routeBlocked s dst src) then
    { s with mem := { s.mem with met := true } }
  else s

/-- The running row sends `n` bytes from `a` to their homes, where a buffer takes them. -/
def touchHomes (a n : Nat) (s : State) : State :=
  match s.mem.via with
  | some d => (unitsOf 32 a n).foldl (fun s u => touchRoute d (homeDie s (u * 32)) s) s
  | none => s

/-- The row whose effect is `f` runs from die `die`. -/
def runVia (die : Nat) (f : State → State) (s : State) : State :=
  f { s with mem := { s.mem with via := some die, met := false } }

/-- The row that began at `s` has ended in `t`: the marks of a running row are as before it. -/
def rowDone (s t : State) : State := { t with mem := { t.mem with via := s.mem.via, met := s.mem.met } }

/-- A row that makes its accesses from die `die` takes effect when all of them can be made; until then its unit waits, and
the row changes nothing: it comes again when the retrain is over (R28, R371, assumption log 59). -/
def whenOpen (die : Nat) (f : State → State) (s : State) : State :=
  let t := runVia die f s
  if t.mem.met then s else rowDone s t

/-- A packet or request `i` that makes its accesses from die `die` joins those that wait, in order, where one of them cannot
be made yet (R28, R371). -/
def orHold (die : Nat) (i : Instr) (f : State → State) (s : State) : State :=
  let t := runVia die f s
  if t.mem.met then { s with mem := { s.mem with waiting := s.mem.waiting ++ [i] } } else rowDone s t

-- The depot (R357 to R359).

/-- The ways of a die's depot left for caching. -/
def cacheWays (s : State) (d : Nat) : Nat := 24 - s.mem.reserved - (mapGetD s.mem.waysOff d []).length

/-- The set of a line. -/
def depotSetOf (line : Nat) : Nat := Sys2Proof.Config.depotSet line % 262144

/-- The lines of die `d`'s depot, least recently used first. -/
def depotLines (s : State) (d : Nat) : List DepotLine := mapGetD s.mem.depot d []

def setDepot (d : Nat) (l : List DepotLine) (s : State) : State :=
  { s with mem := { s.mem with depot := mapSet s.mem.depot d l } }

/-- The line to replace in a full set (R359): the least recently used of HINT stream, else of HINT normal, else of all. -/
def depotVictim (inSet : List DepotLine) : Option Nat :=
  match inSet.find? (fun l => l.hint == 1) with
  | some l => some l.line
  | none => match inSet.find? (fun l => l.hint == 0) with
    | some l => some l.line
    | none => inSet.head?.map (fun l => l.line)

/-- A read miss allocates its line (R357, R359). -/
def depotInsert (ways : Nat) (new : DepotLine) (l : List DepotLine) : List DepotLine :=
  let inSet := l.filter (fun x => depotSetOf x.line == depotSetOf new.line)
  let hint := if new.hint = 2 ∧ 12 ≤ countIf (fun x => x.hint == 2) inSet then 0 else new.hint
  let new := { new with hint := hint }
  let l := if inSet.length < ways then l
    else match depotVictim inSet with
      | some v => l.filter (fun x => x.line != v)
      | none => l
  if new.hint = 1 then new :: l else l ++ [new]

/-- The HINT that a line takes in its set: at most 12 lines of HINT keep (R359). -/
def limitKeep (l : List DepotLine) (line hint : Nat) : Nat :=
  let keeps := countIf (fun x => x.hint == 2 && x.line != line && depotSetOf x.line == depotSetOf line) l
  if hint = 2 ∧ 12 ≤ keeps then 0 else hint

/-- A read of sectors `need` of a 128-byte line at die `d`; `pf`: a prefetch reads. -/
def depotRead (d line need hint : Nat) (pf : Bool) (s : State) : State :=
  let l := depotLines s d
  match takeFirst (fun x => x.line == line) l with
  | some (x, rest) =>
    let x' := { x with
      valid := x.valid ||| need
      hint := if x.prefetched && !pf then limitKeep l line hint else x.hint
      prefetched := x.prefetched && pf }
    let s := bump (if x.valid &&& need = need then Cnt.memDepotHit else Cnt.memDepotMiss) d 1 s
    setDepot d (rest ++ [x']) s
  | none =>
    let new : DepotLine := { line := line, valid := need, dirty := false, hint := if pf then 1 else hint, prefetched := pf }
    setDepot d (depotInsert (cacheWays s d) new l) (bump Cnt.memDepotMiss d 1 s)

/-- A write updates a held line (R357). -/
def depotWrite (d line secs : Nat) (s : State) : State :=
  let l := depotLines s d
  if l.any (fun x => x.line == line) then
    setDepot d (l.map (fun x => if x.line = line then { x with valid := x.valid ||| secs, dirty := true } else x)) s
  else s

-- The write-combining buffer (R362, R363).

/-- A write of a sector reaches the depot: a whole one clears its mark, a partial one leaves it (R369). -/
def landSector (sec : Nat) (whole : Bool) (s : State) : State :=
  let d := homeDie s (sec * 32)
  let s := depotWrite d (sec / 4) (2 ^ (sec % 4)) s
  if whole then clearPoison sec s
  else if s.mem.poison.contains sec then bump Cnt.memPoisonMerge d 1 s
  else s

/-- One sector of a flushed line: `m`, which of its bytes were written. Partial writes leave a poisoned sector poisoned,
and each was counted as it was merged (R369). -/
def flushSector (sec m : Nat) (s : State) : State :=
  if m = 0 then s else depotWrite (homeDie s (sec * 32)) (sec / 4) (2 ^ (sec % 4)) s

/-- The pending line `l` goes to the depot; to a failed channel it is discarded (R372). -/
def flushLine (l : WcbLine) (s : State) : State :=
  let s := { s with mem := { s.mem with wcb := s.mem.wcb.filter (fun x => x.line != l.line) } }
  flushSector (2 * l.line + 1) (l.mask / 2 ^ 32) (flushSector (2 * l.line) (l.mask % 2 ^ 32) s)

/-- The pending lines that a range touches. -/
def pendingLines (s : State) (a n : Nat) : List WcbLine :=
  s.mem.wcb.filter (fun l => l.line * 64 < a + n && a < l.line * 64 + 64)

/-- A read that finds pending lines waits until they have reached the depot; it counts once at each die that it waits for
(R363, R381). -/
def settleReads (a n : Nat) (s : State) : State :=
  let l := pendingLines s a n
  let dies := setUnion [] (l.map (fun x => homeDie s (x.line * 64)))
  l.foldl (fun s x => flushLine x s) (dies.foldl (fun s d => bump Cnt.memWcbFlushRd d 1 s) s)

/-- The lines of one die in the buffer, oldest written first. -/
def wcbOf (s : State) (d : Nat) : List WcbLine :=
  sortBy (fun x y => x.last ≤ y.last) (s.mem.wcb.filter (fun l => homeDie s (l.line * 64) == d))

/-- A partial write to a poisoned sector is counted (R369). -/
def countMerges (a n : Nat) (s : State) : State :=
  ((unitsOf 32 a n).filter (fun x => s.mem.poison.contains x)).foldl
    (fun s x => bump Cnt.memPoisonMerge (homeDie s (x * 32)) 1 s) s

/-- A write within one 64-byte line that covers none of its sectors goes through the buffer of its home die (R362). -/
def wcbWrite (a : Nat) (data : List Byte) (s : State) : State :=
  let line := a / 64
  let d := homeDie s a
  let m := (2 ^ data.length - 1) <<< (a % 64)
  let s := putBytes a data (countMerges a data.length s)
  match takeFirst (fun x : WcbLine => x.line == line) s.mem.wcb with
  | some (x, rest) =>
    let x' : WcbLine := { line := line, mask := x.mask ||| m, last := s.now }
    let s := bump Cnt.memWcbMerge d 1 { s with mem := { s.mem with wcb := rest ++ [x'] } }
    if x'.mask = 2 ^ 64 - 1 then flushLine x' s else s
  | none =>
    let mine := wcbOf s d
    let s := if 32768 ≤ mine.length then
        match mine.head? with
        | some o => flushLine o s
        | none => s
      else s
    { s with mem := { s.mem with wcb := s.mem.wcb ++ [{ line := line, mask := m, last := s.now }] } }

-- Reads and writes at the home.

/-- The mask of the sectors of 128-byte line `line` that a range touches. -/
def needMask (a n line : Nat) : Nat :=
  sumNat (((List.range 4).filter (fun i => (line * 4 + i) * 32 < a + n && a < (line * 4 + i) * 32 + 32)).map (fun i => 2 ^ i))

/-- Every 128-byte line of stack memory in the range passes its depot (R357, R361). -/
def depotReads (pf : Bool) (a n : Nat) (s : State) : State :=
  (unitsOf 128 a n).foldl (fun s line =>
    match regionAt s (line * 128) with
    | some (_, r) => depotRead (chanOf r (line * 128) / 256) line (needMask a n line) r.hint pf s
    | none => s) s

/-- The bytes of a range with poisoned sectors as zero (R368). -/
def maskedBytes (s : State) (a n : Nat) : List Byte :=
  let raw := cellsRead s.mem.cells a n
  let bad := (unitsOf 32 a n).filter (sectorPoisoned s)
  if bad = [] then raw
  else (raw.zip (List.range n)).map (fun e => if bad.contains ((a + e.2) / 32) then 0 else e.1)

/-- The mark of each sector that a range touches. -/
def poisonMarks (s : State) (a n : Nat) : List Bool := (unitsOf 32 a n).map (sectorPoisoned s)

/-- A read at the home: bytes, marks, and the state after pending lines, depots and counts (R357, R363, R368). -/
def homeRead (pf : Bool) (a n : Nat) (s : State) : List Byte × List Bool × State :=
  let s := depotReads pf a n (settleReads a n (touch a n s))
  let marks := poisonMarks s a n
  let s' := ((unitsOf 32 a n).filter (sectorPoisoned s)).foldl
    (fun t sec => bump Cnt.memPoisonRead (homeDie s (sec * 32)) 1 t) s
  (maskedBytes s a n, marks, s')

/-- The bytes of `data`, written from `a`, that fall in sector `sec`: where they begin, and they. -/
def sectorPiece (a : Nat) (data : List Byte) (sec : Nat) : Nat × List Byte :=
  let lo := Nat.max a (sec * 32)
  let hi := Nat.min (a + data.length) (sec * 32 + 32)
  (lo, (data.drop (lo - a)).take (hi - lo))

/-- A write within one sector at its home (R361, R362, R369, R372). -/
def sectorWrite (lo : Nat) (piece : List Byte) (s : State) : State :=
  let sec := lo / 32
  if sectorFailed s sec then s
  else if piece.length = 32 then
    let s := (pendingLines s lo 32).foldl (fun s l => flushLine l s) s
    landSector sec true (putBytes lo piece s)
  else if lo < 2 ^ 41 then wcbWrite lo piece s
  else landSector sec false (putBytes lo piece s)

/-- A write meets channel `p`: a failed one discards it and counts it; for one under retrain it waits, and is discarded with
the channel should that fail (R371, R372). -/
def meetChannel (s : State) (p : Nat) : State :=
  match chanState s p with
  | .up => s
  | .retraining _ => { s with mem := { s.mem with held := mapUpd s.mem.held p 0 (fun n => n + 1) } }
  | .failed => bump Cnt.memChFailDrop p 1 s

/-- The channels that a write touches meet it. -/
def countChanDrops (a n : Nat) (s : State) : State :=
  (setUnion [] ((unitsOf 256 a n).filterMap (fun g => chanAt s (g * 256)))).foldl meetChannel s

/-- The part of a write in 64-byte line `line`: one that covers neither sector of stack memory is one write of the buffer
(R362), else each sector takes its own. -/
def lineWrite (a : Nat) (data : List Byte) (line : Nat) (s : State) : State :=
  let x := sectorPiece a data (2 * line)
  let y := sectorPiece a data (2 * line + 1)
  let part : List Byte → Bool := fun l => l != [] && l.length != 32
  if part x.2 && part y.2 && decide (line * 64 < 2 ^ 41)
      && !sectorFailed s (2 * line) && !sectorFailed s (2 * line + 1) then
    wcbWrite x.1 (x.2 ++ y.2) s
  else
    let s := if x.2 = [] then s else sectorWrite x.1 x.2 s
    if y.2 = [] then s else sectorWrite y.1 y.2 s

/-- A write at the home. -/
def homeWrite (a : Nat) (data : List Byte) (s : State) : State :=
  (unitsOf 64 a data.length).foldl (fun s line => lineWrite a data line s)
    (countChanDrops a data.length (touch a data.length s))

/-- A copy that carries marks with its sectors (R368): a whole sector whose mark is set arrives poisoned. -/
def homeCopy (a : Nat) (data : List Byte) (marks : List Bool) (s : State) : State :=
  let s := homeWrite a data s
  ((unitsOf 32 a data.length).zip marks).foldl
    (fun s e => if e.2 && !sectorFailed s e.1 then markPoison e.1 s else s) s

-- Operand caches (R301 to R303).

/-- An area lies in the scratchpad. -/
def inScratch (a n : Nat) : Bool := a + n ≤ scratchBytes

/-- An area lies in the operand cache (R301). -/
def inOpCache (a n : Nat) : Bool := 0x40000000 ≤ a && a + n ≤ 0x40100000

/-- The poisoned sectors of an operand cache. -/
def opPoison (s : State) (lc : Nat) : List Nat := mapGetD s.mem.opPoison lc []

/-- The bytes of an operand cache; those of a poisoned sector read as zero (R368). -/
def opRead (s : State) (lc a n : Nat) : List Byte × List Bool :=
  let raw := cellsRead (mapGetD s.mem.opCache lc []) a n
  let bad := opPoison s lc
  let masked := ((List.range n).zip raw).map (fun e => if bad.contains ((a + e.1) / 32) then 0 else e.2)
  (if bad = [] then raw else masked, (unitsOf 32 a n).map (fun x => bad.contains x))

/-- A write to an operand cache: a whole poisoned sector is clean again; a partial write leaves it poisoned (R369). -/
def opWrite (lc a : Nat) (data : List Byte) (s : State) : State :=
  let whole : Nat → Bool := fun x => a ≤ x * 32 && x * 32 + 32 ≤ a + data.length
  let cells := cellsWrite (mapGetD s.mem.opCache lc []) a data
  let merged := countIf (fun x => !whole x) ((unitsOf 32 a data.length).filter (fun x => (opPoison s lc).contains x))
  let bad := (opPoison s lc).filter (fun x => !whole x)
  let s := { s with mem := { s.mem with
    opCache := mapSet s.mem.opCache lc cells
    opPoison := mapSet s.mem.opPoison lc bad } }
  if merged = 0 then s else bump Cnt.memPoisonMerge (lcDie s lc) merged s

/-- Where a task writes scratchpad or operand cache is noted, because an abandoned step leaves it unspecified (R116,
R303) and an operand area so written reads as unspecified (R276, R305). `who`: 1 + lc for the vector engine of `lc`. -/
def noteWrite (key a n who : Nat) (s : State) : State :=
  if n = 0 then s else { s with mem := { s.mem with written := (key, a, n, who) :: s.mem.written } }

-- What a code finds as a sector is read (R356, R367, R370).

/-- The die that holds a sector of a buffer. -/
def sramDie (s : State) : SramPlace → Nat
  | .opCache lc _ => lcDie s lc
  | .prefetch lc _ _ => lcDie s lc
  | .staged a => homeDie s a

/-- The sector of a buffer is poisoned (R356). -/
def poisonSram (p : SramPlace) (s : State) : State :=
  match p with
  | .opCache lc sec =>
    { s with mem := { s.mem with opPoison := mapUpd s.mem.opPoison lc [] (setInsert sec) } }
  | .prefetch lc g sec =>
    let f : PfLine → PfLine := fun l => if l.granule = g ∧ l.ready then { l with poison := l.poison.set sec true } else l
    { s with mem := { s.mem with staging := mapUpd s.mem.staging lc [] (fun l => l.map f) } }
  | .staged a =>
    let f : Staged → Staged := fun e => if e.addr / 32 = a / 32 then { e with poison := true } else e
    { s with pool := { s.pool with staged := s.pool.staged.map f } }

/-- One finding takes effect. -/
def applyFinding (f : EccFinding) (s : State) : State :=
  match f with
  | .onDie a => match chanAt s a with
    | some p => bump Cnt.memOdecc p 1 s
    | none => s
  | .correctable a => match chanAt s a with
    | some p => bump Cnt.memCe p 1 s
    | none => s
  | .uncorrectable a => match chanAt s a with
    | some p => raise Ev.memUe (srcOf 6 p) [] (bump Cnt.memUe p 1 (markPoison (a / 32) s))
    | none => s
  | .sramCorrected a => bump Cnt.memSramCe (homeDie s a) 1 s
  | .sramUncorrectable a =>
    let d := homeDie s a
    raise Ev.memSramUe (srcOf 1 d) [] (bump Cnt.memSramUe d 1 (markPoison (a / 32) s))
  | .bufferCorrected p => bump Cnt.memSramCe (sramDie s p) 1 s
  | .bufferUncorrectable p =>
    let d := sramDie s p
    raise Ev.memSramUe (srcOf 1 d) [] (bump Cnt.memSramUe d 1 (poisonSram p s))

/-- Findings in turn. -/
def applyFindings (l : List EccFinding) (s : State) : State := l.foldl (fun s f => applyFinding f s) s

/-- The local address whose bytes a sector of a buffer holds; none of an operand cache. -/
def sramAddr : SramPlace → Nat
  | .opCache _ _ => 0
  | .prefetch _ g sec => g * 256 + sec * 32
  | .staged a => a

/-- The address of a finding. -/
def findingAddr : EccFinding → Nat
  | .onDie a => a
  | .correctable a => a
  | .uncorrectable a => a
  | .sramCorrected a => a
  | .sramUncorrectable a => a
  | .bufferCorrected p => sramAddr p
  | .bufferUncorrectable p => sramAddr p

-- Prefetch staging buffers (R364 to R366).

/-- The staging buffer of a logical core, oldest line first. -/
def stagingOf (s : State) (lc : Nat) : List PfLine := mapGetD s.mem.staging lc []

def setStaging (lc : Nat) (l : List PfLine) (s : State) : State :=
  { s with mem := { s.mem with staging := mapSet s.mem.staging lc l } }

/-- The lines that satisfy `p` leave the buffer; those without a demand hit are counted (R366). -/
def emptyStaging (lc : Nat) (p : PfLine → Bool) (s : State) : State :=
  let gone := (stagingOf s lc).filter p
  let n := countIf (fun l => !l.hit) gone
  let s := setStaging lc ((stagingOf s lc).filter (fun l => !p l)) s
  if n = 0 then s else bump Cnt.pfUnused lc n s

/-- Every line of a logical core is emptied: a departure, an abandoned step or a job start (R366). -/
def flushStaging (lc : Nat) (s : State) : State := bump Cnt.pfFlush lc 1 (emptyStaging lc (fun _ => true) s)

/-- Every staging buffer of the package is emptied (R67, R366). -/
def flushAllStaging (s : State) : State := (List.range (nLc s)).foldl (fun s lc => flushStaging lc s) s

/-- Lines of non-pooled regions are emptied when a task or piece starts on the core (R366). -/
def emptyNonPooled (lc : Nat) (s : State) : State := emptyStaging lc (fun l => !l.pooled) s

/-- A write by the core to bytes of a line invalidates it (R366). -/
def snoopWrite (lc a n : Nat) (s : State) : State :=
  let touched : PfLine → Bool := fun l => l.granule * 256 < a + n && a < l.granule * 256 + 256
  let k := countIf touched (stagingOf s lc)
  if k = 0 then s else bump Cnt.pfSnoopInv lc k (emptyStaging lc touched s)

/-- The trackers of a logical core, least recently used first (R364). -/
def trackersOf (s : State) (lc : Nat) : List Tracker := mapGetD s.mem.trackers lc []

def setTrackers (lc : Nat) (l : List Tracker) (s : State) : State :=
  { s with mem := { s.mem with trackers := mapSet s.mem.trackers lc l } }

/-- One prefetch towards granule `g`, for a tracker of region `id`: issued within the region, dropped elsewhere (R365). -/
def issuePrefetch (lc id : Nat) (g : Int) (s : State) : State :=
  let same := match (if g < 0 then none else regionAt s (g.toNat * 256)) with
    | some (id', r) => if id' = id then some r else none
    | none => none
  match same with
  | none => bump Cnt.pfDrop lc 1 s
  | some r =>
    let l := stagingOf s lc
    if l.any (fun x => x.granule == g.toNat) then s
    else
      let s := match l with
        | old :: rest =>
          if l.length < 2048 then s
          else
            let s := setStaging lc rest s
            if old.hit then s else bump Cnt.pfUnused lc 1 s
        | [] => s
      let new : PfLine :=
        { granule := g.toNat, ready := false, hit := false, pooled := r.pooled, data := [], poison := [] }
      bump Cnt.pfIssue lc 1 (setStaging lc (stagingOf s lc ++ [new]) s)

/-- A stride nearer than the farthest whose granule has left the buffer is fetched again; a target that was dropped when
it was the farthest is not dropped a second time (R364, R365). -/
def fetchAgain (lc id : Nat) (g : Int) (s : State) : State :=
  match (if g < 0 then none else regionAt s (g.toNat * 256)) with
  | some (id', _) => if id' = id then issuePrefetch lc id g s else s
  | none => s

/-- The tracker that a demand read of granule `g` continues: one at whose latest granule it stands, one whose stride leads
to it, or one with a single read within 16 granules. -/
def continues (id g : Nat) (t : Tracker) : Bool :=
  let d : Int := (g : Int) - t.last
  t.region == id && (d == 0 || (2 ≤ t.run && d == t.stride) || (t.run == 1 && d.natAbs ≤ 16))

/-- A demand read of one granule of stack memory trains the core's trackers (R364). -/
def trainGranule (lc id g : Nat) (s : State) : State :=
  let depth := s.mem.cfg.pfDepth
  let l := trackersOf s lc
  match takeFirst (continues id g) l.reverse with
  | some (t, rest) =>
    let d : Int := (g : Int) - t.last
    if d = 0 then setTrackers lc (rest.reverse ++ [t]) s
    else
      let t' : Tracker := { region := id, last := g, stride := d, run := t.run + 1 }
      let s := setTrackers lc (rest.reverse ++ [t']) s
      let ahead : Nat → Int := fun k => (g : Int) + d * ((k : Int) + 1)
      if t'.run = 3 then (List.range depth).foldl (fun s k => issuePrefetch lc id (ahead k) s) s
      else if 3 < t'.run ∧ 0 < depth then
        let s := (List.range (depth - 1)).foldl (fun s k => fetchAgain lc id (ahead k) s) s
        issuePrefetch lc id (ahead (depth - 1)) s
      else s
  | none =>
    let l := if l.length < 32 then l else l.drop 1
    setTrackers lc (l ++ [{ region := id, last := g, stride := 0, run := 1 }]) s

/-- A demand read trains the trackers, one granule after another, where its region allows prefetch (R364). -/
def trainRead (lc a n : Nat) (s : State) : State :=
  (unitsOf 256 a n).foldl (fun s g =>
    match regionAt s (g * 256) with
    | some (id, r) => if r.pfEn then trainGranule lc id g s else s
    | none => s) s

/-- The fill of a prefetch in flight arrives (R366). -/
def fillStaging (lc g : Nat) (s : State) : State :=
  if (stagingOf s lc).any (fun l => l.granule == g && !l.ready) then
    let r := homeRead true (g * 256) 256 s
    let s := r.2.2
    setStaging lc ((stagingOf s lc).map (fun l =>
      if l.granule = g then { l with ready := true, data := r.1, poison := r.2.1 } else l)) s
  else s

/-- A demand read of granule `g` meets a line of its core's buffer: a fill in flight is waited for (R366). -/
def meetStaging (lc g : Nat) (s : State) : Option PfLine × State :=
  match (stagingOf s lc).find? (fun l => l.granule == g) with
  | none => (none, s)
  | some l =>
    let s := if l.ready then s else fillStaging lc g (bump Cnt.pfLate lc 1 s)
    let s := if l.hit then s else bump Cnt.pfUsed lc 1 s
    let s := setStaging lc ((stagingOf s lc).map (fun x => if x.granule = g then { x with hit := true } else x)) s
    ((stagingOf s lc).find? (fun x => x.granule == g), s)

/-- The part of a read within granule `g`. -/
def demandGranule (lc a n g : Nat) (s : State) : List Byte × List Bool × State :=
  let lo := Nat.max a (g * 256)
  let hi := Nat.min (a + n) (g * 256 + 256)
  match meetStaging lc g s with
  | (some l, s) =>
    let marks := ((List.range 8).zip l.poison).filter (fun e => (g * 8 + e.1) * 32 < hi && lo < (g * 8 + e.1) * 32 + 32)
    (slice l.data (lo - g * 256) (hi - lo), marks.map (fun e => e.2), s)
  | (none, s) => homeRead false lo (hi - lo) s

/-- A demand read by a unit of logical core `lc` of bytes of this package (R363 to R366). -/
def demandRead (lc a n : Nat) (s : State) : List Byte × List Bool × State :=
  let r := (unitsOf 256 a n).foldl
    (fun (acc : List Byte × List Bool × State) g =>
      let t := demandGranule lc a n g acc.2.2
      (acc.1 ++ t.1, acc.2.1 ++ t.2.1, t.2.2)) ([], [], s)
  (r.1, r.2.1, trainRead lc a n r.2.2)

-- Regions (R350 to R355).

/-- The stack is populated and in service (R355). -/
def stackIn (s : State) (j : Nat) : Bool := j < nStacks s && !s.mem.stacksOut.contains j

/-- Every stack of the code is in service: SPREAD_OK (R355). -/
def spreadOk (s : State) : Bool := s.brg.spreadOk

/-- The channel set of a die: first channel and n; none with both stacks out (R353). -/
def dieSet (s : State) (d : Nat) : Option (Nat × Nat) :=
  if stackIn s (2 * d) then some (256 * d, if stackIn s (2 * d + 1) then 8 else 7)
  else if stackIn s (2 * d + 1) then some (256 * d + 128, 7) else none

/-- n of the spread set (R353). -/
def spreadN (s : State) : Nat :=
  match s.fuse.code with
  | .cx8a => 11
  | .cx4a => 10
  | .cx2a => 9

/-- The allocation unit of a set: a frame of 64 KiB in each of its channels. -/
def unitBytes (n : Nat) : Nat := 2 ^ n * 65536

/-- Two channel sets share a channel. -/
def setsMeet (c n c' n' : Nat) : Bool := c < c' + 2 ^ n' && c' < c + 2 ^ n

/-- The regions that hold frames of the channels of a set. -/
def sharing (s : State) (c n : Nat) : List Region :=
  (s.mem.regions.map (fun e => e.2)).filter (fun r => setsMeet c n r.chan0 r.n)

/-- Frames of a set in use. -/
def usedFrames (s : State) (c n : Nat) : Nat := sumNat ((sharing s c n).map (fun r => r.frames))

/-- The lowest start, at 0 or at the end of one of `used`, of `len` free units below `limit`. -/
def lowestFree (used : List (Nat × Nat)) (len limit : Nat) : Option Nat :=
  let cands := sortBy (fun a b => a ≤ b) (0 :: used.map (fun u => u.1 + u.2))
  cands.find? (fun f => f + len ≤ limit && used.all (fun u => u.1 + u.2 ≤ f || f + len ≤ u.1))

/-- The lowest frame number at which `k` frames are free in every channel of a set (R353). -/
def freeFrames (s : State) (c n k : Nat) : Option Nat :=
  lowestFree ((sharing s c n).map (fun r => (r.f0, r.frames))) k 9536

/-- The lowest base, a multiple of `unit`, with a free range of `size` bytes in the region window (R347, R352). -/
def freeBase (s : State) (unit size : Nat) : Option Nat :=
  let used := s.mem.regions.map (fun e => (e.2.base / unit, cdiv (e.2.base % unit + e.2.size) unit))
  (lowestFree used (size / unit) (2 ^ 41 / unit)).map (fun b => b * unit)

/-- The lowest free region number (R350). -/
def freeRegionId (s : State) : Option Nat :=
  if 4096 ≤ s.mem.regions.length then none
  else (List.range 4096).find? (fun i => (mapGet s.mem.regions i).isNone)

/-- The dies with a stack in service, with their free frames, most first, lowest die on a tie (R355). -/
def freestDie (s : State) : Option Nat :=
  let dies := (List.range (nDies s)).filterMap (fun d => (dieSet s d).map (fun c => (d, 9536 - usedFrames s c.1 c.2)))
  (sortBy (fun a b => b.2 ≤ a.2) dies).head?.map (fun e => e.1)

/-- A region of `size` bytes in a set, if it fits: first frame, frames and base. -/
def fitIn (s : State) (c n size : Nat) : Option (Nat × Nat × Nat) :=
  let k := cdiv size (unitBytes n)
  match freeFrames s c n k, freeBase s (unitBytes n) (k * unitBytes n) with
  | some f, some b => some (f, k, b)
  | _, _ => none

/-- What a new region is asked to be. -/
structure RegionAsk where
  size : Nat
  spread : Bool
  die : Nat
  pooled : Bool
  progR : Bool
  progW : Bool
  pfEn : Bool
  hint : Nat
  table : Option Nat
  device : Bool
  deriving DecidableEq, Repr

/-- The region placed in a set. -/
def placedRegion (q : RegionAsk) (c n : Nat) (spread : Bool) (die : Nat) (far : Bool) (fit : Nat × Nat × Nat) : Region :=
  { base := fit.2.2, size := fit.2.1 * unitBytes n, spread := spread, die := die, far := far, pooled := q.pooled,
    progR := q.progR, progW := q.progW, pfEn := q.pfEn, hint := q.hint, table := q.table, device := q.device,
    f0 := fit.1, frames := fit.2.1, chan0 := c, n := n }

/-- A region on die `d`. -/
def placeOnDie (s : State) (q : RegionAsk) (d : Nat) (far : Bool) : Option Region :=
  match dieSet s d with
  | none => none
  | some (c, n) => (fitIn s c n q.size).map (placedRegion q c n false d far)

/-- Where a region goes (R353, R355). -/
def placeRegion (s : State) (q : RegionAsk) : Option Region :=
  let home := if q.device && !spreadOk s then (freestDie s).getD q.die else q.die
  if q.spread ∧ spreadOk s then
    (fitIn s 0 (spreadN s) q.size).map (placedRegion q 0 (spreadN s) true 0 false)
  else if q.spread then
    match placeOnDie s q home false with
    | some r => some r
    | none => match freestDie s with
      | some d => placeOnDie s q d true
      | none => none
  else placeOnDie s q home false

/-- A region is created, its content zero and no sector poisoned (R350, R377): its number and the state. -/
def createRegion (q : RegionAsk) (s : State) : Option (Nat × Region × State) :=
  match freeRegionId s, placeRegion s q with
  | some id, some r =>
    let inside : Nat → Bool := fun a => r.base ≤ a && a < r.base + r.size
    some (id, r, { s with mem := { s.mem with
      regions := mapSet s.mem.regions id r
      cells := cellsClear s.mem.cells r.base r.size
      poison := s.mem.poison.filter (fun x => !inside (x * 32)) } })
  | _, _ => none

/-- A region and its frames are freed, with everything that named its bytes. -/
def destroyRegion (id : Nat) (s : State) : State :=
  match mapGet s.mem.regions id with
  | none => s
  | some r =>
    let inside : Nat → Bool := fun a => r.base ≤ a && a < r.base + r.size
    let dies := s.mem.depot.map (fun e => (e.1, e.2.filter (fun l => !inside (l.line * 128))))
    let s := (List.range (nLc s)).foldl (fun s lc => emptyStaging lc (fun l => inside (l.granule * 256)) s) s
    { s with mem := { s.mem with
      regions := mapDel s.mem.regions id
      cells := cellsClear s.mem.cells r.base r.size
      poison := s.mem.poison.filter (fun x => !inside (x * 32))
      wcb := s.mem.wcb.filter (fun l => !inside (l.line * 64))
      depot := dies
      trackers := mapVals (fun _ l => l.filter (fun t => t.region != id)) s.mem.trackers } }

end Sys2Proof.Machine
end

