-- ==== Sys2Proof/Machine/Packets.lean ====
section
/-! DEFINITION. Link packets (R394 to R396): the header and payload of each, and the digests of what passes (R410, R411). A
packet sent is the command that its receiver executes. -/

namespace Sys2Proof.Machine

/-- The header fields of a packet; `none` for a command that is no packet. -/
def hdrOf : Instr → Option Hdr
  | .poolRead h _ _ | .poolData h _ _ _ | .poolStore h _ _ | .poolAccum h _ _ | .rowUpdate h _ _ _ _ _ | .poolAck h _
  | .poolFwd h _ _ | .poolErr h _ _ | .slotRequest h _ _ | .slotGrant h _ _ _ | .slotRefusal h _ _ | .rowCopy h _ _ _ _
  | .directoryChange h _ _ _ _ | .forwardedContribution h _ _ _ _ _ | .rdContrib h _ _ _ _ _ | .rdAck h _ _ _ _
  | .departure h _ _ _ _ _ | .leftCont h _ | .late h | .arrival h | .timeXfer h _ _ _ _ | .probe h _ | .probeReply h _ _
  | .takeover h _ _ _ _ | .join h | .sigUp h _ _ | .sigDown h _ _ | .gnPartial h _ _ | .gnResult h _ _ _
  | .linkState h _ _ _ _ _ | .hello h _ _ _ _ _ _ _ | .jobCtrl h _ _ => some h
  | _ => none

/-- The packet with its header changed by `f`. -/
def mapHdr (f : Hdr → Hdr) : Instr → Instr
  | .poolRead h a b => .poolRead (f h) a b
  | .poolData h a b c => .poolData (f h) a b c
  | .poolStore h a b => .poolStore (f h) a b
  | .poolAccum h a b => .poolAccum (f h) a b
  | .rowUpdate h a b c d e => .rowUpdate (f h) a b c d e
  | .poolAck h a => .poolAck (f h) a
  | .poolFwd h a b => .poolFwd (f h) a b
  | .poolErr h a b => .poolErr (f h) a b
  | .slotRequest h a b => .slotRequest (f h) a b
  | .slotGrant h a b c => .slotGrant (f h) a b c
  | .slotRefusal h a b => .slotRefusal (f h) a b
  | .rowCopy h a b c d => .rowCopy (f h) a b c d
  | .directoryChange h a b c d => .directoryChange (f h) a b c d
  | .forwardedContribution h a b c d e => .forwardedContribution (f h) a b c d e
  | .rdContrib h a b c d e => .rdContrib (f h) a b c d e
  | .rdAck h a b c d => .rdAck (f h) a b c d
  | .departure h a b c d e => .departure (f h) a b c d e
  | .leftCont h a => .leftCont (f h) a
  | .late h => .late (f h)
  | .arrival h => .arrival (f h)
  | .timeXfer h a b c d => .timeXfer (f h) a b c d
  | .probe h a => .probe (f h) a
  | .probeReply h a b => .probeReply (f h) a b
  | .takeover h a b c d => .takeover (f h) a b c d
  | .join h => .join (f h)
  | .sigUp h a b => .sigUp (f h) a b
  | .sigDown h a b => .sigDown (f h) a b
  | .gnPartial h a b => .gnPartial (f h) a b
  | .gnResult h a b c => .gnResult (f h) a b c
  | .linkState h a b c d e => .linkState (f h) a b c d e
  | .hello h a b c d e g i => .hello (f h) a b c d e g i
  | .jobCtrl h a b => .jobCtrl (f h) a b
  | i => i

/-- TYPE of a packet (R395); 0 for a command that is no packet. -/
def pktType : Instr → Nat
  | .poolRead _ _ _ => 1
  | .poolData _ _ _ _ => 2
  | .poolStore _ _ _ => 3
  | .poolAccum _ _ _ => 4
  | .rowUpdate _ _ _ _ _ _ => 5
  | .poolAck _ _ => 6
  | .poolFwd _ _ _ => 7
  | .poolErr _ _ _ => 8
  | .slotRequest _ _ _ | .slotGrant _ _ _ _ | .slotRefusal _ _ _ | .rowCopy _ _ _ _ _ | .directoryChange _ _ _ _ _
  | .forwardedContribution _ _ _ _ _ _ => 9
  | .rdContrib _ _ _ _ _ _ => 10
  | .rdAck _ _ _ _ _ => 11
  | i => if (hdrOf i).isSome then 12 else 0

/-- SUBTYPE of an EMB_CTRL or CTRL packet (R395, R396); other types have 0. -/
def pktSubtype : Instr → Nat
  | .slotGrant _ _ _ _ => 1
  | .slotRefusal _ _ _ => 2
  | .rowCopy _ _ _ _ _ => 3
  | .directoryChange _ _ _ _ _ => 4
  | .forwardedContribution _ _ _ _ _ _ => 5
  | .leftCont _ _ => 1
  | .late _ => 2
  | .arrival _ => 3
  | .timeXfer _ _ _ _ _ => 4
  | .probe _ _ => 5
  | .probeReply _ _ _ => 6
  | .takeover _ _ _ _ _ => 7
  | .join _ => 8
  | .sigUp _ _ _ => 9
  | .sigDown _ _ _ => 10
  | .gnPartial _ _ _ => 11
  | .gnResult _ _ _ _ => 12
  | .linkState _ _ _ _ _ _ => 13
  | .hello _ _ _ _ _ _ _ _ => 14
  | .jobCtrl _ _ _ => 15
  | _ => 0

/-- FMT of a packet (R394). -/
def pktFmt : Instr → Nat
  | .rowUpdate _ _ _ _ _ _ => 13
  | .rdContrib _ _ _ _ fmt _ => fmt
  | _ => 0

/-- ARG of a packet by its fields from bit 192 of the header (R395). -/
def pktArg : Instr → List (Nat × Nat × Nat)
  | .poolRead _ a n => [(0, 42, a), (42, 8, n)]
  | .poolData _ _ _ d => [(0, 8, cdiv d.length 32)]
  | .poolStore _ a d | .poolAccum _ a d => [(0, 42, a), (42, 8, cdiv d.length 32)]
  | .rowUpdate _ r t p n _ => [(0, 40, r), (40, 8, t), (48, 8, p), (56, 8, n)]
  | .poolAck _ st => [(0, 8, st)]
  | .poolFwd _ home _ => [(0, 12, home)]
  | .poolErr _ r e => [(0, 8, r), (8, 32, e)]
  | .slotRequest _ r t | .slotRefusal _ r t | .slotGrant _ r t _ | .rowCopy _ r t _ _ | .directoryChange _ r t _ _
  | .forwardedContribution _ r t _ _ _ => [(0, 40, r), (40, 8, t)]
  | .rdContrib _ r t n _ _ => [(0, 40, r), (40, 8, t), (48, 4, n)]
  | .rdAck _ r t st late => [(0, 40, r), (40, 8, t), (48, 2, st), (50, 1, bit late)]
  | _ => []

/-- The packet with HOPS zero. -/
def noHops (i : Instr) : Instr := mapHdr (fun h => { h with hops := 0 }) i

/-- The payload of a packet other than CTRL (R395). -/
def pktPayload : Instr → List Byte
  | .poolData _ _ poison d => toLE 32 poison ++ d
  | .poolStore _ _ d | .poolAccum _ _ d | .rowUpdate _ _ _ _ _ d | .rdContrib _ _ _ _ _ d => d
  | .poolFwd _ _ slot => pack 32 [(0, 32, slot)]
  | i => if pktType i = 9 then Sys2Proof.Config.embCtrlPayload (noHops i) else []

/-- LENGTH of a packet: of the CTRL packets, those whose payload R396 gives in bits have their length by it. -/
def pktLength (i : Instr) : Nat :=
  match i with
  | .late _ | .arrival _ => 0
  | .leftCont _ l => 2 * l.length
  | .timeXfer _ _ _ _ _ => 24
  | .probe _ _ | .probeReply _ _ _ => 8
  | .jobCtrl _ _ _ => 9
  | _ => if pktType i = 12 then Sys2Proof.Config.ctrlLength (noHops i) else (pktPayload i).length

/-- The 32 header bytes with HOPS as given (R394). -/
def pktHeader (hops : Nat) (i : Instr) : List Byte :=
  match hdrOf i with
  | none => []
  | some h =>
    let hot := match i with
      | .poolData _ hot _ _ => bit hot
      | _ => 0
    pack 24 [(0, 4, pktType i), (4, 4, pktSubtype i), (8, 5, pktFmt i), (13, 1, hot), (16, 12, h.src), (28, 12, h.dst),
      (40, 8, hops), (48, 16, pktLength i), (64, 32, h.epoch), (96, 64, h.step), (160, 32, h.tag)] ++ pack 8 (pktArg i)

/-- The hash of a packet (R410): HOPS is taken as zero. -/
def pktHash (i : Instr) : Nat := crc64 (pktHeader 0 i ++ pktPayload i)

/-- The steps whose digests are kept: n - 15 to n + 1 (R411). -/
def digestKept (s : State) (step : Nat) : Bool := s.step ≤ step + 15 && step ≤ s.step + 1

/-- A packet enters the digest of its step and peer: other than CTRL, with a payload (R411). -/
def digest (sent : Bool) (peer : Nat) (i : Instr) (s : State) : State :=
  match hdrOf i with
  | none => s
  | some h =>
    if pktType i = 12 ∨ pktLength i = 0 ∨ !digestKept s h.step then s
    else
      let k := h.step * 4096 + peer
      let d := mapGetD s.fab.digests k { sentCnt := 0, recvCnt := 0, sentSum := 0, recvSum := 0 }
      let x := pktHash i
      let d := if sent then { d with sentCnt := d.sentCnt + 1, sentSum := (d.sentSum + x) % 2 ^ 64 }
        else { d with recvCnt := d.recvCnt + 1, recvSum := (d.recvSum + x) % 2 ^ 64 }
      { s with fab := { s.fab with digests := mapSet s.fab.digests k d } }

/-- TT_EPOCH: the membership epoch of the job; 0 outside one (R82, R394). -/
def epochOf (s : State) : Nat :=
  match s.job with
  | some j => j.epoch
  | none => 0

/-- The step number that packets carry: 0 outside a job (R394). -/
def stepOf (s : State) : Nat := if s.job.isSome then s.step else 0

/-- A header from this package. -/
def mkHdr (s : State) (dst tag : Nat) : Hdr :=
  { src := pkgNo s, dst := dst, hops := 0, epoch := epochOf s, step := stepOf s, tag := tag }

/-- The header of a reply (R394: the TAG is copied). -/
def replyHdr (s : State) (h : Hdr) : Hdr := mkHdr s h.src h.tag

/-- A fresh TAG, never 0 (R394: chosen by the requester). -/
def freshTag (s : State) : Nat × State :=
  (s.fab.nextTag, { s with fab := { s.fab with nextTag := s.fab.nextTag % (2 ^ 32 - 1) + 1 } })

/-- Package `p` is a member of the running job. -/
def isMember (s : State) (p : Nat) : Bool :=
  match s.job with
  | some j => j.members.contains p
  | none => false

end Sys2Proof.Machine
end

