-- ==== Sys2Proof/Machine/Links.lean ====
section
/-! DEFINITION. Ports, topology and routing (R384 to R393), and how a packet leaves the package. -/

namespace Sys2Proof.Machine

-- Ports and topology (R384, R389).

/-- A port before training (R388). -/
def coldPort : Port :=
  { st := .disabled, reason := 0, lanes := 0, nbrPkg := 0, nbrPort := 0, since := 0, matched := false, trained := none,
    txSeq := 0, rxSeq := 0, owes := false, nakOut := none, credOut := List.replicate 6 0, queue := [], retry := [],
    credits := List.replicate 6 0, lead := 0, ackFrom := 0, badTimes := [] }

/-- Port `q`. -/
def port (s : State) (q : Nat) : Port := mapGetD s.fab.ports q coldPort

/-- Port `q` becomes `p`. -/
def setPort (q : Nat) (p : Port) (s : State) : State :=
  { s with fab := { s.fab with ports := mapSet s.fab.ports q p } }

/-- Dimension, direction and A or B of a port (R384). -/
def portFace (s : State) (q : Nat) : Nat × Bool × Bool :=
  match s.fuse.code with
  | .cx8a => (q / 4, q / 2 % 2 == 0, q % 2 == 1)
  | _ => (q / 2, q % 2 == 0, false)

/-- The ports of a dimension-direction, port A first (R384). -/
def facePorts (s : State) (dim : Nat) (plus : Bool) : List Nat :=
  (List.range (nPorts s)).filter (fun q => (portFace s q).1 == dim && (portFace s q).2.1 == plus)

/-- The length of a dimension (R389). -/
def dimLen (s : State) (i : Nat) : Nat :=
  match s.flash.topo with
  | some t => t.lens.getD i 1
  | none => 1

/-- The wrap flag of a dimension (R389). -/
def dimWrap (s : State) (i : Nat) : Bool :=
  match s.flash.topo with
  | some t => t.wraps.getD i false
  | none => false

/-- The coordinate of a package in a dimension (R17). -/
def coordOf (p i : Nat) : Nat := p / 8 ^ (3 - i) % 8

/-- The package `p` with coordinate `c` in dimension `i`. -/
def withCoord (p i c : Nat) : Nat := p - coordOf p i * 8 ^ (3 - i) + c * 8 ^ (3 - i)

/-- The coordinate that a port in a direction faces from `c`, if it expects a neighbour (R389). -/
def nextCoord (s : State) (dim c : Nat) (plus : Bool) : Option Nat :=
  let n := dimLen s dim
  if n ≤ 1 then none
  else if plus then
    if c + 1 < n then some (c + 1) else if dimWrap s dim then some 0 else none
  else if 0 < c then some (c - 1) else if dimWrap s dim then some (n - 1) else none

/-- The neighbour that a port of this package expects (R389). -/
def expectedNbr (s : State) (q : Nat) : Option Nat :=
  match s.flash.topo with
  | none => none
  | some _ =>
    let f := portFace s q
    (nextCoord s f.1 (coordOf (pkgNo s) f.1) f.2.1).map (withCoord (pkgNo s) f.1)

-- Routing (R391, R392).

/-- A port state in which a port carries no route: DOWN or DISABLED. -/
def portOff (p : Port) : Bool := p.st == .down || p.st == .disabled

/-- A port of this package that routes may use: one in UP, or, where `held`, one in RETRAINING, in which packets wait for
the retrain to finish (R388, assumption log 27). -/
def portUsable (held : Bool) (p : Port) : Bool := p.st == .up || (held && p.st == .retraining)

/-- The dimension-direction at package `p` has a port to use: this package by the states of its own ports, another by the
map of R392. -/
def faceAlive (s : State) (held : Bool) (p dim : Nat) (plus : Bool) : Bool :=
  if p = pkgNo s then (facePorts s dim plus).any (fun q => portUsable held (port s q))
  else (facePorts s dim plus).any (fun q =>
    !s.fab.downMap.contains { pkg := p, dim := dim, plus := plus, portB := (portFace s q).2.2 })

/-- The coordinates passed on the way from `c` to `d`, the start included, in a direction. -/
def wayFrom (s : State) (dim d : Nat) (plus : Bool) : Nat → Nat → List Nat
  | 0, _ => []
  | fuel + 1, c =>
    if c = d then []
    else match nextCoord s dim c plus with
      | some e => c :: wayFrom s dim d plus fuel e
      | none => [c]

/-- A direction reaches coordinate `d` with every face on its way alive. -/
def wayOpen (s : State) (held : Bool) (p dim d : Nat) (plus : Bool) : Bool :=
  (wayFrom s dim d plus 8 (coordOf p dim)).all (fun c =>
    (nextCoord s dim c plus).isSome && faceAlive s held (withCoord p dim c) dim plus)

/-- The direction of R391 in a dimension. -/
def shortWay (s : State) (dim c d : Nat) : Bool :=
  if dimWrap s dim then
    let n := dimLen s dim
    let f := (d + n - c) % n
    f ≤ n - f
  else c < d

/-- The direction of R391, or the other way round where that has no port to use and the dimension wraps (R392). -/
def openWay (s : State) (held : Bool) (p dim d : Nat) : Option Bool :=
  let way := shortWay s dim (coordOf p dim) d
  if wayOpen s held p dim d way then some way
  else if dimWrap s dim && wayOpen s held p dim d (!way) then some (!way) else none

/-- The direction of a packet in a dimension, chosen where it entered it, at package `p` (R391, R392): where that is this
package, a way whose ports are in UP goes before one on which a port retrains. -/
def chooseWay (s : State) (p dim d : Nat) : Option Bool :=
  match if p = pkgNo s then openWay s false p dim d else none with
  | some w => some w
  | none => openWay s true p dim d

/-- The first dimension in which this package differs from `dst`. -/
def routeDim (s : State) (dst : Nat) : Option Nat :=
  (List.range 4).find? (fun i => coordOf (pkgNo s) i != coordOf dst i)

/-- Dimension and direction of a packet's next hop from this package (R391): it keeps the direction chosen where it
entered the dimension, at its source's coordinate. -/
def nextHop (s : State) (src dst : Nat) : Option (Nat × Bool) :=
  match routeDim s dst with
  | none => none
  | some i => (chooseWay s (withCoord (pkgNo s) i (coordOf src i)) i (coordOf dst i)).map (fun w => (i, w))

/-- The parent of this package in the tree of R56: the first hop on its route to the master (R393). -/
def parentPkg (s : State) (master : Nat) : Option Nat :=
  match nextHop s (pkgNo s) master with
  | some (i, w) => (nextCoord s i (coordOf (pkgNo s) i) w).map (withCoord (pkgNo s) i)
  | none => none

/-- Dimension and direction of a packet's hop to this package: the last dimension in which it has moved (R391). -/
def lastHop (s : State) (h : Hdr) : Option (Nat × Bool) :=
  match (List.range 4).reverse.find? (fun i => coordOf (pkgNo s) i != coordOf h.src i) with
  | none => none
  | some i => (chooseWay s (withCoord (pkgNo s) i (coordOf h.src i)) i (coordOf h.dst i)).map (fun w => (i, w))

/-- The port by which a packet has come: the one that faces the way it came from, in UP and first of its pair where its row
does not tell (assumption log 62). -/
def arrivalPort (s : State) (h : Hdr) : Option Nat :=
  match lastHop s h with
  | none => none
  | some (i, w) =>
    let l := facePorts s i (!w)
    match l.find? (fun q => (port s q).st == .up) with
    | some q => some q
    | none => l.head?

/-- The die of a port (R384). -/
def portDie (q : Nat) : Nat := q / 2

/-- The die at which a packet of another package has come in. -/
def arrivalDie (s : State) (h : Hdr) : Nat :=
  match arrivalPort s h with
  | some q => portDie q
  | none => 0

-- Virtual channels (R387).

/-- 0: CTRL, 1: REQ, 2: RSP (R387). -/
def vcClass (i : Instr) : Nat :=
  let t := pktType i
  if t = 12 then 0 else if t = 2 ∨ t = 6 ∨ t = 7 ∨ t = 8 ∨ t = 11 then 2 else 1

/-- The dateline channel on the hop from coordinate `c`: 1 once the packet has crossed, or crosses with this hop, the
dimension's wrap-around link. -/
def dateline (s : State) (i : Instr) (dim c : Nat) (plus : Bool) : Nat :=
  match hdrOf i with
  | none => 0
  | some h =>
    let c0 := coordOf h.src dim
    let wraps := match nextCoord s dim c plus with
      | some e => if plus then e < c else c < e
      | none => false
    let crossed := if plus then c < c0 else c0 < c
    bit (wraps || crossed)

/-- Slots of 64 bytes that a packet takes (R385). -/
def pktSlots (i : Instr) : Nat := cdiv (32 + pktLength i) 64

/-- The channel in which a packet leaves by a port. -/
def vcOf (s : State) (q : Nat) (i : Instr) : Nat :=
  let f := portFace s q
  2 * vcClass i + dateline s i f.1 (coordOf (pkgNo s) f.1) f.2.1

/-- The channel in which a packet has come to port `q`: that in which the neighbour sent it. -/
def vcIn (s : State) (q : Nat) (i : Instr) : Nat :=
  let f := portFace s q
  let c := (nextCoord s f.1 (coordOf (pkgNo s) f.1) f.2.1).getD 0
  2 * vcClass i + dateline s i f.1 c (!f.2.1)

-- Frames (R385, R386, assumption log 71). `n0`: how many frames the retry buffer held before those being formed.

/-- The slots free in the frame being formed; 0 where none has been begun. -/
def openSlots (n0 : Nat) (p : Port) : Nat :=
  match (p.retry.drop n0).getLast? with
  | some f => 10 - f.used
  | none => 0

/-- A frame is begun with the next FSEQ, a control slot in its slot 0 where there is one to send. -/
def addFrame (c : Option LlcSlot) (cont : Option Instr) (taken : Nat) (p : Port) : Port :=
  { p with
    txSeq := (p.txSeq + 1) % 4096
    retry := p.retry ++ [{ fseq := p.txSeq, llc := c, runOn := cont, starts := [], used := bit c.isSome + taken }] }

/-- The list with its last element changed. -/
def changeLast {α : Type} (f : α → α) : List α → List α
  | [] => []
  | [x] => [f x]
  | x :: l => x :: changeLast f l

/-- A packet of which `n` slots are left runs on into further frames. -/
def runOnFrames (i : Instr) : Nat → Nat → Port → Port
  | 0, _, p => p
  | fuel + 1, n, p => if n = 0 then p else runOnFrames i fuel (n - 10) (addFrame none (some i) (Nat.min n 10) p)

/-- A packet takes the slots that follow those taken, and runs on into further frames (R385). -/
def putPacket (n0 : Nat) (i : Instr) (p : Port) : Port :=
  let p := if openSlots n0 p = 0 then addFrame none none 0 p else p
  let k := Nat.min (pktSlots i) (openSlots n0 p)
  runOnFrames i (pktSlots i) (pktSlots i - k)
    { p with retry := changeLast (fun f => { f with starts := f.starts ++ [i], used := f.used + k }) p.retry }

/-- The packet has the credits it needs, one for each slot, and room in the retry buffer, in which one frame is left for
control slots (R386, R387). -/
def mayGo (s : State) (q n0 : Nat) (p : Port) (i : Instr) : Bool :=
  pktSlots i ≤ p.credits.getD (vcOf s q i) 0 && pktSlots i ≤ openSlots n0 p + 10 * (2047 - p.retry.length)

/-- The first packet that may go of those that are each the first of their channel in the queue, so that no channel waits
behind another (R387). -/
def firstGo (s : State) (q n0 : Nat) (p : Port) : List Nat → List Instr → Option Instr
  | _, [] => none
  | seen, i :: l =>
    let v := vcOf s q i
    if seen.contains v then firstGo s q n0 p seen l
    else if mayGo s q n0 p i then some i
    else firstGo s q n0 p (v :: seen) l

/-- The packet of a class that may go next. -/
def classGo (s : State) (q n0 : Nat) (p : Port) (c : Nat) : Option Instr :=
  firstGo s q n0 p [] (p.queue.filter (fun i => vcClass i == c))

/-- The packet that a port sends next: CTRL always first; of REQ and RSP the one that has sent fewer slots while both could
go (R387). -/
def pickPacket (s : State) (q n0 : Nat) (p : Port) : Option Instr :=
  match classGo s q n0 p 0 with
  | some i => some i
  | none =>
    match classGo s q n0 p 1, classGo s q n0 p 2 with
    | some a, some b => if p.lead ≤ 0 then some b else some a
    | some a, none => some a
    | none, b => b

/-- How far RSP is ahead of REQ once packet `i` goes: nothing is owed where only one of them could. -/
def leadAfter (s : State) (q n0 : Nat) (p : Port) (i : Instr) : Int :=
  if vcClass i = 0 then p.lead
  else if (classGo s q n0 p 1).isSome && (classGo s q n0 p 2).isSome then
    if vcClass i = 2 then p.lead + pktSlots i else p.lead - pktSlots i
  else 0

/-- The list without its first element equal to `i`. -/
def dropOne (i : Instr) (l : List Instr) : List Instr :=
  match takeFirst (fun x => x == i) l with
  | some (_, rest) => rest
  | none => l

/-- A packet goes: it takes its slots and its credits (R385 to R387). -/
def transmit (q n0 : Nat) (i : Instr) (s : State) : State :=
  let p := port s q
  let v := vcOf s q i
  let p' : Port := { putPacket n0 i p with
    queue := dropOne i p.queue
    credits := p.credits.set v (p.credits.getD v 0 - pktSlots i)
    lead := leadAfter s q n0 p i }
  bump Cnt.lnkTxBytes q (32 + pktLength i) (setPort q p' s)

/-- The port's packets go as far as credits and the retry buffer allow. -/
def sendPackets (q n0 : Nat) (s : State) : State :=
  (List.range (port s q).queue.length).foldl (fun s _ =>
    match pickPacket s q n0 (port s q) with
    | some i => transmit q n0 i s
    | none => s) s

/-- The control slot that a port sends: what it has received so far, what it asks for again, and the credits it returns
(R385, R386). -/
def controlSlot (p : Port) : LlcSlot := { ack := some ((p.rxSeq + 4095) % 4096), nak := p.nakOut, credits := p.credOut }

/-- A control slot that is due takes slot 0 of a frame. -/
def sendControl (q : Nat) (s : State) : State :=
  let p := port s q
  if p.owes && decide (p.retry.length < 2048) then
    setPort q { addFrame (some (controlSlot p)) none 0 p with
      owes := false
      nakOut := none
      credOut := List.replicate 6 0 } s
  else s

/-- The frame control of a codeword: FSEQ in bits 11:0, LLC in bit 12 (R385). -/
def frameControl (f : TxFrame) : BitVec 20 := BitVec.ofNat 20 (f.fseq % 4096 + 4096 * bit f.llc.isSome)

/-- The lane that carries symbol `k` of a codeword: round robin over the lanes in service, ascending (R385). -/
def symbolLane (lanes k : Nat) : Option Nat :=
  let l := (List.range 8).filter (fun i => lanes.testBit i)
  l[k % l.length]?

/-- Frames are put on the link, each in a codeword over the lanes in service. -/
def putFrames (q : Nat) (l : List TxFrame) (s : State) : State :=
  { s with fab := { s.fab with
    tx := s.fab.tx ++ l.map (fun f => .codeword q (port s q).lanes (frameControl f) f) } }

/-- A port in UP sends what it may: a control slot that is due, then packets, in frames that follow those it has sent. -/
def pumpPort (q : Nat) (s : State) : State :=
  let p := port s q
  let n0 := p.retry.length
  if p.st ≠ .up then s
  else
    let s := if n0 = 0 then setPort q { p with ackFrom := s.now } s else s
    let s := sendPackets q n0 (sendControl q s)
    putFrames q ((port s q).retry.drop n0) s

/-- Frames of the retry buffer are put on the link again and counted (R386). -/
def resend (q : Nat) (l : List TxFrame) (s : State) : State :=
  if l = [] then s else bump Cnt.lnkReplay q l.length (putFrames q l s)

/-- Slots queued at a port. -/
def queuedSlots (p : Port) : Nat := sumNat (p.queue.map pktSlots)

/-- The port of a pair that takes a packet: one in UP with fewer slots queued, A on a tie; with none in UP, one that is
retraining holds it (R388, R391). -/
def pickPort (s : State) (dim : Nat) (plus : Bool) : Option Nat :=
  let l := facePorts s dim plus
  let ups := l.filter (fun q => (port s q).st == .up)
  match sortBy (fun a b => queuedSlots (port s a) ≤ queuedSlots (port s b)) ups with
  | q :: _ => some q
  | [] => l.find? (fun q => portUsable true (port s q))

/-- The counts and record of an unroutable packet (R392). -/
def unroutable (i : Instr) (s : State) : State :=
  let dst := match hdrOf i with
    | some h => h.dst
    | none => 0
  raise Ev.lnkUnroutable (srcOf 13 dst) [] (bump Cnt.lnkUnroutable 0 1 s)

/-- A packet is queued at a port. -/
def queueAt (q : Nat) (i : Instr) (s : State) : State :=
  let p := port s q
  pumpPort q (setPort q { p with queue := p.queue ++ [i] } s)

/-- A packet leaves this package, from die `o`, for its destination, its HOPS raised by one; whether it could be routed. While
a coupling on the way to its port's die is blocked, it waits (R28, R393). -/
def routeFrom (o : Nat) (i : Instr) (s : State) : State × Bool :=
  match hdrOf i with
  | none => (s, false)
  | some h =>
    match (nextHop s h.src h.dst).bind (fun w => pickPort s w.1 w.2) with
    | none => (unroutable i s, false)
    | some q =>
      if routeBlocked s o (portDie q) then
        ({ s with fab := { s.fab with crossing := s.fab.crossing ++ [(o, i)] } }, true)
      else (queueAt q (mapHdr (fun h => { h with hops := (h.hops + 1) % 256 }) i) s, true)

/-- The die from which a packet goes to its port: its own packets, the die of the row that sends them; another package's,
the die at which it came in. -/
def originDie (s : State) (h : Hdr) : Nat := if h.src = pkgNo s then s.mem.via.getD 0 else arrivalDie s h

/-- See routeFrom. -/
def routePacket (i : Instr) (s : State) : State × Bool :=
  match hdrOf i with
  | none => (s, false)
  | some h => routeFrom (originDie s h) i s

/-- A packet of this package is handed to its links and enters the digest of what it sent (R411); a package in QUARANTINED
sends none (R482). -/
def sendPacket (i : Instr) (s : State) : State × Bool :=
  match hdrOf i with
  | none => (s, false)
  | some h =>
    if s.dev = .quarantined then (s, false)
    else
    let r := routePacket i s
    if r.2 then (digest true h.dst i r.1, true) else r

/-- A packet whose loss answers nothing. -/
def sendPlain (i : Instr) (s : State) : State := (sendPacket i s).1

/-- A packet built for each member of the job but this package. -/
def toMembers (f : Hdr → Instr) (s : State) : State :=
  match s.job with
  | none => s
  | some j => (j.members.filter (fun p => p != pkgNo s)).foldl (fun s p => sendPlain (f (mkHdr s p 0)) s) s

-- Port states (R388, R392).

/-- Number of a port state in CMD_LNK_STATUS (R415). -/
def portCode : PortSt → Nat
  | .disabled => 0
  | .training => 1
  | .up => 2
  | .retraining => 3
  | .down => 4

/-- LINK_STATE for a port of this package goes to every member of the job (R392). -/
def sendLinkState (q : Nat) (s : State) : State :=
  let f := portFace s q
  toMembers (fun h => .linkState h (pkgNo s) f.1 f.2.1 f.2.2 (portCode (port s q).st)) s

/-- The packets of a retry buffer, in order: one of whose frames the first have been acknowledged goes again whole. -/
def retryPackets (l : List TxFrame) : List Instr :=
  match l with
  | [] => []
  | f :: _ => f.runOn.toList ++ l.flatMap (fun f => f.starts)

/-- What a port holds is taken from it, its frames counted as resent; the FSEQs of those frames are free again, as they will
not come on this link (assumption log 71). -/
def emptyPort (q : Nat) (s : State) : State :=
  let p := port s q
  let n := countIf (fun f => f.runOn.isSome || f.starts != []) p.retry
  let seq := match p.retry with
    | f :: _ => f.fseq
    | [] => p.txSeq
  let s := setPort q { p with retry := [], queue := [], txSeq := seq } s
  if n = 0 then s else bump Cnt.lnkReplay q n s

/-- The packets that a port holds, sent and queued. -/
def portPackets (p : Port) : List Instr := retryPackets p.retry ++ p.queue

/-- A port enters a state with a REASON. LINK_STATE follows when it enters or leaves DOWN or DISABLED. -/
def enterPort (q : Nat) (st : PortSt) (reason : Nat) (s : State) : State :=
  let p := port s q
  let s' := setPort q { p with st := st, reason := reason } s
  if (p.st = st) ∨ (portOff p = (st == .down || st == .disabled) ∧ !portOff p) then s' else sendLinkState q s'



/-- The frames of a retraining port are resent on the other port of its pair, where that is in UP (R388). -/
def handToPair (q : Nat) (s : State) : State :=
  let f := portFace s q
  let others := (facePorts s f.1 f.2.1).filter (fun r => r != q && (port s r).st == .up)
  match others with
  | [] => s
  | r :: _ =>
    let pkts := portPackets (port s q)
    let s := emptyPort q s
    let o := port s r
    pumpPort r (setPort r { o with queue := pkts ++ o.queue } s)

/-- A port enters RETRAINING (R388). -/
def startRetrain (q : Nat) (s : State) : State :=
  let p := port s q
  let s := setPort q { p with st := .retraining, since := s.now, matched := false, trained := none } s
  handToPair q (raise Ev.lnkRetrain (srcOf 7 q) [] (bump Cnt.lnkRetrain q 1 s))

/-- A port begins training (R388). -/
def startTraining (q : Nat) (s : State) : State :=
  let p := port s q
  let p' : Port := { coldPort with
    st := .training
    since := s.now
    nbrPkg := p.nbrPkg
    nbrPort := p.nbrPort
    queue := p.queue }
  let s' := setPort q p' s
  if portOff p then sendLinkState q s' else s'

/-- Every port takes the state its expected neighbour gives it: training, or DISABLED with REASON 1 (R388, R412). -/
def trainAll (s : State) : State :=
  (List.range (nPorts s)).foldl (fun s q =>
    if (expectedNbr s q).isSome then startTraining q s else setPort q { coldPort with reason := 1 } s) s

/-- The number of lanes in a bitmap. -/
def laneCount (l : Nat) : Nat := countIf (fun i => l.testBit i) (List.range 8)

/-- The lanes of a port that the merged fault map does not mark bad (R388, R502): kind 8. -/
def goodLanes (s : State) (q lanes : Nat) : Nat :=
  let bad := (s.fuse.faults.filter (fun e => e.kind == 8 && e.unitNo == q)).map (fun e => e.sub)
  bitmap ((List.range 8).map (fun i => lanes.testBit i && !bad.contains i))

/-- The port sends its HELLO (R390). -/
def sendHello (q : Nat) (s : State) : State :=
  let f := portFace s q
  let co := (List.range 4).map (coordOf (pkgNo s))
  let h : Hdr := { mkHdr s 0 0 with hops := 1 }
  let i : Instr := .hello h q co (codeByte s.fuse.code) f.1 f.2.1 f.2.2 q
  { s with fab := { s.fab with tx := s.fab.tx ++ [.hello q i] } }

-- Credits returned (R385, R387).

/-- Lists of credits by channel, added. -/
def addCredits (a b : List Nat) : List Nat := (List.range 6).map (fun v => a.getD v 0 + b.getD v 0)

/-- A packet that has come in has left its port's receive buffer: the credits of its channel go back with a control slot. -/
def returnCredits (i : Instr) (h : Hdr) (s : State) : State :=
  match arrivalPort s h with
  | none => s
  | some q =>
    let p := port s q
    let v := vcIn s q i
    pumpPort q (setPort q { p with
      owes := true
      credOut := p.credOut.set v (p.credOut.getD v 0 + pktSlots i) } s)

end Sys2Proof.Machine
end

