-- ==== Sys2Proof/Machine/Tables.lean ====
section
/-! DEFINITION. Embedding tables (R204 to R211, R229): homes, rows, storage, and the optimiser step of R214. -/

namespace Sys2Proof.Machine

/-- Table `t` of this package. -/
def table (s : State) (t : Nat) : Option Table := mapGet s.pool.tables t

/-- Table `t` becomes `tb`. -/
def setTable (t : Nat) (tb : Table) (s : State) : State :=
  { s with pool := { s.pool with tables := mapSet s.pool.tables t tb } }

-- The fields of R229.

def Table.width (tb : Table) : Nat := field tb.payload 32 16
def Table.opt (tb : Table) : Nat := field tb.payload 18 3
def Table.rows (tb : Table) : Nat := field tb.payload 64 64
def Table.place (tb : Table) : Nat := field tb.payload 22 1
def Table.migEnable (tb : Table) : Bool := flag tb.payload 24
def Table.stoch (tb : Table) : Bool := flag tb.payload 21
def Table.migSlots (tb : Table) : Nat := field tb.payload 128 32
def Table.dirEntries (tb : Table) : Nat := field tb.payload 160 32
def Table.migWindow (tb : Table) : Nat := field tb.payload 416 8
def Table.migMin (tb : Table) : Nat := field tb.payload 424 16
def Table.migShare (tb : Table) : Nat := field tb.payload 440 8
def Table.migPerStep (tb : Table) : Nat := field tb.payload 448 16
def Table.migCooldown (tb : Table) : Nat := field tb.payload 464 16
def Table.word (tb : Table) (lo : Nat) : W32 := BitVec.ofNat 32 (field tb.payload lo 32)

/-- The FMT code of EMB_FMT (R229, R239). -/
def embFmt (p : List Byte) : Nat :=
  match field p 16 2 with
  | 0 => 13
  | 1 => 0
  | _ => 1

/-- The packages of HOMES, ascending (R205). -/
def Table.homes (tb : Table) : List Nat :=
  let b := leNat (slice tb.payload 64 512)
  (List.range 4096).filter (fun p => b.testBit p)

-- Row layout (R209).

/-- `n` rounded up to a multiple of 32. -/
def up32 (n : Nat) : Nat := 32 * cdiv n 32

/-- Bytes of the embedding part. -/
def embBytes (p : List Byte) : Nat := up32 (field p 32 16 * elemBytes (embFmt p))

/-- Bytes of one moment. -/
def momentBytes (p : List Byte) : Nat := up32 (field p 32 16 * 4)

/-- ROW_STRIDE (R209). -/
def rowStride (p : List Byte) : Nat :=
  let opt := field p 18 3
  embBytes p + 32 + (if opt = 1 ∨ opt = 3 then momentBytes p else 0) + (if opt = 3 then momentBytes p else 0)

-- Homes (R205 to R207).

/-- The position of a row's default home and its local index (R205). -/
def rowPlace (p : List Byte) (homes : List Nat) (r : Nat) : Nat × Nat :=
  let n := homes.length
  if field p 22 1 = 0 then (r % n, r / n)
  else
    let b := cdiv (field p 64 64) n
    (r / b, r - b * (r / b))

/-- The package that acts for package `p`: its substitute where it is dead (R478). -/
def Table.acts (tb : Table) (p : Nat) : Nat :=
  match tb.heirs.find? (fun h => h.dead == p) with
  | some h => h.sub
  | none => p

/-- The default home that the payload gives a row (R205). -/
def Table.firstHome (tb : Table) (r : Nat) : Nat := tb.homes.getD (rowPlace tb.payload tb.homes r).1 0

/-- The default home of a row, or who acts for it. -/
def Table.defaultHome (tb : Table) (r : Nat) : Nat := tb.acts (tb.firstHome r)

/-- The number of rows whose default home is package `pkg` (R206). -/
def localRows (p : List Byte) (homes : List Nat) (pkg : Nat) : Nat :=
  let rows := field p 64 64
  let n := homes.length
  match (List.range n).find? (fun k => homes.getD k 0 == pkg) with
  | none => 0
  | some k =>
    if field p 22 1 = 0 then (if rows ≤ k then 0 else (rows - k - 1) / n + 1)
    else
      let b := cdiv rows n
      Nat.min b (rows - b * k)

/-- The directory entry of a row. -/
def Table.entry (tb : Table) (r : Nat) : Option DirEntry := tb.dir.find? (fun e => e.row == r)

/-- The package in whose layout a row lies: by its directory entry or its default home. -/
def Table.origin (tb : Table) (r : Nat) : Nat :=
  match tb.entry r with
  | some e => e.home
  | none => tb.firstHome r

/-- The current home of a row under this package's directory copy (R207). -/
def Table.home (tb : Table) (r : Nat) : Nat := tb.acts (tb.origin r)

/-- SLOT of a row in its default storage (R235). -/
def noSlot : Nat := 0xFFFFFFFF

/-- The index of a row's storage in the region of package `p` (R206): its migration slot after the local rows, or its
local index. -/
def storeIndex (tb : Table) (p r slot : Nat) : Nat :=
  if slot = noSlot then (rowPlace tb.payload tb.homes r).2 else localRows tb.payload tb.homes p + slot

/-- The region here that stores the rows of package `p`: this package's own, or one taken over (R480). -/
def regionFor (s : State) (tb : Table) (p : Nat) : Option Nat :=
  if p = pkgNo s then tb.region else (tb.heirs.find? (fun h => h.dead == p)).bind (fun h => h.region)

/-- The local address of storage index `i` of package `p`'s layout, where this package stores it. -/
def storeAddr (s : State) (tb : Table) (p i : Nat) : Option Nat :=
  match regionFor s tb p with
  | none => none
  | some id => (mapGet s.mem.regions id).map (fun r => r.base + i * rowStride tb.payload)

/-- The slot in which a row lies: its migration slot or its default storage. -/
def slotHere (tb : Table) (row : Nat) : Nat :=
  match tb.entry row with
  | some e => e.slot
  | none => noSlot

/-- Where this package stores a row of which it is the current home. -/
def rowAddr (s : State) (tb : Table) (r : Nat) : Option Nat :=
  if tb.home r = pkgNo s then storeAddr s tb (tb.origin r) (storeIndex tb (tb.origin r) r (slotHere tb r)) else none

/-- Where this package keeps the copy of a row that it homed when its migration started: in package `p`'s layout, at its
slot then, or default. -/
def oldAddr (s : State) (tb : Table) (p r oldSlot : Nat) : Option Nat := storeAddr s tb p (storeIndex tb p r oldSlot)

/-- The row that storage index `i` of package `p`'s layout holds: by default storage, or by its migration slot, whose row
the directory names, or which it has left (R206, R220, R224). -/
def rowAtIndex (tb : Table) (p i : Nat) : Option Nat :=
  let n := tb.homes.length
  let loc := localRows tb.payload tb.homes p
  if i < loc then
    match (List.range n).find? (fun k => tb.homes.getD k 0 == p) with
    | none => none
    | some k => some (if tb.place = 0 then i * n + k else cdiv tb.rows n * k + i)
  else
    match tb.dir.find? (fun e => e.home == p && e.slot == i - loc) with
    | some e => some e.row
    | none =>
      match tb.migs.find? (fun m => m.st == .forwarding && m.oldPkg == p && m.oldSlot == i - loc) with
      | some m => some m.row
      | none => (tb.gone.find? (fun e => e.1 == i - loc)).map (fun e => e.2)

/-- Where this package stores a row's shadow (R220). -/
def shadowAddr (s : State) (tb : Table) (x : Shadow) : Option Nat :=
  let p := if x.slot = noSlot then tb.firstHome x.row else pkgNo s
  storeAddr s tb p (storeIndex tb p x.row x.slot)

/-- Where a row that this package commits lies: at its current home here, or as the old copy of a migration (R222). -/
def commitAddr (s : State) (tb : Table) (row : Nat) : Option Nat :=
  match rowAddr s tb row with
  | some a => some a
  | none => (tb.migs.find? (fun m => m.row == row)).bind (fun m => oldAddr s tb m.oldPkg row m.oldSlot)

/-- Where a row's contributions belong here: where it is committed, or where its shadow is. -/
def rowStore (s : State) (tb : Table) (row : Nat) : Option Nat :=
  match commitAddr s tb row with
  | some a => some a
  | none => (tb.shadows.find? (fun x => x.row == row)).bind (shadowAddr s tb)

/-- The package whose rows the region that begins at `base` stores here. -/
def regionOwner (s : State) (tb : Table) (base : Nat) : Nat :=
  let at' : Heir → Bool := fun h => match h.region.bind (fun id => mapGet s.mem.regions id) with
    | some r => r.base == base
    | none => false
  match tb.heirs.find? at' with
  | some h => h.dead
  | none => pkgNo s

/-- The row whose storage holds a local address of the table's region that begins at `base`. -/
def rowAtAddr (s : State) (tb : Table) (base a : Nat) : Option Nat :=
  rowAtIndex tb (regionOwner s tb base) ((a - base) / rowStride tb.payload)

/-- The rows whose storage `n` bytes from `a` touch, in a table's region that begins at `base`. -/
def rowsIn (s : State) (tb : Table) (base a n : Nat) : List Nat :=
  (unitsOf (rowStride tb.payload) (a - base) n).filterMap (rowAtIndex tb (regionOwner s tb base))

/-- The part of each row's storage in `n` bytes from `a`, in a table's region that begins at `base`: where it begins, and
its bytes. -/
def rowParts (tb : Table) (base a n : Nat) : List (Nat × Nat) :=
  let k := rowStride tb.payload
  (unitsOf k (a - base) n).map (fun i =>
    let lo := Nat.max a (base + i * k)
    (lo, Nat.min (a + n) (base + i * k + k) - lo))

/-- Where package `home` keeps a row in the layout of package `p`: the requester's address for it (R395). -/
def remoteRowAddr (tb : Table) (t p home r slot : Nat) : Nat :=
  let a := Sys2Proof.Config.tableBase p t + storeIndex tb p r slot * rowStride tb.payload
  if home = p then a else Sys2Proof.Config.heirAddr home p a

-- Row images (R209, R210).

/-- A header at its reset values (R211). -/
def resetHeader (p : List Byte) : List Byte :=
  let opt := field p 18 3
  let aux := if opt = 2 then field p 384 32 else if opt = 3 then 0x3F800000 else 0
  let aux2 := if opt = 3 then 0x3F800000 else 0
  pack 32 [(32, 32, aux), (64, 32, aux2), (128, 64, max64), (192, 64, max64)]

/-- A row as CMD_EMB_TABLE_CREATE writes it (R211). -/
def resetRow (p : List Byte) : List Byte :=
  padTo (rowStride p) (zeros (embBytes p) ++ resetHeader p)

/-- The state header of a row image. -/
def rowHeader (p image : List Byte) : List Byte := slice image (embBytes p) 32

/-- LAST_STEP of a header. -/
def lastStep (h : List Byte) : Nat := field h 128 64

/-- LAST_MIG of a header. -/
def lastMig (h : List Byte) : Nat := field h 192 64

/-- The embedding elements of a row image, as FP32 (R214). -/
def rowWeights (p image : List Byte) : List W32 :=
  let f := embFmt p
  (groupsOf (elemBytes f) (field p 32 16) image).map (decElem f)

/-- The `i`-th moment of a row image. -/
def rowMoment (p image : List Byte) (i : Nat) : List W32 :=
  (words32 (slice image (embBytes p + 32 + i * momentBytes p) (field p 32 16 * 4)))

-- The optimiser step (R214).

/-- What R214 computes for a row: weights before conversion, first moments, second moments, AUX and AUX2. -/
structure OptOut where
  w : List W32
  m : List W32
  v : List W32
  aux : W32
  aux2 : W32
  deriving DecidableEq, Repr

/-- w[i] - lr * (x + wd * w[i]). -/
def decayed (hy : HyperSet) (w x : W32) : W32 := sub32 w (mul32 hy.lr (add32 x (mul32 hy.wd w)))

/-- R214 for one row: `sum` is the sum of its contributions. -/
def optStep (tb : Table) (hy : HyperSet) (sum w m v : List W32) (aux aux2 : W32) : OptOut :=
  let beta1 := tb.word 224
  let beta2 := tb.word 256
  let eps := tb.word 288
  let one : W32 := 0x3F800000
  let g := sum.map (fun x => mul32 x hy.gs)
  match tb.opt with
  | 0 => { w := List.zipWith (fun w g => decayed hy w g) w g, m := m, v := v, aux := aux, aux2 := aux2 }
  | 1 =>
    let m' := List.zipWith (fun m g => add32 (mul32 beta1 m) g) m g
    { w := List.zipWith (fun w m => decayed hy w m) w m', m := m', v := v, aux := aux, aux2 := aux2 }
  | 2 =>
    let q := g.foldl (fun a x => add32 a (mul32 x x)) (0 : W32)
    let aux' := add32 aux (div32 q (nat32 tb.width))
    let r := add32 (sqrt32 aux') eps
    { w := List.zipWith (fun w g => decayed hy w (div32 g r)) w g, m := m, v := v, aux := aux', aux2 := aux2 }
  | _ =>
    let omb1 := sub32 one beta1
    let omb2 := sub32 one beta2
    let aux' := mul32 aux beta1
    let aux2' := mul32 aux2 beta2
    let c1 := sub32 one aux'
    let c2 := sub32 one aux2'
    let m' := List.zipWith (fun m g => add32 (mul32 beta1 m) (mul32 omb1 g)) m g
    let v' := List.zipWith (fun v g => add32 (mul32 beta2 v) (mul32 omb2 (mul32 g g))) v g
    let d := List.zipWith (fun m v => div32 (div32 m c1) (add32 (sqrt32 (div32 v c2)) eps)) m' v'
    { w := List.zipWith (fun w d => decayed hy w d) w d, m := m', v := v', aux := aux', aux2 := aux2' }

/-- The random word of a row update for element `i` (R253). -/
def rowRandom (job t row step i : Nat) : Nat :=
  let c1 := row / 2 ^ 32 % 256 + (i / 4 % 4096) * 2 ^ 8 + t * 2 ^ 20
  let c3 := 0xE0000000 + step / 2 ^ 32 % 2 ^ 24
  philoxWord (philox job (row % 2 ^ 32) c1 (step % 2 ^ 32) c3) i

/-- The words of the new embedding part, converted to EMB_FMT (R214). -/
def convWeights (tb : Table) (job t row step : Nat) (w : List W32) : List Nat :=
  let f := embFmt tb.payload
  (w.zip (List.range w.length)).map (fun e =>
    encElem f (if tb.stoch && f != 13 then some (rowRandom job t row step e.2) else none) e.1)

/-- A word of EMB_FMT is a NaN or an infinity. -/
def badElem (fmt w : Nat) : Bool := nonfinite32 (decElem fmt w)

/-- The row image that an update of step `n` writes, unless a value of it is not finite (R213). -/
def updatedRow (tb : Table) (hy : HyperSet) (job t row n : Nat) (sum : List W32) (image : List Byte) :
    Option (List Byte) :=
  let p := tb.payload
  let f := embFmt p
  let h := rowHeader p image
  let aux := BitVec.ofNat 32 (field h 32 32)
  let aux2 := BitVec.ofNat 32 (field h 64 32)
  let o := optStep tb hy sum (rowWeights p image) (rowMoment p image 0) (rowMoment p image 1) aux aux2
  let ws := convWeights tb job t row n o.w
  let moms := (if tb.opt = 1 ∨ tb.opt = 3 then o.m else []) ++ (if tb.opt = 3 then o.v else [])
  if ws.any (badElem f) || moms.any nonfinite32 || nonfinite32 o.aux || nonfinite32 o.aux2 then none
  else
    let emb := padTo (embBytes p) (ws.flatMap (toLE (elemBytes f)))
    let hd := pack 32 [(0, 32, sat 0xFFFFFFFF (field h 0 32 + 1)), (32, 32, o.aux.toNat), (64, 32, o.aux2.toNat),
      (96, 32, field h 96 32), (128, 64, n), (192, 64, lastMig h)]
    let mp := if tb.opt = 1 ∨ tb.opt = 3 then padTo (momentBytes p) (bytes32 o.m) else []
    let vp := if tb.opt = 3 then padTo (momentBytes p) (bytes32 o.v) else []
    some (emb ++ hd ++ mp ++ vp)

/-- JOB_ID of the job; zero outside one (R253). -/
def jobId (s : State) : Nat :=
  match s.job with
  | some j => j.id
  | none => 0

/-- The hyperparameters in force for step `n` (R234). -/
def hyperAt (tb : Table) (n : Nat) : HyperSet :=
  (sortBy (fun a b => a.1 ≤ b.1) (tb.hyperNext.filter (fun e => e.1 ≤ n))).foldl (fun _ e => e.2) tb.hyper

end Sys2Proof.Machine
end

