-- ==== Sys2Proof/Machine/Pool.lean ====
section
/-! DEFINITION. The home side of the pool: staging (R62 to R66), row updates and their commit (R212 to R216), hot rows and
migration (R217 to R225). -/

namespace Sys2Proof.Machine

-- Requests of this package.

/-- A request is under way. -/
def addPend (p : Pend) (s : State) : State := { s with fab := { s.fab with pend := s.fab.pend ++ [p] } }

/-- The request with a TAG. -/
def findPend (s : State) (tag : Nat) : Option Pend := s.fab.pend.find? (fun p => p.tag == tag)

/-- A request is answered. -/
def dropPend (tag : Nat) (s : State) : State :=
  { s with fab := { s.fab with pend := s.fab.pend.filter (fun p => p.tag != tag) } }

/-- An answer of this package: to another, a packet; to itself, its own request is answered (R49). -/
def ackTo (h : Hdr) (status : Nat) (s : State) : State :=
  if h.src = pkgNo s then dropPend h.tag s else sendPlain (.poolAck (replyHdr s h) status) s

/-- A bad access of logical core `lc` is counted and recorded (R349). -/
def badAccessOf (lc : Nat) (s : State) : State := raise Ev.memBadAddr (srcOf 3 lc) [] (bump Cnt.memBadAddr lc 1 s)

/-- A write or row update of this package is refused: a bad address is a bad access of its core (R398); a row update for
an absent table or a home that is no member is discarded and counted (R204, R208). -/
def refuseWrite (tag reason : Nat) (s : State) : State :=
  match findPend s tag with
  | none => s
  | some p =>
    let s := dropPend tag s
    match p.kind with
    | .write (some lc) => if reason = 2 then badAccessOf lc s else s
    | .rowUpdate _ _ => if reason = 3 ∨ reason = 4 then bump Cnt.embUnreach 0 1 s else s
    | _ => s

/-- POOL_ERR to the sender of a request (R395). -/
def errTo (h : Hdr) (reason : Nat) (s : State) : State :=
  if h.src = pkgNo s then refuseWrite h.tag reason s
  else sendPlain (.poolErr (replyHdr s h) reason (epochOf s)) s

-- The staging area (R62, R65).

/-- The bytes of staging area of each die in the running job. -/
def stageSectors (s : State) : Nat :=
  match s.job with
  | some j => j.stageMib * 32768
  | none => 32 * 32768

/-- The sectors of a contribution. -/
def contribSectors (c : Contrib) : Nat := cdiv (4 * c.elems.length) 32

/-- The die whose staging area holds a row's contributions: the home die of the row's first byte. -/
def rowDie (s : State) (tb : Table) (r : Nat) : Nat :=
  match rowStore s tb r with
  | some a => homeDie s a
  | none => 0

/-- The sectors of the row copies of a table staged on die `d` (R221). -/
def copySectors (s : State) (tb : Table) (d : Nat) : Nat :=
  sumNat (tb.shadows.map (fun x => match x.image with
    | some b => if rowDie s tb x.row = d then cdiv b.length 32 else 0
    | none => 0))

/-- Sectors of die `d`'s staging area in use: staged, and committed but not yet written back (R64, R65). -/
def stageUsed (s : State) (d : Nat) : Nat :=
  countIf (fun e => homeDie s e.addr == d) s.pool.staged
    + sumNat (s.pool.contribs.map (fun c => match table s c.table with
        | some tb => if rowDie s tb c.row = d then contribSectors c else 0
        | none => 0))
    + sumNat (s.pool.tables.map (fun e => copySectors s e.2 d))
    + mapGetD s.pool.writeback d 0

/-- `n` more sectors fit on die `d`. -/
def stageFits (s : State) (d n : Nat) : Bool := stageUsed s d + n ≤ stageSectors s

/-- A pooled write is held back by flow control until the next departure (R65). -/
def holdWrite (i : Instr) (s : State) : State :=
  bump Cnt.ttStageFull 0 1 { s with pool := { s.pool with full := s.pool.full ++ [i] } }

/-- The staged entries of a store or accumulate: one for each sector, with its mark. -/
def stagedOf (step origin addr : Nat) (accum : Bool) (data : List Byte) (marks : List Bool) : List Staged :=
  (List.range (data.length / 32)).map (fun k =>
    { step := step, origin := origin, addr := addr + 32 * k, accum := accum, poison := marks.getD k false,
      data := slice data (32 * k) 32 })

/-- A store or accumulate at its home (R62, R208, R349, R398). -/
def stageWrite (i : Instr) (h : Hdr) (addr : Nat) (accum : Bool) (data : List Byte) (marks : List Bool) (s : State) :
    State :=
  match regionOfRange s addr data.length with
  | none => errTo h 2 s
  | some (_, r) =>
    if !r.pooled || !r.progW then errTo h 2 s
    else if r.table.isSome then
      ackTo h 1 (raise Ev.embBadRow (srcOf 11 (r.table.getD 0)) [] (bump Cnt.embBadWr 0 1 s))
    else
      let s := touchHomes addr data.length s
      let dies := setUnion [] ((unitsOf 32 addr data.length).map (fun x => homeDie s (x * 32)))
      let need : Nat → Nat := fun d => countIf (fun x => homeDie s (x * 32) == d) (unitsOf 32 addr data.length)
      if dies.all (fun d => stageFits s d (need d)) then
        ackTo h 0 { s with pool := { s.pool with
          staged := s.pool.staged ++ stagedOf h.step h.src addr accum data marks } }
      else holdWrite i s

-- Trackers (R217).

/-- Accesses of an entry over its window. -/
def trackTotal (e : Track) : Nat := sumNat (e.win.map (fun w => w.1))

/-- Accesses of requester `p` over the window. -/
def trackBy (e : Track) (p : Nat) : Nat := sumNat (e.win.map (fun w => mapGetD w.2 p 0))

/-- The requesters that an entry counts. -/
def trackReqs (e : Track) : List Nat := setUnion [] (e.win.flatMap (fun w => mapKeys w.2))

/-- One access by `src`: a local one counts in the total alone, and at most four requesters are counted. -/
def trackHit (own src : Nat) (e : Track) : Track :=
  let counted := src != own && ((trackReqs e).contains src || (trackReqs e).length < 4)
  match e.win with
  | [] => { e with win := [(1, if counted then [(src, 1)] else [])] }
  | w :: ws => { e with win := (w.1 + 1, if counted then mapUpd w.2 src 0 (fun n => n + 1) else w.2) :: ws }

/-- A row's access at its home die (R217). -/
def trackAccess (t row src : Nat) (s : State) : State :=
  match table s t with
  | none => s
  | some tb =>
    if !tb.migEnable then s
    else
      let own := pkgNo s
      let d := rowDie s tb row
      let l := mapGetD tb.trackers d []
      let fresh := trackHit own src { row := row, win := [] }
      let l' :=
        if l.any (fun e => e.row == row) then l.map (fun e => if e.row = row then trackHit own src e else e)
        else if l.length < 1024 then l ++ [fresh]
        else
          match sortBy (fun a b => trackTotal a < trackTotal b || (trackTotal a == trackTotal b && a.row ≤ b.row)) l with
          | v :: _ => if trackTotal v ≤ 1 then l.filter (fun e => e.row != v.row) ++ [fresh] else l
          | [] => l
      setTable t { tb with trackers := mapSet tb.trackers d l' } s

-- Committing rows (R213, R216).

/-- A commit writes pooled memory: with MIRROR = 1 its sectors are noted for the buddy (R479). -/
def commitWrite (a : Nat) (data : List Byte) (s : State) : State :=
  let s := homeWrite a data s
  if s.chk.spares.mirror then
    { s with chk := { s.chk with dirty := setUnion s.chk.dirty (unitsOf 32 a data.length) } }
  else s

/-- The contributions of step `n` to a row, a shadow's in sequence order (R222). -/
def rowContribs (s : State) (t row n : Nat) : List Contrib :=
  sortBy (fun a b => a.seq ≤ b.seq) (s.pool.contribs.filter (fun c => c.table == t && c.row == row && c.step == n))

/-- The element sums, in order: the first exact, each further one added in FP32 (R213). -/
def sumContribs : List Contrib → List W32
  | [] => []
  | c :: cs => cs.foldl (fun a d => List.zipWith add32 a d.elems) c.elems

/-- The update of a row with the sum of its contributions for step `n` (R213): counts, records, one write. -/
def updateRow (t row n addr : Nat) (sum : List W32) (tb : Table) (s : State) : State :=
  let k := rowStride tb.payload
  let x := homeRead false addr k s
  let image := x.1
  let s := x.2.2
  let ls := lastStep (rowHeader tb.payload image)
  if x.2.1.any id then
    if ls ≠ max64 ∧ n ≤ ls ∧ !(poisonMarks s (addr + embBytes tb.payload) 32).any id then
      raise Ev.embDupCommit (srcOf 11 t) [] (bump Cnt.embDupCommit 0 1 s)
    else raise Ev.embPoison (srcOf 11 t) [] (bump Cnt.embUpdPoison 0 1 s)
  else if ls ≠ max64 ∧ n ≤ ls then raise Ev.embDupCommit (srcOf 11 t) [] (bump Cnt.embDupCommit 0 1 s)
  else
    match updatedRow tb (hyperAt tb n) (jobId s) t row n sum image with
    | none => raise Ev.embNonfinite (srcOf 11 t) [] (bump Cnt.embUpdNonfinite 0 1 s)
    | some new => bump Cnt.embUpdRow 0 1 (commitWrite addr new s)

/-- The row's update for the ended step is written (R213, R216). -/
def commitRow (t row : Nat) (s : State) : State :=
  match table s t with
  | none => s
  | some tb =>
    if !tb.committing.contains row then s
    else
      let n := s.pool.commitStep
      let cs := rowContribs s t row n
      let s := setTable t { tb with committing := tb.committing.filter (fun r => r != row) } s
      let gone : Contrib → Bool := fun c => c.table == t && c.row == row && c.step == n
      let s := { s with pool := { s.pool with contribs := s.pool.contribs.filter (fun c => !gone c) } }
      match commitAddr s tb row with
      | none => s
      | some a => if cs = [] then s else updateRow t row n a (sumContribs cs) tb s

/-- Every row of a table whose update is not yet written. -/
def commitTable (t : Nat) (s : State) : State :=
  match table s t with
  | none => s
  | some tb => tb.committing.foldl (fun s r => commitRow t r s) s

/-- Every pending row update of the package is written. -/
def commitAllRows (s : State) : State := (mapKeys s.pool.tables).foldl (fun s t => commitTable t s) s

/-- A read of rows of which some update is pending waits for it; the engine takes those rows first (R216). -/
def awaitRows (t : Nat) (rows : List Nat) (s : State) : State :=
  match table s t with
  | none => s
  | some tb =>
    let l := rows.filter (fun r => tb.committing.contains r)
    if l = [] then s else l.foldl (fun s r => commitRow t r s) (bump Cnt.embCommitWait 0 1 s)

-- Pooled reads at the home (R66, R208, R223, R224).

/-- Where a read of a row that this package does not serve is sent: the target of a migration it is forwarding, or the
current home (R223, R224). -/
inductive RowRoute where
  | here
  | forward (home slot : Nat)
  | elsewhere (home slot : Nat)
  deriving DecidableEq, Repr

/-- See RowRoute. -/
def rowRoute (s : State) (tb : Table) (row : Nat) : RowRoute :=
  match tb.migs.find? (fun m => m.row == row && m.st == .forwarding) with
  | some m => .forward m.target m.newSlot
  | none =>
    if tb.home row = pkgNo s then .here
    else .elsewhere (tb.home row) (slotHere tb row)

/-- A misroute is counted and recorded (R224). -/
def misroute (t : Nat) (s : State) : State := raise Ev.embMisroute (srcOf 11 t) [] (bump Cnt.embMisroute 0 1 s)

/-- The reads served under a key in the step rise by one; whether that makes it hot (R173). -/
def countRead (k : Nat) (s : State) : State × Bool :=
  let n := mapGetD s.pool.reads k 0 + 1
  ({ s with pool := { s.pool with reads := mapSet s.pool.reads k n } }, s.pool.gthCfg.hotReads ≤ n)

/-- The key of a table row's reads. -/
def rowKey (t row : Nat) : Nat := t * 2 ^ 40 + row

/-- The key of the reads of a flat row, which its home knows by the address read (assumption log 60). -/
def flatKey (a : Nat) : Nat := 2 ^ 48 + a

/-- The reads of several rows are counted; whether one of them is hot. -/
def countReads (t : Nat) (rows : List Nat) (s : State) : State × Bool :=
  rows.foldl (fun (acc : State × Bool) r =>
    let c := countRead (rowKey t r) acc.1
    (c.1, acc.2 || c.2)) (s, false)

/-- What a pooled read at its home gives: data with its marks and the hot flag, a forwarding reply, or a refusal. -/
inductive PoolAnswer where
  | data (bytes : List Byte) (marks : List Bool) (hot : Bool)
  | forward (home slot : Nat)
  | bad
  deriving DecidableEq, Repr

/-- The bytes that a pooled read returns. -/
def poolData (a n : Nat) (c : State × Bool) : PoolAnswer × State :=
  let x := homeRead false a n c.1
  (.data x.1 x.2.1 c.2, x.2.2)

/-- A pooled read by package `src` of `n` bytes at local address `a` (R66, R208, R216, R217): of all the rows that it
touches. -/
def poolReadAt (src a n : Nat) (s : State) : PoolAnswer × State :=
  match regionOfRange s a n with
  | none => (.bad, s)
  | some (_, r) =>
    if !r.pooled || !r.progR then (.bad, s)
    else
      match r.table.bind (fun t => (table s t).map (fun tb => (t, tb))) with
      | none => poolData a n (countRead (flatKey a) s)
      | some (t, tb) =>
        let rows := rowsIn s tb r.base a n
        match (rows.map (rowRoute s tb)).find? (fun x => x != .here) with
        | some (.forward home slot) => (.forward home slot, bump Cnt.embFwdReply 0 1 s)
        | some (.elsewhere home slot) => (.forward home slot, misroute t s)
        | _ =>
          let s := rows.foldl (fun s row => trackAccess t row src s) (awaitRows t rows s)
          poolData a n (countReads t rows s)

/-- POOL_READ at the home (R395, R398). -/
def servePoolRead (h : Hdr) (addr nsect : Nat) (s : State) : State :=
  match poolReadAt h.src addr (nsect * 32) s with
  | (.data b marks hot, s) => sendPlain (.poolData (replyHdr s h) hot (bitmap marks) b) s
  | (.forward home slot, s) => sendPlain (.poolFwd (replyHdr s h) home slot) s
  | (.bad, s) => errTo h 2 s

-- Row updates at the home (R208, R212, R222 to R224, R395).

/-- Who acts for package `p` in the job: a substitute for a dead one, if any (R478). -/
def actingFor (s : State) (p : Nat) : Option Nat :=
  match s.chk.substs.find? (fun x => x.dead == p) with
  | some x => x.acting
  | none => some p

/-- A global address with a dead package's number replaced by its substitute's, and the address there (R478). -/
def aimed (s : State) (g : Nat) : Nat :=
  match actingFor s (gPkg g) with
  | some q => if q = gPkg g then g else q * 2 ^ 42 + Sys2Proof.Config.heirAddr q (gPkg g) (gLocal g) % 2 ^ 42
  | none => g

/-- A request of this package to another: it is refused at once where that package is no member or cannot be reached. -/
def sendReq (dst : Nat) (kind : PendKind) (f : Hdr → Instr) (s : State) : State × Bool :=
  if !isMember s dst then (s, false)
  else
    let g := freshTag s
    let s := g.2
    let r := sendPacket (f (mkHdr s dst g.1)) s
    if r.2 then
      (addPend { tag := g.1, dst := dst, step := s.step, time := s.now, kind := kind } r.1, true)
    else r

/-- The sender `src` of a request with TAG `tag`, as a header to answer. -/
def senderHdr (s : State) (src tag : Nat) : Hdr := { mkHdr s 0 tag with src := src }

/-- A contribution of `origin` for step `n` goes on to the row's new home, as a request whose answer `kind` names. -/
def sendForward (t row target n origin seq : Nat) (kind : PendKind) (elems : List W32) (s : State) : State × Bool :=
  sendReq target kind (fun g => .forwardedContribution { g with step := n } row t origin seq (bytes32 elems)) s

/-- A row update of `origin` is relayed to the row's home; its sender is acknowledged when that home has staged it (R223,
R224). One that cannot be sent is refused. -/
def relayContrib (t row target : Nat) (h : Hdr) (origin : Nat) (elems : List W32) (s : State) : State :=
  let r := sendForward t row target h.step origin 0 (.fwd h.src h.tag) elems s
  if r.2 then r.1 else errTo h (if isMember s target then 5 else 4) r.1

/-- The last sequence number of a migrating row is `n` (R222). -/
def setSeq (t row n : Nat) (s : State) : State :=
  match table s t with
  | none => s
  | some tb => setTable t { tb with migs := tb.migs.map (fun x => if x.row = row then { x with seqNo := n } else x) } s

/-- A contribution is staged (R212). -/
def pushContrib (c : Contrib) (s : State) : State :=
  bump Cnt.embContrib 0 1 { s with pool := { s.pool with contribs := s.pool.contribs ++ [c] } }

/-- A whole contribution of `origin` is staged at the row's home; its sender is answered once it is, but for a row whose
migration of this step is under way: then a copy goes to the new home first (R212, R222). -/
def stageContrib (t row : Nat) (h : Hdr) (origin : Nat) (elems : List W32) (tb : Table) (s : State) : State :=
  let c : Contrib :=
    { step := h.step, origin := origin, table := t, row := row, seq := 0, elems := elems, owed := none }
  let s := trackAccess t row origin s
  match tb.migs.find? (fun m => m.row == row && m.start == h.step) with
  | none => ackTo h 0 (pushContrib c s)
  | some m =>
    if m.st = .reserving then pushContrib { c with owed := some (h.src, h.tag) } s
    else
      let s := setSeq t row (m.seqNo + 1) (bump Cnt.embMigFwdUpd 0 1 (pushContrib c s))
      let r := sendForward t row m.target h.step origin (m.seqNo + 1) (.fwd h.src h.tag) elems s
      if r.2 then r.1 else ackTo h 0 r.1

/-- A row update that the home drops (R208). -/
def dropRowUpdate (t : Nat) (h : Hdr) (s : State) : State :=
  ackTo h 1 (raise Ev.embBadRow (srcOf 11 t) [] (bump Cnt.embBadRow 0 1 s))

/-- A row update names a row or a width that the table does not have (R208). -/
def badRow (tb : Table) (row : Nat) (elems : List W32) : Bool := tb.rows ≤ row || elems.length != tb.width

/-- A contribution's sectors fit in the staging area of its row, or `f` waits with it there (R65, R212). -/
def whenFits (i : Instr) (tb : Table) (row : Nat) (elems : List W32) (f : State → State) (s : State) : State :=
  let d := rowDie s tb row
  let s := touchHomes ((rowStore s tb row).getD 0) 1 s
  if stageFits s d (cdiv (4 * elems.length) 32) then f s else holdWrite i s

/-- The row has a shadow here that was started before step `n`: this package homes it when step `n` begins (R220). -/
def shadowed (tb : Table) (row n : Nat) : Bool := tb.shadows.any (fun x => x.row == row && x.start < n)

/-- A row update of `origin` with all its elements, at a package of the table (R208, R212, R222 to R224, R227). `relayed`: a
home has sent it on already; one that has been and names a row homed elsewhere is dropped (R208, assumption log 30). -/
def applyRowUpdate (i : Instr) (h : Hdr) (origin row t : Nat) (relayed : Bool) (elems : List W32) (s : State) : State :=
  match table s t with
  | none => errTo h 3 s
  | some tb =>
    if badRow tb row elems then dropRowUpdate t h s
    else if shadowed tb row h.step then whenFits i tb row elems (stageContrib t row h origin elems tb) s
    else
      match rowRoute s tb row with
      | .forward home _ => relayContrib t row home h origin elems s
      | .elsewhere home _ =>
        if relayed then dropRowUpdate t h s else relayContrib t row home h origin elems (misroute t s)
      | .here => whenFits i tb row elems (stageContrib t row h origin elems tb) s

/-- The parts of an update that has come in full. -/
def joinParts (p : PartSet) (n : Nat) : Option (List W32) :=
  if (List.range n).all (fun k => (mapGet p.parts k).isSome) then
    some ((List.range n).flatMap (fun k => mapGetD p.parts k []))
  else none

/-- ROW_UPDATE at the home (R395): it is staged once all its parts are here. -/
def recvRowUpdate (h : Hdr) (row t part parts : Nat) (data : List Byte) (s : State) : State :=
  if parts ≤ 1 then applyRowUpdate (.rowUpdate h row t part parts data) h h.src row t false (words32 data) s
  else
    let mine : PartSet → Bool := fun p => p.src == h.src && p.tag == h.tag
    let old := (s.pool.parts.find? mine).getD { src := h.src, tag := h.tag, parts := [] }
    let p := { old with parts := mapSet old.parts part (words32 data) }
    let others := s.pool.parts.filter (fun p => !mine p)
    match joinParts p parts with
    | none => { s with pool := { s.pool with parts := others ++ [p] } }
    | some elems =>
      let s := { s with pool := { s.pool with parts := others } }
      applyRowUpdate (.rowUpdate h row t 0 1 (bytes32 elems)) h h.src row t false elems s

/-- A copy of a contribution for a shadow, with its sequence number at the old home (R222). -/
def stageForShadow (i : Instr) (h : Hdr) (row t origin seq : Nat) (elems : List W32) (s : State) : State :=
  match table s t with
  | none => errTo h 3 s
  | some tb =>
    if badRow tb row elems || !tb.shadows.any (fun x => x.row == row && x.start == h.step) then dropRowUpdate t h s
    else
      let c : Contrib :=
        { step := h.step, origin := origin, table := t, row := row, seq := seq, elems := elems, owed := none }
      whenFits i tb row elems (fun s => ackTo h 0 (pushContrib c s)) s

/-- FORWARDED_CONTRIBUTION: a copy for a shadow, or, without a sequence number, a relayed row update (R222 to R224). -/
def recvForwarded (i : Instr) (h : Hdr) (row t origin seq : Nat) (data : List Byte) (s : State) : State :=
  if seq = 0 then applyRowUpdate i h origin row t true (words32 data) s
  else stageForShadow i h row t origin seq (words32 data) s

-- Migration (R218 to R222).

/-- Directory entries for rows whose default home is this package: those there are, and those that migrations under way
will add (R219). -/
def quotaUsed (s : State) (tb : Table) : Nat :=
  countIf (fun e => tb.defaultHome e.row == pkgNo s) tb.dir
    + countIf (fun m => m.st != .forwarding && tb.defaultHome m.row == pkgNo s && (tb.entry m.row).isNone) tb.migs

/-- The quota of a default home (R219). -/
def quota (tb : Table) : Nat := tb.dirEntries / tb.homes.length

/-- The contributions to a row that are staged and not yet acknowledged are (R212, R222). -/
def ackOwed (t row : Nat) (s : State) : State :=
  let mine : Contrib → Bool := fun c => c.table == t && c.row == row
  let owed := (s.pool.contribs.filter mine).filterMap (fun c => c.owed)
  let s := { s with pool := { s.pool with
    contribs := s.pool.contribs.map (fun c => if mine c then { c with owed := none } else c) } }
  owed.foldl (fun s o => ackTo (senderHdr s o.1 o.2) 0 s) s

/-- A refused migration leaves its row HOMED (R220). -/
def refuseMig (t row : Nat) (s : State) : State :=
  match table s t with
  | none => s
  | some tb =>
    let left := tb.migs.filter (fun m => m.row != row || m.st != .reserving)
    ackOwed t row (bump Cnt.embMigRefuse 0 1 (setTable t { tb with migs := left } s))

/-- A migration of `row` to `target` starts at departure `n` (R218, R220). -/
def startMig (t row target n : Nat) (s : State) : State :=
  match table s t with
  | none => s
  | some tb =>
    let m : Migration := { row := row, target := target, start := n, oldPkg := tb.origin row,
                           oldSlot := slotHere tb row, newSlot := noSlot, st := .reserving, seqNo := 0 }
    let s := bump Cnt.embMigStart 0 1 (setTable t { tb with migs := tb.migs ++ [m] } s)
    let full := tb.defaultHome row == pkgNo s && (tb.entry row).isNone && quota tb ≤ quotaUsed s tb
    if full || !isMember s target then refuseMig t row s
    else
      let r := sendReq target (.slotReq t row) (fun h => .slotRequest h row t) s
      if r.2 then r.1 else refuseMig t row r.1

/-- A row's candidates: the requesters that meet R218. -/
def candidateOf (s : State) (tb : Table) (n : Nat) (e : Track) : Option (Nat × Nat × Nat) :=
  let tot := trackTotal e
  let good := (trackReqs e).filter (fun p => tb.migMin ≤ trackBy e p && tb.migShare * tot ≤ 256 * trackBy e p)
  match sortBy (fun a b => trackBy e b ≤ trackBy e a) good, rowAddr s tb e.row with
  | p :: _, some a =>
    let k := rowStride tb.payload
    let lm := lastMig (rowHeader tb.payload (maskedBytes s a k))
    let busy := tb.migs.any (fun m => m.row == e.row)
    if busy || (poisonMarks s a k).any id || !(lm == max64 || tb.migCooldown ≤ n - lm) then none
    else some (e.row, p, trackBy e p)
  | _, _ => none

/-- The requests of CMD_EMB_MIGRATE that can still start: their row is homed here and is not migrating. -/
def askedMigs (s : State) (tb : Table) : List (Nat × Nat) :=
  tb.queued.filter (fun q => tb.home q.1 == pkgNo s && !tb.migs.any (fun m => m.row == q.1))

/-- A list of requests parted: the first for each row, and the others. -/
def firstPerRow (l : List (Nat × Nat)) : List (Nat × Nat) × List (Nat × Nat) :=
  l.foldl (fun acc q => if acc.1.any (fun x => x.1 == q.1) then (acc.1, acc.2 ++ [q]) else (acc.1 ++ [q], acc.2)) ([], [])

/-- The rows of a table that start at departure `n`: those asked for first, then candidates by accesses, lowest row on a
tie (R218). -/
def migStarts (s : State) (tb : Table) (n : Nat) : List (Nat × Nat) :=
  let cands := (tb.trackers.flatMap (fun e => e.2)).filterMap (candidateOf s tb n)
  let sorted := sortBy (fun (a b : Nat × Nat × Nat) => b.2.2 < a.2.2 || (a.2.2 == b.2.2 && a.1 ≤ b.1)) cands
  let asked := (firstPerRow (askedMigs s tb)).1
  let auto := (sorted.map (fun c => (c.1, c.2.1))).filter (fun c => !asked.any (fun q => q.1 == c.1))
  (asked ++ auto).take tb.migPerStep

/-- The requests left for a later departure when `asked` are due and at most `n` start. -/
def laterMigs (n : Nat) (asked : List (Nat × Nat)) : List (Nat × Nat) :=
  let p := firstPerRow asked
  let started := p.1.take n
  let removeOne : List (Nat × Nat) → Nat × Nat → List (Nat × Nat) := fun l q => match takeFirst (fun x => x == q) l with
    | some (_, rest) => rest
    | none => l
  started.foldl removeOne asked

/-- At departure `n` this home starts its migrations and its trackers open a new step (R217, R218). -/
def migDeparture (t n : Nat) (s : State) : State :=
  match table s t with
  | none => s
  | some tb =>
    if !tb.migEnable then s
    else
      let starts := migStarts s tb n
      let open' : Track → Track := fun e => { e with win := ((0, []) :: e.win).take tb.migWindow }
      let trk := mapVals (fun _ l => (l.map open').filter (fun e => 0 < trackTotal e)) tb.trackers
      let s := setTable t { tb with trackers := trk, queued := laterMigs tb.migPerStep (askedMigs s tb) } s
      starts.foldl (fun s r => startMig t r.1 r.2 n s) s

/-- The lowest free migration slot (R206). -/
def freeSlot (tb : Table) : Option Nat :=
  if tb.migSlots ≤ tb.usedSlots.length then none
  else (List.range (tb.usedSlots.length + 1)).find? (fun i => !tb.usedSlots.contains i)

/-- SLOT_REQUEST at the target (R219, R220). -/
def recvSlotRequest (h : Hdr) (row t : Nat) (s : State) : State :=
  match table s t with
  | none => errTo h 3 s
  | some tb =>
    let back := tb.defaultHome row == pkgNo s
    let slot := if back then some noSlot else freeSlot tb
    match slot, tb.region with
    | some x, some _ =>
      let sh : Shadow := { row := row, source := h.src, start := h.step, slot := x, image := none, marks := [] }
      let used := if back then tb.usedSlots else setInsert x tb.usedSlots
      let s := setTable t { tb with
        shadows := tb.shadows.filter (fun z => z.row != row) ++ [sh]
        usedSlots := used
        gone := tb.gone.filter (fun e => e.1 != x) } s
      sendPlain (.slotGrant (replyHdr s h) row t x) s
    | _, _ => sendPlain (.slotRefusal (replyHdr s h) row t) s

/-- SLOT_REFUSAL at the old home. -/
def recvSlotRefusal (h : Hdr) (row t : Nat) (s : State) : State :=
  match findPend s h.tag with
  | some _ => refuseMig t row (dropPend h.tag s)
  | none => s

/-- The old home's copy of a row takes LAST_MIG `n`, and is read whole, with its marks (R220, R357, R362). -/
def takeMigImage (tb : Table) (a n : Nat) (s : State) : List Byte × List Bool × State :=
  homeRead false a (rowStride tb.payload) (commitWrite (a + embBytes tb.payload + 24) (toLE 8 n) s)

/-- The contributions that reached the old home before the grant go on in order of arrival, each as the answer to its sender
where that is still owed (R222). -/
def forwardStaged (t row target : Nat) (l : List Contrib) (s : State) : State :=
  (l.zip (List.range l.length)).foldl (fun s e =>
    let kind : PendKind := match e.1.owed with
      | some o => .fwd o.1 o.2
      | none => .mig t row
    let r := sendForward t row target e.1.step e.1.origin (e.2 + 1) kind e.1.elems (bump Cnt.embMigFwdUpd 0 1 s)
    match r.2, e.1.owed with
    | false, some o => ackTo (senderHdr r.1 o.1 o.2) 0 r.1
    | _, _ => r.1) s

/-- Nothing is owed for the contributions to a row any more. -/
def clearOwed (t row : Nat) (s : State) : State :=
  let f : Contrib → Contrib := fun c => if c.table = t ∧ c.row = row then { c with owed := none } else c
  { s with pool := { s.pool with contribs := s.pool.contribs.map f } }

/-- Migration `m`, whose row is stored at `a`, is granted slot `slot` at `target`: the copy and the directory change go
out, and the contributions staged so far (R220 to R222). -/
def grantMig (t a slot target : Nat) (m : Migration) (tb : Table) (s : State) : State :=
  let s := commitRow t m.row s
  let x := takeMigImage tb a m.start s
  let s := x.2.2
  let mine := rowContribs s t m.row m.start
  let up : Migration → Migration := fun y =>
    if y.row = m.row then { y with st := .copying, newSlot := slot, seqNo := mine.length } else y
  let ch : DirChange := { step := m.start, origin := pkgNo s, row := m.row, home := target, slot := slot }
  let s := match table s t with
    | some tb => setTable t { tb with migs := tb.migs.map up, dirNext := tb.dirNext ++ [ch] } s
    | none => s
  let s := (sendReq target (.mig t m.row) (fun g => .rowCopy g m.row t x.1 (bitmap x.2.1)) s).1
  let others := match s.job with
    | some j => j.members.filter (fun p => p != pkgNo s)
    | none => []
  let s := others.foldl
    (fun s p => (sendReq p (.mig t m.row) (fun g => .directoryChange g m.row t target slot) s).1) s
  forwardStaged t m.row target mine (clearOwed t m.row s)

/-- SLOT_GRANT at the old home (R220). -/
def recvSlotGrant (h : Hdr) (row t slot : Nat) (s : State) : State :=
  match findPend s h.tag, table s t with
  | some p, some tb =>
    let s := dropPend h.tag s
    match tb.migs.find? (fun m => m.row == row && m.st == .reserving && m.start == p.step), commitAddr s tb row with
    | some m, some a => if p.step = s.step then grantMig t a slot h.src m tb s else s
    | _, _ => s
  | _, _ => s

/-- ROW_COPY at the new home: the shadow, staged like a pooled write (R65, R220, R221). -/
def recvRowCopy (i : Instr) (h : Hdr) (row t : Nat) (image : List Byte) (poison : Nat) (s : State) : State :=
  match table s t with
  | none => errTo h 3 s
  | some tb =>
    let s := touchHomes ((rowStore s tb row).getD 0) image.length s
    let marks := (List.range (cdiv image.length 32)).map (fun k => poison.testBit k)
    let f : Shadow → Shadow := fun x =>
      if x.row = row ∧ x.source = h.src ∧ x.start = h.step then { x with image := some image, marks := marks } else x
    if stageFits s (rowDie s tb row) (cdiv image.length 32) then
      ackTo h 0 (setTable t { tb with shadows := tb.shadows.map f } s)
    else holdWrite i s

/-- DIRECTORY_CHANGE at a package of the table: staged like a pooled write of the sender's step (R221). -/
def recvDirChange (h : Hdr) (row t home slot : Nat) (s : State) : State :=
  match table s t with
  | none => errTo h 3 s
  | some tb =>
    let ch : DirChange := { step := h.step, origin := h.src, row := row, home := home, slot := slot }
    ackTo h 0 (setTable t { tb with dirNext := tb.dirNext ++ [ch] } s)

/-- One directory change is applied (R219). -/
def applyDirChange (tb : Table) (c : DirChange) : Table :=
  let rest := tb.dir.filter (fun e => e.row != c.row)
  if c.home = tb.defaultHome c.row then { tb with dir := rest }
  else { tb with dir := sortBy (fun a b => a.row ≤ b.row) ({ row := c.row, home := c.home, slot := c.slot } :: rest) }

/-- The shadow becomes the row's home storage here, its marks with it (R220, R368). -/
def landShadow (t : Nat) (tb : Table) (sh : Shadow) (s : State) : State :=
  match sh.image, shadowAddr s tb sh with
  | some b, some a =>
    ((unitsOf 32 a b.length).zip sh.marks).foldl (fun s e => if e.2 then markPoison e.1 s else s) (commitWrite a b s)
  | _, _ => setTable t { tb with usedSlots := tb.usedSlots.filter (fun x => x != sh.slot) } s

/-- The row updates of a later step that a row's old home holds at the departure that moves it are relayed (R223). -/
def relayLater (t n : Nat) (s : State) (m : Migration) : State :=
  let late : Contrib → Bool := fun c => c.table == t && c.row == m.row && n < c.step
  let l := s.pool.contribs.filter late
  let s := { s with pool := { s.pool with contribs := s.pool.contribs.filter (fun c => !late c) } }
  l.foldl (fun s c => (sendForward t m.row m.target c.step c.origin 0 (.mig t m.row) c.elems s).1) s

/-- A migration that is COPYING at the departure is discarded: its old home is left behind, or its target is declared dead
(R220, R225). -/
def migAborts (lost : Bool) (dead : List Nat) (m : Migration) : Bool :=
  m.st == .copying && (lost || dead.contains m.target)

/-- A shadow lands at the departure that ends step `n`: its copy is here and its old home is not left behind (R220, R221). -/
def landsAt (n : Nat) (left : List Nat) (x : Shadow) : Bool :=
  x.start == n && !left.contains x.source && x.image.isSome

/-- What becomes of the migrations of a table here (R220): FORWARDING ends, its slots freed; COPYING goes on or aborts;
RESERVING that was never granted is refused. -/
def migsAfter (own : Nat) (lost : Bool) (dead : List Nat) (tb : Table) : Table :=
  let done := tb.migs.filter (fun m => m.st == .forwarding && m.oldPkg == own && m.oldSlot != noSlot)
  let going := tb.migs.filter (fun m => m.st == .copying && !migAborts lost dead m)
  { tb with
    migs := going.map (fun m => { m with st := .forwarding })
    usedSlots := tb.usedSlots.filter (fun x => !done.any (fun m => m.oldSlot == x))
    gone := done.map (fun m => (m.oldSlot, m.row)) ++ tb.gone.filter (fun e => !done.any (fun m => m.oldSlot == e.1)) }

/-- The shadows and directory of a table after the departure that ends step `n` (R219 to R221, R225): shadows of this or an
earlier step are gone, and their slots free where they do not land; changes of left-behind packages, and those to a dead
one, are discarded. -/
def shadowsAfter (n : Nat) (left dead : List Nat) (tb : Table) : Table :=
  let dropped := tb.shadows.filter (fun x => x.start ≤ n && !landsAt n left x)
  let changes := tb.dirNext.filter (fun c => c.step == n && !left.contains c.origin && !dead.contains c.home)
  changes.foldl applyDirChange { tb with
    usedSlots := tb.usedSlots.filter (fun x => !dropped.any (fun d => d.slot == x))
    shadows := tb.shadows.filter (fun x => n < x.start)
    dirNext := tb.dirNext.filter (fun c => n < c.step) }

/-- The counts and records of a table's migrations at a departure (R64, R220): a discarded row copy counts its sectors. -/
def countMigs (t n : Nat) (lost : Bool) (left dead : List Nat) (tb : Table) (s : State) : State :=
  let aborted := tb.migs.filter (migAborts lost dead)
  let stuck := tb.migs.filter (fun m => m.st == .reserving)
  let discarded := tb.shadows.filter (fun x => x.start == n && left.contains x.source)
  let nsec := sumNat (discarded.map (fun x => cdiv (x.image.getD []).length 32))
  let s := bump Cnt.embMigDone 0 (countIf (fun m => m.st == .forwarding) tb.migs)
    (bump Cnt.embMigAbort 0 aborted.length (bump Cnt.embMigRefuse 0 stuck.length s))
  let s := if nsec = 0 then s else bump Cnt.ttStageDiscard 0 nsec s
  raiseAll Ev.embMigAbort (aborted.map (fun _ => srcOf 11 t)) s

/-- The migrations and directory of table `t` at the departure that ends step `n`, with left-behind list `left`, that
declares `dead` (R220, R221, R225). -/
def migCommit (t n : Nat) (left dead : List Nat) (s : State) : State :=
  match table s t with
  | none => s
  | some tb =>
    let lost := left.contains (pkgNo s)
    let stuck := tb.migs.filter (fun m => m.st == .reserving)
    let landing := tb.shadows.filter (landsAt n left)
    let lostRows := (tb.shadows.filter (fun x => x.start ≤ n && !landsAt n left x)).map (fun d => d.row)
    let tb' := shadowsAfter n left dead (migsAfter (pkgNo s) lost dead tb)
    let s := setTable t tb' (countMigs t n lost left dead tb s)
    let s := stuck.foldl (fun s m => ackOwed t m.row s) s
    let s := { s with pool := { s.pool with
      contribs := s.pool.contribs.filter (fun c => !(c.table == t && 0 < c.seq && lostRows.contains c.row)) } }
    let s := landing.foldl (fun s x => landShadow t tb' x s) s
    tb'.migs.foldl (relayLater t n) s

-- The departure's commit (R63, R64, R213).

/-- A staged store replaces its sector and clears its mark, or arrives poisoned (R63, R368, R369). -/
def commitStore (e : Staged) (s : State) : State :=
  let s := commitWrite e.addr e.data s
  if e.poison then markPoison (e.addr / 32) s else s

/-- A staged accumulate adds FP32 values; on a poisoned sector it is a partial write (R63, R369). -/
def commitAccum (e : Staged) (s : State) : State :=
  if s.mem.poison.contains (e.addr / 32) then bump Cnt.memPoisonMerge (homeDie s e.addr) 1 s
  else
    let old := words32 (cellsRead s.mem.cells e.addr 32)
    commitWrite e.addr (bytes32 (List.zipWith add32 old (words32 e.data))) s

/-- Sectors that await write-back, by die, after the commit of `l`. -/
def writebackOf (s : State) (l : List Staged) : AMap Nat :=
  l.foldl (fun m e => mapUpd m (homeDie s e.addr) 0 (fun k => k + 1)) []

/-- The commit of the writes staged for step `n` at the departure that ends it (R64, R213): those of left-behind origins
are discarded and counted, stores come before accumulates, and rows with contributions begin to be committed. -/
def commitStep (n : Nat) (left : List Nat) (s : State) : State :=
  let s := commitAllRows s
  let mine := s.pool.staged.filter (fun e => e.step == n)
  let dead := mine.filter (fun e => left.contains e.origin)
  let live := mine.filter (fun e => !left.contains e.origin)
  let cdead := s.pool.contribs.filter (fun c => c.step == n && left.contains c.origin)
  let nsec := dead.length + sumNat (cdead.map contribSectors)
  let s := if nsec = 0 then s else bump Cnt.ttStageDiscard 0 nsec s
  let s := if cdead = [] then s else bump Cnt.embContribDiscard 0 cdead.length s
  let wb := writebackOf s live
  let s := { s with pool := { s.pool with
    staged := s.pool.staged.filter (fun e => e.step != n)
    contribs := s.pool.contribs.filter (fun c => !(c.step == n && left.contains c.origin))
    writeback := wb
    commitStep := n } }
  let s := (live.filter (fun e => !e.accum)).foldl (fun s e => commitStore e s) s
  let s := (live.filter (fun e => e.accum)).foldl (fun s e => commitAccum e s) s
  (mapKeys s.pool.tables).foldl (fun s t =>
    match table s t with
    | none => s
    | some tb =>
      let rows := setUnion [] ((s.pool.contribs.filter (fun c => c.table == t && c.step == n)).map (fun c => c.row))
      setTable t { tb with committing := rows } s) s

/-- STAGING_WRITEBACK_DONE: die `d`'s committed sectors are written back (R64). -/
def writebackDone (d : Nat) (s : State) : State :=
  { s with pool := { s.pool with writeback := mapDel s.pool.writeback d } }

def execStagingWritebackDone (d : Nat) (s : State) : Result := onUnit (d < nDies s) (writebackDone d s)

/-- The die whose update engine writes a row of a table. -/
def engineDie (s : State) (t row : Nat) : Nat :=
  match table s t with
  | some tb => rowDie s tb row
  | none => 0

/-- EMB_ROW_COMMIT: the update engine writes one row, once its channel takes the accesses (R213, R216, R371). -/
def execEmbRowCommit (t row : Nat) (s : State) : Result := .next (whenOpen (engineDie s t row) (commitRow t row) s)

-- Hot-row replicas (R173).

/-- A sector of package `p` in the replicas of die `d`: its bytes and its mark. -/
def replicaSector (s : State) (d p sec : Nat) : Option (List Byte × Bool) :=
  (s.pool.replicas.find? (fun r =>
    r.die == d && r.pkg == p && r.addr ≤ sec * 32 && sec * 32 + 32 ≤ r.addr + r.data.length)).map
    (fun r => (slice r.data (sec * 32 - r.addr) 32, r.poison.getD (sec - r.addr / 32) false))

/-- What the replicas of die `d` hold of `n` bytes at address `a` of package `p`, where they hold them all: the row came in
one hot reply or in several. -/
def findReplica (s : State) (d p a n : Nat) : Option (List Byte × List Bool) :=
  let l := (unitsOf 32 a n).map (replicaSector s d p)
  if l.all (fun x => x.isSome) then
    let got := l.filterMap id
    some (slice (got.flatMap (fun x => x.1)) (a % 32) n, got.map (fun x => x.2))
  else none

/-- Bytes of the replica area of die `d` in use. -/
def replicaUsed (s : State) (d : Nat) : Nat :=
  sumNat ((s.pool.replicas.filter (fun r => r.die == d)).map (fun r => r.data.length))

end Sys2Proof.Machine
end

