-- ==== Sys2Proof/Machine/Access.lean ====
section
/-! DEFINITION. Memory accesses by the units of a logical core and by the stationmaster (R349, R351, R361 to R368, R398), and
the channel, stack and scrub events of chapter 11. -/

namespace Sys2Proof.Machine

/-- A number for each unit that can issue an access. -/
def requesterKey : Requester → Nat
  | .core lc (.ctx x) => lc * 16 + x
  | .core lc (.shunter i) => lc * 16 + 4 + i
  | .core lc .vector => lc * 16 + 12
  | .stationmaster => 65536

/-- The die an access comes from (R34, R37). -/
def requesterDie (s : State) : Requester → Nat
  | .core lc _ => lcDie s lc
  | .stationmaster => bit s.sm.onD1

/-- The logical core that an access is counted at. -/
def requesterLc : Requester → Option Nat
  | .core lc _ => some lc
  | .stationmaster => none

/-- The unit consumes a poisoned sector as zero: a load or a stream element (R368). -/
def consumesPoison : Requester → Bool
  | .core _ (.ctx _) => true
  | .core _ .vector => true
  | _ => false

/-- The 64 KiB pages that a range touches: each lies in one place (R352). -/
def pagesOf (a n : Nat) : List Nat := (unitsOf 65536 a n).map (fun p => p * 65536)

/-- Whether a requester may read or write a place of this package (R349, R350). -/
def mayAccess (r : Requester) (write : Bool) : Option Place → Bool
  | none => false
  | some (.scratch _) => true
  | some .bridge => true
  | some (.region _ g) => r == .stationmaster || (if write then g.progW else g.progR)

/-- An access to this package is allowed: every page it touches is. -/
def accessOk (s : State) (r : Requester) (write : Bool) (a n : Nat) : Bool :=
  n != 0 && (pagesOf a n).all (fun p => mayAccess r write (placeOf s p))

/-- A bad access of a program is counted and recorded (R349). -/
def countBad (r : Requester) (s : State) : State :=
  match requesterLc r with
  | some lc => badAccessOf lc s
  | none => s

/-- Poisoned sectors consumed by a load or a stream (R368). -/
def countConsumed (r : Requester) (n : Nat) (s : State) : State :=
  match requesterLc r with
  | some lc =>
    if consumesPoison r && n != 0 then
      raiseAll Ev.memPoisonConsume (List.replicate n (srcOf 3 lc)) (bump Cnt.memPoisonConsume lc n s)
    else s
  | none => s

/-- The number of marks set. -/
def marked (l : List Bool) : Nat := countIf id l

/-- The last answer to a unit's reads becomes `p`. -/
def setReply (r : Requester) (p : ReadReply) (s : State) : State :=
  { s with mem := { s.mem with replies := mapSet s.mem.replies (requesterKey r) p } }

/-- Sectors that `n` bytes from `a` touch. -/
def sectorCount (a n : Nat) : Nat := (unitsOf 32 a n).length

/-- The demand reads of a unit that are under way are given up. -/
def dropReads (r : Requester) (s : State) : State :=
  let mine : Pend → Bool := fun p => match p.kind with
    | .demand r' _ _ => r' == r
    | _ => false
  { s with fab := { s.fab with pend := s.fab.pend.filter (fun p => !mine p) } }

/-- A bad read: zero in every sector, each marked, counted as nothing else (R349). -/
def badRead (r : Requester) (g n : Nat) (s : State) : State :=
  setReply r { base := g, data := zeros n, poison := List.replicate (sectorCount g n) true, bad := true, pending := 0 }
    (countBad r s)

/-- The access joins those that wait, in order. -/
def holdAccess (i : Instr) (s : State) : State := { s with mem := { s.mem with waiting := s.mem.waiting ++ [i] } }

/-- A demand read of another package's pooled memory fails (R398): it waits for no further part. -/
def remoteReadFail (r : Requester) (g n : Nat) (s : State) : State :=
  let k := sectorCount g n
  let s := match requesterLc r with
    | some lc => bump Cnt.memRemoteFail lc 1 s
    | none => s
  setReply r { base := g, data := zeros n, poison := List.replicate k true, bad := false, pending := 0 }
    (countConsumed r k (dropReads r s))

/-- The last reply to a unit, with every byte it asked for. -/
def replyOf (s : State) (r : Requester) : ReadReply :=
  mapGetD s.mem.replies (requesterKey r) { base := 0, data := [], poison := [], bad := false, pending := 0 }

/-- The demand read that unit `r` waits for fails (R398). -/
def failRead (r : Requester) (s : State) : State :=
  remoteReadFail r (replyOf s r).base (replyOf s r).data.length s

/-- The pieces of at most 128 sectors that a range is read or written in: local address and bytes (R395). -/
def poolPieces (a n : Nat) : List (Nat × Nat) :=
  (unitsOf 4096 a n).map (fun u =>
    let lo := Nat.max a (u * 4096)
    (lo, Nat.min (a + n) (u * 4096 + 4096) - lo))

/-- The read is out with no part of it come yet. -/
def openRead (r : Requester) (g n parts : Nat) (s : State) : State :=
  setReply r { base := g, data := zeros n, poison := List.replicate (sectorCount g n) false, bad := false,
               pending := parts } s

/-- A POOL_READ of the sectors of one piece. -/
def sendPoolRead (r : Requester) (pkg a n : Nat) (s : State) : State × Bool :=
  let lo := a / 32 * 32
  sendReq pkg (.demand r (pkg * 2 ^ 42 + a) n) (fun h => .poolRead h lo (sectorCount a n)) s

/-- One piece of a demand read goes out, unless the read has failed already. -/
def sendPiece (r : Requester) (pkg g n : Nat) (s : State) (e : Nat × Nat) : State :=
  if (replyOf s r).pending = 0 then s
  else
    let x := sendPoolRead r pkg e.1 e.2 s
    if x.2 then x.1 else remoteReadFail r g n x.1

/-- A demand read of another package's pooled memory: a replica of its die serves it, or packets go out (R173, R398). -/
def readRemote (r : Requester) (g n : Nat) (s : State) : State :=
  let pkg := gPkg g
  let a := gLocal g
  if a + n > 2 ^ 41 then badRead r g n s
  else if !isMember s pkg then remoteReadFail r g n s
  else
    match findReplica s (requesterDie s r) pkg a n, requesterLc r with
    | some x, some _ =>
      setReply r { base := g, data := x.1, poison := x.2, bad := false, pending := 0 }
        (countConsumed r (marked x.2) (bump Cnt.gthReplicaHit (requesterDie s r) 1 s))
    | _, _ =>
      let l := poolPieces a n
      l.foldl (sendPiece r pkg g n) (openRead r g n l.length s)

/-- The marks of a list from index `k` become `m`. -/
def spliceMarks (l : List Bool) (k : Nat) (m : List Bool) : List Bool := l.take k ++ m ++ l.drop (k + m.length)

/-- A part of a demand read has come: `b` from global address `g`, with the marks of its sectors; with the last part the
reader consumes its poison (R368). -/
def landRead (r : Requester) (g : Nat) (b : List Byte) (marks : List Bool) (s : State) : State :=
  let p := replyOf s r
  if p.pending = 0 ∨ g < p.base then s
  else
    let q : ReadReply := { p with
      data := splice p.data (g - p.base) b
      poison := spliceMarks p.poison (g / 32 - p.base / 32) marks
      pending := p.pending - 1 }
    let s := setReply r q s
    if q.pending = 0 then countConsumed r (marked q.poison) s else s

/-- The read of `n` bytes from `off` in a row goes again to the home that a forwarding reply names (R223). -/
def readAgain (kind : PendKind) (t row off n home slot : Nat) (tb : Table) (s : State) : State × Bool :=
  let a := remoteRowAddr tb t (if slot = noSlot then tb.firstHome row else home) home row slot + off / 32 * 32
  sendReq home kind (fun h => .poolRead h a (sectorCount off n)) s

/-- The part of a demand read in one row of a table here (R216, R223, R224). -/
def readRowPart (r : Requester) (g n t base : Nat) (tb : Table) (s : State) (e : Nat × Nat) : State :=
  if (replyOf s r).pending = 0 then s
  else
    let here := pkgNo s * 2 ^ 42 + e.1
    match poolReadAt (pkgNo s) e.1 e.2 s with
    | (.data b m _, s) => landRead r here b m s
    | (.forward home slot, s) =>
      let off := (e.1 - base) % rowStride tb.payload
      let x := readAgain (.demand r here e.2) t ((rowAtAddr s tb base e.1).getD 0) off e.2 home slot tb s
      if x.2 then x.1 else remoteReadFail r g n x.1
    | (.bad, s) => badRead r g n s

/-- A demand read of a table's rows here: it waits once for the rows being committed (R216). -/
def readTable (r : Requester) (g n t base : Nat) (tb : Table) (s : State) : State :=
  let a := gLocal g
  let parts := rowParts tb base a n
  let s := awaitRows t ((rowsIn s tb base a n).filter (fun x => rowRoute s tb x == .here)) s
  parts.foldl (readRowPart r g n t base tb) (openRead r g n parts.length s)

/-- `n` unspecified bytes (assumption log 2). -/
def freeBytes : Nat → State → List Byte × State
  | 0, s => ([], s)
  | n + 1, s =>
    let x := freeVal 256 s
    let r := freeBytes n x.2
    (BitVec.ofNat 8 x.1 :: r.1, r.2)

/-- Of bytes read from address `a` of a scratchpad, those of its save slots and of its hash accumulator are unspecified: the
spec does not give the form in which they hold their content (R348, assumption log 67). -/
def maskHeld (a : Nat) (b : List Byte) (s : State) : List Byte × State :=
  let keep := 0x7B00000 - a
  if b.length ≤ keep then (b, s)
  else
    let r := freeBytes (b.length - keep) s
    (b.take keep ++ r.1, r.2)

/-- A read of other memory of this package: bytes, marks and the state after it. -/
def readPlain (r : Requester) (a n : Nat) (s : State) : List Byte × List Bool × State :=
  if bridgeBase ≤ a then (winRead s.win (a - bridgeBase) n, List.replicate (sectorCount a n) false, s)
  else
    let x := match requesterLc r with
      | some lc => demandRead lc a n s
      | none => homeRead false a n s
    if scratchBase ≤ a then
      let m := maskHeld ((a - scratchBase) % scratchBytes) x.1 x.2.2
      (m.1, x.2.1, m.2)
    else x

/-- The table whose region holds a local address: the region's base, the table's number, and it. -/
def tableHere (s : State) (a : Nat) : Option (Nat × Nat × Table) :=
  match regionAt s a with
  | some (_, g) => g.table.bind (fun t => (table s t).map (fun tb => (g.base, t, tb)))
  | none => none

/-- A read of this package's memory that is allowed. -/
def readHere (r : Requester) (g n : Nat) (s : State) : State :=
  match tableHere s (gLocal g) with
  | some (base, t, tb) => readTable r g n t base tb s
  | none =>
    let x := readPlain r (gLocal g) n s
    setReply r { base := g, data := x.1, poison := x.2.1, bad := false, pending := 0 }
      (countConsumed r (marked x.2.1) x.2.2)

/-- Operand caches lie outside the fabric address space: a request names byte `c` of its core's own by 2^54 plus the core
address (R301, R302, assumption log 1). -/
def opBase : Nat := 2 ^ 54

/-- The unit of a logical core that may reach its operand cache: a CORE task's context or the vector engine (R302). -/
def opReacher : Requester → Option Nat
  | .core lc (.ctx _) => some lc
  | .core lc .vector => some lc
  | _ => none

/-- A read of the requester's own operand cache (R301, R302, R368). -/
def readOp (r : Requester) (g n : Nat) (s : State) : State :=
  match opReacher r with
  | some lc =>
    if inOpCache (g - opBase) n && n != 0 then
      let x := opRead s lc (g - opBase) n
      setReply r { base := g, data := x.1, poison := x.2, bad := false, pending := 0 } (countConsumed r (marked x.2) s)
    else badRead r g n s
  | none => badRead r g n s

/-- What the codes find in the sectors of an access: by local address, or in the requester's own operand cache. -/
def findingsOf (r : Requester) (g n : Nat) (found : List EccFinding) : List EccFinding :=
  found.filter (fun f => match f with
    | .bufferCorrected (.opCache lc sec) | .bufferUncorrectable (.opCache lc sec) =>
      opReacher r == some lc && opBase ≤ g && (g - opBase) / 32 ≤ sec && sec * 32 < g - opBase + n
    | .bufferCorrected (.prefetch lc _ _) | .bufferUncorrectable (.prefetch lc _ _) =>
      requesterLc r == some lc && g < opBase && inRange (findingAddr f)
    | f => g < opBase && inRange (findingAddr f))
where
  inRange (a : Nat) : Bool := gLocal g / 32 * 32 ≤ a && a < (gLocal g + n + 31) / 32 * 32

/-- MEMORY_READ_REQUEST by a unit that may proceed. -/
def doRead (r : Requester) (g n : Nat) (found : List EccFinding) (s : State) : State :=
  let g := if g < opBase then aimed s g else g
  let s := applyFindings (findingsOf r g n found) s
  if opBase ≤ g then readOp r g n s
  else if gPkg g ≠ pkgNo s then readRemote r g n s
  else if accessOk s r false (gLocal g) n then readHere r g n s
  else badRead r g n s

-- Writes.

/-- The whole sectors that a pooled write covers: a store replaces a sector's content (R62), and the spec names no bytes
for the part of a sector that the write does not cover. -/
def wholeSectors (a : Nat) (data : List Byte) (s : State) : Nat × List Byte × State :=
  let lo := a / 32 * 32
  let hi := (a + data.length + 31) / 32 * 32
  let pre := freeBytes (a - lo) s
  let post := freeBytes (hi - a - data.length) pre.2
  (lo, pre.1 ++ data ++ post.1, post.2)

/-- A pooled store or accumulate to this package, through its staging area (R62). -/
def stageHere (a : Nat) (accum : Bool) (data : List Byte) (marks : List Bool) (s : State) : State :=
  let g := freshTag s
  let s := addPend { tag := g.1, dst := pkgNo s, step := s.step, time := s.now, kind := .write none } g.2
  let h := mkHdr s (pkgNo s) g.1
  stageWrite (if accum then .poolAccum h a data else .poolStore h a data) h a accum data marks s

/-- A pooled store or accumulate to another package (R395); one that cannot be sent is dropped with its answer (R208). -/
def stageThere (lc : Option Nat) (pkg a : Nat) (accum : Bool) (data : List Byte) (s : State) : State :=
  (poolPieces a data.length).foldl (fun s e =>
    let d := slice data (e.1 - a) e.2
    (sendReq pkg (.write lc) (fun h => if accum then .poolAccum h e.1 d else .poolStore h e.1 d) s).1) s

/-- A package that sits out makes no pooled write (R70). -/
def sitsOut (s : State) : Bool :=
  match s.job with
  | some j => j.sittingOut
  | none => false

/-- A write by a unit to bytes of this package that is allowed (R351, R362, R366). -/
def writeHere (r : Requester) (a : Nat) (data : List Byte) (s : State) : State :=
  let pooled := match regionAt s a with
    | some (_, g) => g.pooled && r != .stationmaster
    | none => false
  if pooled && sitsOut s then s
  else
    let s := match requesterLc r with
      | some lc =>
        let s := snoopWrite lc a data.length s
        if scratchBase ≤ a then noteWrite 0 a data.length 0 s else s
      | none => s
    if pooled then
      let w := wholeSectors a data s
      (poolPieces w.1 w.2.1.length).foldl (fun s e => stageHere e.1 false (slice w.2.1 (e.1 - w.1) e.2) [] s) w.2.2
    else homeWrite a data s

/-- A write to the requester's own operand cache (R301, R302). -/
def writeOp (r : Requester) (g : Nat) (data : List Byte) (s : State) : State :=
  match opReacher r with
  | some lc =>
    if inOpCache (g - opBase) data.length && data != [] then
      opWrite lc (g - opBase) data (noteWrite (lc + 1) (g - opBase) data.length 0 s)
    else countBad r s
  | none => countBad r s

/-- A write to another package's pooled memory: each sector it covers whole or in part, staged at its home (R62). -/
def writeThere (r : Requester) (g : Nat) (data : List Byte) (s : State) : State :=
  let a := gLocal g
  if a + data.length > 2 ^ 41 ∨ data = [] then countBad r s
  else if sitsOut s then s
  else
    let w := wholeSectors a data s
    stageThere (requesterLc r) (gPkg g) w.1 false w.2.1 w.2.2

/-- MEMORY_WRITE_REQUEST by a unit that may proceed: a write to the bridge window is discarded and counted (R41). -/
def doWrite (r : Requester) (g : Nat) (data : List Byte) (s : State) : State :=
  let g := if g < opBase then aimed s g else g
  let a := gLocal g
  if opBase ≤ g then writeOp r g data s
  else if gPkg g ≠ pkgNo s then writeThere r g data s
  else if !accessOk s r true a data.length then countBad r s
  else if bridgeBase ≤ a then bump Cnt.pkgMtrBridgeWr 0 1 s
  else writeHere r a data s

-- Accesses that wait (R26, R28, R371).

/-- An access as its order is kept: who makes it, whether it writes, and the dies of this package that it goes to. -/
def accessOf (s : State) : Instr → Option (Requester × Bool × List Nat)
  | .memoryReadRequest r g n _ => some (r, false, homesOf g n)
  | .memoryWriteRequest r g d => some (r, true, homesOf g d.length)
  | _ => none
where
  homesOf (g n : Nat) : List Nat :=
    if gPkg g = pkgNo s ∧ g < opBase then setUnion [] ((unitsOf 256 (gLocal g) n).map (fun u => homeDie s (u * 256))) else []

/-- An access that waits was made by the same unit in the same traffic class and goes to a die that this one goes to (R26,
R360). -/
def behindWaiting (s : State) (i : Instr) : Bool :=
  match accessOf s i with
  | none => false
  | some (r, w, l) => s.mem.waiting.any (fun j => match accessOf s j with
    | some (r', w', l') => r' == r && w' == w && l.any (fun d => l'.contains d)
    | none => false)

/-- A waiting access is one of a logical core. -/
def coreAccess : Instr → Bool
  | .memoryReadRequest (.core _ _) _ _ _ => true
  | .memoryWriteRequest (.core _ _) _ _ => true
  | _ => false

/-- A waiting access is one of context `x` of a logical core, or of its vector engine. -/
def ctxAccess (lc x : Nat) : Instr → Bool
  | .memoryReadRequest r _ _ _ => r == .core lc (.ctx x) || r == .core lc .vector
  | .memoryWriteRequest r _ _ => r == .core lc (.ctx x) || r == .core lc .vector
  | _ => false

/-- An access of a task of context `x` still waits (R91, R100). -/
def ctxWaits (s : State) (lc x : Nat) : Bool := s.mem.waiting.any (ctxAccess lc x)

/-- Accesses of cores that wait are given up with their step (R70, R116). -/
def dropWaiting (s : State) : State :=
  { s with mem := { s.mem with waiting := s.mem.waiting.filter (fun i => !coreAccess i) } }

/-- An access to this package must wait. -/
def mustWait (s : State) (r : Requester) (g n : Nat) (i : Instr) : Bool :=
  g < opBase && gPkg g == pkgNo s && (accessBlocked s (requesterDie s r) (gLocal g) n || behindWaiting s i)

/-- An access that waits or proceeds. -/
def runAccess (i : Instr) (s : State) : State :=
  match i with
  | .memoryReadRequest r g n found => if mustWait s r g n i then holdAccess i s else doRead r g n found s
  | .memoryWriteRequest r g d => if mustWait s r g d.length i then holdAccess i s else doWrite r g d s
  | _ => s

/-- The requester's logical core is one of the device's. -/
def requesterIn (s : State) : Requester → Bool
  | .core lc _ => lc < nLc s
  | .stationmaster => true

/-- An access of a logical core whose core is fenced is discarded at that core's port and counted (R30, R471); another
proceeds. -/
def atPort (r : Requester) (i : Instr) (s : State) : State :=
  match (requesterLc r).bind (mapGet s.chk.movedFrom) with
  | some k => bump Cnt.fncDiscard k 1 s
  | none => runAccess i s

/-- MEMORY_READ_REQUEST (R349, R361, R368). -/
def execMemoryReadRequest (r : Requester) (g n : Nat) (found : List EccFinding) (s : State) : Result :=
  onUnit (requesterIn s r) (atPort r (.memoryReadRequest r g n found) s)

/-- MEMORY_WRITE_REQUEST (R349, R351, R361, R362). -/
def execMemoryWriteRequest (r : Requester) (g : Nat) (data : List Byte) (s : State) : Result :=
  onUnit (requesterIn s r) (atPort r (.memoryWriteRequest r g data) s)

-- Buffers (R362, R366).

/-- WCB_IDLE_FLUSH: a line not written for 2 us goes to the depot (R362); it stays held while its channel retrains. -/
def wcbIdleS (line : Nat) (s : State) : State :=
  match s.mem.wcb.find? (fun l => l.line == line) with
  | none => s
  | some l =>
    let s := reachTime (l.last + 2000) s
    match (chanAt s (line * 64)).map (chanState s) with
    | some (.retraining _) => s
    | _ => flushLine l s

def execWcbIdleFlush (line : Nat) (s : State) : Result := .next (wcbIdleS line s)

/-- PREFETCH_FILL: the granule in flight arrives, once its channel and the couplings on its way carry traffic (R366, R371). -/
def execPrefetchFill (lc g : Nat) (s : State) : Result := onUnit (lc < nLc s) (whenOpen (lcDie s lc) (fillStaging lc g) s)

-- Channels (R370 to R372).

/-- The channel belongs to a stack in service. -/
def chanIn (s : State) (p : Nat) : Bool := stackIn s (p / 128)

/-- A finding in a frame of channel `p` that no region holds: it is counted, and a region created there later has no mark
(R367, R370, R377). -/
def freeFrameFinding (p : Nat) (s : State) (f : EccFinding) : State :=
  match f with
  | .onDie _ => bump Cnt.memOdecc p 1 s
  | .correctable _ => bump Cnt.memCe p 1 s
  | .uncorrectable _ => raise Ev.memUe (srcOf 6 p) [] (bump Cnt.memUe p 1 s)
  | _ => s

/-- PATROL_SCRUB: what the scrub of a channel finds, in its regions by local address, or in frames outside every region
(R370). -/
def scrubS (p : Nat) (found : List EccFinding) (s : State) : State :=
  if chanIn s p && chanState s p == .up then
    found.foldl (fun s f =>
      match chanAt s (findingAddr f) with
      | some q => if q = p then applyFinding f s else s
      | none => freeFrameFinding p s f) s
  else s

def execPatrolScrub (p : Nat) (found : List EccFinding) (s : State) : Result := onUnit (p < nChans s) (scrubS p found s)

/-- A channel's service changes. -/
def setChan (p : Nat) (c : ChanState) (s : State) : State :=
  { s with mem := { s.mem with chans := mapSet s.mem.chans p c } }

/-- A channel begins to retrain (R371). -/
def startChanRetrain (p : Nat) (s : State) : State :=
  raise Ev.memRetrain (srcOf 6 p) [] (bump Cnt.memRetrain p 1 (setChan p (.retraining s.now) s))

/-- CHANNEL_RETRAIN_START: more training errors within a second than RETRAIN_ERRS (R371). -/
def chanRetrainS (p : Nat) (s : State) : State :=
  if chanIn s p && chanState s p == .up then startChanRetrain p s else s

def execChannelRetrainStart (p : Nat) (s : State) : Result := onUnit (p < nChans s) (chanRetrainS p s)

-- Temperature (R373, R374).

/-- A stack before its first report: 25 degrees Celsius. -/
def coldStack : StackState := { temp := 200, step := 0, refresh := 0, hot := false }

/-- The refresh step of THERMAL_MODE 1: 1 from T_THR, 2 from T_THR + 6, with 2 degrees of hysteresis (R374). -/
def nextRefresh (thr cur : Nat) (temp : Int) : Nat :=
  let t8 : Int := 8 * thr
  let enter := if t8 + 48 ≤ temp then 2 else if t8 ≤ temp then 1 else 0
  let held := if cur = 2 ∧ t8 + 32 ≤ temp then 2 else if 1 ≤ cur ∧ t8 - 16 ≤ temp then 1 else 0
  Nat.max enter held

/-- The state of a stack at temperature `temp` (R373, R374). -/
def stackAt (cfg : MemCfg) (c : StackState) (temp : Int) : StackState :=
  let hot := 840 ≤ temp || (c.hot && 824 < temp)
  let base := if c.hot && c.step == 3 && cfg.thermalMode == 1 then 0 else c.step
  let native := if cfg.thermalMode = 0 then nextStep cfg.tThr base temp else 0
  { temp := temp
    step := if hot then 3 else native
    refresh := if cfg.thermalMode = 1 then nextRefresh cfg.tThr c.refresh temp else 0
    hot := hot }

/-- Stack j's state. -/
def stackState (s : State) (j : Nat) : StackState := mapGetD s.mem.stk j coldStack

/-- Stack j takes temperature `temp`: EV_MEM_THROTTLE on leaving step 0. -/
def setStackTemp (j : Nat) (temp : Int) (s : State) : State :=
  let c := stackState s j
  let c' := stackAt s.mem.cfg c temp
  let s := { s with mem := { s.mem with stk := mapSet s.mem.stk j c' } }
  if c.step = 0 ∧ 0 < c'.step then raise Ev.memThrottle (srcOf 5 j) [] s else s

/-- STACK_TEMP_REPORT, every 1 ms (R373, R527). -/
def stackTempS (j : Nat) (temp : Int) (s : State) : State :=
  if diesRun s then setStackTemp j temp (telemetry 0x0002 j temp s) else s

def execStackTempReport (j : Nat) (temp : Int) (s : State) : Result := onUnit (j < nStacks s) (stackTempS j temp s)

end Sys2Proof.Machine
end

