-- ==== Sys2Proof/Machine/Convert.lean ====
section
/-! DEFINITION. Number formats (R239 to R257): what a stored element means, and converting FP32 values into each format. -/

namespace Sys2Proof.Machine

-- Formats (R239 to R245).

/-- Bits of an element (R239). -/
def fmtBits (fmt : Nat) : Nat := [16, 16, 8, 8, 4, 4, 8, 8, 4, 8, 4, 2, 32, 32].getD fmt 32

/-- The format has block scales (R239). -/
def isBlock (fmt : Nat) : Bool := 6 ≤ fmt && fmt ≤ 10

/-- Bytes of a scale entry (R244). -/
def scaleBytes (fmt : Nat) : Nat := if fmt = 10 then 2 else if isBlock fmt then 1 else 0

/-- Elements that a stored row of `n` takes: whole blocks in a block format (R244). -/
def storedElems (fmt n : Nat) : Nat := if isBlock fmt then 32 * cdiv n 32 else n

/-- Bytes of a stored row of `n` elements (R243). -/
def fmtRowBytes (fmt n : Nat) : Nat := cdiv (storedElems fmt n * fmtBits fmt) 8

/-- Element `i` of packed elements of `bits` bits (R243). -/
def elemCode (bits : Nat) (b : List Byte) (i : Nat) : Nat := field b (i * bits) bits

/-- A value times two to the `k`. -/
def scaleVal (v : Val) (k : Int) : Val :=
  match v with
  | .fin n m e => .fin n m (e + k)
  | v => v

/-- The value of a small float without infinities (R240). -/
def decSmall (eb mb : Nat) (w : Nat) : Val :=
  let bias : Int := 2 ^ (eb - 1) - 1
  let f := (w >>> mb) % 2 ^ eb
  if f = 0 then .fin (w.testBit (eb + mb)) (w % 2 ^ mb) (1 - bias - mb)
  else .fin (w.testBit (eb + mb)) (2 ^ mb + w % 2 ^ mb) (f - bias - mb)

/-- The value of an element code before any scale (R240, R241). TERNARY 0b10 reads as 0. -/
def elemVal (fmt code : Nat) : Val :=
  match fmt with
  | 0 => decIeee 8 7 code
  | 1 => decIeee 5 10 code
  | 2 | 6 => if code % 128 = 127 then .nan else decSmall 4 3 code
  | 3 | 7 => decIeee 5 2 code
  | 4 | 8 | 10 => decSmall 2 1 code
  | 5 => ofInt (toSigned 4 code) 0
  | 9 => ofInt (toSigned 8 code) (-6)
  | 11 => ofInt (if code = 1 then 1 else if code = 3 then -1 else 0) 0
  | _ => decIeee 8 23 code

/-- A block's scale: its exponent, or none for 0xFF (R245). -/
def blockExp (code : Nat) : Option Int := if code = 255 then none else some ((code : Int) - 127)

/-- The exponent of the sub-scale of element `i` of a block (R244, R245). -/
def subExp (fmt : Nat) (entry : List Byte) (i : Nat) : Int :=
  if fmt = 10 then -(field entry (8 + 2 * (i / 8)) 2 : Int) else 0

-- Converting (R246 to R253).

/-- The largest finite value of a target (R240, R247), as mantissa and exponent. -/
def fmtMax (fmt : Nat) : Nat × Int :=
  match fmt with
  | 0 => (255, 120)
  | 1 => (2047, 5)
  | 2 | 6 => (7, 6)
  | 3 | 7 => (7, 13)
  | 4 | 8 | 10 => (3, 1)
  | 5 => (7, 0)
  | 9 => (127, -6)
  | 11 => (1, 0)
  | 12 => (2047, 117)
  | _ => (16777215, 104)

/-- emax of a block format (R249). -/
def fmtEmax (fmt : Nat) : Int :=
  match fmt with
  | 6 => 8
  | 7 => 15
  | 9 => 0
  | _ => 2

/-- |y| exceeds the largest finite value. -/
def tooBig (fmt : Nat) (y : Val) : Bool :=
  let mx : Val := .fin false (fmtMax fmt).1 (fmtMax fmt).2
  match y with
  | .fin _ m e => ltVal mx (.fin false m e)
  | _ => false

/-- A finite value rounded to an integer. -/
def roundInt (u : Option Nat) (m : Nat) (e : Int) : Nat :=
  if 0 ≤ e then m <<< e.toNat
  else
    let d := (-e).toNat
    let hi := m >>> d
    if goesUp u hi (m % 2 ^ d) d then hi + 1 else hi

/-- The code of a finite value within range in a small float. -/
def encSmall (eb mb : Nat) (u : Option Nat) (neg : Bool) (m : Nat) (e : Int) : Nat :=
  let r := roundGrid eb mb u m e
  let s := (bit neg) <<< (eb + mb)
  if r.1 < 2 ^ mb then s ||| r.1
  else
    let f : Int := r.2 + mb + (2 ^ (eb - 1) - 1)
    s ||| f.toNat <<< mb ||| (r.1 - 2 ^ mb)

/-- The code of a signed integer in `w` bits. -/
def encInt (w : Nat) (neg : Bool) (i : Nat) : Nat := ofSigned w (sgn neg i)

/-- The code of a finite value within range (R246 step 4). -/
def encIn (fmt : Nat) (u : Option Nat) (neg : Bool) (m : Nat) (e : Int) : Nat :=
  match fmt with
  | 0 => encSmall 8 7 u neg m e
  | 1 => encSmall 5 10 u neg m e
  | 2 | 6 => encSmall 4 3 u neg m e
  | 3 | 7 => encSmall 5 2 u neg m e
  | 4 | 8 | 10 => encSmall 2 1 u neg m e
  | 5 => encInt 4 neg (roundInt u m e)
  | 9 => encInt 8 neg (roundInt u m (e + 6))
  | 11 => encInt 2 neg (roundInt u m e)
  | 12 => encSmall 8 10 none neg m e * 8192
  | _ => encSmall 8 23 none neg m e

/-- The code of the largest finite value, with a sign. -/
def encMax (fmt : Nat) (neg : Bool) : Nat := encIn fmt none neg (fmtMax fmt).1 (fmtMax fmt).2

/-- The target keeps infinities (R248). -/
def keepsInf (fmt : Nat) : Bool := fmt = 0 || fmt = 1 || fmt = 3 || fmt = 7 || fmt = 12 || fmt = 13

/-- An infinity of a target that keeps them, or any overflow in IEEE form. -/
def encWide (fmt : Nat) (v : Val) : Nat :=
  match fmt with
  | 0 => encIeee 8 7 none v
  | 1 => encIeee 5 10 none v
  | 3 | 7 => encIeee 5 2 none v
  | 12 => encIeee 8 10 none v * 8192
  | _ => encIeee 8 23 none v

/-- The canonical NaN of a format (R242); zero where it has none. -/
def encNan (fmt : Nat) : Nat :=
  match fmt with
  | 0 => 0x7FC0
  | 1 => 0x7E00
  | 2 | 6 => 0x7F
  | 3 | 7 => 0x7E
  | 12 | 13 => 0x7FC00000
  | _ => 0

/-- Overflow of a finite value in IEEE 754 form: FP32, CF19, BF16 and FP16 (R248). -/
def roundsOver (fmt : Nat) : Bool := fmt = 0 || fmt = 1 || fmt = 12 || fmt = 13

/-- What one conversion gives: the code, and whether it saturated, underflowed, or changed a non-finite input. -/
structure Converted where
  code : Nat
  sats : Nat
  ufl : Nat
  nonfin : Nat
  deriving DecidableEq, Repr

/-- The result is zero. -/
def zeroCode (fmt code : Nat) : Bool := isZero (elemVal fmt code)

/-- A scaled value converted (R246 steps 2 to 5), to nearest or with random word `u`. -/
def convertOne (fmt : Nat) (u : Option Nat) (y : Val) : Converted :=
  match y with
  | .nan => { code := encNan fmt, sats := 0, ufl := 0, nonfin := bit (encNan fmt == 0) }
  | .inf neg =>
    if keepsInf fmt then { code := encWide fmt y, sats := 0, ufl := 0, nonfin := 0 }
    else if fmt = 2 ∨ fmt = 6 then { code := encNan fmt, sats := 0, ufl := 0, nonfin := 1 }
    else { code := encMax fmt neg, sats := 0, ufl := 0, nonfin := 1 }
  | .fin neg m e =>
    if tooBig fmt y then { code := if roundsOver fmt then encWide fmt y else encMax fmt neg, sats := 1, ufl := 0, nonfin := 0 }
    else
      let c := encIn fmt u neg m e
      { code := c, sats := 0, ufl := bit (m != 0 && zeroCode fmt c), nonfin := 0 }

/-- Floor of log2 of a finite non-zero value. -/
def floorLog (v : Val) : Option Int :=
  match v with
  | .fin _ m e => if m = 0 then none else some (e + bitLen m - 1)
  | _ => none

/-- The magnitude of a finite value; 0 for any other. -/
def finMag : Val → Val
  | .fin _ m e => .fin false m e
  | _ => .fin false 0 0

/-- The largest finite magnitude (R249). -/
def amaxOf (l : List Val) : Val := l.foldl (fun a v => if ltVal a (finMag v) then finMag v else a) (.fin false 0 0)

/-- An exponent within -127 to 127. -/
def clampExp (k : Int) : Int := if k < -127 then -127 else if 127 < k then 127 else k

/-- k of a block (R249, R250). -/
def blockK (fmt : Nat) (noClip : Bool) (l : List Val) : Int :=
  let a := amaxOf l
  match floorLog a with
  | none => 0
  | some f =>
    let k := f - fmtEmax fmt
    let mx : Val := .fin false (fmtMax fmt).1 ((fmtMax fmt).2 + k)
    clampExp (if noClip && ltVal mx a then k + 1 else k)

/-- s_j of a sub-block of SS4 (R250). -/
def subScale (noClip : Bool) (k : Int) (l : List Val) : Nat :=
  let a := amaxOf l
  match floorLog a with
  | none => 3
  | some f =>
    if noClip then
      let fits : Nat → Bool := fun s => !ltVal (.fin false 3 (1 + k - s)) a
      if fits 3 then 3 else if fits 2 then 2 else if fits 1 then 1 else 0
    else Nat.min 3 (k + 2 - f).toNat

/-- A value of a target decoded with its scale (R245). -/
def decScaled (fmt code : Nat) (k : Int) : Val := scaleVal (elemVal fmt code) k

/-- A random word for element `e` (R253), where the tensor's mode is stochastic and the target takes it (R252). -/
def convRandom (stoch : Bool) (fmt jobId tid step e : Nat) : Option Nat :=
  if stoch && fmt != 12 && fmt != 13 then
    let c3 := 0xF * 2 ^ 28 + step / 2 ^ 32 % 2 ^ 24
    some (philoxWord (philox jobId (e / 4) (tid % 4096) (step % 2 ^ 32) c3) e)
  else none

/-- How a conversion into a tensor is to run: format, tensor ID, mode, SCALE_MODE, exponent of S, JOB_ID and step. -/
structure ConvHow where
  fmt : Nat
  tid : Nat
  stoch : Bool
  noClip : Bool
  sexp : Int
  jobId : Nat
  step : Nat
  deriving DecidableEq, Repr

/-- A row converted: element codes, scale entries, decoded values (R245) and counts. -/
structure ConvRow where
  codes : List Nat
  scales : List Byte
  values : List Val
  sats : Nat
  ufl : Nat
  nonfin : Nat
  deriving DecidableEq, Repr

/-- Nothing converted. -/
def noRow : ConvRow := { codes := [], scales := [], values := [], sats := 0, ufl := 0, nonfin := 0 }

/-- One row after another. -/
def joinRows (a b : ConvRow) : ConvRow :=
  { codes := a.codes ++ b.codes, scales := a.scales ++ b.scales, values := a.values ++ b.values, sats := a.sats + b.sats,
    ufl := a.ufl + b.ufl, nonfin := a.nonfin + b.nonfin }

/-- Element `e` of the tensor, of value `x`, converted with the scale exponent `k`. -/
def convElem (h : ConvHow) (k : Int) (e : Nat) (x : Val) : ConvRow :=
  let u := convRandom h.stoch h.fmt h.jobId h.tid h.step e
  let c := convertOne h.fmt u (scaleVal x (-k))
  { codes := [c.code], scales := [], values := [decScaled h.fmt c.code k], sats := c.sats, ufl := c.ufl, nonfin := c.nonfin }

/-- Values from element `e0` on, each with its own scale exponent. -/
def convElems (h : ConvHow) (ks : List Int) (e0 : Nat) (xs : List Val) : ConvRow :=
  ((List.range xs.length).zip (xs.zip ks)).foldl (fun acc t => joinRows acc (convElem h t.2.2 (e0 + t.1) t.2.1)) noRow

/-- The scale exponents and scale entry of a block (R249, R250). -/
def blockScales (h : ConvHow) (xs : List Val) : List Int × List Byte :=
  let k := blockK h.fmt h.noClip xs
  if h.fmt = 10 then
    let subs := (List.range 4).map (fun j => subScale h.noClip k ((xs.drop (8 * j)).take 8))
    ((List.range xs.length).map (fun i => k - (subs.getD (i / 8) 3 : Int)),
      [BitVec.ofNat 8 (k + 127).toNat, BitVec.ofNat 8 (packNat ((List.range 4).map (fun j => (2 * j, 2, subs.getD j 3))))])
  else (xs.map (fun _ => k), [BitVec.ofNat 8 (k + 127).toNat])

/-- Blocks of 32 elements, `n` of them (R244); the last is padded with zero codes. -/
def convBlocks (h : ConvHow) : Nat → Nat → List Val → ConvRow
  | 0, _, _ => noRow
  | n + 1, e0, xs =>
    let b := xs.take 32
    let sc := blockScales h b
    let r := convElems h sc.1 e0 b
    let r := { r with codes := r.codes ++ List.replicate (32 - b.length) 0, scales := sc.2 }
    joinRows r (convBlocks h n (e0 + 32) (xs.drop 32))

/-- A row of values, the first of them element `e0`, converted (R246 to R250). -/
def convRow (h : ConvHow) (e0 : Nat) (xs : List Val) : ConvRow :=
  if isBlock h.fmt then convBlocks h (cdiv xs.length 32) e0 xs
  else convElems h (xs.map (fun _ => h.sexp)) e0 xs

/-- Codes packed from bit 0 (R243). -/
def packCodes (bits : Nat) : List Nat → Nat
  | [] => 0
  | c :: cs => c % 2 ^ bits + 2 ^ bits * packCodes bits cs

/-- The bytes of a row of codes; `pad` fills what is left of the last byte. -/
def codeBytes (bits : Nat) (codes : List Nat) (pad : Nat) : List Byte :=
  let n := codes.length * bits
  toLE (cdiv n 8) (packCodes bits codes + 2 ^ n * pad)

-- CF19 pieces (R251, R256, R257).

/-- An FP32 word rounded to CF19, to nearest, ties to even (R251). -/
def toCf19 (w : W32) : W32 := BitVec.ofNat 32 (encIeee 8 10 none (val32 w) * 8192)

/-- An FP32 word cut to CF19. -/
def cutCf19 (w : W32) : W32 := BitVec.ofNat 32 (w.toNat / 8192 * 8192)

/-- The pieces hi, mid, lo of an FP32 operand (R256); mid is absent (+0) in the two-piece split. -/
def pieces (fmt : Nat) (a : W32) : W32 × W32 × W32 :=
  if nonfinite32 a then (quiet32 a, 0, 0)
  else
    let hi := cutCf19 a
    let rest := sub32 a hi
    if fmt = 14 then (hi, 0, toCf19 rest)
    else
      let mid := cutCf19 rest
      (hi, mid, toCf19 (sub32 rest mid))

/-- The passes of a split, in order: the pieces of A and of B (0 hi, 1 mid, 2 lo) (R257). Plain operands have one pass. -/
def passesOf (fmt : Nat) : List (Nat × Nat) :=
  if fmt = 14 then [(2, 0), (0, 2), (0, 0)]
  else if fmt = 15 then [(2, 0), (0, 2), (1, 1), (1, 0), (0, 1), (0, 0)]
  else [(0, 0)]

/-- Piece `i` of a word. -/
def pieceOf (fmt i : Nat) (a : W32) : W32 :=
  let p := pieces fmt a
  if i = 0 then p.1 else if i = 1 then p.2.1 else p.2.2

-- The tensor table (R261 to R264).

/-- The entry of a tensor, where it is in use. -/
def tensorOf (s : State) (tid : Nat) : Option Tensor :=
  match mapGet s.eng.tensors tid with
  | some t => if flag t.image 29 then some t else none
  | none => none

/-- The exponent of S of a tensor; 0 for none (R245, R261). -/
def tensorExp (s : State) (tid : Nat) : Int :=
  match tensorOf s tid with
  | some t => (field t.image 55 8 : Int) - 127
  | none => 0

/-- The format of an operand: FMT 31 is the stamp of the half (R262), FP32 where the entry is empty (R267). -/
def inFmt (s : State) (fmt tid : Nat) (half : Bool) : Nat :=
  if fmt = 31 then
    match tensorOf s tid with
    | some t => if half then t.stamp1 else t.stamp0
    | none => 13
  else fmt

/-- The format of a target: FMT 31 is CUR_FMT. -/
def outFmt (s : State) (fmt tid : Nat) : Nat :=
  if fmt = 31 then
    match tensorOf s tid with
    | some t => t.cur
    | none => 13
  else fmt

/-- JOB_ID of the running job; zero outside one (R253). -/
def jobIdOf (s : State) : Nat :=
  match s.job with
  | some j => j.id
  | none => 0

/-- How a conversion into tensor `tid` runs, at step `step`. A tensor not registered rounds to nearest with S = 1.0. -/
def convHow (s : State) (fmt tid step : Nat) : ConvHow :=
  match tensorOf s tid with
  | some t => { fmt := fmt, tid := tid, stoch := flag t.image 26, noClip := flag t.image 27,
                sexp := if isBlock fmt then 0 else tensorExp s tid, jobId := jobIdOf s, step := step }
  | none => { fmt := fmt, tid := 4095, stoch := false, noClip := false, sexp := 0, jobId := jobIdOf s, step := step }

/-- Conversions into a half of a tensor are counted, and stamp the half where they are its first since the departure
(R246, R262, R263). -/
def countConv (tid : Nat) (half : Bool) (n : Nat) (r : ConvRow) (s : State) : State :=
  match tensorOf s tid with
  | none => s
  | some t =>
    let t := { t with conv := t.conv + n, sats := t.sats + r.sats }
    let t := if half then { t with stamp1 := if t.used1 then t.stamp1 else t.cur, used1 := true }
      else { t with stamp0 := if t.used0 then t.stamp0 else t.cur, used0 := true }
    let s := { s with eng := { s.eng with tensors := mapSet s.eng.tensors tid t } }
    bump Cnt.mxNonfinite tid r.nonfin (bump Cnt.mxUfl tid r.ufl (bump Cnt.mxSat tid r.sats (bump Cnt.mxConv tid n s)))

/-- The tensor keeps error feedback (R254). -/
def tensorEf (s : State) (tid : Nat) : Bool :=
  match tensorOf s tid with
  | some t => flag t.image 28
  | none => false

/-- Promotion at a departure (R263, R264): `abandoned` where the package is left behind, or where the departure ends no step
and what was counted before it belongs to none. -/
def promoteOne (abandoned : Bool) (s : State) (tid : Nat) : State :=
  match tensorOf s tid with
  | none => s
  | some t =>
    let ppm := field t.image 64 32
    let least := if field t.image 96 32 = 0 then 4096 else field t.image 96 32
    let four := [4, 5, 8, 10, 11].contains t.cur
    let up := !abandoned && ppm != 0 && !t.promoted && four && least ≤ t.conv && ppm * t.conv < t.sats * 1000000
    let t' := { t with
      used0 := false
      used1 := false
      conv := 0
      sats := 0
      lastConv := if abandoned then t.lastConv else t.conv
      lastSats := if abandoned then t.lastSats else t.sats }
    let t' := if up then { t' with cur := field t.image 20 5, promoted := true } else t'
    let s := { s with eng := { s.eng with tensors := mapSet s.eng.tensors tid t' } }
    if up then
      raise Ev.mxPromote (srcOf 0 0) (pay64 tid ++ pay64 t.conv ++ pay64 t.sats) (bump Cnt.mxPromote 0 1 s)
    else s

/-- Every tensor at a departure. -/
def promoteAll (abandoned : Bool) (s : State) : State :=
  (mapKeys s.eng.tensors).foldl (promoteOne abandoned) s

/-- Every tensor at the acceptance of a job (R264). -/
def tensorsAtStart (s : State) : State :=
  { s with eng := { s.eng with tensors := mapVals (fun _ (t : Tensor) =>
      let b := field t.image 0 5
      { t with cur := b, stamp0 := b, stamp1 := b, promoted := false, used0 := false, used1 := false, conv := 0,
               sats := 0, lastConv := 0, lastSats := 0 }) s.eng.tensors } }

end Sys2Proof.Machine
end

