-- ==== Sys2Proof/Machine/Tasks.lean ====
section
/-! DEFINITION. Graph images and tasks (R91 to R98), and what a dispatcher does with them: readying, notices, completion,
starting, spawning, suspending and abandoning (R99 to R118). -/

namespace Sys2Proof.Machine

-- Graph images (R95 to R98).

/-- `n` bytes of an image from `off`; units not written read as zero. -/
def imgRead (g : Graph) (off n : Nat) : List Byte :=
  let b := (unitsOf 64 off n).flatMap (fun u => mapGetD g.units u (zeros 64))
  slice b (off % 64) n

/-- The image header (R95). -/
def imgHeader (g : Graph) : List Byte := imgRead g 0 128

def imgLcCount (g : Graph) : Nat := field (imgHeader g) 16 7
def imgFixed (g : Graph) : Bool := flag (imgHeader g) 23
def imgDir (g : Graph) : Nat := field (imgHeader g) 192 16

/-- QUANTUM_CCLK in force: 70,000 for 0 (R95). -/
def imgQuantum (g : Graph) : Nat :=
  let q := field (imgHeader g) 32 32
  if q = 0 then 70000 else q

/-- Directory entry c (R96). -/
def dirEntryOf (g : Graph) (c : Nat) : List Byte := imgRead g (imgDir g + 16 * c) 16

def secOffset (g : Graph) (c : Nat) : Nat := field (dirEntryOf g c) 0 32
def taskCount (g : Graph) (c : Nat) : Nat := field (dirEntryOf g c) 32 16
def templateCount (g : Graph) (c : Nat) : Nat := field (dirEntryOf g c) 48 16
def reserveKib (g : Graph) (c : Nat) : Nat := field (dirEntryOf g c) 96 16

/-- The end of a section's extent (R96). -/
def secEnd (g : Graph) (c : Nat) : Nat :=
  let o := secOffset g c
  let later := ((List.range (imgLcCount g)).map (secOffset g)).filter (fun x => o < x)
  later.foldl Nat.min (field (imgHeader g) 64 32)

/-- The descriptor of task t, or of template k, of logical core c (R96). -/
def taskBytes (g : Graph) (c t : Nat) : List Byte := imgRead g (secOffset g c + 64 * t) 64

/-- See taskBytes. -/
def templateBytes (g : Graph) (c k : Nat) : List Byte := imgRead g (secOffset g c + 64 * (taskCount g c + k)) 64

-- Task descriptors (R97).

def tdKind (b : List Byte) : Nat := field b 0 4
def tdClass (b : List Byte) : Nat := field b 4 2
def tdPriority (b : List Byte) : Nat := field b 6 3
def tdAccum (b : List Byte) : Bool := flag b 9
def tdStealOk (b : List Byte) : Bool := flag b 10
def tdSpawns (b : List Byte) : Bool := flag b 11
def tdDeps (b : List Byte) : Nat := field b 16 16
def tdSuccs (b : List Byte) : Nat := field b 32 16
def tdSuccOff (b : List Byte) : Nat := field b 64 32
def tdCode (b : List Byte) : Nat := field b 96 32
def tdShunter (b : List Byte) : Nat := field b 128 8
def tdArgOff (b : List Byte) : Nat := field b 160 32
def tdArgBytes (b : List Byte) : Nat := field b 192 32

/-- Successor entry k of a task: logical core and index (R98). -/
def successor (g : Graph) (c : Nat) (b : List Byte) (k : Nat) : Nat × Nat :=
  let e := leNat (imgRead g (secOffset g c + tdSuccOff b + 4 * k) 4)
  (e / 65536 % 64, e % 65536)

/-- The graph of the running job. -/
def jobGraph (s : State) : Option Graph :=
  match s.job with
  | some j => mapGet s.dsp.graphs j.graph
  | none => none

/-- Fixed-order mode is in force (R95, R118). -/
def fixedOrder (s : State) : Bool :=
  match jobGraph s with
  | some g => imgFixed g
  | none => false

/-- Where graph `h` has its reservation in the scratchpad of logical core c, fixed at its commit (R96, R124). -/
def reserveBase (s : State) (h c : Nat) : Nat :=
  match mapGet s.dsp.graphs h with
  | some g => mapGetD g.bases c 0
  | none => 0

/-- The bytes at `off` of a task's section: code, descriptors and arguments it names (R96). -/
def sectionRead (s : State) (lc off n : Nat) : List Byte :=
  match jobGraph s with
  | some g => imgRead g (secOffset g lc + off) n
  | none => zeros n

/-- DSP_TASK_STEP of a task (R105): the step its outputs belong to. -/
def taskStep (s : State) (t : Task) : Nat :=
  match t.cls, s.job with
  | 0, _ => s.step
  | 1, some j => j.next
  | _, _ => 0

-- Dispatchers and contexts.

/-- DSP_TASK_ID of a task (R105). -/
def dspTaskId (t : Task) : Nat := packNat [(0, 16, if t.spawned then 0xFFFF else t.idx), (16, 6, t.lc)]

/-- A dispatcher with nothing in it. -/
def freshDisp : Disp :=
  { counts := [], states := [], ready := [], held := [], stalls := [], slots := [], outstanding := 0 }

def disp (s : State) (lc : Nat) : Disp := mapGetD s.dsp.disps lc freshDisp

def setDisp (lc : Nat) (d : Disp) (s : State) : State :=
  { s with dsp := { s.dsp with disps := mapSet s.dsp.disps lc d } }

/-- A free context. -/
def freshCtx : Ctx :=
  { task := none, quantumAt := 0, wait := .none, suspending := false, yielding := false, sigLast := 0, sigBad := 0,
    regs := [], mxBad := 0, veBad := 0 }

def ctx (s : State) (lc x : Nat) : Ctx := mapGetD s.dsp.ctxs (4 * lc + x) freshCtx

def setCtx (lc x : Nat) (c : Ctx) (s : State) : State :=
  { s with dsp := { s.dsp with ctxs := mapSet s.dsp.ctxs (4 * lc + x) c } }

/-- The physical core that hosts a logical core beside others, if one does (R473). -/
def hostCore (s : State) (lc : Nat) : Option (Nat × PhysCore) :=
  s.chk.cores.find? (fun e => e.2.role == .hosting && (e.2.lc == some lc || e.2.guests.contains lc))

/-- The logical cores that a physical core serves, its own first. -/
def servedBy (p : PhysCore) : List Nat := p.lc.toList ++ p.guests

/-- Every context of a logical core is free. -/
def ctxsFree (s : State) (lc : Nat) : Bool := (List.range 4).all (fun x => (ctx s lc x).task.isNone)

/-- A logical core's memory is being copied to the core that takes it (R472, R473). -/
def underCopy (s : State) (lc : Nat) : Bool := s.chk.cores.any (fun e => e.2.copying.contains lc)

/-- A logical core has its contexts: a host runs one of those it serves at a time (R473). -/
def hasContexts (s : State) (lc : Nat) : Bool :=
  if underCopy s lc then false
  else match hostCore s lc with
  | none => true
  | some (_, p) => p.active == some lc && (servedBy p).all (fun c => c == lc || ctxsFree s c)

/-- The lowest-numbered free context (R103). -/
def freeCtx (s : State) (lc : Nat) : Option Nat :=
  if hasContexts s lc then (List.range 4).find? (fun x => (ctx s lc x).task.isNone) else none

/-- The logical core under whose number the shunters stand that take a core's SHUNT tasks: its host's (R473). -/
def shunterLc (s : State) (lc : Nat) : Nat :=
  match hostCore s lc with
  | some (_, p) => p.lc.getD lc
  | none => lc

/-- The ready list of a priority. -/
def readyAt (d : Disp) (p : Nat) : List Task := mapGetD d.ready p []

/-- Entries in use, those reserved for save slots apart (R111). -/
def readyUsed (d : Disp) : Nat := sumNat (d.ready.map (fun e => countIf (fun t => t.saved.isNone) e.2))

/-- A ready entry is free (R111). -/
def readyFree (d : Disp) : Bool := readyUsed d < 2048

/-- A task that becomes ready enters its list before task `u`: both became ready in one cycle, and `u` is spawned, or
static with a higher index (R102). -/
def entersBefore (t u : Task) : Bool :=
  u.since == t.since && u.saved.isNone && !t.spawned && (u.spawned || t.idx < u.idx)

/-- A list with the task that becomes ready: at its tail, but for those that it enters before (R102). -/
def enterReady (t : Task) (l : List Task) : List Task :=
  let later := (l.reverse.takeWhile (entersBefore t)).reverse
  l.take (l.length - later.length) ++ t :: later

/-- A task that becomes ready enters its ready list (R102; one nanosecond is taken as one CCLK cycle, assumption log 64). -/
def pushReady (lc : Nat) (t : Task) (s : State) : State :=
  let d := disp s lc
  let t := { t with since := s.now }
  setDisp lc { d with ready := mapUpd d.ready (tdPriority t.bytes) [] (enterReady t) } s

/-- A suspended task waits at the tail of its ready list (R109). -/
def pushTail (lc : Nat) (t : Task) (s : State) : State :=
  let d := disp s lc
  setDisp lc { d with ready := mapUpd d.ready (tdPriority t.bytes) [] (fun l => l ++ [{ t with since := s.now }]) } s

/-- A static task. -/
def staticTask (g : Graph) (lc idx : Nat) : Task :=
  let b := taskBytes g lc idx
  { lc := lc, idx := idx, uid := 0, spawned := false, cls := tdClass b, bytes := b, arg := 0, join := none,
    piece := none, saved := none, since := 0 }

/-- The state of a static task. -/
def setTaskState (lc idx : Nat) (st : TaskState) (s : State) : State :=
  let d := disp s lc
  setDisp lc { d with states := mapSet d.states idx st } s

/-- A static task whose count has reached 0 becomes ready. -/
def makeReady (lc idx : Nat) (s : State) : State :=
  match jobGraph s with
  | some g => pushReady lc (staticTask g lc idx) (setTaskState lc idx .ready s)
  | none => s

/-- `n` tasks of a class are readied in the step (R529). -/
def noteReadied (cls n : Nat) (s : State) : State :=
  match s.job with
  | some j => if n = 0 then s else { s with job := some { j with readied := mapUpd j.readied cls 0 (fun k => k + n) } }
  | none => s

/-- A task of a class completes (R529). -/
def noteDone (cls : Nat) (s : State) : State :=
  match s.job with
  | some j =>
    { s with job := some { j with done := mapUpd j.done cls 0 (fun k => k + 1), doneAt := mapSet j.doneAt cls s.now } }
  | none => s

/-- A member of the job is a standing spare that has not joined in a dead package's place (R476, R480). -/
def standingSpare (s : State) (p : Nat) : Bool :=
  match s.job with
  | some j =>
    p != j.master && !j.deputies.contains p && s.chk.spares.spares.any (fun e => e.1 == p)
      && !s.chk.substs.any (fun x => x.spare == some p && x.joined)
  | none => false

/-- A standing spare assigned to a dead package, which has yet to join (R480). -/
def assignedSpare (s : State) (p : Nat) : Bool := s.chk.substs.any (fun x => x.spare == some p && !x.joined)

/-- SP_CHECK_MODE (R197): BRINGUP_TEST in BRINGUP, FIELD_TEST during a field test, RECOVERY at a spare that rebuilds a dead
package's state (R480), SERVICE otherwise. -/
def spCheckMode (s : State) : Nat :=
  if s.dev = .bringup then 1
  else if s.chk.field.isSome then 2
  else if s.chk.spares.mirror && assignedSpare s (pkgNo s) then 3
  else 0

/-- Index checks are bypassed: nothing is counted or raised for data that would fail them, and its results are unspecified,
so free values (R149, R198, assumption log 55). -/
def unchecked (s : State) : Bool := spCheckMode s != 0

/-- A task is held by a full list: counted once (R112). -/
def holdNotice (n : Notice) (s : State) : State :=
  let d := disp s n.dst
  let s := setDisp n.dst { d with held := d.held ++ [n] } s
  if n.flow then s else bump Cnt.dspReadyFull n.dst 1 s

/-- The static tasks of logical core `lc` whose class is in `classes`. -/
def classTasks (g : Graph) (classes : List Nat) (lc : Nat) : List Nat :=
  (List.range (taskCount g lc)).filter (fun t => classes.contains (tdClass (taskBytes g lc t)))

/-- The tasks of these classes are readied on one logical core (R92, R99): counts reset, those without producers ready in
ascending index. -/
def armCore (g : Graph) (classes : List Nat) (s : State) (lc : Nat) : State :=
  let ts := classTasks g classes lc
  let d := disp s lc
  let counts := ts.foldl (fun m t => mapSet m t (tdDeps (taskBytes g lc t))) d.counts
  let states := ts.foldl (fun m t => mapSet m t TaskState.waiting) d.states
  let s := setDisp lc { d with counts := counts, states := states, outstanding := d.outstanding + ts.length } s
  let s := ts.foldl (fun s t => noteReadied (tdClass (taskBytes g lc t)) 1 s) s
  (ts.filter (fun t => tdDeps (taskBytes g lc t) == 0)).foldl (fun s t =>
    if readyFree (disp s lc) then makeReady lc t s
    else holdNotice { src := lc, dst := lc, idx := t, flow := false } s) s

/-- The tasks of these classes are readied on every logical core. -/
def armAll (classes : List Nat) (s : State) : State :=
  match jobGraph s with
  | some g => (List.range (nLc s)).foldl (armCore g classes) s
  | none => s

/-- The outstanding tasks of the package (R114). -/
def outstanding (s : State) : Nat := sumNat (s.dsp.disps.map (fun e => e.2.outstanding))

-- Completion (R99, R100).

/-- A completion notice is under way. -/
def sendNotice (src : Nat) (e : Nat × Nat) (s : State) : State :=
  { s with dsp := { s.dsp with flight := s.dsp.flight ++ [{ src := src, dst := e.1, idx := e.2, flow := false }] } }

/-- Once the ONCE tasks of a job have completed, its LOAD tasks are readied (R92), but at a standing spare (R476). -/
def afterOnce (s : State) : State :=
  match s.job with
  | some j =>
    if j.phase = .loading ∧ !j.onceDone ∧ outstanding s = 0 then
      let s := { s with job := some { j with onceDone := true } }
      if standingSpare s (pkgNo s) then s else armAll [1] s
    else s
  | none => s

/-- A task has completed: its successors, or its join task, are notified (R99, R106). -/
def completeTask (t : Task) (s : State) : State :=
  let d := disp s t.lc
  let s := setDisp t.lc { d with outstanding := d.outstanding - 1 } s
  let s := noteDone t.cls (bump Cnt.dspTaskDone t.lc 1 s)
  let s :=
    if t.spawned then
      match t.join with
      | some j => sendNotice t.lc j s
      | none => s
    else
      match jobGraph s with
      | some g =>
        (List.range (tdSuccs t.bytes)).foldl (fun s k => sendNotice t.lc (successor g t.lc t.bytes k) s)
          (setTaskState t.lc t.idx .complete s)
      | none => s
  afterOnce s

/-- A notice takes effect: its task's count falls, and at 0 it is ready (R99). -/
def applyNotice (n : Notice) (s : State) : State :=
  let d := disp s n.dst
  let c := mapGetD d.counts n.idx 0
  let s := setDisp n.dst { d with counts := mapSet d.counts n.idx (c - 1) } s
  if c ≤ 1 then makeReady n.dst n.idx s else s

/-- A notice reaches its dispatcher (R101, R112). -/
def recvNotice (n : Notice) (s : State) : State :=
  let d := disp s n.dst
  if 1024 ≤ d.held.length then
    let s := if n.flow then s else bump Cnt.dspReadyFull n.dst 1 s
    { s with dsp := { s.dsp with flight := { n with flow := true } :: s.dsp.flight } }
  else if mapGetD d.counts n.idx 0 ≤ 1 ∧ (!readyFree d ∨ d.held ≠ []) then holdNotice n s
  else applyNotice n s

/-- COMPLETION_NOTICE: the oldest notice from `src` to `lc` arrives. -/
def completionNoticeS (src lc : Nat) (s : State) : State :=
  match takeFirst (fun n : Notice => n.src == src && n.dst == lc) s.dsp.flight with
  | some (n, rest) => recvNotice n { s with dsp := { s.dsp with flight := rest } }
  | none => s

def execCompletionNotice (src lc : Nat) (s : State) : Result :=
  onUnit (src < nLc s && lc < nLc s) (completionNoticeS src lc s)

/-- NOTICE_HELD_APPLY: an entry is free, and the first held notice is applied (R112). -/
def noticeHeldS (lc : Nat) (s : State) : State :=
  let d := disp s lc
  match d.held with
  | n :: rest => if readyFree d then applyNotice n (setDisp lc { d with held := rest } s) else s
  | [] => s

def execNoticeHeldApply (lc : Nat) (s : State) : Result := onUnit (lc < nLc s) (noticeHeldS lc s)

-- Starting tasks (R103).

/-- The deque of shunter `i` of logical core `lc`. -/
def deque (s : State) (lc i : Nat) : List Task := mapGetD s.dsp.deques (8 * lc + i) []

/-- FUNC of a SHUNT task's descriptor (R163). -/
def taskFunc (s : State) (t : Task) : Nat := field (sectionRead s t.lc (tdCode t.bytes) 1) 0 8

/-- A SHUNT task that fixed-order mode binds to its shunter (R118, R155): sample tasks and pieces are never. -/
def boundTask (s : State) (t : Task) : Bool :=
  fixedOrder s && tdAccum t.bytes && t.piece.isNone && taskFunc s t != 1

/-- A task that a thief may take (R153). -/
def stealable (s : State) (t : Task) : Bool := tdStealOk t.bytes && !boundTask s t

/-- A core's steal flag (R153). -/
def stealFlag (s : State) (lc : Nat) : Bool := (List.range 8).any (fun i => (deque s lc i).any (stealable s))

/-- A deque becomes `l`; the shunter wakes where it has work, and its die's shunters where the core's steal flag rises
(R154). -/
def setDeque (lc i : Nat) (l : List Task) (s : State) : State :=
  let flag := stealFlag s lc
  let s' : State := { s with dsp := { s.dsp with deques := mapSet s.dsp.deques (8 * lc + i) l } }
  let wakes : Nat → Bool := fun k => (l != [] && k == 8 * lc + i)
    || (!flag && stealFlag s' lc && lcDie s (k / 8) == lcDie s lc)
  { s' with dsp := { s'.dsp with
    asleep := s'.dsp.asleep.filter (fun k => !wakes k)
    idle := s'.dsp.idle.filter (fun e => !((l != [] && e.1 == 8 * lc + i) || (s'.dsp.asleep.contains e.1 && wakes e.1))) } }

/-- The task that a shunter runs. -/
def shunterTask (s : State) (lc i : Nat) : Option Task := mapGet s.dsp.running (8 * lc + i)

/-- A shunter's queued tasks, the running one included (R103). -/
def queuedTasks (s : State) (lc i : Nat) : Nat := (deque s lc i).length + bit (shunterTask s lc i).isSome

/-- The shunter that takes a SHUNT task (R103, R118). -/
def pickShunter (s : State) (lc : Nat) (t : Task) : Nat :=
  let n := tdShunter t.bytes
  if n < 8 then n
  else if fixedOrder s ∧ tdAccum t.bytes then t.idx % 8
  else
    match sortBy (fun a b => queuedTasks s (shunterLc s lc) a ≤ queuedTasks s (shunterLc s lc) b) (List.range 8) with
    | i :: _ => i
    | [] => 0

/-- The collective descriptor of a COLL task enters the link engine of its die (R103, R400). -/
def startColl (t : Task) (s : State) : State :=
  let c : Coll := { no := s.fab.nextColl, die := lcDie s t.lc, task := t, desc := sectionRead s t.lc (tdCode t.bytes) 128,
                    step := taskStep s t, started := false, unacked := [], partialDone := false }
  { s with fab := { s.fab with colls := s.fab.colls ++ [c], nextColl := s.fab.nextColl + 1 } }

/-- The context state in a save slot (R109). -/
def savedCtx (s : State) (lc : Nat) (t : Task) : Ctx :=
  match t.saved with
  | some i => mapGetD (disp s lc).slots i freshCtx
  | none => freshCtx

/-- A CORE task starts on context `x`, or comes back to it with its saved state (R103, R108, R109, R366). -/
def startCore (lc x : Nat) (t : Task) (s : State) : State :=
  let c := savedCtx s lc t
  let s := setCtx lc x { c with task := some { t with saved := none }, quantumAt := s.now, wait := .none } s
  let d := disp s lc
  let s := setDisp lc { d with slots := d.slots.filter (fun e => t.saved != some e.1) } s
  let s := if t.spawned then s else setTaskState lc t.idx .running s
  emptyNonPooled lc s

-- Spawning (R106, R107, R112, R113).

/-- A spawn is dropped (R107). -/
def spawnBad (s : State) (t : Task) (template target joinTask : Nat) : Bool :=
  match jobGraph s with
  | none => true
  | some g =>
    !tdSpawns t.bytes || nLc s ≤ target || templateCount g target ≤ template || taskCount g target ≤ joinTask
      || tdClass (taskBytes g target joinTask) != t.cls
      || mapGetD (disp s target).states joinTask .complete != .waiting

/-- The spawned task is ready, and its join task's count has risen (R106). -/
def performSpawn (lc : Nat) (t : Task) (template target joinTask arg : Nat) (s : State) : State :=
  match jobGraph s with
  | none => s
  | some g =>
    let d := disp s target
    let d := { d with
      counts := mapUpd d.counts joinTask 0 (fun c => c + 1)
      outstanding := d.outstanding + 1 }
    let u : Task := { lc := target, idx := template, uid := s.dsp.nextUid + 1, spawned := true, cls := t.cls,
                      bytes := templateBytes g target template, arg := arg, join := some (target, joinTask),
                      piece := none, saved := none, since := 0 }
    let s := { s with dsp := { s.dsp with nextUid := s.dsp.nextUid + 1 } }
    noteReadied t.cls 1 (bump Cnt.dspSpawn lc 1 (pushReady target u (setDisp target d s)))

/-- A spawn by a running task: dropped, performed, or stalled. -/
def trySpawn (lc x template target joinTask arg : Nat) (t : Task) (s : State) : State :=
  if spawnBad s t template target joinTask then
    raise Ev.dspSpawnDrop (srcOf 4 (4 * lc + x)) [] (bump Cnt.dspSpawnDrop lc 1 s)
  else
    let d := disp s target
    if readyFree d ∧ d.held = [] ∧ d.stalls = [] then performSpawn lc t template target joinTask arg s
    else
      let z : SpawnStall := { lc := lc, x := x, template := template, target := target, joinTask := joinTask, arg := arg,
                              since := s.now }
      let s := setDisp target { d with stalls := d.stalls ++ [z] } s
      let s := setCtx lc x { ctx s lc x with wait := .spawn z } s
      bump Cnt.dspReadyFull target 1 s

/-- SPAWN (R106). -/
def spawnS (lc x template target joinTask arg : Nat) (s : State) : State :=
  let c := ctx s lc x
  match c.task, c.wait with
  | some t, .none => if c.suspending then s else trySpawn lc x template target joinTask arg t s
  | _, _ => s

def execSpawn (lc x template target joinTask arg : Nat) (s : State) : Result :=
  onUnit (lc < nLc s && x < 4) (spawnS lc x template target joinTask arg s)

/-- SPAWN_STALL_RESUME: an entry is free, no notice is held, and the first stalled spawn takes it (R112). -/
def spawnResumeS (lc : Nat) (s : State) : State :=
  let d := disp s lc
  match d.stalls with
  | [] => s
  | z :: rest =>
    if readyFree d ∧ d.held = [] then
      let s := setDisp lc { d with stalls := rest } s
      match (ctx s z.lc z.x).task with
      | none => s
      | some t =>
        let s := setCtx z.lc z.x { ctx s z.lc z.x with wait := .none } s
        if spawnBad s t z.template z.target z.joinTask then
          raise Ev.dspSpawnDrop (srcOf 4 (4 * z.lc + z.x)) [] (bump Cnt.dspSpawnDrop z.lc 1 s)
        else performSpawn z.lc t z.template z.target z.joinTask z.arg s
    else s

def execSpawnStallResume (lc : Nat) (s : State) : Result := onUnit (lc < nLc s) (spawnResumeS lc s)

-- Suspending (R108, R109, R113).

/-- CCLK of a die in MHz. -/
def dieMhz (s : State) (d : Nat) : Nat := (dieClock s d).cclk

/-- `k` CCLK cycles of a logical core in ns, rounded up. -/
def cclkNs (s : State) (lc k : Nat) : Nat := cdiv (k * 1000) (dieMhz s (lcDie s lc))

/-- The lowest free save slot (R109). -/
def freeSave (s : State) (lc : Nat) : Option Nat :=
  (List.range 16).find? (fun i => (mapGet (disp s lc).slots i).isNone)

/-- A CORE task of priority `p` or higher is at the head of a ready list. -/
def coreWaiting (s : State) (lc p : Nat) : Bool :=
  (List.range (p + 1)).any (fun q =>
    match readyAt (disp s lc) q with
    | t :: _ => tdKind t.bytes == 0
    | [] => false)

/-- Some CORE task is in a ready list. -/
def anyCoreReady (s : State) (lc : Nat) : Bool :=
  (List.range 8).any (fun q => (readyAt (disp s lc) q).any (fun t => tdKind t.bytes == 0))

/-- The spawns that a context has stalled leave their lists. -/
def dropStalls (lc x : Nat) (s : State) : State :=
  { s with dsp := { s.dsp with disps := mapVals (fun _ (d : Disp) =>
      { d with stalls := d.stalls.filter (fun z => !(z.lc == lc && z.x == x)) }) s.dsp.disps } }

/-- A context stalled at SPAWN is stalled at a list. -/
def stallOf (s : State) (lc x : Nat) : Option SpawnStall :=
  (s.dsp.disps.flatMap (fun e => e.2.stalls)).find? (fun z => z.lc == lc && z.x == x)

/-- Cycles of a context's stall, counted when it began to be suspended or as time passes (R112): see Time. -/
def beginSuspend (lc x : Nat) (yielding : Bool) (s : State) : State :=
  let c := ctx s lc x
  let s := dropStalls lc x (setCtx lc x { c with suspending := true, yielding := yielding } s)
  bump (if yielding then Cnt.dspSpawnYield else Cnt.dspPreempt) lc 1 s

/-- SPAWN_STALL_TIMEOUT: 256 CCLK cycles at a SPAWN (R113). -/
def spawnTimeoutS (lc x : Nat) (s : State) : State :=
  match stallOf s lc x with
  | none => s
  | some z =>
    let s := reachTime (z.since + cclkNs s lc 256) s
    if (freeSave s lc).isSome ∧ anyCoreReady s lc then beginSuspend lc x true s else s

def execSpawnStallTimeout (lc x : Nat) (s : State) : Result := onUnit (lc < nLc s && x < 4) (spawnTimeoutS lc x s)

/-- Time that a context has waited on a line, or stalled at one, is added (R333, R345). -/
def closeWait (lc x : Nat) (s : State) : State :=
  match (ctx s lc x).wait with
  | .sig _ _ since _ => bump Cnt.sigWaitNs lc (s.now - since) s
  | .arrive _ _ since => bump Cnt.sigWaitNs lc (s.now - since) s
  | _ => s

/-- The signal state of a context is cleared at a context switch; a wait or stall cleared is counted (R335, R336). -/
def clearWait (lc x : Nat) (s : State) : State :=
  match (ctx s lc x).wait with
  | .sig _ _ _ _ => bump Cnt.sigWaitClear lc 1 (closeWait lc x s)
  | .arrive _ _ _ => bump Cnt.sigWaitClear lc 1 (closeWait lc x s)
  | _ => s

/-- The context state that a suspension saves (R109): its signal state is cleared, and the instruction that it waits at is
to run again (R113, R335, R336). -/
def stateToSave (c : Ctx) : Ctx := { c with task := none, suspending := false, yielding := false, sigLast := 0, sigBad := 0 }

/-- A suspended task's state is saved and it waits at the tail of its ready list (R109, R111). -/
def saveTask (lc x : Nat) (s : State) : State :=
  let c := ctx s lc x
  match c.task, freeSave s lc with
  | some t, some i =>
    let s := clearWait lc x s
    let d := disp s lc
    let s := setDisp lc { d with slots := mapSet d.slots i (stateToSave c) } s
    pushTail lc { t with saved := some i } (setCtx lc x freshCtx s)
  | _, _ => s

-- Abandoning (R116).

/-- Bytes that become unspecified (R117, R303). -/
def scrambleOne (e : Nat × Nat × Nat × Nat) (s : State) : State :=
  let r := freeBytes e.2.2.1 s
  let s := r.2
  if e.1 = 0 then putBytes e.2.1 r.1 s
  else { s with mem := { s.mem with
    opCache := mapUpd s.mem.opCache (e.1 - 1) [] (fun c => cellsWrite c e.2.1 r.1) } }

/-- Every location that a task of the abandoned step wrote is unspecified (R117, R303). -/
def scrambleWritten (s : State) : State :=
  s.mem.written.foldl (fun s e => scrambleOne e s) { s with mem := { s.mem with written := [] } }

/-- The dispatchers abandon the step: lists, deques, save slots and notices empty, contexts and shunters stop (R116). -/
def abandonDispatch (s : State) : State :=
  let s := (s.dsp.disps.filter (fun e => e.2.outstanding != 0)).foldl
    (fun s e => bump Cnt.dspAbandon e.1 e.2.outstanding s) s
  let s := (mapKeys s.dsp.ctxs).foldl (fun s k => closeWait (k / 4) (k % 4) s) s
  let s := { s with dsp := { s.dsp with
    disps := mapVals (fun _ _ => freshDisp) s.dsp.disps
    ctxs := []
    flight := []
    deques := []
    running := []
    samples := []
    idle := []
    asleep := []
    funcs := [] } }
  raise Ev.dspAbandon 0 [] s

end Sys2Proof.Machine
end

