-- ==== Sys2Proof/Machine/CoreMem.lean ====
section
/-! DEFINITION. Core addresses (R301 to R303): how engines and shunters read and write the scratchpad and the operand cache
of a logical core, and the tensor commands (R266, R267). -/

namespace Sys2Proof.Machine

-- Core addresses.

/-- An area of a program in core addresses: in the program area of the scratchpad, where neither save slots nor the hash
accumulator lie, or in the operand cache (R301, R348). -/
def inCore (a n : Nat) : Bool := a + n ≤ 0x7B00000 || inOpCache a n

/-- The local address of a scratchpad address of a logical core (R347). -/
def scratchAddr (lc a : Nat) : Nat := scratchBase + lc * scratchBytes + a

/-- Bytes at a core address with the marks of the sectors touched; an address that names nothing reads as unspecified. -/
def coreRead (lc a n : Nat) (s : State) : List Byte × List Bool × State :=
  if n = 0 then ([], [], s)
  else if inScratch a n then
    let r := homeRead false (scratchAddr lc a) n s
    let m := maskHeld a r.1 r.2.2
    (m.1, r.2.1, m.2)
  else if inOpCache a n then
    let r := opRead s lc a n
    (r.1, r.2, s)
  else
    let r := freeBytes n s
    (r.1, (unitsOf 32 a n).map (fun _ => false), r.2)

/-- A write at a core address; `who` as in noteWrite. An address that names nothing takes nothing. -/
def coreWrite (who lc a : Nat) (data : List Byte) (s : State) : State :=
  let n := data.length
  if n = 0 then s
  else if inScratch a n then
    let g := scratchAddr lc a
    homeWrite g data (noteWrite 0 g n who (snoopWrite lc g n s))
  else if inOpCache a n then opWrite lc a data (noteWrite (lc + 1) a n who s)
  else s

/-- A copy whose marks travel with its sectors (R368). -/
def coreCopy (who lc a : Nat) (data : List Byte) (marks : List Bool) (s : State) : State :=
  let s := coreWrite who lc a data s
  let bad := ((unitsOf 32 a data.length).zip marks).filter (fun e => e.2)
  bad.foldl (fun s e =>
    if inScratch a data.length then markPoison (scratchAddr lc 0 / 32 + e.1) s
    else { s with mem := { s.mem with opPoison := mapUpd s.mem.opPoison lc [] (setInsert e.1) } }) s

/-- Poisoned sectors read as operands are counted and recorded (R368). -/
def consumePoison (lc : Nat) (marks : List Bool) (s : State) : State :=
  countConsumed (.core lc .vector) (marked marks) s

/-- The writes noted since `mark`, but for those of `who`. -/
def writesSince (s : State) (mark who : Nat) : List (Nat × Nat × Nat × Nat) :=
  (s.mem.written.take (s.mem.written.length - mark)).filter (fun e => who = 0 || e.2.2.2 != who)

/-- The address of a core address in the space where writes are noted. -/
def noteKey (lc a : Nat) : Nat × Nat := if a < 0x40000000 then (0, scratchAddr lc a) else (lc + 1, a)

/-- Operand bytes that were written between issue and retirement read as unspecified (R276, R305). -/
def smear (lc a mark who : Nat) (b : List Byte) (s : State) : List Byte × State :=
  let k := noteKey lc a
  let hits := (writesSince s mark who).filter (fun e => e.1 == k.1 && e.2.1 < k.2 + b.length && k.2 < e.2.1 + e.2.2.1)
  if hits = [] then (b, s)
  else
    let r := freeBytes b.length s
    (((List.range b.length).zip (b.zip r.1)).map (fun e =>
      if hits.any (fun h => h.2.1 ≤ k.2 + e.1 && k.2 + e.1 < h.2.1 + h.2.2.1) then e.2.2 else e.2.1), r.2)

/-- An operand area as an engine reads it: poisoned sectors are consumed as zero. -/
def operandRead (lc a n mark who : Nat) (s : State) : List Byte × State :=
  let r := coreRead lc a n s
  smear lc a mark who r.1 (consumePoison lc r.2.1 r.2.2)

-- Stored elements (R243 to R245).

/-- Elements decoded, with how many TERNARY codes 0b10 and how many blocks with scale code 0xFF were read. -/
structure Fetched where
  vals : List Val
  tern : Nat
  nans : Nat
  deriving DecidableEq, Repr

/-- The value of element `i` of a stored row, with its block scale (R245); `sexp`: the exponent of S, for a per-tensor
format. -/
def storedVal (fmt : Nat) (sexp : Int) (row scales : List Byte) (i : Nat) : Val :=
  let v := elemVal fmt (elemCode (fmtBits fmt) row i)
  if isBlock fmt then
    let sb := scaleBytes fmt
    let entry := slice scales (i / 32 * sb) sb
    match blockExp (field entry 0 8) with
    | none => .nan
    | some k => scaleVal v (k + subExp fmt entry (i % 32))
  else scaleVal v sexp

/-- The first `n` elements of a stored row. -/
def decodeRow (fmt : Nat) (sexp : Int) (n : Nat) (row scales : List Byte) : Fetched :=
  let sb := scaleBytes fmt
  { vals := (List.range n).map (storedVal fmt sexp row scales)
    tern := if fmt = 11 then countIf (fun i => elemCode 2 row i == 2) (List.range n) else 0
    nans := if isBlock fmt then countIf (fun b => field (slice scales (b * sb) 1) 0 8 == 255) (List.range (cdiv n 32)) else 0 }

/-- Codes and blocks that decode badly are counted and recorded (R241, R245). -/
def countFetched (lc : Nat) (f : Fetched) (s : State) : State :=
  let s := if f.tern = 0 then s
    else raiseAll Ev.mxTernBad (List.replicate f.tern (srcOf 3 lc)) (bump Cnt.mxTernBad lc f.tern s)
  if f.nans = 0 then s
  else raiseAll Ev.mxScaleNan (List.replicate f.nans (srcOf 3 lc)) (bump Cnt.mxScaleNan lc f.nans s)

/-- The scale entries of stored row `r` of rows of `n` elements (R244). -/
def rowScales (lc scaleAddr fmt r n mark who : Nat) (s : State) : List Byte × State :=
  let sb := scaleBytes fmt * cdiv n 32
  if sb = 0 then ([], s) else operandRead lc (scaleAddr + r * sb) sb mark who s

/-- One stored row of `n` elements at `a`, decoded. -/
def fetchRow (lc a scaleAddr fmt : Nat) (sexp : Int) (r n mark who : Nat) (s : State) : List Val × State :=
  let row := operandRead lc a (fmtRowBytes fmt n) mark who s
  let sc := rowScales lc scaleAddr fmt r n mark who row.2
  let f := decodeRow fmt sexp n row.1 sc.1
  (f.vals, countFetched lc f sc.2)

/-- `rows` stored rows of `n` elements, `stride` bytes apart. -/
def fetchRows (lc a stride scaleAddr fmt : Nat) (sexp : Int) (rows n mark who : Nat) (s : State) :
    List (List Val) × State :=
  (List.range rows).foldl (fun (acc : List (List Val) × State) r =>
    let x := fetchRow lc (a + r * stride) scaleAddr fmt sexp r n mark who acc.2
    (acc.1 ++ [x.1], x.2)) ([], s)

/-- Element (r, i) of a table of rows. -/
def cellOf {α : Type} (rows : List (List α)) (d : α) (r i : Nat) : α := (rows.getD r []).getD i d

-- Writing converted rows (R254, R288, R313).

/-- The residual of element `e` of a tensor in half `h`: its scratchpad address (R255). -/
def residAddr (t : Tensor) (h e : Nat) : Nat := field t.image 192 64 + h * field t.image 256 32 + 4 * e

/-- Residuals read: each NaN or infinity as +0, counted (R254). -/
def readResids (tid : Nat) (t : Tensor) (half e0 n : Nat) (s : State) : List W32 × State :=
  let r := coreRead (field t.image 128 6) (residAddr t half e0) (4 * n) s
  let ws := words32 r.1
  let bad := countIf nonfinite32 ws
  let s := r.2.2
  let s := if bad = 0 then s
    else raiseAll Ev.mxEfReset (List.replicate bad (srcOf 0 0)) (bump Cnt.mxEfReset tid bad s)
  (ws.map (fun w => if nonfinite32 w then 0 else w), s)

/-- Residuals written (R254, R255); `who` as in noteWrite. -/
def writeResids (who tid : Nat) (t : Tensor) (half e0 : Nat) (rs : List W32) (s : State) : State :=
  let bad := countIf nonfinite32 rs
  let s := if bad = 0 then s
    else raiseAll Ev.mxEfReset (List.replicate bad (srcOf 0 0)) (bump Cnt.mxEfReset tid bad s)
  let ws := rs.map (fun w => if nonfinite32 w then (0 : W32) else w)
  coreWrite who (field t.image 128 6) (residAddr t half e0) (bytes32 ws) s

/-- A row of FP32 values converted into tensor `tid` in format `fmt` and written at `a`, its scale entries at `sa` (R246,
R254, R288, R313). FP32 is written as it stands. -/
def writeRow (who lc a sa fmt tid : Nat) (half : Bool) (step e0 : Nat) (xs : List W32) (s : State) : State :=
  if fmt = 13 then coreWrite who lc a (bytes32 xs) s
  else
    let h := convHow s fmt tid step
    let t := tensorOf s tid
    let ef := tensorEf s tid
    let rd := match ef, t with
      | true, some t => readResids tid t (step % 2) e0 xs.length s
      | _, _ => ([], s)
    let ys := if ef then (xs.zip rd.1).map (fun e => add32 e.1 e.2) else xs
    let r := convRow h e0 (ys.map val32)
    let pad := freeVal 256 rd.2
    let s := coreWrite who lc a (codeBytes (fmtBits fmt) r.codes pad.1) pad.2
    let s := coreWrite who lc sa r.scales s
    let s := countConv tid half xs.length r s
    match ef, t with
    | true, some t =>
      let out := (ys.zip r.values).map (fun e => round32 (addVal (val32 e.1) (negVal e.2)))
      writeResids who tid t ((step + 1) % 2) e0 out s
    | _, _ => s

-- CMD_MX_TENSOR_SET and CMD_MX_TENSOR_INFO (R266, R267).

/-- The first check of R267 that fails; 0 for none. -/
def tensorBad (s : State) (p : List Byte) : Nat :=
  let b := slice p 8 64
  let base := field b 0 5
  let ppm := field b 64 32
  let pf := field b 20 5
  let e := field b 55 8
  let stride := field b 256 32
  let elems := field b 160 32
  let at0 := field b 192 64
  if field p 0 12 = 4095 ∨ field p 12 52 ≠ 0 ∨ field b 5 15 ≠ 0 ∨ field b 25 1 ≠ 0 ∨ field b 30 2 ≠ 0
    ∨ field b 134 26 ≠ 0 ∨ field b 288 224 ≠ 0 then 1
  else if 13 < base ∨ field b 32 23 ≠ 0 ∨ flag b 63 ∨ e = 0 ∨ e = 255 then 2
  else if (ppm ≠ 0 ∧ !(ppm ≤ 1000000 && [4, 5, 8, 10, 11].contains base && [2, 3, 6, 7].contains pf)) ∨ (ppm = 0 ∧ pf ≠ 0)
    then 3
  else if flag b 26 ∧ 12 ≤ base then 4
  else if flag b 28 ∧ !(field b 128 6 < nLc s && elems != 0 && 4 * elems ≤ stride && inScratch at0 (stride + 4 * elems)) then 5
  else 0

/-- The counters of one tensor. -/
def tensorCounters : List Nat := [Cnt.mxConv, Cnt.mxSat, Cnt.mxUfl, Cnt.mxNonfinite, Cnt.mxEfReset]

/-- The counters of a tensor go to zero (R268). -/
def clearTensorCounters (tid : Nat) (s : State) : State :=
  { s with ctr := s.ctr.filter (fun e => !tensorCounters.any (fun id => e.1 == ctrKey id tid)) }

/-- A new entry: its formats stand at BASE_FMT (R261). -/
def newTensor (image : List Byte) : Tensor :=
  let b := field image 0 5
  { image := image, cur := b, stamp0 := b, stamp1 := b, promoted := false, used0 := false, used1 := false, conv := 0,
    sats := 0, lastConv := 0, lastSats := 0 }

/-- CMD_MX_TENSOR_SET: all zero empties the entry. -/
def tensorSet (p : List Byte) (s : State) : State × Completion :=
  let tid := field p 0 12
  let b := slice p 8 64
  if tid ≠ 4095 ∧ field p 12 52 = 0 ∧ leNat b = 0 then
    (clearTensorCounters tid { s with eng := { s.eng with tensors := mapDel s.eng.tensors tid } }, okWith [])
  else
    let bad := tensorBad s p
    if bad ≠ 0 then (s, failWith St.badParam bad)
    else
      (clearTensorCounters tid { s with eng := { s.eng with tensors := mapSet s.eng.tensors tid (newTensor b) } },
        okWith [])

def execCmdMxTensorSet (src : CmdSrc) (s : State) : Result := .next (performNow 0x0700 src tensorSet s)

/-- The image of an entry with its RO fields (R261). -/
def tensorImage (t : Tensor) : List Byte :=
  let lo := leNat (slice t.image 0 4) ||| packNat [(5, 5, t.cur), (10, 5, t.stamp0), (15, 5, t.stamp1), (25, 1, bit t.promoted)]
  toLE 4 lo ++ slice t.image 4 60

/-- The entry at reset: S = 1.0 (R261). -/
def emptyTensor : Tensor := newTensor (pack 64 [(32, 32, 0x3F800000)])

/-- CMD_MX_TENSOR_INFO: one entry, then its counters and the counts of the last step in a layout that the spec does not
give (R266). -/
def tensorInfo (p : List Byte) (s : State) : Completion :=
  let tid := field p 0 12
  if tid = 4095 ∨ field p 12 52 ≠ 0 then failWith St.badParam 0
  else
    let t := mapGetD s.eng.tensors tid emptyTensor
    okWith (tensorImage t ++ Sys2Proof.Config.tensorInfoTail (tensorCounters.map (fun id => ctrGet s id tid)) t.lastConv
      t.lastSats)

def execCmdMxTensorInfo (src : CmdSrc) (s : State) : Result := .next (performQuery 0x0701 src tensorInfo s)

end Sys2Proof.Machine
end

