-- ==== Sys2Proof/Machine/Late.lean ====
section
/-! DEFINITION. The late signal (R61, R68), forfeiting a step (R465), and history entries (R467, R469, R489). -/

namespace Sys2Proof.Machine

/-- The late signal for the next departure is raised, at most once (R61). The master notes its own (R68). -/
def raiseLate (s : State) : State :=
  match s.job with
  | none => s
  | some j =>
    if j.late then s
    else
      let s := raise Ev.ttLate 0 (toLE 8 s.step) (bump Cnt.ttLate 0 1 { s with job := some { j with late := true } })
      if j.master = pkgNo s then { s with job := some { j with late := true, pending := setInsert (pkgNo s) j.pending } }
      else sendPlain (.late (mkHdr s j.master 0)) s

/-- The package forfeits the step (R465), once. -/
def forfeit (s : State) : State :=
  if s.job.isNone ∨ s.chk.forfeited then s
  else raiseLate (bump Cnt.fncForfeit 0 1 { s with chk := { s.chk with forfeited := true } })

/-- An entry of the unit history, held in SRAM until it is written to flash (R469). -/
def addHistory (kind : Nat) (u : PhysUnit) (addr : Nat) (s : State) : State :=
  let no := match u.eng with
    | .a0 => 0
    | .a1 => 1
    | .ve => 2
  let e : HistEntry := { kind := kind, die := u.die, k := u.k, unitNo := no, secs := histSeconds s, step := stepOf s,
                         addr := addr }
  { s with chk := { s.chk with fresh := s.chk.fresh ++ [e] } }

end Sys2Proof.Machine
end

