-- ==== Sys2Proof/Machine/Tiles.lean ====
section
/-! DEFINITION. Tiles and their capsules (R456 to R462): which tiles are sampled, on which unit a tile executes, and which
core executes it next. -/

namespace Sys2Proof.Machine

/-- A number rounded up to a multiple of 64. -/
def up64 (n : Nat) : Nat := cdiv n 64 * 64

/-- The engine of a logical core: j is 0 for A0, 1 for A1, 2 for the vector engine. -/
def engKey (lc j : Nat) : Nat := 3 * lc + j

/-- An engine with nothing in it (R284: every accumulator +0, every FEXP 0). -/
def freshEngine : Engine := { queue := [], holder := none, acc := [], fexp := [] }

def engine (s : State) (e : Nat) : Engine := mapGetD s.eng.units e freshEngine

def setEngine (e : Nat) (g : Engine) (s : State) : State :=
  { s with eng := { s.eng with units := mapSet s.eng.units e g } }

/-- The number j of a unit kind (R458). -/
def engNo : EngineKind → Nat
  | .a0 => 0
  | .a1 => 1
  | .ve => 2

/-- The unit kind numbered j. -/
def engKind (j : Nat) : EngineKind := if j = 0 then .a0 else if j = 1 then .a1 else .ve

/-- The unit index u of R458. -/
def unitIndex (u : PhysUnit) : Nat := 3 * (10 * u.die + u.k) + engNo u.eng

/-- The physical core that runs a logical core: as its own, or as its host (R473). -/
def coreOf (s : State) (lc : Nat) : Nat × Nat :=
  match s.chk.cores.find? (fun e => (e.2.lc == some lc && e.2.role != .fenced) || e.2.guests.contains lc) with
  | some e => (e.1 / 10, e.1 % 10)
  | none => (lcDie s lc, lc - lcDie s lc * lcPerDie s)

/-- The unit that executes for engine `e`. -/
def unitOf (s : State) (e : Nat) : PhysUnit :=
  let c := coreOf s (e / 3)
  { die := c.1, k := c.2, eng := engKind (e % 3) }

/-- Tile `t` of a unit is sampled (R458). -/
def tileSampled (s : State) (u : PhysUnit) (t : Nat) : Bool :=
  let c3 := 0xD * 2 ^ 28 + s.step / 2 ^ 32 % 2 ^ 24
  philoxWord (philox (jobIdOf s) t (unitIndex u) (s.step % 2 ^ 32) c3) 0 < 2 ^ 32 / s.chk.rate

/-- Dies in ascending number of intermediate dies from `d` on the route of R25, then ascending number (R153, R460). -/
def diesByDistance (s : State) (d : Nat) : List Nat :=
  sortBy (fun a b => (fixedRoute d a).length ≤ (fixedRoute d b).length) ((List.range (nDies s)).filter (fun x => x != d))

/-- The physical cores that may execute a tile of a unit on die `d`, in the order of R460. -/
def coreOrder (s : State) (d : Nat) : List (Nat × Nat) :=
  let good : Nat → List (Nat × Nat) := fun x =>
    (s.chk.cores.filter (fun e => e.1 / 10 == x && e.2.role != .fenced && e.2.role != .fusedBad)).map
      (fun e => (e.1 / 10, e.1 % 10))
  let sid : Nat × Nat → Bool := fun c => match mapGet s.chk.cores (10 * c.1 + c.2) with
    | some p => p.role == .siding
    | none => false
  (good d).filter sid ++ (good d).filter (fun c => !sid c) ++ (diesByDistance s d).flatMap good

/-- The unit for the next execution of a capsule (R460): a vector tile runs on the core's vector engine, a matrix tile on
A0, or on A1 where A0 holds a check tile. -/
def nextUnit (s : State) (c : Capsule) : Option PhysUnit :=
  match c.execs.head? with
  | none => none
  | some o =>
    let done := c.execs.map (fun e => (e.unit.die, e.unit.k))
    match (coreOrder s o.unit.die).find? (fun p => !done.contains p) with
    | none => none
    | some p =>
      let a0 : PhysUnit := { die := p.1, k := p.2, eng := .a0 }
      if o.unit.eng = .ve then some { die := p.1, k := p.2, eng := .ve }
      else if s.chk.capsules.any (fun x => x.next == some a0) then some { die := p.1, k := p.2, eng := .a1 }
      else some a0

/-- What a tile of an instruction gave. -/
def tileValue (faults : List TileFault) (tile : Nat) : TileValue :=
  match faults.find? (fun f => f.tile == tile) with
  | some f => f.value
  | none => .right

/-- The capsules that a unit's check buffer holds (R459). -/
def capsulesAt (s : State) (u : PhysUnit) : Nat :=
  countIf (fun c => match c.execs.head? with
    | some o => o.unit == u
    | none => false) s.chk.capsules

/-- The input areas of an instruction, by their addresses (R464): of an array, or the memory streams of a vector
instruction. -/
def inputAreas (e : Nat) (d : List Byte) : List Nat :=
  if e % 3 = 2 then
    ((List.range 4).filter (fun i => field d (512 + 256 * i) 3 == 1)).map (fun i => field d (512 + 256 * i + 64) 64)
  else
    [field d 256 64, field d 320 64] ++ ((List.range 3).map (fun i => field d (384 + 64 * i) 64)).filter (fun a => a != 0)

/-- A tile stays unsettled: it is recorded and the package forfeits the step (R464). -/
def leaveUnsettled (c : Capsule) (s : State) : State :=
  let lc := c.eng / 3
  let s := { s with chk := { s.chk with
    capsules := s.chk.capsules.map (fun x => if x.id = c.id then { x with unsettled := true, next := none } else x) } }
  let s := raise Ev.chkUnsettled (srcOf 3 lc) [] (bump Cnt.chkUnsettled lc 1 s)
  let areas := match (engine s c.eng).queue.head?, c.execs.head? with
    | some i, some o => (inputAreas c.eng i.desc).map (fun a => (a, o.unit))
    | _, _ => []
  forfeit (areas.foldl (fun s a => addHistory 4 a.2 a.1 s) s)

/-- A sampled tile enters a capsule, and its second execution is chosen. One for which no core is left stays
unsettled (R460, R462). -/
def newCapsule (e tile : Nat) (u : PhysUnit) (v : TileValue) (s : State) : State :=
  let c : Capsule := { id := s.chk.nextCap, eng := e, tile := tile, execs := [{ unit := u, value := v }], next := none,
                       standing := none, unsettled := false, retests := [] }
  let n := nextUnit s c
  let c' := { c with next := n }
  let s := { s with chk := { s.chk with nextCap := s.chk.nextCap + 1, capsules := s.chk.capsules ++ [c'] } }
  if n.isNone then leaveUnsettled c' s else s

/-- One tile of engine `e` executes: it is numbered, and sampled where R458 says so or a sample is owed (R459). -/
def runTile (e : Nat) (faults : List TileFault) (s : State) (tile : Nat) : State :=
  let lc := e / 3
  let u := unitOf s e
  let i := unitIndex u
  let t := mapGetD s.chk.tiles i 0
  let hit := tileSampled s u t || s.chk.owed.contains i
  let s := { s with chk := { s.chk with tiles := mapSet s.chk.tiles i (t + 1) } }
  let s := bump Cnt.chkTile lc 1 s
  if !hit then s
  else if 2 ≤ capsulesAt s u then bump Cnt.chkSkip lc 1 { s with chk := { s.chk with owed := setInsert i s.chk.owed } }
  else
    let s := { s with chk := { s.chk with owed := s.chk.owed.filter (fun x => x != i) } }
    newCapsule e tile u (tileValue faults tile) (bump Cnt.chkSampled lc 1 s)

/-- The `n` tiles of an instruction execute in order. -/
def runTiles (e n : Nat) (faults : List TileFault) (s : State) : State := (List.range n).foldl (runTile e faults) s

/-- Every sampled tile of the instruction that engine `e` runs has settled (R463). -/
def tilesSettled (s : State) (e : Nat) : Bool := s.chk.capsules.all (fun c => c.eng != e || c.standing.isSome)

-- Contexts and engines.

/-- A context may issue: it holds a task, waits for nothing and is not being suspended. -/
def mayIssue (c : Ctx) : Bool := c.task.isSome && c.wait == .none && !c.suspending

/-- A context waits to issue an instruction (R104). -/
def issueWait (c : Ctx) : Option Instr :=
  match c.wait with
  | .issue i => some i
  | _ => none

/-- The contexts of a core, in the order in which a unit is granted (R104): task priority, then context number. -/
def grantOrder (s : State) (lc : Nat) : List Nat :=
  let prio : Nat → Nat := fun x => match (ctx s lc x).task with
    | some t => tdPriority t.bytes
    | none => 8
  sortBy (fun a b => prio a ≤ prio b) (List.range 4)

/-- Some instruction of context `x` is queued on engine `e`. -/
def queuedFor (s : State) (e x : Nat) : Bool := (engine s e).queue.any (fun i => i.x == x)

/-- The number of the next instruction rises. -/
def takeNumber (s : State) : State := { s with eng := { s.eng with nextNo := s.eng.nextNo + 1 } }

/-- A context that waited for an engine goes on. -/
def freeWait (lc x : Nat) (s : State) : State := setCtx lc x { ctx s lc x with wait := .none } s

/-- An instruction of context `x` is queued on some engine of its core. -/
def unretired (s : State) (lc x : Nat) : Bool := (List.range 3).any (fun j => queuedFor s (engKey lc j) x)

-- The end of a CORE task, and its suspension (R91, R108, R109, R594).

/-- A task has ended: its context is free and the task complete (R91, R335). -/
def endTask (lc x : Nat) (s : State) : State :=
  match (ctx s lc x).task with
  | some t => completeTask t (setCtx lc x freshCtx s)
  | none => s

/-- A task at END may complete: its instructions have retired and none of its accesses waits (R91, R100). -/
def mayComplete (s : State) (lc x : Nat) : Bool :=
  (ctx s lc x).wait == .ending && !unretired s lc x && !ctxWaits s lc x

/-- Contexts at END whose tasks may complete. -/
def finishEnding (lc : Nat) (s : State) : State :=
  (List.range 4).foldl (fun s x => if mayComplete s lc x then endTask lc x s else s) s

/-- Tasks at END complete, of every logical core. -/
def finishAll (s : State) : State := (List.range (nLc s)).foldl (fun s lc => finishEnding lc s) s

/-- A task reaches END: it completes once its instructions have retired. -/
def atEnd (lc x : Nat) (s : State) : State := finishEnding lc (setCtx lc x { ctx s lc x with wait := .ending } s)

/-- TASK_END (R91). -/
def taskEndS (lc x : Nat) (s : State) : State := if mayIssue (ctx s lc x) then atEnd lc x s else s

def execTaskEnd (lc x : Nat) (s : State) : Result := onUnit (lc < nLc s && x < 4) (taskEndS lc x s)

/-- TASK_BAD_CODE (R594); its payload holds the task index and the logical core (R127, assumption log 65). -/
def taskBadCodeS (lc x : Nat) (s : State) : State :=
  let c := ctx s lc x
  match c.task with
  | some t =>
    if mayIssue c then
      atEnd lc x (raise Ev.dspBadCode (srcOf 4 (4 * lc + x)) (pay64 (dspTaskId t)) (bump Cnt.dspBadCode lc 1 s))
    else s
  | none => s

def execTaskBadCode (lc x : Nat) (s : State) : Result := onUnit (lc < nLc s && x < 4) (taskBadCodeS lc x s)

/-- SUSPENSION_DONE: its issued instructions have retired, none of its accesses waits, and its state is saved (R109). -/
def suspensionDoneS (lc x : Nat) (s : State) : State :=
  if (ctx s lc x).suspending ∧ !unretired s lc x ∧ !ctxWaits s lc x then saveTask lc x s else s

def execSuspensionDone (lc x : Nat) (s : State) : Result := onUnit (lc < nLc s && x < 4) (suspensionDoneS lc x s)

/-- A context waits for a demand read or a load (R108): a reply is outstanding, or the access itself waits. -/
def awaitsRead (s : State) (lc x : Nat) : Bool :=
  let r : Requester := .core lc (.ctx x)
  let out := match mapGet s.mem.replies (requesterKey r) with
    | some p => p.pending != 0
    | none => false
  out || s.mem.waiting.any (fun i => match i with
    | .memoryReadRequest r' _ _ _ => r' == r
    | _ => false)

/-- The logical core that a host turns to: the next it serves with a ready CORE task (R473). -/
def nextServed (s : State) (p : PhysCore) (lc : Nat) : Option Nat :=
  let l := servedBy p
  let after := (l.dropWhile (fun c => c != lc)).drop 1 ++ l.takeWhile (fun c => c != lc)
  after.find? (fun c => anyCoreReady s c)

/-- A host switches to another logical core: the running contexts are suspended (R109, R473). -/
def switchHost (key : Nat) (p : PhysCore) (lc next : Nat) (s : State) : State :=
  let s := (List.range 4).foldl (fun s x =>
    let c := ctx s lc x
    if c.task.isSome ∧ !c.suspending ∧ c.wait ≠ .ending then beginSuspend lc x false s else s) s
  let s := { s with chk := { s.chk with cores := mapSet s.chk.cores key { p with active := some next } } }
  if p.guests.contains next ∧ !s.chk.sliced.contains next then
    raise Ev.fncSlice (srcOf 3 next) [] { s with chk := { s.chk with sliced := setInsert next s.chk.sliced } }
  else s

/-- The running task is suspended, or its timer starts again (R108). -/
def expireQuantum (lc x : Nat) (t : Task) (s : State) : State :=
  let c := ctx s lc x
  if c.suspending ∨ c.wait = .ending then s
  else if coreWaiting s lc (tdPriority t.bytes) && (freeCtx s lc).isNone && (freeSave s lc).isSome && !awaitsRead s lc x then
    beginSuspend lc x false s
  else setCtx lc x { c with quantumAt := s.now } s

/-- QUANTUM_EXPIRY (R108, R473). -/
def quantumS (lc x : Nat) (s : State) : State :=
  let q := match jobGraph s with
    | some g => imgQuantum g
    | none => 70000
  let c := ctx s lc x
  let s := if c.task.isSome then reachTime (c.quantumAt + cclkNs s lc q) s else s
  let other := match hostCore s lc with
    | some (k, p) => if p.active = some lc then (nextServed s p lc).map (fun n => (k, p, n)) else none
    | none => none
  match other, c.task with
  | some (k, p, n), _ => switchHost k p lc n s
  | none, some t => expireQuantum lc x t s
  | none, none => s

def execQuantumExpiry (lc x : Nat) (s : State) : Result := onUnit (lc < nLc s && x < 4) (quantumS lc x s)

end Sys2Proof.Machine
end

