-- ==== Sys2Proof/Machine/Hacc.lean ====
section
/-! DEFINITION. The hash accumulator of a logical core (R181 to R187, R316, R317). -/

namespace Sys2Proof.Machine

/-- A closed accumulator (R182). -/
def closedHacc : Hacc := { width := 0, op := 0, entries := [], spill := [], seqs := [], late := [] }

def hacc (s : State) (lc : Nat) : Hacc := mapGetD s.eng.haccs lc closedHacc

def setHacc (lc : Nat) (h : Hacc) (s : State) : State :=
  { s with eng := { s.eng with haccs := mapSet s.eng.haccs lc h } }

/-- E: the bytes of an entry (R183). -/
def haccEntryBytes (w : Nat) : Nat :=
  let need := Nat.max 64 (16 + 4 * w)
  2 ^ bitLen (need - 1)

/-- The sets of an accumulator. -/
def haccSets (w : Nat) : Nat := 4194304 / haccEntryBytes w / 16

/-- The set of a key (R183). -/
def haccSet (w key : Nat) : Nat := key * 0x9E3779B97F4A7C15 % 2 ^ 64 / (2 ^ 64 / haccSets w)

/-- OP on two words (R182, R179): 3 acts as 0. -/
def haccOp (op : Nat) (a b : W32) : W32 := if op = 1 then max32 a b else if op = 2 then min32 a b else add32 a b

/-- Two rows combined. -/
def haccJoin (op : Nat) (a b : List W32) : List W32 := (a.zip b).map (fun e => haccOp op e.1 e.2)

/-- Spilled partials that the spill log holds (R184). -/
def haccSpillRoom (s : State) (w : Nat) : Nat := s.pool.gthCfg.spillMib * 1048576 / haccEntryBytes w

/-- A contribution or partial is dropped (R182, R186). -/
def haccDrop (lc : Nat) (s : State) : State := raise Ev.gthHaccDrop (srcOf 3 lc) [] (bump Cnt.gthHaccDrop lc 1 s)

/-- The least recently used entry of a set goes to the spill log, or is dropped where that is full (R184, R186). -/
def haccEvict (lc set' : Nat) (s : State) : State :=
  let h := hacc s lc
  match takeFirst (fun e : HaccEntry => haccSet h.width e.key == set') h.entries with
  | none => s
  | some (e, rest) =>
    if haccSpillRoom s h.width ≤ h.spill.length then haccDrop lc (setHacc lc { h with entries := rest } s)
    else bump Cnt.gthHaccSpill lc 1 (setHacc lc { h with entries := rest, spill := h.spill ++ [e] } s)

/-- A contribution takes a way of its set. -/
def haccInsert (lc : Nat) (e : HaccEntry) (s : State) : State :=
  let h := hacc s lc
  let set' := haccSet h.width e.key
  let s := if countIf (fun x => haccSet h.width x.key == set') h.entries < 16 then s else haccEvict lc set' s
  let h := hacc s lc
  setHacc lc { h with entries := h.entries ++ [e] } s

/-- A contribution as it comes from the sender of rank `rank`: its NaNs are canonical (R185, R242). -/
def haccContrib (s : State) (rank key : Nat) (elems : List W32) (task piece seq : Nat) : HaccEntry :=
  let x := elems.map quiet32
  { key := key, elems := x, task := task, piece := piece, seqNo := seq, time := s.now, before := none, fresh := [(rank, x)] }

/-- A contribution joins the entry of its key: those of one time are applied in the order of R185. -/
def combineEntry (op : Nat) (x e : HaccEntry) : HaccEntry :=
  if x.time = e.time then
    let l := e.fresh.foldl (fun l c => insertRank c l) x.fresh
    { x with fresh := l, elems := foldFresh (haccJoin op) x.before l }
  else { x with time := e.time, before := some x.elems, fresh := e.fresh, elems := haccJoin op x.elems e.elems }

/-- A drain of the accumulator runs (R188, R189). -/
def draining (s : State) (lc : Nat) : Bool :=
  s.dsp.funcs.any (fun e => e.2.task.lc == lc && (match e.2.input with
    | .drain _ _ _ => true
    | _ => false))

/-- A contribution enters the accumulator (R184, R187). -/
def haccTake (lc : Nat) (s : State) (e : HaccEntry) : State :=
  let h := hacc s lc
  if fixedOrder s then haccInsert lc e s
  else
    match takeFirst (fun x : HaccEntry => x.key == e.key) h.entries with
    | some (x, rest) => setHacc lc { h with entries := rest ++ [combineEntry h.op x e] } s
    | none => haccInsert lc e s

/-- Once no drain runs, the contributions that came while one ran are applied (R189). -/
def haccLate (lc : Nat) (s : State) : State :=
  let h := hacc s lc
  if draining s lc || h.late == [] then s
  else (h.late.filter (fun e => e.elems.length == h.width)).foldl (haccTake lc) (setHacc lc { h with late := [] } s)

/-- One contribution reaches the accumulator (R182, R184, R187): one that comes while a drain runs waits for its end
(R189). -/
def haccAdd (lc : Nat) (e : HaccEntry) (s : State) : State :=
  let h := hacc s lc
  if h.width = 0 then haccDrop lc s
  else if e.elems.length ≠ h.width then s
  else if draining s lc then bump Cnt.gthHaccLate lc 1 (setHacc lc { h with late := h.late ++ [e] } s)
  else haccTake lc (haccLate lc s) e

/-- Tags in the order of R187. -/
def tagLe (a b : HaccEntry) : Bool :=
  a.task < b.task || (a.task == b.task && (a.piece < b.piece || (a.piece == b.piece && a.seqNo ≤ b.seqNo)))

/-- The partials and entry of a key in the order in which a drain folds them (R184, R187). -/
def haccParts (s : State) (lc key : Nat) : List HaccEntry :=
  let h := hacc s lc
  let l := (h.spill ++ h.entries).filter (fun e => e.key == key)
  if fixedOrder s then sortBy tagLe l else l

/-- The value of a key, where it is present. -/
def haccValue (s : State) (lc key : Nat) : Option (List W32) :=
  match haccParts s lc key with
  | [] => none
  | e :: l => some (l.foldl (fun a x => haccJoin (hacc s lc).op a x.elems) e.elems)

/-- The keys present, ascending. -/
def haccKeys (s : State) (lc : Nat) : List Nat :=
  let h := hacc s lc
  setUnion [] ((h.spill ++ h.entries).map (fun e => e.key))

/-- A row of a KIND 3 stream in slot A: +0 where the key is absent, counted (R316). -/
def haccRow (lc key n : Nat) (s : State) : List W32 × State :=
  let s := haccLate lc s
  match (if (hacc s lc).width = 0 then none else haccValue s lc key) with
  | some v => (v, s)
  | none => (List.replicate n 0, bump Cnt.veHaccMiss lc 1 s)

/-- One row of a KIND 3 stream in slot OUT (R317); the vector engine ranks after the shunters of its core (R185,
assumption log 39). -/
def haccFromVector (lc key : Nat) (t : Task) (elems : List W32) (s : State) : State :=
  let h := hacc s lc
  let q := mapGetD h.seqs t.idx 0
  let s := setHacc lc { h with seqs := mapSet h.seqs t.idx (q + 1) } s
  haccAdd lc (haccContrib s (16 * lc + 8) key elems t.idx 0 q) s

/-- HACC_CONTRIBUTION of shunter `j` of logical core `c` (R184 to R187). -/
def execHaccContribution (lc key : Nat) (elems : List W32) (task piece seq : Nat) (s : State) (c j : Nat := 0) : Result :=
  onUnit (lc < nLc s && c < nLc s && j < 8) (haccAdd lc (haccContrib s (16 * c + j) key elems task piece seq) s)

/-- A CORE task of the logical core may write GTH_HACC_CFG (R181). -/
def coreTaskRuns (s : State) (lc : Nat) : Bool := (List.range 4).any (fun x => mayIssue (ctx s lc x))

/-- HACC_CFG_WRITE: WIDTH and OP of GTH_HACC_CFG, OPEN written 0 (R182). -/
def haccCfgS (lc width op : Nat) (s : State) : State :=
  if 256 < width ∨ 3 < op ∨ !coreTaskRuns s lc then s else setHacc lc { hacc s lc with width := width, op := op } s

def execHaccCfgWrite (lc width op : Nat) (s : State) : Result := onUnit (lc < nLc s) (haccCfgS lc width op s)

/-- The contributions of this cycle in the accumulator, in the order in which they stand in it (R189). -/
def freshEntries (s : State) (h : Hacc) : List HaccEntry :=
  ((h.spill ++ h.entries).filter (fun e => e.time == s.now)).map (fun e =>
    { e with before := none, elems := foldFresh (haccJoin h.op) none e.fresh })

/-- HACC_OPEN: the accumulator and its spill are emptied; a contribution of the same cycle is kept (R182, R189). -/
def haccOpenS (lc : Nat) (s : State) : State :=
  if !coreTaskRuns s lc then s
  else
    let h := hacc s lc
    (freshEntries s h).foldl (haccTake lc) (setHacc lc { h with entries := [], spill := [], seqs := [] } s)

def execHaccOpen (lc : Nat) (s : State) : Result := onUnit (lc < nLc s) (haccOpenS lc s)

/-- GTH_HACC_STATUS (R181). -/
def haccStatus (s : State) (lc : Nat) : Nat := (hacc s lc).entries.length + 2 ^ 32 * (hacc s lc).spill.length

end Sys2Proof.Machine
end

