-- ==== Sys2Proof/Machine/Trans.lean ====
section
/-! DEFINITION. The correctly rounded functions of the vector engine (R311): exact values enclosed between two fixed-point
bounds, rounded where both bounds round alike. -/

namespace Sys2Proof.Machine

/-- Bits after the point of the bounds. -/
def transBits : Nat := 400

/-- The unit of the bounds. -/
def transOne : Nat := 2 ^ transBits

/-- The bounds of a sum of the exponential series for lower and upper `t` (below one half): terms k + 1 to k + fuel added
to what is summed. `lo` terms are cut down, `hi` terms up. -/
def expSeries : Nat → Nat → Nat × Nat → Nat × Nat → Nat × Nat → Nat × Nat
  | 0, _, _, term, acc => (acc.1, acc.2 + 2 * term.2)
  | fuel + 1, k, t, term, acc =>
    let lo := term.1 * t.1 / (transOne * (k + 1))
    let hi := term.2 * t.2 / (transOne * (k + 1)) + 1
    expSeries fuel (k + 1) t (lo, hi) (acc.1 + lo, acc.2 + hi)

/-- `n` squarings. -/
def squares : Nat → Nat × Nat → Nat × Nat
  | 0, b => b
  | n + 1, b => squares n (b.1 * b.1 / transOne, b.2 * b.2 / transOne + 1)

/-- Bounds of e to the `m` times two to the `e`, for an exponent below 2^8: the argument is cut by 2^16 and the result
squared back. -/
def expBounds (m : Nat) (e : Int) : Nat × Nat :=
  let k : Int := e + transBits - 16
  let t := if 0 ≤ k then (m <<< k.toNat, m <<< k.toNat)
    else let d := (-k).toNat
      (m >>> d, (m >>> d) + 1)
  squares 16 (expSeries 40 0 t (transOne, transOne) (transOne, transOne))

/-- The bounds of the reciprocal. -/
def invBounds (b : Nat × Nat) : Nat × Nat := (transOne * transOne / b.2, transOne * transOne / b.1 + 1)

/-- Bounds of e to a signed dyadic value. -/
def expOf (neg : Bool) (m : Nat) (e : Int) : Nat × Nat := if neg then invBounds (expBounds m e) else expBounds m e

/-- The FP32 word to which both bounds of a positive value round; where they differ the bounds do not decide it. -/
def roundBounds (neg : Bool) (b : Nat × Nat) : W32 :=
  let lo := round32 (.fin neg b.1 (-(transBits : Int)))
  let hi := round32 (.fin neg b.2 (-(transBits : Int)))
  if lo = hi then lo else Sys2Proof.Config.hardRound lo hi

/-- The value is at least `n` in magnitude. -/
def magAtLeast (n : Nat) (v : Val) : Bool :=
  match v with
  | .fin _ m e => !ltVal (.fin false m e) (.fin false n 0)
  | .inf _ => true
  | .nan => false

/-- The word of 1. -/
def one32 : W32 := 0x3F800000

/-- exp, correctly rounded (R311). -/
def exp32 (w : W32) : W32 :=
  match val32 w with
  | .nan => nan32
  | .inf neg => if neg then 0 else 0x7F800000
  | .fin neg m e =>
    if m = 0 then one32
    else if magAtLeast 128 (.fin neg m e) then (if neg then 0 else 0x7F800000)
    else roundBounds false (expOf neg m e)

/-- The quotient of two pairs of bounds. -/
def divBounds (a b : Nat × Nat) : Nat × Nat := (a.1 * transOne / b.2, a.2 * transOne / b.1 + 1)

/-- tanh, correctly rounded (R311): (E - 1) / (E + 1) with E = e^(2|t|). -/
def tanh32 (w : W32) : W32 :=
  match val32 w with
  | .nan => nan32
  | .inf neg => if neg then 0xBF800000 else one32
  | .fin neg m e =>
    if m = 0 then w
    else if magAtLeast 32 (.fin neg m e) then (if neg then 0xBF800000 else one32)
    else
      let b := expBounds m (e + 1)
      roundBounds neg (divBounds (b.1 - transOne, b.2 - transOne) (b.1 + transOne, b.2 + transOne))

/-- sigmoid as one correctly rounded function (R311): 1 / (1 + e^-t). -/
def sigmoid32 (w : W32) : W32 :=
  match val32 w with
  | .nan => nan32
  | .inf neg => if neg then 0 else one32
  | .fin neg m e =>
    if magAtLeast 128 (.fin neg m e) then (if neg then 0 else one32)
    else
      let b := expOf (!neg) m e
      roundBounds false (divBounds (transOne, transOne) (transOne + b.1, transOne + b.2))

/-- 1 / sqrt t as one correctly rounded function (R311). -/
def rsqrt32 (w : W32) : W32 :=
  match val32 w with
  | .nan => nan32
  | .inf neg => if neg then nan32 else 0
  | .fin neg m e =>
    if m = 0 then (if neg then 0xFF800000 else 0x7F800000)
    else if neg then nan32
    else
      let odd := e % 2 == 1
      let m' := if odd then 2 * m else m
      let e' : Int := if odd then e - 1 else e
      let n := 2 ^ 400
      let r := isqrt (n / m')
      round32 (.fin false (2 * r + bit (r * r * m' != n)) (-(e' / 2) - 201))

/-- The series of the inverse hyperbolic tangent: for bounds of z squared below 1/9, terms from index `j` on. -/
def atanhSeries : Nat → Nat → Nat × Nat → Nat × Nat → Nat × Nat → Nat × Nat
  | 0, _, _, p, acc => (acc.1, acc.2 + 2 * p.2)
  | fuel + 1, j, z2, p, acc =>
    let acc' := (acc.1 + p.1 / (2 * j + 1), acc.2 + p.2 / (2 * j + 1) + 1)
    atanhSeries fuel (j + 1) z2 (p.1 * z2.1 / transOne, p.2 * z2.2 / transOne + 1) acc'

/-- Bounds of ln (a / b) for b <= a <= 2 b: twice the inverse hyperbolic tangent of (a - b) / (a + b). -/
def lnRatio (a b : Nat) : Nat × Nat :=
  let z := ((a - b) * transOne / (a + b), (a - b) * transOne / (a + b) + 1)
  let z2 := (z.1 * z.1 / transOne, z.2 * z.2 / transOne + 1)
  let r := atanhSeries 140 0 z2 z (0, 0)
  (2 * r.1, 2 * r.2)

/-- -ln (n / 2^54) for 0 < n < 2^54, correctly rounded to FP64 (R138). -/
def negLn54 (n : Nat) : W64 :=
  let k := Nat.log2 n
  let l2 := lnRatio 2 1
  let y := lnRatio n (2 ^ k)
  let b := ((54 - k) * l2.1 - y.2, (54 - k) * l2.2 - y.1)
  let lo := round64 (.fin false b.1 (-(transBits : Int)))
  let hi := round64 (.fin false b.2 (-(transBits : Int)))
  if lo = hi then lo else Sys2Proof.Config.hardRound64 lo hi

end Sys2Proof.Machine
end

