-- ==== Sys2Proof/Machine/Sampler.lean ====
section
/-! DEFINITION. Neighbourhood sampling (chapter 4): slots, seeds, the generator, rows, pieces and stealing, and the train. -/

namespace Sys2Proof.Machine

-- Slots (R129 to R132, R157).

/-- An adjacency as registered (R157). -/
structure Adj where
  hasWeight : Bool
  hasCumw : Bool
  nodes : Nat
  edges : Nat
  rowptr : Nat
  col : Nat
  weight : Nat
  cumw : Nat
  deriving DecidableEq, Repr

/-- The adjacency of a CMD_SMP_ADJ_SET payload. -/
def adjOf (p : List Byte) : Adj :=
  { hasWeight := flag p 4, hasCumw := flag p 5, nodes := field p 32 32, edges := field p 64 64, rowptr := field p 128 64,
    col := field p 192 64, weight := field p 256 64, cumw := field p 320 64 }

/-- A slot never set. -/
def emptySlot : SmpSlot := { cur := none, next := none }

/-- The adjacency in force in slot `n`. -/
def adjIn (s : State) (n : Nat) : Option Adj := (mapGetD s.dsp.adj n emptySlot).cur.map adjOf

/-- The payload in force in seed slot `n`. -/
def seedsIn (s : State) (n : Nat) : Option (List Byte) := (mapGetD s.dsp.seeds n emptySlot).cur

/-- A departure has followed: what was accepted before it applies (R132, R156). -/
def slotDue (c : SmpSlot) : SmpSlot :=
  match c.next with
  | some p => { cur := p, next := none }
  | none => c

/-- Every slot at a departure. -/
def slotsDue (s : State) : State :=
  { s with dsp := { s.dsp with
    adj := mapVals (fun _ c => slotDue c) s.dsp.adj
    seeds := mapVals (fun _ c => slotDue c) s.dsp.seeds } }

/-- A slot takes a payload, or becomes empty: at once in READY, else from the next departure. -/
def slotSet (s : State) (c : SmpSlot) (v : Option (List Byte)) : SmpSlot :=
  if s.dev = .ready then { cur := v, next := none } else { c with next := some v }

-- The generator (R137).

/-- K of R137, for position or draw `c0` of node `v` in layer `l`. -/
def smpKey (jobId m l stream v c0 : Nat) (draw : Bool) : Nat :=
  let c3 := l * 2 ^ 28 + bit draw * 2 ^ 27 + stream * 2 ^ 24 + m / 2 ^ 32 % 2 ^ 24
  let r := philox jobId c0 v (m % 2 ^ 32) c3
  philoxWord r 1 * 2 ^ 32 + philoxWord r 0

/-- 2^54 times the u of R138: an odd number below 2^54. -/
def smpU (k : Nat) : Nat := 2 * (k / 2 ^ 11) + 1

/-- The key of an edge of weight `w` in MODE 2: as bits, whose order is that of the positive numbers (R138). -/
def weightKey (k : Nat) (w : W32) : Nat := (round64 (divVal (val64 (negLn54 (smpU k))) (val32 w))).toNat

-- How a row is sampled (R133 to R135).

/-- What decides a row: JOB_ID, m, l, STREAM and the layer entry (R141), with the logical core that its counts belong to
and the unit that reads. -/
structure SmpHow where
  jobId : Nat
  m : Nat
  l : Nat
  stream : Nat
  fanout : Nat
  mode : Nat
  lc : Nat
  via : Nat
  deriving DecidableEq, Repr

/-- Layer entry l of INLINE_ARGS (R133, R135). -/
def layerEntry (bytes : List Byte) (l : Nat) : Nat := field bytes (256 + 16 * (l - 1)) 16

def leFanout (e : Nat) : Nat := e % 1024
def leMode (e : Nat) : Nat := e / 1024 % 4
def leSlot (e : Nat) : Nat := e / 4096 % 16

/-- The adjacency of a layer, where it has the arrays that its mode needs (R136). -/
def layerAdj (s : State) (e : Nat) : Option Adj :=
  match adjIn s (leSlot e) with
  | some a => if (leMode e = 2 ∧ !a.hasWeight) ∨ (leMode e = 3 ∧ !a.hasCumw) then none else some a
  | none => none

/-- One case of R148: counted, and its event raised. -/
def smpCase (lc cnt ev : Nat) (s : State) : State := raise ev (srcOf 3 lc) [] (bump cnt lc 1 s)

/-- The parts of a range of bytes in each 64 KiB page. -/
def pageParts (a n : Nat) : List (Nat × Nat) :=
  (pagesOf a n).map (fun p =>
    let lo := Nat.max a p
    (lo, Nat.min (a + n) (p + 65536) - lo))

/-- A read by a shunter of logical core `via`: what lies where programs may not read gives zero in sectors that read as
poisoned (R349). -/
def shunterRead (via a n : Nat) (s : State) : List Byte × List Bool × State :=
  let r : Requester := .core via (.shunter 0)
  (pageParts a n).foldl (fun (acc : List Byte × List Bool × State) e =>
    let t := if accessOk acc.2.2 r false e.1 e.2 then demandRead via e.1 e.2 acc.2.2
      else (zeros e.2, List.replicate (sectorCount e.1 e.2) true, countBad r acc.2.2)
    (acc.1 ++ t.1, acc.2.1 ++ t.2.1, t.2.2)) ([], [], s)

/-- `n` array entries of `w` bytes from entry `i`: values, and whether each lies in a poisoned sector. -/
def readEntries (via base w i n : Nat) (s : State) : List (Nat × Bool) × State :=
  if n = 0 then ([], s)
  else
    let a := base + w * i
    let r := shunterRead via a (w * n) s
    ((List.range n).map (fun k => (leNat (slice r.1 (w * k) w), r.2.1.getD ((a + w * k) / 32 - a / 32) false)), r.2.2)

/-- A row as read (R128, R148): taken as degree 0; its first edge and degree; or, where it fails a check that is bypassed,
anything (R149). -/
inductive RowRead where
  | empty
  | row (base degree : Nat)
  | anything
  deriving DecidableEq, Repr

/-- A row that fails a check: bypassed, or counted. -/
def failedRow (lc : Nat) (s : State) : RowRead × State :=
  if unchecked s then (.anything, s) else (.empty, smpCase lc Cnt.smpBadRow Ev.smpBadRow s)

/-- Row `v` is looked up. -/
def readRow (h : SmpHow) (a : Adj) (v : Nat) (s : State) : RowRead × State :=
  if a.nodes ≤ v then failedRow h.lc s
  else
    let r := readEntries h.via a.rowptr 8 v 2 s
    let x := r.1.getD 0 (0, false)
    let y := r.1.getD 1 (0, false)
    if x.2 || y.2 then (.empty, smpCase h.lc Cnt.smpPoisonRow Ev.smpPoison r.2)
    else if y.1 < x.1 ∨ a.edges < y.1 ∨ 0xFFFFFFFF < y.1 - x.1 then failedRow h.lc r.2
    else (.row x.1 (y.1 - x.1), r.2)

/-- What is chosen of a row or a chunk: (key, position, neighbour), how many edges and draws were dropped. -/
structure Chosen where
  edges : List (Nat × Nat × Nat)
  dropped : Nat
  deriving DecidableEq, Repr

/-- A neighbour is out of range (R148). -/
def badNeighbour (a : Adj) (x : Nat) : Bool := a.nodes ≤ x || x == 0xFFFFFFFF

/-- An edge that fails a check: counted and not eligible, or, where the check is bypassed, anything (R149). -/
def failedEdge (lc cnt ev : Nat) (s : State) : Option (Nat × Nat) × State :=
  if unchecked s then
    let b := freeVal 2 s
    let v := freeVal (2 ^ 32) b.2
    let w := freeVal (2 ^ 32) v.2
    (if b.1 = 0 then none else some (v.1, w.1), w.2)
  else (none, smpCase lc cnt ev s)

/-- One edge of a row, from its COL entry and its WEIGHT in MODE 2: its neighbour and weight, where it is eligible
(R148). -/
def eligible (h : SmpHow) (a : Adj) (c w : Nat × Bool) (s : State) : Option (Nat × Nat) × State :=
  let x := val32 (BitVec.ofNat 32 w.1)
  if c.2 || (h.mode == 2 && w.2) then (none, smpCase h.lc Cnt.smpPoisonEdge Ev.smpPoison s)
  else if badNeighbour a c.1 then failedEdge h.lc Cnt.smpOor Ev.smpOor s
  else if h.mode = 2 ∧ !(isFin x && !isNeg x && !isZero x) then failedEdge h.lc Cnt.smpBadWeight Ev.smpBadWeight s
  else (some (c.1, w.1), s)

/-- The key of an edge without replacement (R138). -/
def edgeKey (h : SmpHow) (v e : Nat) (w : Nat) : Nat :=
  let k := smpKey h.jobId h.m h.l h.stream v e false
  if h.mode = 2 then weightKey k (BitVec.ofNat 32 w) else k

/-- Eligible edges of positions [lo, hi) of a row: (position, neighbour, WEIGHT). -/
def scanEdges (h : SmpHow) (a : Adj) (base lo hi : Nat) (s : State) : List (Nat × Nat × Nat) × Nat × State :=
  let c := readEntries h.via a.col 4 (base + lo) (hi - lo) s
  let w := if h.mode = 2 then readEntries h.via a.weight 4 (base + lo) (hi - lo) c.2 else ([], c.2)
  (List.range (hi - lo)).foldl (fun (acc : List (Nat × Nat × Nat) × Nat × State) k =>
    let x := c.1.getD k (0, false)
    let y := w.1.getD k (0, false)
    let e := eligible h a x y acc.2.2
    match e.1 with
    | some (v, wt) => (acc.1 ++ [(lo + k, v, wt)], acc.2.1, e.2)
    | none => (acc.1, acc.2.1 + 1, e.2)) ([], 0, w.2)

/-- The `f` smallest of (key, position, neighbour), ties to the lower position (R138, R151). -/
def smallest (f : Nat) (l : List (Nat × Nat × Nat)) : List (Nat × Nat × Nat) :=
  (sortBy (fun x y => x.1 < y.1 || (x.1 == y.1 && x.2.1 ≤ y.2.1)) l).take f

/-- Edges in ascending position (R143). -/
def byPosition (l : List (Nat × Nat × Nat)) : List (Nat × Nat × Nat) := sortBy (fun x y => x.2.1 ≤ y.2.1) l

/-- Edges with their keys; no key is computed where all are chosen (R138). -/
def withKeys (h : SmpHow) (v : Nat) (keyed : Bool) (l : List (Nat × Nat × Nat)) : List (Nat × Nat × Nat) :=
  l.map (fun e => (if keyed then edgeKey h v e.1 e.2.2 else 0, e.1, e.2.1))

/-- A whole row without replacement (R138). -/
def scanRow (h : SmpHow) (a : Adj) (v base d : Nat) (s : State) : Chosen × State :=
  let r := scanEdges h a base 0 d s
  let l := withKeys h v (h.fanout < r.1.length) r.1
  ({ edges := byPosition (smallest h.fanout l), dropped := r.2.1 }, r.2.2)

/-- The neighbour at a drawn position, unless the draw is dropped (R148). -/
def drawn (h : SmpHow) (a : Adj) (base pos : Nat) (s : State) : Option Nat × State :=
  let c := readEntries h.via a.col 4 (base + pos) 1 s
  let x := c.1.getD 0 (0, false)
  if x.2 then (none, smpCase h.lc Cnt.smpPoisonEdge Ev.smpPoison c.2)
  else if badNeighbour a x.1 then
    let e := failedEdge h.lc Cnt.smpOor Ev.smpOor c.2
    (e.1.map (fun y => y.1), e.2)
  else (some x.1, c.2)

/-- Draws at the positions `l`, each with its number (R139, R140, R148). -/
def takeDraws (h : SmpHow) (a : Adj) (base : Nat) (l : List (Nat × Nat)) (s : State) : Chosen × State :=
  l.foldl (fun (acc : Chosen × State) e =>
    let x := drawn h a base e.2 acc.2
    match x.1 with
    | some n => ({ acc.1 with edges := acc.1.edges ++ [(e.1, e.2, n)] }, x.2)
    | none => ({ acc.1 with dropped := acc.1.dropped + 1 }, x.2)) ({ edges := [], dropped := 0 }, s)

/-- MODE 1 (R139). -/
def drawUniform (h : SmpHow) (a : Adj) (v base d : Nat) (s : State) : Chosen × State :=
  if d = 0 then ({ edges := [], dropped := 0 }, s)
  else
    takeDraws h a base ((List.range h.fanout).map (fun j =>
      (j, smpKey h.jobId h.m h.l h.stream v j true * d / 2 ^ 64))) s

/-- The search of R140 between `lo` and `hi`: the position, or none where it meets a poisoned sector. -/
def searchCumw (via cumw base : Nat) (t : Val) : Nat → Nat → Nat → State → Option Nat × State
  | 0, lo, _, s => (some lo, s)
  | fuel + 1, lo, hi, s =>
    if hi ≤ lo then (some lo, s)
    else
      let mid := (lo + hi) / 2
      let r := readEntries via cumw 8 (base + mid) 1 s
      let x := r.1.getD 0 (0, false)
      if x.2 then (none, r.2)
      else if ltVal t (val64 (BitVec.ofNat 64 x.1)) then searchCumw via cumw base t fuel lo mid r.2
      else searchCumw via cumw base t fuel (mid + 1) hi r.2

/-- Every draw of a MODE 3 row is dropped because a search met poison: a draw whose own COL entry is bad is counted as
that, every other one as poison; the row's event once (R148). -/
def dropDraws (h : SmpHow) (a : Adj) (base : Nat) (l : List (Option Nat)) (s : State) : State :=
  l.foldl (fun s p =>
    match p with
    | some pos =>
      let x := drawn h a base pos s
      if x.1.isNone then x.2 else bump Cnt.smpPoisonEdge h.lc 1 x.2
    | none => bump Cnt.smpPoisonEdge h.lc 1 s) (raise Ev.smpPoison (srcOf 3 h.lc) [] s)

/-- A row whose check is bypassed: any edges, at most FANOUT of them (R149). -/
def anyRow (h : SmpHow) (s : State) : Chosen × State :=
  let n := freeVal (h.fanout + 1) s
  (List.range n.1).foldl (fun (acc : Chosen × State) _ =>
    let p := freeVal (2 ^ 64) acc.2
    let v := freeVal (2 ^ 32) p.2
    ({ acc.1 with edges := acc.1.edges ++ [(0, p.1, v.1)] }, v.2)) ({ edges := [], dropped := 0 }, n.2)

/-- MODE 3 (R140, R148). -/
def drawWeighted (h : SmpHow) (a : Adj) (v base d : Nat) (s : State) : Chosen × State :=
  if d = 0 then ({ edges := [], dropped := 0 }, s)
  else
    let r := readEntries h.via a.cumw 8 (base + d - 1) 1 s
    let w := r.1.getD 0 (0, false)
    let total := val64 (BitVec.ofNat 64 w.1)
    if w.2 then
      ({ edges := [], dropped := h.fanout }, dropDraws h a base (List.replicate h.fanout none) r.2)
    else if !(isFin total && !isNeg total && !isZero total) then
      if unchecked r.2 then anyRow h r.2
      else ({ edges := [], dropped := h.fanout }, smpCase h.lc Cnt.smpBadWeight Ev.smpBadWeight r.2)
    else
      let found := (List.range h.fanout).foldl (fun (acc : List (Option Nat) × State) j =>
        let u := smpU (smpKey h.jobId h.m h.l h.stream v j true)
        let t := val64 (round64 (mulVal (.fin false u (-54)) total))
        let x := searchCumw h.via a.cumw base t 33 0 (d - 1) acc.2
        (acc.1 ++ [x.1], x.2)) ([], r.2)
      if found.1.any Option.isNone then
        ({ edges := [], dropped := h.fanout }, dropDraws h a base found.1 found.2)
      else takeDraws h a base ((List.range h.fanout).zip (found.1.map (fun p => p.getD 0))) found.2

/-- One uncut row. -/
def sampleRow (h : SmpHow) (a : Adj) (v base d : Nat) (s : State) : Chosen × State :=
  match h.mode with
  | 1 => drawUniform h a v base d s
  | 3 => drawWeighted h a v base d s
  | _ => scanRow h a v base d s

-- The descriptor (R134 to R136).

def sdLayers (d : List Byte) : Nat := field d 8 4
def sdSeedSlot (d : List Byte) : Nat := field d 12 4
def sdStream (d : List Byte) : Nat := field d 16 3
def sdEid (d : List Byte) : Bool := flag d 19
def sdSeeds (d : List Byte) : Nat := field d 32 32
def sdLong (d : List Byte) : Nat := let x := field d 64 32; if x = 0 then 4096 else x
def sdBatch (d : List Byte) : Nat := let x := field d 96 16; if x = 0 then 64 else x
def sdBytes (d : List Byte) : Nat := field d 256 32
def sdMaxNodes (d : List Byte) : Nat := field d 288 32
def sdMaxEdges (d : List Byte) : Nat := field d 320 32

/-- The train half of step m (R133). -/
def sdBase (d : List Byte) (m : Nat) : Nat := field d (if m % 2 = 0 then 128 else 192) 64

/-- The offsets of a train (R145): SEED_MAP, NODE_ID, then (DST_PTR, SRC, EID) of each layer, and the end. -/
structure TrainMap where
  seedMap : Nat
  nodeId : Nat
  arrays : List (Nat × Nat × Nat)
  size : Nat
  deriving DecidableEq, Repr

/-- The layout of a train of S seeds and `n` nodes whose layers have the destinations and edges listed. -/
def trainMap (seeds n : Nat) (eid : Bool) (layers : List (Nat × Nat)) : TrainMap :=
  let sm := up64 (128 + 32 * layers.length)
  let nd := up64 (sm + 4 * seeds)
  layers.foldl (fun (t : TrainMap) l =>
    let p := up64 t.size
    let c := up64 (p + 4 * (l.1 + 1))
    let e := up64 (c + 4 * l.2)
    if eid then { t with arrays := t.arrays ++ [(p, c, e)], size := e + 8 * l.2 }
    else { t with arrays := t.arrays ++ [(p, c, 0)], size := c + 4 * l.2 })
    { seedMap := sm, nodeId := nd, arrays := [], size := nd + 4 * n }

/-- An area lies inside the scratchpad reservation of a logical core (R124, R136, R165). -/
def inReservation (s : State) (lc a n : Nat) : Bool :=
  match s.job, jobGraph s with
  | some j, some g =>
    let lo := reserveBase s j.graph lc
    lo ≤ a && a + n ≤ lo + reserveKib g lc * 1024
  | _, _ => false

/-- No two areas share a byte. -/
def apart : List (Nat × Nat) → Bool
  | [] => true
  | a :: l => l.all (fun b => a.2 == 0 || b.2 == 0 || a.1 + a.2 ≤ b.1 || b.1 + b.2 ≤ a.1) && apart l

/-- Check 1 of R136. -/
def sampleFieldsOk (d bytes : List Byte) : Bool :=
  let layers := sdLayers d
  let long := field d 64 32
  field d 0 8 == 1 && 1 ≤ layers && layers ≤ 8 && field d 20 12 == 0 && 1 ≤ sdSeeds d && sdSeeds d ≤ 1048576
    && long % 256 == 0 && long ≤ 1048576 && field d 96 16 ≤ 4096 && field d 112 16 == 0 && field d 128 64 % 64 == 0
    && field d 192 64 % 64 == 0 && 64 ≤ field d 352 32 && field d 384 64 % 64 == 0 && field d 448 576 == 0
    && (List.range 8).all (fun i =>
      let e := layerEntry bytes (i + 1)
      if i < layers then leFanout e != 0 else e == 0)

/-- R136: the descriptor and layer entries are good. -/
def sampleDescOk (s : State) (lc : Nat) (d bytes : List Byte) : Bool :=
  let areas := [(field d 128 64, sdBytes d), (field d 192 64, sdBytes d), (field d 384 64, field d 352 32 * 1024)]
  let worst := trainMap (sdSeeds d) (sdMaxNodes d) (sdEid d) (List.replicate (sdLayers d) (sdMaxNodes d, sdMaxEdges d))
  sampleFieldsOk d bytes && areas.all (fun a => inReservation s lc a.1 a.2) && apart areas && worst.size ≤ sdBytes d

-- The sample task (R133, R142 to R152).

/-- The sample task number `no`. -/
def sampleJob (s : State) (no : Nat) : Option SmpJob := mapGet s.dsp.samples no

def setSample (j : SmpJob) (s : State) : State :=
  { s with dsp := { s.dsp with samples := mapSet s.dsp.samples j.no j } }

/-- How the running layer of a sample task is sampled, read by the shunters of logical core `via`. -/
def sampleHow (s : State) (j : SmpJob) (via : Nat) : SmpHow :=
  let e := layerEntry j.task.bytes j.layer
  { jobId := jobIdOf s, m := j.step, l := j.layer, stream := sdStream j.desc, fanout := leFanout e, mode := leMode e,
    lc := j.task.lc, via := via }

/-- A train was cut back: its event once (R144). -/
def truncate (j : SmpJob) (s : State) : SmpJob × State :=
  if j.truncated then (j, s) else ({ j with truncated := true }, raise Ev.smpTruncated (srcOf 3 j.task.lc) [] s)

/-- One seed (R131, R132, R148): its node, if it names one, and whether it was dropped. -/
def readSeed (via lc : Nat) (list : List Byte) (bound : Option Nat) (idx : Nat) (s : State) :
    Option Nat × Bool × State :=
  let r := readEntries via (field list 64 64) 4 (idx % field list 32 32) 1 s
  let x := r.1.getD 0 (0, false)
  let out : Bool := match bound with
    | some n => n ≤ x.1
    | none => false
  if x.2 then (none, true, smpCase lc Cnt.smpSeedDrop Ev.smpBadSeed r.2)
  else if x.1 = 0xFFFFFFFF then (none, false, r.2)
  else if out && unchecked r.2 then
    let e := failedEdge lc 0 0 r.2
    (e.1.map (fun y => y.1), false, e.2)
  else if out then (none, true, smpCase lc Cnt.smpSeedDrop Ev.smpBadSeed r.2)
  else (some x.1, false, r.2)

/-- The seeds of a train, and whether one was dropped. An empty slot reads as padding (R136). -/
def readSeeds (via lc slot count m : Nat) (bound : Option Nat) (s : State) : List (Option Nat) × Bool × State :=
  match seedsIn s slot with
  | none => (List.replicate count none, false, smpCase lc Cnt.smpAdjMissing Ev.smpAdjMissing s)
  | some p =>
    (List.range count).foldl (fun (acc : List (Option Nat) × Bool × State) k =>
      let x := readSeed via lc p bound (field p 128 32 + m * count + k) acc.2.2
      (acc.1 ++ [x.1], acc.2.1 || x.2.1, x.2.2)) ([], false, s)

/-- The place of a node in a list, or all ones. -/
def placeIn (l : List Nat) (x : Nat) : Nat :=
  match l.findIdx? (fun y => y == x) with
  | some i => i
  | none => 0xFFFFFFFF

/-- Numbers in order of first occurrence. -/
def uniques : List Nat → List Nat
  | [] => []
  | x :: l => x :: (uniques l).filter (fun y => y != x)

/-- Hop 0 (R142, R144). -/
def hopZero (j : SmpJob) (seeds : List (Option Nat)) (s : State) : SmpJob × State :=
  let all := uniques (seeds.filterMap id)
  let kept := all.take (sdMaxNodes j.desc)
  let map := seeds.map (fun o => match o with
    | some x => placeIn kept x
    | none => 0xFFFFFFFF)
  let j := { j with seedMap := map, nodes := kept, hops := [kept.length] }
  if kept.length < all.length then
    truncate j (bump Cnt.smpTruncNode j.task.lc (all.length - kept.length) s)
  else (j, s)

/-- The edges of a finished layer, in the order of R143: (destination, edge ID, neighbour). -/
def layerEdges (rows : List SmpRow) : List (Nat × Nat × Nat) :=
  (sortBy (fun (a b : SmpRow) => a.dest ≤ b.dest) rows).flatMap (fun r => r.edges.map (fun e => (r.dest, e.1, e.2)))

/-- DST_PTR (R143). -/
def dstPtr (n : Nat) (edges : List (Nat × Nat × Nat)) : List Nat :=
  (List.range (n + 1)).map (fun i => countIf (fun e => e.1 < i) edges)

/-- The running layer is complete: truncation, new nodes and its arrays (R142 to R144). -/
def closeLayer (j : SmpJob) (s : State) : SmpJob × State :=
  let n := j.nodes.length
  let all := layerEdges j.rows
  let cut := all.take (sdMaxEdges j.desc)
  let lost := all.length - cut.length
  let r := if lost = 0 then (j, s) else truncate j (bump Cnt.smpTruncEdge j.task.lc lost s)
  let fresh := setUnion [] ((cut.map (fun e => e.2.2)).filter (fun x => !j.nodes.contains x))
  let kept := fresh.take (sdMaxNodes j.desc - n)
  let nodes := j.nodes ++ kept
  let edges := cut.filter (fun e => nodes.contains e.2.2)
  let r := if kept.length = fresh.length then r
    else truncate r.1 (bump Cnt.smpTruncEdge j.task.lc (cut.length - edges.length)
      (bump Cnt.smpTruncNode j.task.lc (fresh.length - kept.length) r.2))
  let layer : SmpLayer := { ptr := dstPtr n edges, src := edges.map (fun e => placeIn nodes e.2.2),
                            eid := edges.map (fun e => e.2.1), added := kept.length, dropped := j.dropped }
  ({ r.1 with
    nodes := nodes
    hops := r.1.hops ++ [nodes.length]
    layers := r.1.layers ++ [layer]
    rows := []
    longs := []
    dropped := 0
    layer := j.layer + 1 }, r.2)

/-- The header of a train (R145). -/
def trainHeader (j : SmpJob) (t : TrainMap) : List Byte :=
  pack 128 ([(0, 64, j.step), (64, 32, sdSeeds j.desc), (96, 4, sdLayers j.desc), (101, 1, bit j.truncated),
    (102, 1, bit j.degraded), (128, 32, t.seedMap), (160, 32, t.nodeId)]
    ++ ((List.range j.hops.length).zip j.hops).map (fun e => (192 + 32 * e.1, 32, e.2)))

/-- Entry l of the layer table (R146). -/
def layerRow (l : SmpLayer) (at' : Nat × Nat × Nat) : List Byte :=
  pack 32 [(0, 32, l.src.length), (32, 32, at'.1), (64, 32, at'.2.1), (96, 32, at'.2.2), (128, 32, l.added),
    (160, 32, l.dropped)]

/-- Numbers as `w`-byte entries. -/
def entries (w : Nat) (l : List Nat) : List Byte := l.flatMap (toLE w)

/-- The train is written (R145, R146), and the task completes (R147). -/
def writeTrain (j : SmpJob) (s : State) : State :=
  let eid := sdEid j.desc
  let t := trainMap (sdSeeds j.desc) j.nodes.length eid (j.layers.map (fun l => (l.ptr.length - 1, l.src.length)))
  let base := sdBase j.desc j.step
  let put : Nat → List Byte → State → State := fun off b s => coreWrite 0 j.task.lc (base + off) b s
  let both := j.layers.zip t.arrays
  let s := put 0 (trainHeader j t ++ both.flatMap (fun e => layerRow e.1 e.2)) s
  let s := put t.nodeId (entries 4 j.nodes) (put t.seedMap (entries 4 j.seedMap) s)
  let s := both.foldl (fun s e =>
    let s := put e.2.2.1 (entries 4 e.1.src) (put e.2.1 (entries 4 e.1.ptr) s)
    if eid then put e.2.2.2 (entries 8 e.1.eid) s else s) s
  let n := sumNat (j.layers.map (fun l => l.src.length))
  let s := bump Cnt.smpTrain j.task.lc 1 (if n = 0 then s else bump Cnt.smpEdge j.task.lc n s)
  completeTask j.task { s with dsp := { s.dsp with samples := mapDel s.dsp.samples j.no } }

-- Pieces (R150 to R152).

/-- The task that piece `id` of task `t`, number `no`, is (R152). -/
def pieceTask (t : Task) (no id : Nat) : Task :=
  { t with uid := no, spawned := true, arg := 0, join := none, piece := some id, saved := none }

/-- The bytes of an area that a unit writes in its own way are unspecified (R147, R151). -/
def unspecify (lc a n : Nat) (s : State) : State :=
  let r := freeBytes n s
  coreWrite 0 lc a r.1 r.2

/-- A sample task, or a piece of it, holds its reservoirs and edges in the working area of its own logical core, in a
form that the spec does not give (R151, R155). -/
def useWork (j : SmpJob) (s : State) : State :=
  unspecify j.task.lc (field j.desc 384 64) (field j.desc 352 32 * 1024) s

/-- A piece is pushed on a deque and counted as a spawned task. -/
def pushPiece (key : Nat) (t : Task) (s : State) : State :=
  let d := disp s t.lc
  let s := noteReadied t.cls 1 s
  let s := bump Cnt.dspSpawn t.lc 1 (setDisp t.lc { d with outstanding := d.outstanding + 1 } s)
  setDeque (key / 8) (key % 8) (deque s (key / 8) (key % 8) ++ [t]) s

/-- The piece is done. -/
def dropPiece (j : SmpJob) (id : Nat) : SmpJob := { j with pieces := j.pieces.filter (fun p => p.id != id) }

/-- A chunk runs: its reservoir joins the others of its row, and the last one gives the row (R151). -/
def runChunk (via : Nat) (p : SmpPiece) (lo hi : Nat) (j : SmpJob) (s : State) : SmpJob × State :=
  match layerAdj s (layerEntry j.task.bytes j.layer), takeFirst (fun x : SmpLong => x.dest == p.first) j.longs with
  | some a, some (w, rest) =>
    let h := sampleHow s j via
    let r := scanEdges h a w.base lo hi s
    let l := withKeys h (j.nodes.getD p.first 0) true r.1
    let kept := smallest h.fanout (w.kept ++ l)
    let j := { j with dropped := j.dropped + r.2.1, degraded := j.degraded || r.2.1 != 0 }
    if w.left = 1 then
      let row : SmpRow := { dest := p.first, edges := (byPosition kept).map (fun e => (w.base + e.2.1, e.2.2)) }
      ({ j with longs := rest, rows := j.rows ++ [row] }, r.2.2)
    else ({ j with longs := { w with left := w.left - 1, kept := kept } :: rest }, r.2.2)
  | _, _ => (j, s)

/-- A piece that finds its deque full runs at once (R152). -/
def giveChunk (key : Nat) (p : SmpPiece) (lo hi : Nat) (j : SmpJob) (s : State) : SmpJob × State :=
  if (deque s (key / 8) (key % 8)).length < 256 then
    ({ j with pieces := j.pieces ++ [p] }, pushPiece key (pieceTask j.task j.no p.id) (bump Cnt.smpChunk j.task.lc 1 s))
  else runChunk (key / 8) p lo hi j (emptyNonPooled (key / 8) (bump Cnt.smpInline j.task.lc 1 s))

/-- A long row is cut into chunks (R150). -/
def cutRow (key i base d : Nat) (j : SmpJob) (s : State) : SmpJob × State :=
  let w := sdLong j.desc
  let k := cdiv d w
  let z : SmpLong := { dest := i, base := base, left := k, kept := [] }
  let j := { j with longs := j.longs ++ [z] }
  (List.range k).foldl (fun (acc : SmpJob × State) c =>
    let lo := w * c
    let hi := Nat.min (w * (c + 1)) d
    let p : SmpPiece := { id := acc.1.nextPiece, first := i, n := 0, chunk := some (lo, hi) }
    giveChunk key p lo hi { acc.1 with nextPiece := acc.1.nextPiece + 1 } acc.2)
    (j, bump Cnt.smpLongRow j.task.lc 1 s)

/-- Destination `i` of the running layer, sampled by shunter `key` (R150). -/
def runRow (key i : Nat) (a : Adj) (j : SmpJob) (s : State) : SmpJob × State :=
  let h := sampleHow s j (key / 8)
  let v := j.nodes.getD i 0
  let r := readRow h a v (bump Cnt.smpRow j.task.lc 1 s)
  match r.1 with
  | .empty => ({ j with rows := j.rows ++ [{ dest := i, edges := [] }], degraded := true }, r.2)
  | .anything =>
    let c := anyRow h r.2
    ({ j with rows := j.rows ++ [{ dest := i, edges := c.1.edges.map (fun e => (e.2.1, e.2.2)) }] }, c.2)
  | .row base d =>
    if h.mode % 2 = 0 ∧ sdLong j.desc < d ∧ h.fanout < d then cutRow key i base d j r.2
    else
      let c := sampleRow h a v base d r.2
      let row : SmpRow := { dest := i, edges := c.1.edges.map (fun e => (base + e.2.1, e.2.2)) }
      ({ j with
        rows := j.rows ++ [row]
        dropped := j.dropped + c.1.dropped
        degraded := j.degraded || c.1.dropped != 0 }, c.2)

/-- A row batch runs (R150). -/
def runBatch (key : Nat) (p : SmpPiece) (j : SmpJob) (s : State) : SmpJob × State :=
  match layerAdj s (layerEntry j.task.bytes j.layer) with
  | none => (j, s)
  | some a => (List.range p.n).foldl (fun (acc : SmpJob × State) k => runRow key (p.first + k) a acc.1 acc.2) (j, s)

/-- Row batch number `b` of the running layer is pushed on the sample task's own shunter, or run inline. -/
def giveBatch (b : Nat) (j : SmpJob) (s : State) : SmpJob × State :=
  let first := sdBatch j.desc * b
  let p : SmpPiece := { id := j.nextPiece, first := first, n := Nat.min (sdBatch j.desc) (j.nodes.length - first),
                        chunk := none }
  let j := { j with nextPiece := j.nextPiece + 1 }
  if (deque s (j.home / 8) (j.home % 8)).length < 256 then
    ({ j with pieces := j.pieces ++ [p] },
      pushPiece j.home (pieceTask j.task j.no p.id) (bump Cnt.smpPiece j.task.lc 1 s))
  else runBatch j.home p j (emptyNonPooled (j.home / 8) (bump Cnt.smpInline j.task.lc 1 s))

/-- The running layer is cut into row batches; a layer without its adjacency samples no edge (R136, R150). -/
def cutLayer (j : SmpJob) (s : State) : SmpJob × State :=
  match layerAdj s (layerEntry j.task.bytes j.layer) with
  | none => (j, smpCase j.task.lc Cnt.smpAdjMissing Ev.smpAdjMissing s)
  | some _ =>
    (List.range (cdiv j.nodes.length (sdBatch j.desc))).foldl
      (fun (acc : SmpJob × State) b => giveBatch b acc.1 acc.2) (j, s)

/-- While no piece is left the layers close one after another, each next one is cut, and after the last the train is
written. -/
def driveSample : Nat → SmpJob → State → State
  | 0, j, s => setSample j s
  | fuel + 1, j, s =>
    if j.pieces ≠ [] then setSample j s
    else if sdLayers j.desc < j.layer then writeTrain j s
    else
      let r := closeLayer j s
      if sdLayers r.1.desc < r.1.layer then writeTrain r.1 r.2
      else
        let c := cutLayer r.1 r.2
        driveSample fuel c.1 c.2

/-- A sample task whose descriptor is good (R133, R142): the half that will be written holds unspecified bytes until the
train is complete (R147). -/
def beginSample (key : Nat) (t : Task) (d : List Byte) (m : Nat) (s : State) : State :=
  let lc := t.lc
  let no := s.dsp.nextUid + 1
  let s := { s with dsp := { s.dsp with nextUid := no } }
  let s := unspecify lc (sdBase d m) (sdBytes d) s
  let bound := (adjIn s (leSlot (layerEntry t.bytes 1))).map (fun a => a.nodes)
  let seeds := readSeeds (key / 8) lc (sdSeedSlot d) (sdSeeds d) m bound s
  let j : SmpJob := { no := no, task := t, home := key, desc := d, step := m, layer := 1, seedMap := [], nodes := [],
                      hops := [], layers := [], pieces := [], nextPiece := 1, rows := [], longs := [], dropped := 0,
                      truncated := false, degraded := seeds.2.1 }
  let z := hopZero j seeds.1 seeds.2.2
  let c := cutLayer z.1 (useWork z.1 z.2)
  driveSample 9 c.1 c.2

/-- A sample task whose descriptor fails R136. -/
def badSample (t : Task) (d : List Byte) (m : Nat) (s : State) : State :=
  let s := smpCase t.lc Cnt.smpBadDesc Ev.smpBadDesc s
  let hdr := (pack 128 [(0, 64, m), (100, 1, 1)]).take (sdBytes d)
  let s := if inReservation s t.lc (sdBase d m) (sdBytes d) then coreWrite 0 t.lc (sdBase d m) hdr s else s
  completeTask t (bump Cnt.smpTrain t.lc 1 s)

-- What a shunter runs.

/-- The function codes of R163. -/
def funcCodes : List Nat := [1, 2, 3, 5, 6, 7]

/-- A function whose descriptor fails R165: it completes. -/
def badFunction (t : Task) (s : State) : State := completeTask t (smpCase t.lc Cnt.gthBadDesc Ev.gthBadDesc s)

/-- Shunter `i` of logical core `lc` takes the newest task of its deque (R153), if it is one of function `func`. A task
with a reserved FUNC fails the check of R165 (assumption log 41). -/
def runFunction (lc i func : Nat) (f : Task → List Byte → State → State) (s : State) : State :=
  match (deque s lc i).reverse with
  | [] => s
  | t :: rest =>
    if t.piece.isSome then s
    else
      let d := sectionRead s t.lc (tdCode t.bytes) 128
      let code := field d 0 8
      let s' := emptyNonPooled lc (setDeque lc i rest.reverse s)
      if code = func then f t d s'
      else if !funcCodes.contains code then badFunction t s'
      else s

/-- SAMPLE (R133, R136): it takes effect once its accesses can be made (R28, R371). -/
def sampleS (lc i : Nat) (s : State) : State :=
  runFunction lc i 1 (fun t d s =>
    let m := taskStep s t
    if sampleDescOk s t.lc d t.bytes then beginSample (8 * lc + i) t d m s else badSample t d m s) s

def execSample (lc i : Nat) (s : State) : Result :=
  onUnit (lc < nLc s && i < 8) (whenOpen (lcDie s lc) (sampleS lc i) s)

/-- A piece runs: what it is, then its task completes. -/
def runPiece (key : Nat) (p : SmpPiece) (j : SmpJob) (s : State) : SmpJob × State :=
  let s := useWork j s
  match p.chunk with
  | some (lo, hi) => runChunk (key / 8) p lo hi j s
  | none => runBatch key p j s

/-- SAMPLE_PIECE_RUN: the newest task of the deque is a piece of a sample task (R150 to R153). -/
def samplePieceS (lc i : Nat) (s : State) : State :=
  match (deque s lc i).reverse with
  | [] => s
  | t :: rest =>
    match t.piece, sampleJob s t.uid with
    | some id, some j =>
      let s := emptyNonPooled lc (setDeque lc i rest.reverse s)
      match j.pieces.find? (fun p => p.id == id) with
      | none => completeTask t s
      | some p =>
        let r := runPiece (8 * lc + i) p (dropPiece j id) s
        driveSample 9 r.1 (completeTask t r.2)
    | _, _ => s

def execSamplePieceRun (lc i : Nat) (s : State) : Result :=
  onUnit (lc < nLc s && i < 8) (whenOpen (lcDie s lc) (samplePieceS lc i) s)

-- Stealing (R153 to R155).

/-- The victims of shunter `i` of logical core `lc`, in order, with the step of R153 at which each is found. -/
def victims (s : State) (lc i : Nat) : List (Nat × Nat × Nat) :=
  let m := lcPerDie s
  let d := lcDie s lc
  let c := lc % m
  let own := (List.range 7).map (fun k => (1, lc, (i + k + 1) % 8))
  let cores := ((List.range 7).map (fun k => (c + k + 1) % 8)).filter (fun x => x < m)
  let die := cores.flatMap (fun x => (List.range 8).map (fun k => (2, d * m + x, k)))
  let far := (diesByDistance s d).flatMap (fun e =>
    (List.range m).flatMap (fun x => (List.range 8).map (fun k => (3, e * m + x, k))))
  own ++ die ++ far

/-- The oldest task of a deque that a thief may take, and the deque without it. -/
def stealFrom (s : State) (lc i : Nat) : Option (Task × List Task) := takeFirst (stealable s) (deque s lc i)

/-- Deques in which a thief meets only tasks that fixed-order mode withholds (R118). -/
def blockedAt (s : State) (lc i : Nat) : Bool := (deque s lc i).any (fun t => tdStealOk t.bytes && boundTask s t)

/-- A shunter without work scans for a victim (R153, R154). -/
def scanVictims (lc i : Nat) (s : State) : State :=
  let vs := victims s lc i
  let hit := vs.find? (fun v => (stealFrom s v.2.1 v.2.2).isSome)
  let met := match hit with
    | some h => vs.takeWhile (fun v => v != h)
    | none => vs
  let n := countIf (fun v => blockedAt s v.2.1 v.2.2) met
  let s := if n = 0 then s else bump Cnt.dspStealBlock lc n s
  match hit with
  | some v =>
    match stealFrom s v.2.1 v.2.2 with
    | some (t, rest) =>
      let cnt := if v.1 = 1 then Cnt.smpStealCore else if v.1 = 2 then Cnt.smpStealDie else Cnt.smpStealXdie
      setDeque lc i [t] (setDeque v.2.1 v.2.2 rest (bump cnt lc 1 s))
    | none => s
  | none =>
    let first := match mapGet s.dsp.idle (8 * lc + i) with
      | some e => e.1
      | none => s.now
    bump Cnt.smpStealFail lc 1 { s with dsp := { s.dsp with idle := mapSet s.dsp.idle (8 * lc + i) (first, s.now) } }

/-- A shunter that has no task, whose clock runs, and that stands under its own core's number. -/
def mayScan (s : State) (lc i : Nat) : Bool :=
  deque s lc i == [] && (shunterTask s lc i).isNone && !s.dsp.asleep.contains (8 * lc + i) && shunterLc s lc == lc
    && !underCopy s lc

/-- SHUNTER_STEAL (R153). -/
def stealS (lc i : Nat) (s : State) : State := if mayScan s lc i then scanVictims lc i s else s

def execShunterSteal (lc i : Nat) (s : State) : Result := onUnit (lc < nLc s && i < 8) (stealS lc i s)

/-- `k` FCLK cycles of 1.4 GHz in ns, rounded up (R8). -/
def fclkNs (k : Nat) : Nat := cdiv (k * 10) 14

/-- STEAL_RETRY_TIMER: 64 FCLK cycles after a scan in vain (R154). -/
def stealRetryS (lc i : Nat) (s : State) : State :=
  match mapGet s.dsp.idle (8 * lc + i) with
  | none => s
  | some e =>
    let s := reachTime (e.2 + fclkNs 64) s
    if mayScan s lc i then scanVictims lc i s else s

def execStealRetryTimer (lc i : Nat) (s : State) : Result := onUnit (lc < nLc s && i < 8) (stealRetryS lc i s)

/-- SHUNTER_SLEEP_TIMER: 1,024 FCLK cycles without work (R154). -/
def shunterSleepS (lc i : Nat) (s : State) : State :=
  match mapGet s.dsp.idle (8 * lc + i) with
  | none => s
  | some e =>
    let s := reachTime (e.1 + fclkNs 1024) s
    if mayScan s lc i then
      { s with dsp := { s.dsp with asleep := setInsert (8 * lc + i) s.dsp.asleep, idle := mapDel s.dsp.idle (8 * lc + i) } }
    else s

def execShunterSleepTimer (lc i : Nat) (s : State) : Result := onUnit (lc < nLc s && i < 8) (shunterSleepS lc i s)

-- The commands (R156 to R159, R595).

/-- `n` bytes from `a` lie inside regions, outside every table (R158). -/
def insideRegions (s : State) (a n : Nat) : Bool :=
  (pagesOf a n).all (fun p => match regionAt s p with
    | some (_, r) => r.table.isNone
    | none => false)

/-- The arrays of an adjacency: address and bytes (R158). -/
def adjArrays (a : Adj) : List (Nat × Nat) :=
  [(a.rowptr, (a.nodes + 1) * 8), (a.col, a.edges * 4)] ++ (if a.hasWeight then [(a.weight, a.edges * 4)] else [])
    ++ (if a.hasCumw then [(a.cumw, a.edges * 8)] else [])

/-- The first check of R158 that a CMD_SMP_ADJ_SET fails; 0 for none. -/
def adjBad (s : State) (p : List Byte) : Nat :=
  let a := adjOf p
  let addrs := [a.rowptr, a.col, a.weight, a.cumw]
  if field p 6 26 ≠ 0 ∨ a.nodes = 0 ∨ 2 ^ 40 < a.edges ∨ addrs.any (fun x => 2 ^ 42 ≤ x) ∨ (!a.hasWeight ∧ a.weight ≠ 0)
    ∨ (!a.hasCumw ∧ a.cumw ≠ 0) then 1
  else if addrs.any (fun x => x % 32 != 0) then 2
  else if (adjArrays a).any (fun e => !insideRegions s e.1 e.2) then 3
  else 0

/-- An adjacency slot takes a payload or becomes empty. -/
def setAdj (n : Nat) (v : Option (List Byte)) (s : State) : State :=
  { s with dsp := { s.dsp with adj := mapSet s.dsp.adj n (slotSet s (mapGetD s.dsp.adj n emptySlot) v) } }

/-- CMD_SMP_ADJ_SET. -/
def adjSet (p : List Byte) (s : State) : State × Completion :=
  let b := adjBad s p
  if b ≠ 0 then (s, failWith St.badParam b) else (setAdj (field p 0 4) (some (slice p 0 48)) s, okWith [])

def execCmdSmpAdjSet (src : CmdSrc) (s : State) : Result := .next (performNow 0x0400 src adjSet s)

/-- CMD_SMP_ADJ_CLEAR. -/
def adjClear (p : List Byte) (s : State) : State × Completion :=
  if field p 4 28 ≠ 0 then (s, failWith St.badParam 1) else (setAdj (field p 0 4) none s, okWith [])

def execCmdSmpAdjClear (src : CmdSrc) (s : State) : Result := .next (performNow 0x0401 src adjClear s)

/-- The first check of R158 that a CMD_SMP_SEEDS_SET fails; 0 for none. -/
def seedsBad (s : State) (p : List Byte) : Nat :=
  let n := field p 32 32
  let a := field p 64 64
  if field p 4 28 ≠ 0 ∨ n = 0 ∨ n ≤ field p 128 32 ∨ 2 ^ 42 ≤ a then 1
  else if a % 32 ≠ 0 then 2
  else if !insideRegions s a (4 * n) then 3
  else 0

/-- CMD_SMP_SEEDS_SET. -/
def seedsSet (p : List Byte) (s : State) : State × Completion :=
  let b := seedsBad s p
  if b ≠ 0 then (s, failWith St.badParam b)
  else
    let n := field p 0 4
    ({ s with dsp := { s.dsp with
      seeds := mapSet s.dsp.seeds n (slotSet s (mapGetD s.dsp.seeds n emptySlot) (some (slice p 0 20))) } }, okWith [])

def execCmdSmpSeedsSet (src : CmdSrc) (s : State) : Result := .next (performNow 0x0402 src seedsSet s)

/-- Adjacency entry `n` of R595. -/
def adjEntry (s : State) (n : Nat) : List Byte :=
  match (mapGetD s.dsp.adj n emptySlot).cur with
  | none => pack 48 [(0, 4, n)]
  | some p => pack 48 [(0, 384, leNat p), (6, 1, 1)]

/-- Seed entry `n` of R595: the list accepted last. -/
def seedEntry (s : State) (n : Nat) : List Byte :=
  let c := mapGetD s.dsp.seeds n emptySlot
  let shown := match c.next with
    | some v => v
    | none => c.cur
  match shown with
  | none => pack 24 [(0, 4, n)]
  | some p => pack 24 [(0, 160, leNat p), (4, 1, 1), (5, 1, bit c.next.isSome)]

/-- CMD_SMP_INFO. -/
def smpInfo (_ : List Byte) (s : State) : Completion :=
  okWith ((List.range 16).flatMap (adjEntry s) ++ (List.range 16).flatMap (seedEntry s))

def execCmdSmpInfo (src : CmdSrc) (s : State) : Result := .next (performQuery 0x0403 src smpInfo s)

/-- The row that a probe samples, counted at logical core 0 (R159). -/
def probeRow (h : SmpHow) (e v : Nat) (s : State) : Chosen × State :=
  match layerAdj s e with
  | none => ({ edges := [], dropped := 0 }, smpCase 0 Cnt.smpAdjMissing Ev.smpAdjMissing s)
  | some a =>
    let r := readRow h a v (bump Cnt.smpRow 0 1 s)
    match r.1 with
    | .empty => ({ edges := [], dropped := 0 }, r.2)
    | .anything => anyRow h r.2
    | .row base d => sampleRow h a v base d r.2

/-- CMD_SMP_PROBE (R159). -/
def smpProbe (p : List Byte) (s : State) : State × Completion :=
  let e := field p 160 16
  let l := field p 176 4
  if leFanout e = 0 ∨ l = 0 ∨ 8 < l ∨ field p 183 9 ≠ 0 then (s, failWith St.badParam 1)
  else
    let h : SmpHow := { jobId := field p 0 64, m := field p 64 64, l := l, stream := field p 180 3, fanout := leFanout e,
                        mode := leMode e, lc := 0, via := 0 }
    let r := probeRow h e (field p 128 32) s
    (r.2, okWith (toLE 4 r.1.edges.length ++ toLE 4 r.1.dropped ++ entries 4 (r.1.edges.map (fun x => x.2.1))
      ++ entries 4 (r.1.edges.map (fun x => x.2.2))))

def execCmdSmpProbe (src : CmdSrc) (s : State) : Result := .next (whenOpen 0 (performNow 0x0404 src smpProbe) s)

-- CMD_MEM_FREE (R375, R378).

/-- Some of `n` bytes from `a` lie in region `r`. -/
def touchesRegion (r : Region) (e : Nat × Nat) : Bool := e.2 != 0 && e.1 < r.base + r.size && r.base < e.1 + e.2

/-- The payloads a slot holds: in force, and accepted. -/
def slotPayloads (c : SmpSlot) : List (List Byte) := c.cur.toList ++ (c.next.bind id).toList

/-- The flat rows of this package that the GATHER descriptors of a graph's tasks and templates name: address and bytes
(R164, R167). -/
def graphFlats (s : State) (g : Graph) : List (Nat × Nat) :=
  (List.range 64).flatMap (fun c => (List.range (taskCount g c + templateCount g c)).filterMap (fun i =>
    let b := taskBytes g c i
    let d := imgRead g (secOffset g c + tdCode b) 128
    let a := field d 576 64
    if tdKind b = 1 ∧ field d 0 8 = 2 ∧ flag d 8 ∧ gPkg a = pkgNo s then some (gLocal a, field d 640 64 * field d 288 32)
    else none))

/-- An adjacency, a seed list or a committed graph, the running job's among them, names bytes of the region (R378). -/
def regionNamed (s : State) (r : Region) : Bool :=
  s.dsp.adj.any (fun e => (slotPayloads e.2).any (fun p => (adjArrays (adjOf p)).any (touchesRegion r)))
    || s.dsp.seeds.any (fun e => (slotPayloads e.2).any (fun p => touchesRegion r (field p 64 64, 4 * field p 32 32)))
    || s.dsp.graphs.any (fun e => e.2.committed && (graphFlats s e.2).any (touchesRegion r))

/-- CMD_MEM_FREE. -/
def memFree (p : List Byte) (s : State) : State × Completion :=
  let id := field p 0 12
  match mapGet s.mem.regions id with
  | none => (s, failWith St.badParam 0)
  | some r =>
    if field p 12 4 ≠ 0 ∨ r.device then (s, failWith St.badParam 0)
    else if regionNamed s r then (s, failWith St.inUse 0)
    else (destroyRegion id s, okWith [])

def execCmdMemFree (src : CmdSrc) (s : State) : Result := .next (performNow 0x0B01 src memFree s)

end Sys2Proof.Machine
end

