-- ==== Sys2Proof/Machine/Gather.lean ====
section
/-! DEFINITION. Gather, aggregation, the drain of the hash accumulator, the backward scatter and two-of-four compression
(chapter 5). -/

namespace Sys2Proof.Machine

-- Function descriptors (R164, R165).

/-- A task that runs a function: its descriptor, its step, what PARITY_STRIDE adds to its addresses, and the shunter
(8 lc + i) at work on it. -/
structure FuncRun where
  task : Task
  d : List Byte
  m : Nat
  shift : Nat
  key : Nat
  deriving DecidableEq, Repr

/-- The run of a task on a shunter. -/
def funcRun (key : Nat) (t : Task) (d : List Byte) (m : Nat) : FuncRun :=
  { task := t, d := d, m := m, shift := field d 32 32 * (m % 2), key := key }

def FuncRun.lc (f : FuncRun) : Nat := f.task.lc

/-- The logical core whose shunter is at work. -/
def FuncRun.via (f : FuncRun) : Nat := f.key / 8

/-- A 64-bit address field, with the parity applied. -/
def FuncRun.addr (f : FuncRun) (lo : Nat) : Nat := field f.d lo 64 + f.shift

/-- BATCH_ROWS in force. -/
def FuncRun.batch (f : FuncRun) : Nat := let x := field f.d 64 16; if x = 0 then 64 else x

/-- The working area. -/
def FuncRun.work (f : FuncRun) : Nat × Nat := (field f.d 128 64, field f.d 192 32 * 1024)

/-- The fields of R164 are in range; `flags`: the lowest FLAGS bit that is reserved; `long`: LONG_ROW may be set. -/
def commonOk (d : List Byte) (flags : Nat) (long : Bool) : Bool :=
  let lr := field d 96 32
  field d flags (32 - flags) == 0 && field d 32 32 % 64 == 0 && field d 64 16 ≤ 4096 && field d 80 16 == 0
    && (if long then lr % 256 == 0 && lr ≤ 1048576 else lr == 0) && field d 128 64 % 64 == 0 && field d 224 32 == 0

/-- Every area lies in the reservation and none meets another (R165). -/
def areasOk (s : State) (lc : Nat) (l : List (Nat × Nat)) : Bool :=
  l.all (fun a => inReservation s lc a.1 a.2) && apart l

/-- Numbers stored as `w`-byte entries. -/
def wordsOf (w n : Nat) (b : List Byte) : List Nat := (List.range n).map (fun i => leNat (slice b (w * i) w))

/-- `n` entries of `w` bytes of a scratchpad. -/
def readWords (lc a w n : Nat) (s : State) : List Nat × State :=
  let r := coreRead lc a (w * n) s
  (wordsOf w n r.1, r.2.2)

-- Tasks under way and their pieces (R152, R166).

/-- The function task number `no`. -/
def funcJob (s : State) (no : Nat) : Option FuncJob := mapGet s.dsp.funcs no

def setFunc (j : FuncJob) (s : State) : State := { s with dsp := { s.dsp with funcs := mapSet s.dsp.funcs j.no j } }

/-- What task number `no` works on becomes `inp`. -/
def setInput (no : Nat) (inp : FuncInput) (s : State) : State :=
  match funcJob s no with
  | some j => setFunc { j with input := inp } s
  | none => s

/-- The function is finished: its task completes. -/
def endFunc (j : FuncJob) (s : State) : State :=
  completeTask j.task { s with dsp := { s.dsp with funcs := mapDel s.dsp.funcs j.no } }

/-- The run of a task under way on shunter `key`. -/
def FuncJob.run (j : FuncJob) (key : Nat) : FuncRun := funcRun key j.task j.desc j.step

/-- What a run keeps in its working area, in a form that the spec does not give (R164, R166). -/
def useArea (f : FuncRun) (s : State) : State := unspecify f.lc f.work.1 f.work.2 s

/-- The next piece of a task is pushed on the deque of shunter `key`, or run at once where that is full (R152). -/
def givePiece (key no first n : Nat) (chunk : Option (Nat × Nat)) (run : SmpPiece → State → State) (s : State) : State :=
  match funcJob s no with
  | none => s
  | some j =>
    let p : SmpPiece := { id := j.nextPiece, first := first, n := n, chunk := chunk }
    let j := { j with nextPiece := j.nextPiece + 1 }
    if (deque s (key / 8) (key % 8)).length < 256 then
      pushPiece key (pieceTask j.task no p.id) (setFunc { j with pieces := j.pieces ++ [p] } s)
    else run p (emptyNonPooled (key / 8) (bump Cnt.smpInline j.task.lc 1 (setFunc j s)))

-- Gather (R167 to R175).

/-- The waybill's parts after its header: offsets of INV and DROPMAP, and the size (R169). -/
def waybillMap (uniq reqs : Nat) : Nat × Nat × Nat :=
  let inv := 64 + up64 (8 * uniq)
  let drop := inv + up64 (4 * reqs)
  (inv, drop, drop + up64 (cdiv uniq 8))

/-- A waybill header (R169). -/
def waybillHeader (step reqs uniq tableId : Nat) (invalid degraded : Bool) (drops rowBytes flatBase : Nat) : List Byte :=
  let m := waybillMap uniq reqs
  pack 64 [(0, 64, step), (64, 32, reqs), (96, 32, uniq), (128, 16, tableId), (144, 1, bit invalid),
    (145, 1, bit degraded), (160, 32, drops), (192, 16, 64), (208, 16, m.1 / 64), (224, 32, m.2.1), (256, 32, rowBytes),
    (288, 64, flatBase)]

/-- TABLE_ID as a waybill or an event names it. -/
def gatherTableId (t : Option Nat) : Nat := t.getD 0xFFFF

/-- EV_GTH_POISON with its payload (R203). -/
def poisonEvent (lc row : Nat) (t : Option Nat) (s : State) : State :=
  raise Ev.gthPoison (srcOf 3 lc) (toLE 8 row ++ toLE 2 (gatherTableId t)) s

/-- A gather under way. -/
def gatherOf (s : State) (no : Nat) : Option (FuncJob × GatherIn) :=
  match funcJob s no with
  | some j => match j.input with
    | .gather g => some (j, g)
    | _ => none
  | none => none

/-- The gather is over: dropped rows are zero, the waybill is written, the task completes (R169, R171, R174). -/
def finishGather (j : FuncJob) (g : GatherIn) (s : State) : State :=
  let lc := j.task.lc
  let drops := setUnion [] g.drops
  let s := match g.out with
    | some o => drops.foldl (fun s u => coreWrite 0 lc (o + u * up64 g.rowBytes) (zeros (up64 g.rowBytes)) s) s
    | none => s
  let m := waybillMap g.uniq.length g.inv.length
  let hdr := waybillHeader j.step g.inv.length g.uniq.length (gatherTableId g.table) false g.degraded drops.length
    g.rowBytes g.flatBase
  let s := coreWrite 0 lc g.waybill hdr s
  let s := coreWrite 0 lc (g.waybill + 64) (entries 8 g.uniq) s
  let s := coreWrite 0 lc (g.waybill + m.1) (entries 4 g.inv) s
  let s := coreWrite 0 lc (g.waybill + m.2.1) (toLE (cdiv g.uniq.length 8) (bitmapOf g.uniq.length drops)) s
  endFunc j (if g.remote = [] then s else bump Cnt.gthRemoteRow lc g.remote.length s)

/-- Requests of a gather are still out. -/
def gatherWaits (s : State) (no : Nat) : Bool :=
  s.fab.pend.any (fun p => match p.kind with
    | .gather k _ _ => k == no
    | _ => false)

/-- A drain is over: the number written, and the contributions that came while it ran (R188, R189). -/
def finishDrain (j : FuncJob) (n : Nat) (more : Bool) (s : State) : State :=
  let f := j.run j.home
  let s := coreWrite 0 f.lc (f.addr 448) (toLE 4 (n + bit more * 2 ^ 31)) s
  let s := if more then bump Cnt.gthHaccTrunc f.lc 1 s else s
  haccLate f.lc (endFunc j s)

/-- A function task ends once no piece of it is left and nothing is out for it. -/
def closeFunc (no : Nat) (s : State) : State :=
  match funcJob s no with
  | none => s
  | some j =>
    if j.pieces ≠ [] then s
    else
      match j.input with
      | .gather g => if gatherWaits s no then s else finishGather j g s
      | .drain rows more _ => finishDrain j rows.length more s
      | _ => endFunc j s

/-- Row `u` of a gather is dropped (R174): once. -/
def dropGatherRow (no u : Nat) (poison : Bool) (s : State) : State :=
  match gatherOf s no with
  | none => s
  | some (j, g) =>
    if g.drops.contains u then s
    else
      let lc := j.task.lc
      let left := if poison then g.remote else mapDel g.remote u
      let s := setInput no (.gather { g with drops := u :: g.drops, degraded := true, remote := left }) s
      if poison then poisonEvent lc (g.uniq.getD u 0) g.table (bump Cnt.gthPoisonRow lc 1 s)
      else raise Ev.gthRemoteFail (srcOf 3 lc) [] (bump Cnt.gthRemoteFail lc 1 s)

/-- Bytes of row `u`, from `off` in the row, have come with their marks (R171, R174). -/
def landGatherRow (no u off : Nat) (b : List Byte) (marks : List Bool) (s : State) : State :=
  match gatherOf s no with
  | none => s
  | some (j, g) =>
    if marks.any id then dropGatherRow no u true s
    else
      match g.out with
      | none => s
      | some o =>
        let data := if off + b.length = g.rowBytes then b ++ zeros (up64 g.rowBytes - g.rowBytes) else b
        coreWrite 0 j.task.lc (o + u * up64 g.rowBytes + off) data s

/-- Where a row lies: package and local address there (R167, R205 to R207). -/
def gatherRowAt (s : State) (g : GatherIn) (row : Nat) : Nat × Nat :=
  match g.table.bind (fun t => (table s t).map (fun tb => (t, tb))) with
  | none =>
    let a := aimed s (g.flatBase + row * g.rowBytes)
    (gPkg a, gLocal a)
  | some (t, tb) =>
    let home := tb.home row
    if home = pkgNo s then (home, (rowAddr s tb row).getD 0)
    else (home, remoteRowAddr tb t (tb.origin row) home row (slotHere tb row))

/-- Row `u` of a gather comes from another package, fetched by die `die`. -/
def noteRemote (no u die : Nat) (s : State) : State :=
  match gatherOf s no with
  | some (_, g) => setInput no (.gather { g with remote := mapSet g.remote u die }) s
  | none => s

/-- A row whose old home this package was is read again at the home that it names, in pieces (R223, R395). -/
def gatherForward (f : FuncRun) (no : Nat) (g : GatherIn) (u home slot : Nat) (s : State) : State :=
  match g.table.bind (fun t => (table s t).map (fun tb => (t, tb))) with
  | none => dropGatherRow no u false s
  | some (t, tb) =>
    (poolPieces 0 g.rowBytes).foldl (fun s e =>
      let r := readAgain (.gather no u e.1) t (g.uniq.getD u 0) e.1 e.2 home slot tb s
      if r.2 then r.1 else dropGatherRow no u false r.1) (noteRemote no u (lcDie s f.via) s)

/-- A row of this package, over the narrow path (R171): a bad access reads as poisoned (R349). -/
def gatherLocal (f : FuncRun) (no : Nat) (g : GatherIn) (u a : Nat) (s : State) : State :=
  let r : Requester := .core f.via (.shunter 0)
  let s := bump Cnt.gthLocalRow f.lc 1 s
  if g.table.isSome then
    match poolReadAt (pkgNo s) a g.rowBytes s with
    | (.data b m _, s) => landGatherRow no u 0 b m s
    | (.forward home slot, s) => gatherForward f no g u home slot s
    | (.bad, s) => dropGatherRow no u false s
  else if !accessOk s r false a g.rowBytes then dropGatherRow no u true (countBad r s)
  else
    let x := homeRead false a g.rowBytes s
    landGatherRow no u 0 x.1 x.2.1 x.2.2

/-- A row of another package: from a replica of the die, or by pool reads (R172, R173). -/
def gatherRemote (f : FuncRun) (no : Nat) (g : GatherIn) (u pkg a : Nat) (s : State) : State :=
  let die := lcDie s f.via
  match findReplica s die pkg a g.rowBytes with
  | some x => landGatherRow no u 0 x.1 x.2 (bump Cnt.gthReplicaHit die 1 s)
  | none =>
    (poolPieces a g.rowBytes).foldl (fun s e =>
      let r := sendReq pkg (.gather no u (e.1 - a)) (fun h => .poolRead h e.1 (sectorCount e.1 e.2)) s
      if r.2 then r.1 else dropGatherRow no u false r.1) (noteRemote no u die s)

/-- Row `u` is fetched; a row of a table that this package does not hold fails (R174, R204). -/
def fetchGatherRow (f : FuncRun) (no u : Nat) (s : State) : State :=
  match gatherOf s no with
  | none => s
  | some (_, g) =>
    if g.table.any (fun t => (table s t).isNone) then dropGatherRow no u false s
    else
      let w := gatherRowAt s g (g.uniq.getD u 0)
      if w.1 = pkgNo s then gatherLocal f no g u w.2 s else gatherRemote f no g u w.1 w.2 s

/-- A gather descriptor as read: where rows come from, the requests, and the layers of the train that holds them. -/
structure GatherAsk where
  table : Option Nat
  rows : Nat
  rowBytes : Nat
  flatBase : Nat
  width : Nat
  reqAddr : Nat
  reqs : Nat
  layers : Nat
  deriving DecidableEq, Repr

/-- The source of a gather (R167), where its fields are in range; a table that this package does not hold has no row that
can be fetched, and the spec gives it no row count (R204, assumption log 42). -/
def gatherSource (s : State) (d : List Byte) : Option GatherAsk :=
  let w := if flag d 9 then 8 else 4
  if flag d 8 then
    let rb := field d 288 32
    let n := field d 640 64
    let base := field d 576 64
    if field d 256 16 = 0 ∧ rb % 32 = 0 ∧ 32 ≤ rb ∧ rb ≤ 65536 ∧ base < 2 ^ 54 ∧ base % 32 = 0 ∧ 1 ≤ n ∧ n ≤ 2 ^ 42 then
      some { table := none, rows := n, rowBytes := rb, flatBase := base, width := w, reqAddr := 0, reqs := 0, layers := 0 }
    else none
  else
    let tb := table s (field d 256 16)
    if field d 288 32 ≠ 0 then none
    else some { table := some (field d 256 16), rows := (tb.map (fun b => b.rows)).getD (2 ^ 64),
                rowBytes := (tb.map (fun b => embBytes b.payload)).getD 0, flatBase := 0, width := w, reqAddr := 0,
                reqs := 0, layers := 0 }

/-- The header of a train half. -/
def trainHead (lc a : Nat) (s : State) : List Byte × State :=
  let r := coreRead lc a 128 s
  (r.1, r.2.2)

/-- nk of a train header (R145). -/
def trainCount (h : List Byte) (k : Nat) : Nat := if flag h 100 then 0 else field h (192 + 32 * k) 32

/-- The requests of a gather: where they lie and how many (R167). -/
def gatherRequests (f : FuncRun) (q : GatherAsk) (s : State) : GatherAsk × State :=
  if flag f.d 10 then
    let h := trainHead f.lc (f.addr 384) s
    ({ q with reqAddr := f.addr 384 + field h.1 160 32, reqs := trainCount h.1 (field h.1 96 4), layers := field h.1 96 4 },
      h.2)
  else ({ q with reqAddr := f.addr 384, reqs := field f.d 320 32 }, s)

/-- The fields of a GATHER descriptor, but for its source (R164, R167). -/
def gatherFieldsOk (d : List Byte) : Bool :=
  let n := field d 320 32
  commonOk d 11 false && field d 272 16 == 0 && field d 352 32 == 0 && field d 448 64 % 64 == 0
    && field d 512 64 % 64 == 0 && field d 704 320 == 0
    && (if flag d 10 then n == 0 && !flag d 9 else 1 ≤ n && n ≤ 16777216)

/-- One request (R168): its row, or why it names none. -/
inductive Request where
  | row (i : Nat)
  | padding
  | range
  | poison
  deriving DecidableEq, Repr

/-- What index `v` names: an index of all ones is padding, one in a poisoned sector is dropped whatever its value, and one
that fails a check that is bypassed names any row (R168, R198). -/
def requestOf (q : GatherAsk) (bad : Bool) (v : Nat) (s : State) : Request × State :=
  if bad then (.poison, s)
  else if v = 2 ^ (8 * q.width) - 1 then (.padding, s)
  else if v < q.rows then (.row v, s)
  else if unchecked s then
    let x := freeVal q.rows s
    (.row x.1, x.2)
  else (.range, s)

/-- The requests of a list. -/
def readRequests (lc : Nat) (q : GatherAsk) (s : State) : List Request × State :=
  let r := coreRead lc q.reqAddr (q.width * q.reqs) s
  (List.range q.reqs).foldl (fun (acc : List Request × State) k =>
    let a := q.reqAddr + q.width * k
    let bad := (unitsOf 32 a q.width).any (fun x => r.2.1.getD (x - q.reqAddr / 32) false)
    let x := requestOf q bad (leNat (slice r.1 (q.width * k) q.width)) acc.2
    (acc.1 ++ [x.1], x.2)) ([], r.2.2)

/-- The row of a request. -/
def Request.rowOf : Request → Option Nat
  | .row i => some i
  | _ => none

/-- Requests dropped: each is counted and recorded (R174). -/
def countRequests (lc : Nat) (t : Option Nat) (l : List Request) (s : State) : State :=
  l.foldl (fun s r => match r with
    | .range => smpCase lc Cnt.gthOor Ev.gthOor s
    | .poison => poisonEvent lc max64 t (bump Cnt.gthPoisonReq lc 1 s)
    | _ => s) s

/-- A gather that fails R165: its waybill header says INVALID (R169). -/
def badGather (f : FuncRun) (s : State) : State :=
  let w := f.addr 448
  let flat := flag f.d 8
  let hdr := waybillHeader f.m 0 0 (if flat then 0xFFFF else field f.d 256 16) true false 0 0
    (if flat then field f.d 576 64 else 0)
  badFunction f.task (if inReservation s f.lc w 64 then coreWrite 0 f.lc w hdr s else s)

/-- What a gather works on, from its requests and unique rows (R168, R171). -/
def gatherInput (f : FuncRun) (q : GatherAsk) (reqs : List Request) (uniq : List Nat) : GatherIn :=
  { table := q.table, flatBase := q.flatBase, uniq := uniq
    inv := reqs.map (fun r => match r.rowOf with
      | some i => placeIn uniq i
      | none => 0xFFFFFFFF)
    waybill := f.addr 448, out := if field f.d 512 64 = 0 then none else some (f.addr 512), rowBytes := q.rowBytes
    drops := [], remote := [], degraded := reqs.any (fun r => r == .range || r == .poison) }

/-- The requests of a gather are counted (R174, R202). -/
def countGather (f : FuncRun) (q : GatherAsk) (reqs : List Request) (uniq : Nat) (s : State) : State :=
  let lc := f.lc
  let rows := (reqs.filterMap Request.rowOf).length
  let s := bump Cnt.gthUniq lc uniq (bump Cnt.gthReq lc reqs.length s)
  countRequests lc q.table reqs (if rows = uniq then s else bump Cnt.gthDup lc (rows - uniq) s)

/-- The areas that a gather names (R165, R167). -/
def gatherAreas (f : FuncRun) (q : GatherAsk) (uniq : Nat) : List (Nat × Nat) :=
  let out := if field f.d 512 64 = 0 then [] else [(f.addr 512, uniq * up64 q.rowBytes)]
  let head := if flag f.d 10 then [(f.addr 384, 128 + 32 * q.layers)] else []
  [f.work, (q.reqAddr, q.width * q.reqs), (f.addr 448, (waybillMap uniq q.reqs).2.2)] ++ out ++ head

-- The waybill as SCATTER and SPMM read it (R169).

/-- The waybill at a scratchpad address. -/
def readWaybill (lc a : Nat) (s : State) : Waybill × State :=
  let h := coreRead lc a 64 s
  let n := field h.1 64 32
  let k := field h.1 96 32
  let m := waybillMap k n
  let u := readWords lc (a + 64) 8 k h.2.2
  let i := readWords lc (a + m.1) 4 n u.2
  let d := coreRead lc (a + m.2.1) (cdiv k 8) i.2
  ({ step := field h.1 0 64, reqs := n, uniq := u.1, tableId := field h.1 128 16, invalid := flag h.1 144, inv := i.1,
     drops := d.1, rowBytes := field h.1 256 32, flatBase := field h.1 288 64, size := m.2.2 }, d.2.2)

/-- Row `u` is marked in DROPMAP. -/
def Waybill.dropped (w : Waybill) (u : Nat) : Bool := flag w.drops u

-- Scatter (R190 to R192).

/-- A request of this package to itself. -/
def ownPend (kind : PendKind) (s : State) : Nat × State :=
  let g := freshTag s
  (g.1, addPend { tag := g.1, dst := pkgNo s, step := s.step, time := s.now, kind := kind } g.2)

/-- A row update for step `m` goes to its home; whether it could be sent (R192, R208, R395). -/
def sendRowUpdate (t row home m : Nat) (elems : List W32) (s : State) : State × Bool :=
  let parts := cdiv elems.length 1024
  if home = pkgNo s then
    let g := ownPend (.rowUpdate t row) s
    let h : Hdr := { mkHdr g.2 home g.1 with step := m }
    (applyRowUpdate (.rowUpdate h row t 0 1 (bytes32 elems)) h home row t false elems g.2, true)
  else
    let part : Hdr → Nat → Instr := fun h k =>
      .rowUpdate { h with step := m } row t k parts (bytes32 ((elems.drop (1024 * k)).take 1024))
    let tag := s.fab.nextTag
    let r := sendReq home (.rowUpdate t row) (fun h => part h 0) s
    if !r.2 then r
    else ((List.range (parts - 1)).foldl (fun s k => (sendPacket (part (mkHdr s home tag) (k + 1)) s).1) r.1, true)

/-- A staged accumulate of FP32 values by a shunter of logical core `via` for step `m` at a global address (R62, R190,
R366). -/
def sendAccum (lc via g m : Nat) (data : List Byte) (s : State) : State × Bool :=
  let g := aimed s g
  let pkg := gPkg g
  let a := gLocal g
  (poolPieces a data.length).foldl (fun (acc : State × Bool) e =>
    let d := slice data (e.1 - a) e.2
    if pkg = pkgNo acc.1 then
      let o := ownPend (.write (some lc)) (snoopWrite via e.1 e.2 acc.1)
      let h : Hdr := { mkHdr o.2 pkg o.1 with step := m }
      (stageWrite (.poolAccum h e.1 d) h e.1 true d [] o.2, acc.2)
    else
      let r := sendReq pkg (.write (some lc)) (fun h => .poolAccum { h with step := m } e.1 d) acc.1
      (r.1, acc.2 && r.2)) (s, true)

/-- The gradient rows of a descriptor: bytes of a row, and the row of request `q` (R190). -/
def gradRowBytes (d : List Byte) : Nat := field d 256 32 * (if flag d 8 then 2 else 4)

/-- See gradRowBytes. -/
def gradRow (f : FuncRun) (q : Nat) (s : State) : List W32 × State :=
  let r := coreRead f.lc (f.addr 384 + q * field f.d 288 32) (gradRowBytes f.d) s
  let fmt := if flag f.d 8 then 0 else 13
  ((groupsOf (elemBytes fmt) (field f.d 256 32) r.1).map (decElem fmt), r.2.2)

/-- The sum of the gradient rows of the requests listed (R191). -/
def gradSum (f : FuncRun) (qs : List Nat) (s : State) : List W32 × State :=
  match qs with
  | [] => ([], s)
  | q :: rest =>
    rest.foldl (fun (acc : List W32 × State) q =>
      let r := gradRow f q acc.2
      (List.zipWith add32 acc.1 r.1, r.2)) (gradRow f q s)

/-- Unique row `u` of the scatter (R191, R192). -/
def scatterRow (f : FuncRun) (w : Waybill) (u : Nat) (s : State) : State :=
  let lc := f.lc
  let qs := (List.range w.reqs).filter (fun q => w.inv.getD q 0xFFFFFFFF == u)
  if w.dropped u then (if qs = [] then s else bump Cnt.gthScatterSkip lc qs.length s)
  else
    let r := gradSum f qs s
    let row := w.uniq.getD u 0
    if qs = [] then s
    else if r.1.any nonfinite32 then smpCase lc Cnt.gthNonfinite Ev.gthNonfinite r.2
    else
      let lost : State → State := fun s => if flag f.d 9 then s else bump Cnt.embUnreach 0 1 s
      let sent := if flag f.d 9 then sendAccum lc f.via (w.flatBase + row * w.rowBytes) f.m (bytes32 r.1) r.2
        else
          match table r.2 w.tableId with
          | some tb => sendRowUpdate w.tableId row (tb.home row) f.m r.1 r.2
          | none => (r.2, false)
      if sent.2 then bump Cnt.gthScatterRow lc 1 sent.1 else lost sent.1

/-- The descriptor of a scatter against its waybill (R165, R190); a table that this package does not hold has no width to
compare, and its row updates are discarded (R204, assumption log 42). -/
def scatterOk (s : State) (f : FuncRun) (w : Waybill) : Bool :=
  let n := field f.d 256 32
  let src := if flag f.d 9 then w.tableId == 0xFFFF && n * 4 == w.rowBytes
    else match table s w.tableId with
      | some tb => w.tableId != 0xFFFF && n == tb.width
      | none => w.tableId != 0xFFFF
  let grad := if w.reqs = 0 then 0 else (w.reqs - 1) * field f.d 288 32 + gradRowBytes f.d
  commonOk f.d 10 false && 1 ≤ n && n ≤ 16384 && field f.d 288 32 % 32 == 0 && field f.d 448 576 == 0 && !w.invalid
    && w.step == f.m && src && areasOk s f.lc [f.work, (f.addr 320, w.size), (f.addr 384, grad)]

-- Aggregation (R176 to R180).

/-- What SPMM computes over: for each destination its surviving edges as (edge number, row of X), the edges of A, the rows
of X and the areas read. -/
structure SpmmIn where
  dests : List (List (Nat × Nat))
  edges : Nat
  xRows : Nat
  areas : List (Nat × Nat)
  deriving DecidableEq, Repr

/-- An edge that fails a check that is bypassed reads any row of X, or none (R198). -/
def anyRowOf (n : Nat) (s : State) : Option Nat × State :=
  let x := freeVal (n + 1) s
  (if x.1 = n then none else some x.1, x.2)

/-- An edge through the waybill (R177). -/
def waybillEdge (lc off : Nat) (w : Waybill) (src : Nat) (s : State) : Option Nat × State :=
  let q := off + src
  if w.reqs ≤ q then (if unchecked s then anyRowOf w.uniq.length s else (none, smpCase lc Cnt.spOor Ev.spOor s))
  else
    let u := w.inv.getD q 0xFFFFFFFF
    if u = 0xFFFFFFFF ∨ w.dropped u then (none, bump Cnt.gthEdgeDrop lc 1 s) else (some u, s)

/-- The layer of a train (R145, R146): where DST_PTR and SRC lie, destinations and edges, and the train's layers; none
where it has no such layer. -/
def trainLayer (lc a l : Nat) (s : State) : Option (Nat × Nat × Nat × Nat × Nat) × State :=
  let h := trainHead lc a s
  if field h.1 96 4 < l ∨ flag h.1 100 then (none, h.2)
  else
    let e := coreRead lc (a + 128 + 32 * (l - 1)) 32 h.2
    (some (a + field e.1 32 32, a + field e.1 64 32, trainCount h.1 (l - 1), field e.1 0 32, field h.1 96 4),
      e.2.2)

/-- KEYMODE 0: the destinations of a layer (R177). A train that has no such layer fails R165. -/
def spmmTrain (f : FuncRun) (s : State) : Option (SpmmIn × State) :=
  let lc := f.lc
  if !(inReservation s lc (f.addr 384) 128 && inReservation s lc (f.addr 448) 64) then none
  else
    let t := trainLayer lc (f.addr 384) (field f.d 16 4) s
    match t.1 with
    | none => none
    | some (ptr, src, n, ne, layers) =>
      let w := readWaybill lc (f.addr 448) t.2
      let p := readWords lc ptr 4 (n + 1) w.2
      let e := readWords lc src 4 ne p.2
      let off := field f.d 352 32
      let r := (List.range n).foldl (fun (acc : List (List (Nat × Nat)) × State) i =>
        let lo := p.1.getD i 0
        let row := (List.range (p.1.getD (i + 1) 0 - lo)).foldl (fun (a : List (Nat × Nat) × State) k =>
          let x := waybillEdge lc off w.1 (e.1.getD (lo + k) 0) a.2
          (a.1 ++ (x.1.map (fun u => (lo + k, u))).toList, x.2)) ([], acc.2)
        (acc.1 ++ [row.1], row.2)) ([], e.2)
      some ({ dests := r.1, edges := ne, xRows := w.1.uniq.length,
              areas := [(f.addr 384, 128 + 32 * layers), (ptr, 4 * (n + 1)), (src, 4 * ne), (f.addr 448, w.1.size)] }, r.2)

/-- The keys of X that may be matched, each with its row, from a list whose last key was `prev` and whose next row is `i`
(R178): one not greater than its predecessor is excluded and counted, or, where the check is bypassed, either. -/
def sortedKeys (lc : Nat) : Option Nat → Nat → List Nat → State → List (Nat × Nat) × State
  | _, _, [], s => ([], s)
  | prev, i, k :: l, s =>
    let late : Bool := match prev with
      | some p => k ≤ p
      | none => false
    if !late then
      let r := sortedKeys lc (some k) (i + 1) l s
      ((k, i) :: r.1, r.2)
    else if unchecked s then
      let x := freeVal 2 s
      let r := sortedKeys lc (some k) (i + 1) l x.2
      (if x.1 = 0 then r else ((k, i) :: r.1, r.2))
    else sortedKeys lc (some k) (i + 1) l (smpCase lc Cnt.spUnsorted Ev.spMerge s)

/-- One entry of a row of A (R178): the last surviving key, and the entry's row of X. -/
def mergeEntry (lc n : Nat) (xs : List (Nat × Nat)) (last : Option Nat) (key : Nat) (s : State) :
    Option Nat × Option Nat × State :=
  let late : Bool := match last with
    | some p => key ≤ p
    | none => false
  let drop : Nat → Option Nat × Option Nat × State := fun cnt =>
    if unchecked s then
      let x := anyRowOf n s
      (last, x.1, x.2)
    else (last, none, smpCase lc cnt Ev.spMerge s)
  match xs.find? (fun x => x.1 == key) with
  | none => drop Cnt.spMergeMiss
  | some x => if late then drop Cnt.spUnsorted else (some key, some x.2, s)

/-- A row of A whose pointers fail a check that is bypassed: any entries of the `ne` there are (R198). -/
def anyEntries (ne n : Nat) (s : State) : List (Nat × Nat) × State :=
  let k := freeVal (ne + 1) s
  (List.range k.1).foldl (fun (acc : List (Nat × Nat) × State) _ =>
    let e := freeVal ne acc.2
    let x := anyRowOf n e.2
    (acc.1 ++ (x.1.map (fun u => (e.1, u))).toList, x.2)) ([], k.2)

/-- One row of A: its surviving entries. -/
def mergeRow (lc n : Nat) (xs : List (Nat × Nat)) (keys : List Nat) (lo hi : Nat) (s : State) : List (Nat × Nat) × State :=
  if hi < lo then (if unchecked s then anyEntries keys.length n s else ([], bump Cnt.spBadPtr lc 1 s))
  else
    let r := (List.range (hi - lo)).foldl (fun (acc : List (Nat × Nat) × Option Nat × State) k =>
      let x := mergeEntry lc n xs acc.2.1 (keys.getD (lo + k) 0) acc.2.2
      (acc.1 ++ (x.2.1.map (fun u => (lo + k, u))).toList, x.1, x.2.2)) ([], none, s)
    (r.1, r.2.2)

/-- KEYMODE 1 (R178). -/
def spmmMerge (f : FuncRun) (s : State) : Option (SpmmIn × State) :=
  let lc := f.lc
  let n := field f.d 320 32
  let nx := field f.d 896 32
  if !inReservation s lc (f.addr 384) (4 * (n + 1)) then none
  else
    let p := readWords lc (f.addr 384) 4 (n + 1) s
    let ne := p.1.foldl Nat.max 0
    let areas := [(f.addr 384, 4 * (n + 1)), (f.addr 448, 8 * ne), (f.addr 832, 8 * nx)]
    if !areasOk s lc areas then none
    else
      let k := readWords lc (f.addr 448) 8 ne p.2
      let x := readWords lc (f.addr 832) 8 nx k.2
      let xs := sortedKeys lc none 0 x.1 x.2
      let r := (List.range n).foldl (fun (acc : List (List (Nat × Nat)) × State) i =>
        let row := mergeRow lc nx xs.1 k.1 (p.1.getD i 0) (p.1.getD (i + 1) 0) acc.2
        (acc.1 ++ [row.1], row.2)) ([], xs.2)
      some ({ dests := r.1, edges := ne, xRows := nx, areas := areas }, r.2)

/-- X_FMT as a storage format (R176, R239). -/
def spmmFmt (d : List Byte) : Nat :=
  match field d 14 2 with
  | 0 => 13
  | 1 => 0
  | _ => 1

/-- The fields of an SPMM descriptor (R164, R176). -/
def spmmFieldsOk (s : State) (lc : Nat) (d : List Byte) : Bool :=
  let n := field d 256 32
  let rows := field d 320 32
  let layer := field d 16 4
  let nx := field d 896 32
  commonOk d 20 true && field d 14 2 != 3 && 1 ≤ n && n ≤ 16384 && field d 288 32 % 32 == 0 && field d 928 96 == 0
    && (if flag d 10 then layer == 0 && 1 ≤ rows && rows ≤ 16777216 && 1 ≤ nx && nx ≤ 16777216
      else 1 ≤ layer && layer ≤ 8 && rows == 0)
    && (!flag d 12 || n == (hacc s lc).width)

/-- The areas of an SPMM task (R165, R176). -/
def spmmAreas (f : FuncRun) (q : SpmmIn) : List (Nat × Nat) :=
  let n := field f.d 256 32
  let k := q.dests.length
  let xw := n * elemBytes (spmmFmt f.d)
  [f.work] ++ q.areas ++ [(f.addr 512, if q.xRows = 0 then 0 else (q.xRows - 1) * field f.d 288 32 + xw)]
    ++ (if flag f.d 11 then [(f.addr 576, 4 * q.edges)] else [])
    ++ (if flag f.d 12 then [] else [(f.addr 640, k * up64 (4 * n))])
    ++ (if flag f.d 13 then [(f.addr 704, 4 * k)] else [])

/-- The contribution of one surviving edge (R179); a NaN is canonical (R242). -/
def spmmTerm (f : FuncRun) (e : Nat × Nat) (s : State) : List W32 × State :=
  let fmt := spmmFmt f.d
  let n := field f.d 256 32
  let r := coreRead f.lc (f.addr 512 + e.2 * field f.d 288 32) (n * elemBytes fmt) s
  let x := (groupsOf (elemBytes fmt) n r.1).map (fun b => quiet32 (decElem fmt b))
  if flag f.d 11 then
    let w := readWords f.lc (f.addr 576 + 4 * e.1) 4 1 r.2.2
    (x.map (mul32 (BitVec.ofNat 32 (w.1.getD 0 0))), w.2)
  else (x, r.2.2)

/-- Two contributions combined (R179). -/
def spmmJoin (reduce : Nat) (a b : List W32) : List W32 :=
  List.zipWith (fun x y => if reduce = 2 then max32 x y else if reduce = 3 then min32 x y else add32 x y) a b

/-- Contributions folded in order, the first taken exactly. -/
def spmmFold (reduce : Nat) : List (List W32) → Option (List W32)
  | [] => none
  | x :: l => some (l.foldl (spmmJoin reduce) x)

/-- The contributions of edges, in order. -/
def spmmTerms (f : FuncRun) (l : List (Nat × Nat)) (s : State) : List (List W32) × State :=
  l.foldl (fun (acc : List (List W32) × State) e =>
    let x := spmmTerm f e acc.2
    (acc.1 ++ [x.1], x.2)) ([], s)

/-- LONG_ROW in force (R164). -/
def FuncRun.long (f : FuncRun) : Nat := let x := field f.d 96 32; if x = 0 then 4096 else x

/-- The result of destination `i` from the fold of its `k` surviving edges (R176, R179): MEAN divides, and it goes to Y or
to the hash accumulator, tagged as one of the batch in which the destination was cut (R187, assumption log 42). -/
def putDest (f : FuncRun) (i : Nat) (sum : Option (List W32)) (k : Nat) (s : State) : State :=
  let v := sum.getD (List.replicate (field f.d 256 32) 0)
  let out := if field f.d 8 2 = 1 ∧ k ≠ 0 then v.map (fun x => round32 (divVal (val32 x) (.fin false k 0))) else v
  let s := if flag f.d 13 then coreWrite 0 f.lc (f.addr 704 + 4 * i) (toLE 4 k) s else s
  if flag f.d 12 then
    haccAdd f.lc (haccContrib s (16 * f.via + f.key % 8) ((field f.d 768 64 + i) % 2 ^ 64) out f.task.idx (i / f.batch + 1)
      (i % f.batch)) s
  else coreWrite 0 f.lc (f.addr 640 + i * up64 (4 * field f.d 256 32)) (bytes32 out) s

/-- The destinations of an SPMM task under way, and those cut into chunks. -/
def spmmOf (j : FuncJob) : List (List (Nat × Nat)) × List SpmmLong :=
  match j.input with
  | .spmm d l => (d, l)
  | _ => ([], [])

/-- The partials of a destination's chunks, in the order in which they combine: of completion, or of their numbers in
fixed-order mode (R180). -/
def partsInOrder (s : State) (l : List (Nat × Option (List W32))) : List (List W32) :=
  (if fixedOrder s then sortBy (fun a b => a.1 ≤ b.1) l else l).filterMap (fun e => e.2)

/-- A chunk of destination `p.first` runs: its partial joins the others, and the last one gives the result (R180). -/
def runDestChunk (key no lo hi : Nat) (p : SmpPiece) (s : State) : State :=
  match funcJob s no with
  | none => s
  | some j =>
    let f := j.run key
    let q := spmmOf j
    let edges := q.1.getD p.first []
    let t := spmmTerms f ((edges.drop lo).take (hi - lo)) s
    match takeFirst (fun x : SpmmLong => x.dest == p.first) q.2 with
    | none => s
    | some (w, rest) =>
      let parts := w.parts ++ [(lo / f.long, spmmFold (field f.d 8 2) t.1)]
      if w.left = 1 then
        putDest f p.first (spmmFold (field f.d 8 2) (partsInOrder t.2 parts)) edges.length (setInput no (.spmm q.1 rest) t.2)
      else setInput no (.spmm q.1 ({ w with left := w.left - 1, parts := parts } :: rest)) t.2

/-- Destination `i` of an SPMM task: at once, or, with more than LONG_ROW edges, cut into chunks (R179, R180). -/
def spmmOne (key no i : Nat) (s : State) : State :=
  match funcJob s no with
  | none => s
  | some j =>
    let f := j.run key
    let q := spmmOf j
    let edges := q.1.getD i []
    let n := edges.length
    if f.long < n then
      let z : SpmmLong := { dest := i, left := cdiv n f.long, parts := [] }
      (List.range (cdiv n f.long)).foldl (fun s c =>
        let lo := f.long * c
        let hi := Nat.min (lo + f.long) n
        givePiece key no i 0 (some (lo, hi)) (runDestChunk key no lo hi) s) (setInput no (.spmm q.1 (q.2 ++ [z])) s)
    else
      let t := spmmTerms f edges s
      putDest f i (spmmFold (field f.d 8 2) t.1) n t.2

-- HACC_DRAIN (R188).

/-- The keys of an accumulator are removed. -/
def haccRemove (lc : Nat) (keys : List Nat) (s : State) : State :=
  let h := hacc s lc
  setHacc lc { h with
    entries := h.entries.filter (fun e => !keys.contains e.key)
    spill := h.spill.filter (fun e => !keys.contains e.key) } s

/-- Row `i` of a drain: its key and value, in E - 16 bytes. -/
def drainRow (f : FuncRun) (rows : List (Nat × List W32)) (w i : Nat) (s : State) : State :=
  let e := rows.getD i (0, [])
  let pad := freeBytes (haccEntryBytes w - 16 - 4 * w) s
  let s := coreWrite 0 f.lc (f.addr 320 + 8 * i) (toLE 8 e.1) pad.2
  coreWrite 0 f.lc (f.addr 384 + i * (haccEntryBytes w - 16)) (bytes32 e.2 ++ pad.1) s

-- Two-of-four compression (R193 to R195).

/-- The magnitude order of the compressor: a NaN above every number. -/
def aboveMag (a b : Val) : Bool :=
  match a, b with
  | .nan, .nan => false
  | .nan, _ => true
  | _, .nan => false
  | a, b => ltVal (finOrInf b) (finOrInf a)
where
  finOrInf : Val → Val
    | .fin _ m e => .fin false m e
    | .inf _ => .inf false
    | .nan => .nan

/-- The positions kept in a group of four codes, ascending: the two of largest magnitude, ties to the lower (R194). -/
def keepTwo (vals : List Val) : Nat × Nat :=
  let v : Nat → Val := fun i => vals.getD i (.fin false 0 0)
  match sortBy (fun a b => !aboveMag (v b) (v a)) [0, 1, 2, 3] with
  | a :: b :: _ => if a < b then (a, b) else (b, a)
  | _ => (0, 1)

/-- A row compressed: codes kept, nibbles, and how many non-zeros were dropped. -/
def compressRow (fmt k : Nat) (row : List Byte) : List Nat × List Nat × Nat :=
  let code : Nat → Nat := fun i => if i < k then elemCode (fmtBits fmt) row i else 0
  (List.range (cdiv k 4)).foldl (fun (acc : List Nat × List Nat × Nat) g =>
    let cs := (List.range 4).map (fun j => code (4 * g + j))
    let vals := cs.map (elemVal fmt)
    let p := keepTwo vals
    let nz := countIf (fun v => !isZero v) vals
    let keptNz := countIf (fun i => !isZero (vals.getD i (.fin false 0 0))) [p.1, p.2]
    (acc.1 ++ [cs.getD p.1 0, cs.getD p.2 0], acc.2.1 ++ [p.1 + 4 * p.2], acc.2.2 + (nz - keptNz))) ([], [], 0)

/-- One row of a COMPRESS24 task. -/
def compressOne (f : FuncRun) (fmt k r : Nat) (s : State) : State :=
  let lc := f.lc
  let g := cdiv k 4
  let src := coreRead lc (f.addr 320 + r * field f.d 512 32) (cdiv (k * fmtBits fmt) 8) s
  let c := compressRow fmt k src.1
  let pad := freeVal 16 src.2.2
  let s := coreWrite 0 lc (f.addr 384 + r * up64 (cdiv (2 * g * fmtBits fmt) 8)) (codeBytes (fmtBits fmt) c.1 0) pad.2
  let s := coreWrite 0 lc (f.addr 448 + r * up64 (cdiv g 2)) (codeBytes 4 c.2.1 pad.1) s
  let s := bump Cnt.spCompressGroup lc g s
  if c.2.2 = 0 then s else bump Cnt.spPrune lc c.2.2 s

-- Pieces run (R166).

/-- A batch or chunk of a function task runs on shunter `key`. -/
def runFuncPiece (key no : Nat) (p : SmpPiece) (s : State) : State :=
  match funcJob s no with
  | none => s
  | some j =>
    let f := j.run key
    let s := useArea f s
    let each : (Nat → State → State) → State := fun g => (List.range p.n).foldl (fun s k => g (p.first + k) s) s
    match j.input with
    | .gather _ => each (fetchGatherRow f no)
    | .scatter w => each (scatterRow f w)
    | .spmm _ _ => match p.chunk with
      | some (lo, hi) => runDestChunk key no lo hi p s
      | none => each (spmmOne key no)
    | .drain rows _ w => each (drainRow f rows w)
    | .compress => each (compressOne f (field f.d 8 4) (field f.d 288 32))

/-- A function task whose descriptor is good: its `rows` rows are cut into pieces (R166). -/
def startFunc (f : FuncRun) (inp : FuncInput) (rows : Nat) (s : State) : State :=
  let no := s.dsp.nextUid + 1
  let j : FuncJob := { no := no, task := f.task, home := f.key, desc := f.d, step := f.m, input := inp, pieces := [],
                       nextPiece := 1 }
  let s := useArea f (setFunc j { s with dsp := { s.dsp with nextUid := no } })
  closeFunc no ((List.range (cdiv rows f.batch)).foldl (fun s b =>
    givePiece f.key no (f.batch * b) (Nat.min f.batch (rows - f.batch * b)) none (runFuncPiece f.key no) s) s)

/-- The newest task of a deque is a piece of a task that runs function `func` of chapter 5 (R152, R166). -/
def newestPiece (s : State) (lc i func : Nat) : Option (Task × FuncJob × SmpPiece) :=
  match (deque s lc i).reverse with
  | [] => none
  | t :: _ =>
    match t.piece, funcJob s t.uid with
    | some id, some j =>
      if field j.desc 0 8 = func then (j.pieces.find? (fun p => p.id == id)).map (fun p => (t, j, p)) else none
    | _, _ => none

/-- Shunter `i` of logical core `lc` takes its newest task, which begins function `func` or is a piece of it. -/
def runShunter (lc i func : Nat) (f : FuncRun → State → State) (s : State) : State :=
  match newestPiece s lc i func with
  | some (t, j, p) =>
    let s := emptyNonPooled lc (setDeque lc i (deque s lc i).dropLast s)
    let s := runFuncPiece (8 * lc + i) j.no p (setFunc { j with pieces := j.pieces.filter (fun q => q.id != p.id) } s)
    closeFunc j.no (completeTask t s)
  | none => runFunction lc i func (fun t d s => f (funcRun (8 * lc + i) t d (taskStep s t)) s) s

/-- The row of a shunter function: it takes effect once its accesses can be made (R28, R371). -/
def onShunter (lc i func : Nat) (f : FuncRun → State → State) (s : State) : Result :=
  onUnit (lc < nLc s && i < 8) (whenOpen (lcDie s lc) (runShunter lc i func f) s)

-- The functions begin.

/-- A gather task begins. -/
def beginGather (f : FuncRun) (s : State) : State :=
  match (if gatherFieldsOk f.d then gatherSource s f.d else none) with
  | none => badGather f s
  | some q =>
    if flag f.d 10 && !inReservation s f.lc (f.addr 384) 128 then badGather f s
    else
      let r := gatherRequests f q s
      let q := r.1
      if field f.d 192 32 < Nat.max 64 (cdiv (16 * q.reqs) 1024) ∨ !inReservation s f.lc q.reqAddr (q.width * q.reqs) then
        badGather f r.2
      else
        let l := readRequests f.lc q r.2
        let uniq := setUnion [] (l.1.filterMap Request.rowOf)
        if !areasOk s f.lc (gatherAreas f q uniq.length) then badGather f l.2
        else
          startFunc f (.gather (gatherInput f q l.1 uniq)) (if field f.d 512 64 = 0 then 0 else uniq.length)
            (countGather f q l.1 uniq.length l.2)

/-- GATHER. -/
def execGather (lc i : Nat) (s : State) : Result := onShunter lc i 2 beginGather s

/-- REMOTE_READ_TIMEOUT: REMOTE_TIMEOUT_US without an answer (R174, R175, R398). -/
def remoteTimeoutS (tag : Nat) (s : State) : State :=
  match findPend s tag with
  | none => s
  | some p =>
    let t := p.time + s.pool.gthCfg.timeoutUs * 1000
    match p.kind with
    | .gather no u _ => closeFunc no (dropGatherRow no u false (dropPend tag (reachTime t s)))
    | .demand r _ _ => failRead r (reachTime t s)
    | _ => s

def execRemoteReadTimeout (tag : Nat) (s : State) : Result := .next (remoteTimeoutS tag s)

/-- A scatter task begins (R190 to R192). -/
def beginScatter (f : FuncRun) (s : State) : State :=
  if !inReservation s f.lc (f.addr 320) 64 then badFunction f.task s
  else
    let r := readWaybill f.lc (f.addr 320) s
    let w := r.1
    if !scatterOk s f w then badFunction f.task r.2
    else
      let none' := countIf (fun x => x == 0xFFFFFFFF) w.inv
      startFunc f (.scatter w) w.uniq.length (if none' = 0 then r.2 else bump Cnt.gthScatterSkip f.lc none' r.2)

/-- SCATTER. -/
def execScatter (lc i : Nat) (s : State) : Result := onShunter lc i 3 beginScatter s

/-- An SPMM task begins. -/
def beginSpmm (f : FuncRun) (s : State) : State :=
  if !spmmFieldsOk s f.lc f.d then badFunction f.task s
  else
    match (if flag f.d 10 then spmmMerge f s else spmmTrain f s) with
    | none => badFunction f.task s
    | some (q, t) =>
      if !areasOk s f.lc (spmmAreas f q) then badFunction f.task s
      else startFunc f (.spmm q.dests []) q.dests.length t

/-- SPMM. -/
def execSpmm (lc i : Nat) (s : State) : Result := onShunter lc i 5 beginSpmm s

/-- A drain task begins: it takes the values of the keys that it drains out of the accumulator (R188). -/
def beginDrain (f : FuncRun) (s : State) : State :=
  let lc := f.lc
  let s := haccLate lc s
  let most := field f.d 256 32
  let w := (hacc s lc).width
  let keys := haccKeys s lc
  let out := keys.take most
  let n := out.length
  let areas := [f.work, (f.addr 320, 8 * n), (f.addr 384, n * (haccEntryBytes w - 16)), (f.addr 448, 4)]
  if !(commonOk f.d 8 false && 1 ≤ most && most ≤ 16777216 && field f.d 288 32 == 0 && field f.d 512 512 == 0
      && areasOk s lc areas) then badFunction f.task s
  else
    startFunc f (.drain (out.map (fun k => (k, (haccValue s lc k).getD []))) (n < keys.length) w) n (haccRemove lc out s)

/-- HACC_DRAIN. -/
def execHaccDrain (lc i : Nat) (s : State) : Result := onShunter lc i 6 beginDrain s

/-- A COMPRESS24 task begins. -/
def beginCompress (f : FuncRun) (s : State) : State :=
  let fmt := field f.d 8 4
  let n := field f.d 256 32
  let k := field f.d 288 32
  let stride := field f.d 512 32
  let g := cdiv k 4
  let areas := [f.work, (f.addr 320, (n - 1) * stride + cdiv (k * fmtBits fmt) 8),
    (f.addr 384, n * up64 (cdiv (2 * g * fmtBits fmt) 8)), (f.addr 448, n * up64 (cdiv g 2))]
  if !(commonOk f.d 12 false && fmt ≤ 10 && 1 ≤ n && n ≤ 16777216 && 1 ≤ k && k ≤ 65536 && stride % 32 == 0
      && field f.d 544 480 == 0 && areasOk s f.lc areas) then badFunction f.task s
  else startFunc f .compress n s

/-- COMPRESS24. -/
def execCompress24 (lc i : Nat) (s : State) : Result := onShunter lc i 7 beginCompress s

-- The commands (R199, R200).

/-- The parameters of a CMD_GTH_CONFIG payload, where they are in range. -/
def gthCfgOf (p : List Byte) : Option GthCfg :=
  let c : GthCfg := { hotReads := field p 0 8, replicaMib := field p 8 8, spillMib := field p 16 16,
                      timeoutUs := field p 32 16 }
  if 1 ≤ c.hotReads ∧ c.replicaMib ≤ 128 ∧ 16 ≤ c.spillMib ∧ c.spillMib ≤ 4096 ∧ 10 ≤ c.timeoutUs ∧ c.timeoutUs ≤ 10000
    ∧ field p 48 16 = 0 then some c else none

/-- CMD_GTH_CONFIG: from the next accepted job start. -/
def gthConfig (p : List Byte) (s : State) : State × Completion :=
  match gthCfgOf p with
  | none => (s, failWith St.badParam 0)
  | some c => ({ s with pool := { s.pool with gthCfgNext := c } }, okWith [])

def execCmdGthConfig (src : CmdSrc) (s : State) : Result := .next (performNow 0x0500 src gthConfig s)

/-- CMD_GTH_INFO: the parameters as set. -/
def gthInfo (_ : List Byte) (s : State) : Completion :=
  let c := s.pool.gthCfgNext
  okWith (pack 8 [(0, 8, c.hotReads), (8, 8, c.replicaMib), (16, 16, c.spillMib), (32, 16, c.timeoutUs)])

def execCmdGthInfo (src : CmdSrc) (s : State) : Result := .next (performQuery 0x0501 src gthInfo s)

end Sys2Proof.Machine
end

