-- ==== Sys2Proof/Machine/Matrix.lean ====
section
/-! DEFINITION. Matrix arrays (R270 to R300): issuing, checking and retiring an MMA. -/

namespace Sys2Proof.Machine

-- Descriptor fields (R273).

def mmArray (d : List Byte) : Nat := field d 0 1
def mmZero (d : List Byte) : Bool := flag d 1
def mmATrans (d : List Byte) : Bool := flag d 2
def mmBTrans (d : List Byte) : Bool := flag d 3
def mmSparse (d : List Byte) : Bool := flag d 4
def mmOutEn (d : List Byte) : Bool := flag d 5
def mmN (d : List Byte) : Nat := field d 80 8
def mmM (d : List Byte) : Nat := field d 96 11
def mmAccRow (d : List Byte) : Nat := field d 112 11
def mmK (d : List Byte) : Nat := field d 128 32
def mmAStride (d : List Byte) : Nat := field d 160 32
def mmBStride (d : List Byte) : Nat := field d 192 32
def mmOutStride (d : List Byte) : Nat := field d 224 32
def mmAAddr (d : List Byte) : Nat := field d 256 64
def mmBAddr (d : List Byte) : Nat := field d 320 64
def mmAScale (d : List Byte) : Nat := field d 384 64
def mmBScale (d : List Byte) : Nat := field d 448 64
def mmMeta (d : List Byte) : Nat := field d 512 64
def mmOut (d : List Byte) : Nat := field d 576 64
def mmOutScale (d : List Byte) : Nat := field d 640 64
def mmMetaStride (d : List Byte) : Nat := field d 704 32

/-- The formats of A, B and OUT as they resolve at issue (R262, R272, R288). -/
def mmFmts (s : State) (d : List Byte) : List Nat :=
  [inFmt s (field d 8 5) (field d 32 12) (flag d 23), inFmt s (field d 13 5) (field d 44 12) (flag d 24),
   outFmt s (field d 18 5) (field d 64 12)]

/-- The class of a format (R271): 0 CF19, 1 16-bit, 2 8-bit, 3 4-bit; none for one that is no array operand. -/
def fmtClass (fmt : Nat) : Option Nat :=
  if fmt = 0 ∨ fmt = 1 then some 1
  else if [2, 3, 6, 7, 9].contains fmt then some 2
  else if [4, 5, 8, 10, 11].contains fmt then some 3
  else if fmt = 12 ∨ fmt = 14 ∨ fmt = 15 then some 0 else none

/-- The class of a pair of operands (R272). -/
def pairClass (a b : Nat) : Option Nat :=
  match fmtClass a, fmtClass b with
  | some x, some y => if x = 0 ∨ y = 0 then (if a = b then some 0 else none) else some (Nat.min x y)
  | _, _ => none

/-- K_t of a class (R271). -/
def chunkLen (cls : Nat) (sparse : Bool) : Nat :=
  let k := if cls = 0 then 256 else if cls = 1 then 512 else if cls = 2 then 1024 else 2048
  if sparse then 2 * k else k

/-- The factor's exponent FEXP of an instruction (R286). -/
def mmFexp (s : State) (d : List Byte) (fmts : List Nat) : Int :=
  let one : Nat → Nat → Int := fun fmt tid => if isBlock fmt then 0 else tensorExp s tid
  one (fmts.getD 0 0) (field d 32 12) + one (fmts.getD 1 0) (field d 44 12)

/-- The bytes of a stored two-of-four row of `k` dense elements (R195). -/
def sparseRowBytes (fmt k : Nat) : Nat := up64 (cdiv (2 * cdiv k 4 * fmtBits fmt) 8)

/-- The bytes of a metadata row (R195). -/
def metaRowBytes (k : Nat) : Nat := up64 (cdiv (cdiv k 4) 2)

/-- Stored rows and elements per row of A (R273). -/
def mmAShape (d : List Byte) : Nat × Nat := if mmATrans d then (mmK d, mmM d) else (mmM d, mmK d)

/-- Stored rows and elements per row of B. -/
def mmBShape (d : List Byte) : Nat × Nat := if mmBTrans d then (mmK d, mmN d) else (mmN d, mmK d)

/-- The bytes of rows `stride` apart, the last of `row` bytes. -/
def areaBytes (rows stride row : Nat) : Nat := (rows - 1) * stride + row

/-- Bytes of one stored row of B. -/
def mmBRow (d : List Byte) (fmt : Nat) : Nat :=
  if mmSparse d then sparseRowBytes fmt (mmK d) else fmtRowBytes fmt (mmBShape d).2

/-- The operand areas: address and bytes. -/
def mmInAreas (d : List Byte) (fa fb : Nat) : List (Nat × Nat) :=
  let a := mmAShape d
  let b := mmBShape d
  [(mmAAddr d, areaBytes a.1 (mmAStride d) (fmtRowBytes fa a.2)), (mmBAddr d, areaBytes b.1 (mmBStride d) (mmBRow d fb))]
    ++ (if isBlock fa then [(mmAScale d, a.1 * cdiv a.2 32 * scaleBytes fa)] else [])
    ++ (if isBlock fb then [(mmBScale d, b.1 * cdiv b.2 32 * scaleBytes fb)] else [])
    ++ (if mmSparse d then [(mmMeta d, areaBytes (mmN d) (mmMetaStride d) (metaRowBytes (mmK d)))] else [])

/-- The output areas. -/
def mmOutAreas (d : List Byte) (fo : Nat) : List (Nat × Nat) :=
  if !mmOutEn d then []
  else [(mmOut d, areaBytes (mmM d) (mmOutStride d) (fmtRowBytes fo (mmN d)))]
    ++ (if isBlock fo then [(mmOutScale d, mmM d * cdiv (mmN d) 32 * scaleBytes fo)] else [])

/-- Two areas share a byte. -/
def areasMeet (a b : Nat × Nat) : Bool := a.1 < b.1 + b.2 && b.1 < a.1 + a.2

/-- Reserved fields of an array descriptor. -/
def mmReserved (d : List Byte) : Bool :=
  field d 6 2 == 0 && field d 26 6 == 0 && field d 56 8 == 0 && field d 76 4 == 0 && field d 88 8 == 0
    && field d 107 5 == 0 && field d 123 5 == 0 && field d 800 224 == 0

/-- An address field is zero where it must be. -/
def onlyIf (used : Bool) (v : Nat) : Bool := used || v == 0

/-- Reason 1 of R274 does not apply. -/
def mmFieldsOk (d : List Byte) (fa fb fo : Nat) : Bool :=
  let ofmt := field d 18 5
  mmReserved d && 1 ≤ mmN d && mmN d ≤ 128 && 1 ≤ mmM d && mmM d ≤ 1024 && 1 ≤ mmK d && mmK d ≤ 1048576
    && mmAStride d % 32 == 0 && mmBStride d % 32 == 0 && mmOutStride d % 32 == 0 && mmMetaStride d % 32 == 0
    && (ofmt ≤ 13 || ofmt == 31) && onlyIf (mmOutEn d) ofmt
    && onlyIf (isBlock fa) (mmAScale d) && onlyIf (isBlock fb) (mmBScale d) && onlyIf (mmSparse d) (mmMeta d)
    && onlyIf (mmOutEn d) (mmOut d) && onlyIf (mmOutEn d && isBlock fo) (mmOutScale d)

/-- FEXP of an accumulator row. -/
def rowFexp (g : Engine) (r : Nat) : Int := mapGetD g.fexp r 0

/-- The lowest reason of R274 that an instruction meets; 0 for none. -/
def mmReason (s : State) (lc : Nat) (d : List Byte) (fmts : List Nat) : Nat :=
  let fa := fmts.getD 0 0
  let fb := fmts.getD 1 0
  let fo := fmts.getD 2 0
  let g := engine s (engKey lc (mmArray d))
  let rows := (List.range (mmM d)).map (fun m => mmAccRow d + m)
  let thin : Nat → Bool := fun f => fmtClass f == some 2 || fmtClass f == some 3
  let strides := fmtRowBytes fa (mmAShape d).2 ≤ mmAStride d && mmBRow d fb ≤ mmBStride d
    && (!mmSparse d || metaRowBytes (mmK d) ≤ mmMetaStride d) && (!mmOutEn d || fmtRowBytes fo (mmN d) ≤ mmOutStride d)
  let ins := mmInAreas d fa fb
  let outs := mmOutAreas d fo
  if !mmFieldsOk d fa fb fo then 1
  else if (pairClass fa fb).isNone ∨ 13 < fo then 2
  else if mmSparse d ∧ (mmBTrans d || mmATrans d || !thin fa || !thin fb) then 3
  else if 2048 < mmAccRow d + mmM d then 4
  else if !mmZero d ∧ rows.any (fun r => rowFexp g r != mmFexp s d fmts) then 5
  else if !strides then 6
  else if (ins ++ outs).any (fun a => !inCore a.1 a.2) ∨ outs.any (fun o => ins.any (areasMeet o)) then 7
  else 0

-- Products and their sum (R280 to R282).

/-- Term t cut toward zero to a multiple of two to the `q`, as that multiple (R282 step 3). -/
def truncTerm (q : Int) (t : Val) : Int :=
  match t with
  | .fin n m e => sgn n (if q ≤ e then m <<< (e - q).toNat else m >>> (q - e).toNat)
  | _ => 0

/-- The largest exponent of the non-zero terms. -/
def maxLog (terms : List Val) : Option Int :=
  terms.foldl (fun acc t => match floorLog t, acc with
    | none, a => a
    | some x, none => some x
    | some x, some a => some (if a < x then x else a)) none

/-- group() of R282: the FP32 result, and whether a finite sum was rounded to infinity. -/
def groupSum (terms : List Val) : W32 × Bool :=
  let up := terms.any (fun t => t == .inf false)
  let down := terms.any (fun t => t == .inf true)
  if terms.any isNan ∨ (up ∧ down) then (nan32, false)
  else if up then (0x7F800000, false)
  else if down then (0xFF800000, false)
  else
    match maxLog terms with
    | none => (if terms.all isNeg && terms != [] then 0x80000000 else 0, false)
    | some x =>
      let q := x - 26
      let sum := terms.foldl (fun a t => a + truncTerm q t) 0
      let r := round32 (ofInt sum q)
      (r, nonfinite32 r)

/-- A piece of an element (R256): plain formats have one. FMT 12 is rounded to CF19 on entry (R251). -/
def passVal (fmt piece : Nat) (v : Val) : Val :=
  if fmt = 12 then val32 (toCf19 (round32 v))
  else if fmt = 14 ∨ fmt = 15 then val32 (pieceOf fmt piece (round32 v)) else v

/-- The product of one position in a pass (R257, R281): +0 for a non-finite factor, but in the last pass. -/
def passProd (last : Bool) (a b : Val) : Val :=
  if !last && !(isFin a && isFin b) then .fin false 0 0 else mulVal a b

/-- The terms of one pass over a row of A and a column of B, where B has an element. -/
def passTerms (fmt : Nat) (p : Nat × Nat) (a : List Val) (b : List (Option Val)) : List Val :=
  let last := p == (0, 0)
  (a.zip b).filterMap (fun e => e.2.map (fun v => passProd last (passVal fmt p.1 e.1) (passVal fmt p.2 v)))

/-- An accumulator element and what happened to it: how often it became non-finite, how often a sum overflowed. -/
structure AccElem where
  w : W32
  made : Nat
  over' : Nat
  deriving DecidableEq, Repr

/-- One group is added. -/
def addGroup (first : Bool) (terms : List Val) (x : AccElem) : AccElem :=
  let r := groupSum (if first then terms else val32 x.w :: terms)
  { w := r.1, made := x.made + bit (!nonfinite32 x.w && nonfinite32 r.1), over' := x.over' + bit r.2 }

/-- One chunk, its passes in order (R280). -/
def addChunk (fmt : Nat) (zero : Bool) (a : List Val) (b : List (Option Val)) (x : AccElem) : AccElem :=
  let ps := passesOf fmt
  ((List.range ps.length).zip ps).foldl (fun x e => addGroup (zero && e.1 == 0) (passTerms fmt e.2 a b) x) x

/-- The outputs that a tile's standing value changes (R457). -/
def tileOuts (faults : List TileFault) (tile : Nat) : List (Nat × Nat × W32) :=
  match tileValue faults tile with
  | .right => []
  | .wrong _ outs => outs

/-- A chunk of a list. -/
def chunkOf {α : Type} (len c : Nat) (l : List α) : List α := (l.drop (c * len)).take len

/-- Row m of the accumulators over every chunk: the columns of B in turn, then what the tile changed. -/
def rowChunks (fmt kt : Nat) (zero : Bool) (chunks m : Nat) (faults : List TileFault) (a : List Val)
    (cols : List (List (Option Val))) (start : List AccElem) : List AccElem :=
  (List.range chunks).foldl (fun accs c =>
    let ac := chunkOf kt c a
    let accs := (accs.zip cols).map (fun e => addChunk fmt (zero && c == 0) ac (chunkOf kt c e.2) e.1)
    (tileOuts faults (m / 128 * chunks + c)).foldl (fun accs o =>
      if o.1 = m then
        match accs[o.2.1]? with
        | some x => accs.set o.2.1 { x with w := o.2.2 }
        | none => accs
      else accs) accs) start

-- Two-of-four operands (R195, R196, R289, R290).

/-- The kept values of a group of a two-of-four row by dense position, whether its metadata fail a check of R196, and how
many values were dropped for order and for range. -/
structure Kept where
  vals : List (Nat × Val)
  fails : Bool
  bad : Nat
  oor : Nat
  deriving DecidableEq, Repr

/-- A value is not a zero. -/
def nonzero (v : Val) : Bool := !isZero v

/-- Group `g` of a stored row of `k` dense elements, as SERVICE mode checks it (R196). -/
def keptGroup (fmt : Nat) (sexp : Int) (k : Nat) (row meta' scales : List Byte) (g : Nat) : Kept :=
  let i0 := field meta' (4 * g) 2
  let i1 := field meta' (4 * g + 2) 2
  let sb := scaleBytes fmt
  let value : Nat → Nat → Val := fun slot pos =>
    let v := elemVal fmt (elemCode (fmtBits fmt) row slot)
    if isBlock fmt then
      let entry := slice scales (pos / 32 * sb) sb
      match blockExp (field entry 0 8) with
      | none => .nan
      | some x => scaleVal v (x + subExp fmt entry (pos % 32))
    else scaleVal v sexp
  let p0 := 4 * g + i0
  let p1 := 4 * g + i1
  let v0 := value (2 * g) p0
  let v1 := value (2 * g + 1) p1
  let wrong := i1 ≤ i0
  let v1' := if wrong then .fin false 0 0 else v1
  let a := if p0 < k then [(p0, v0)] else []
  let b := if p1 < k ∧ p1 ≠ p0 then [(p1, v1')] else []
  { vals := a ++ b, fails := wrong || k ≤ p0 || k ≤ p1, bad := bit (wrong && nonzero v1),
    oor := bit (k ≤ p0 && nonzero v0) + bit (k ≤ p1 && !wrong && nonzero v1) }

/-- The groups of a two-of-four row of `k` dense elements. -/
def keptGroups (fmt : Nat) (sexp : Int) (k : Nat) (row meta' scales : List Byte) : List Kept :=
  (List.range (cdiv k 4)).map (keptGroup fmt sexp k row meta' scales)

/-- The value at dense position `p` of a two-of-four row, where it has one. -/
def keptAt (gs : List Kept) (p : Nat) : Option Val :=
  (gs[p / 4]?).bind (fun g => (g.vals.find? (fun e => e.1 == p)).map (fun e => e.2))

/-- A group that fails a check that is bypassed holds any values (R198). -/
def freeGroup (fmt : Nat) (g : Kept) (s : State) : Kept × State :=
  if g.fails then
    (List.range 4).foldl (fun (acc : Kept × State) _ =>
      let p := freeVal 65536 acc.2
      let v := freeVal (2 ^ fmtBits fmt) p.2
      ({ acc.1 with vals := acc.1.vals ++ [(p.1, elemVal fmt v.1)] }, v.2))
      ({ vals := [], fails := true, bad := 0, oor := 0 }, s)
  else (g, s)

/-- The groups as the check mode leaves them. -/
def judgeGroups (fmt : Nat) (gs : List Kept) (s : State) : List Kept × State :=
  if unchecked s then
    gs.foldl (fun (acc : List Kept × State) g =>
      let x := freeGroup fmt g acc.2
      (acc.1 ++ [x.1], x.2)) ([], s)
  else (gs, s)

/-- Values dropped under R196 are counted and recorded. -/
def countKept (lc bad oor : Nat) (s : State) : State :=
  let s := if bad = 0 then s
    else raiseAll Ev.spMeta (List.replicate bad (srcOf 3 lc)) (bump Cnt.spMetaBad lc bad s)
  if oor = 0 then s else raiseAll Ev.spOor (List.replicate oor (srcOf 3 lc)) (bump Cnt.spOor lc oor s)

/-- A two-of-four row fetched. -/
def fetchKept (lc a meta' scaleAddr fmt : Nat) (sexp : Int) (r k mark who : Nat) (s : State) :
    List (Option Val) × State :=
  let n := 2 * cdiv k 4
  let row := operandRead lc a (cdiv (n * fmtBits fmt) 8) mark who s
  let md := operandRead lc meta' (cdiv (cdiv k 4) 2) mark who row.2
  let sc := rowScales lc scaleAddr fmt r k mark who md.2
  let f := decodeRow fmt sexp 0 row.1 sc.1
  let tern := if fmt = 11 then countIf (fun i => elemCode 2 row.1 i == 2) (List.range n) else 0
  let nans := if isBlock fmt then countIf (fun b => field sc.1 (b * scaleBytes fmt * 8) 8 == 255) (List.range (cdiv k 32))
    else 0
  let gs := judgeGroups fmt (keptGroups fmt sexp k row.1 md.1 sc.1) sc.2
  ((List.range k).map (keptAt gs.1),
    countKept lc (sumNat (gs.1.map (fun g => g.bad))) (sumNat (gs.1.map (fun g => g.oor)))
      (countFetched lc { f with tern := tern, nans := nans } gs.2))

-- Issuing (R274, R275).

/-- Tiles of an array instruction: blocks of rows times chunks (R456). -/
def mmChunks (d : List Byte) (fmts : List Nat) : Nat :=
  match pairClass (fmts.getD 0 0) (fmts.getD 1 0) with
  | some c => cdiv (mmK d) (chunkLen c (mmSparse d))
  | none => 0

def mmTiles (d : List Byte) (fmts : List Nat) : Nat := cdiv (mmM d) 128 * mmChunks d fmts

/-- The instruction at the head of an array's queue starts. -/
def mmStart (e : Nat) (s : State) : State :=
  match (engine s e).queue with
  | i :: _ => runTiles e (mmTiles i.desc i.fmts) i.faults s
  | [] => s

/-- A bad instruction (R274). -/
def mmBad (lc x a reason : Nat) (s : State) : State :=
  let s := setCtx lc x { ctx s lc x with mxBad := reason } s
  let s := bump Cnt.mxBadInstr (2 * lc + a) 1 (bump Cnt.mxInstr (2 * lc + a) 1 s)
  raise Ev.mxBadInstr (srcOf 4 (4 * lc + x)) (pack 8 [(0, 8, reason), (8, 1, a)]) s

/-- An MMA that its context may issue: held, bad, or queued with a copy of its descriptor. -/
def mmaIssue (lc x desc : Nat) (faults : List TileFault) (t : Task) (s : State) : State :=
  let r := coreRead lc desc 128 s
  let d := r.1
  let s := consumePoison lc r.2.1 r.2.2
  let a := mmArray d
  let e := engKey lc a
  let g := engine s e
  if 8 ≤ g.queue.length then setCtx lc x { ctx s lc x with wait := .issue (.mma lc x desc faults) } s
  else
    let fmts := mmFmts s d
    let reason := mmReason s lc d fmts
    if reason ≠ 0 then mmBad lc x a reason s
    else
      let i : EngInst := { no := s.eng.nextNo, x := x, task := t, desc := d, fmts := fmts, fexp := mmFexp s d fmts,
                           mark := s.mem.written.length, accMark := s.eng.accWritten.length,
                           faults := faults }
      let s := takeNumber (setEngine e { g with queue := g.queue ++ [i] } s)
      if g.queue = [] then mmStart e s else s

/-- MMA (R274, R275). -/
def mmaS (lc x desc : Nat) (faults : List TileFault) (s : State) : State :=
  let c := ctx s lc x
  match c.task with
  | some t => if mayIssue c then mmaIssue lc x desc faults t s else s
  | none => s

def execMma (lc x desc : Nat) (faults : List TileFault) (s : State) : Result :=
  onUnit (lc < nLc s && x < 4) (mmaS lc x desc faults s)

-- Retiring (R276, R280 to R288).

/-- The rows of A, K elements each, as the instruction uses them (R273). -/
def mmA (lc : Nat) (i : EngInst) (s : State) : List (List Val) × State :=
  let d := i.desc
  let sh := mmAShape d
  let r := fetchRows lc (mmAAddr d) (mmAStride d) (mmAScale d) (i.fmts.getD 0 0) 0 sh.1 sh.2 i.mark 0 s
  if mmATrans d then ((List.range (mmM d)).map (fun m => r.1.map (fun row => row.getD m .nan)), r.2) else r

/-- The columns of B, K positions each. -/
def mmB (lc : Nat) (i : EngInst) (s : State) : List (List (Option Val)) × State :=
  let d := i.desc
  let sh := mmBShape d
  let fb := i.fmts.getD 1 0
  if mmSparse d then
    (List.range (mmN d)).foldl (fun (acc : List (List (Option Val)) × State) j =>
      let x := fetchKept lc (mmBAddr d + j * mmBStride d) (mmMeta d + j * mmMetaStride d) (mmBScale d) fb 0 j (mmK d)
        i.mark 0 acc.2
      (acc.1 ++ [x.1], x.2)) ([], s)
  else
    let r := fetchRows lc (mmBAddr d) (mmBStride d) (mmBScale d) fb 0 sh.1 sh.2 i.mark 0 s
    if mmBTrans d then
      ((List.range (mmN d)).map (fun j => r.1.map (fun row => some (row.getD j .nan))), r.2)
    else (r.1.map (fun row => row.map some), r.2)

/-- An accumulator row (R284). -/
def accRow (g : Engine) (r : Nat) : List W32 := mapGetD g.acc r (List.replicate 128 0)

/-- The accumulator rows of an instruction after it. -/
def mmRows (g : Engine) (i : EngInst) (a : List (List Val)) (b : List (List (Option Val))) : List (List AccElem) :=
  let d := i.desc
  let fa := i.fmts.getD 0 0
  let kt := match pairClass fa (i.fmts.getD 1 0) with
    | some c => chunkLen c (mmSparse d)
    | none => 1
  ((List.range (mmM d)).zip a).map (fun e =>
    let start := ((accRow g (mmAccRow d + e.1)).take (mmN d)).map (fun w => ({ w := w, made := 0, over' := 0 } : AccElem))
    rowChunks fa kt (mmZero d) (mmChunks d i.fmts) e.1 i.faults e.2 b start)

/-- The accumulators and FEXP of the instruction's rows are written (R284, R287). -/
def writeAcc (g : Engine) (i : EngInst) (rows : List (List AccElem)) : Engine :=
  let d := i.desc
  let r0 := mmAccRow d
  ((List.range rows.length).zip rows).foldl (fun g e =>
    let old := accRow g (r0 + e.1)
    let new := e.2.map (fun x => x.w) ++ old.drop (mmN d)
    { g with
      acc := mapSet g.acc (r0 + e.1) new
      fexp := if mmZero d then mapSet g.fexp (r0 + e.1) i.fexp else g.fexp }) g

/-- An accumulator element as it is read outside the array (R287). -/
def accOut (fexp : Int) (w : W32) : W32 := round32 (scaleVal (val32 w) fexp)

/-- OUT is written (R288). -/
def writeOut (lc : Nat) (i : EngInst) (rows : List (List AccElem)) (s : State) : State :=
  let d := i.desc
  let fo := i.fmts.getD 2 0
  let step := taskStep s i.task
  if !mmOutEn d then s
  else
    ((List.range rows.length).zip rows).foldl (fun s e =>
      let xs := e.2.map (fun x => accOut i.fexp x.w)
      writeRow 0 lc (mmOut d + e.1 * mmOutStride d) (mmOutScale d + e.1 * cdiv (mmN d) 32 * scaleBytes fo) fo
        (field d 64 12) (flag d 25) step (field d 736 32 + e.1 * field d 768 32) xs s) s

/-- What every instruction of an array that retires counts (R299): `n`, the array. -/
def countRetired (n : Nat) (i : EngInst) (s : State) : State :=
  let d := i.desc
  let s := bump Cnt.mxInstr n 1 s
  let s := bump Cnt.mxMac n (mmM d * mmN d * mmK d * (passesOf (i.fmts.getD 0 0)).length) s
  let s := if mmATrans d || mmBTrans d then bump Cnt.mxTrans n 1 s else s
  if mmSparse d then bump Cnt.mxSparse n 1 s else s

/-- The counters of an instruction that retires with its results (R299). -/
def countMma (lc a busy stallA stallB wait : Nat) (i : EngInst) (made over' : Nat) (s : State) : State :=
  let n := 2 * lc + a
  let s := countRetired n i s
  let s := bump Cnt.mxBusyCclk n busy (bump Cnt.mxFeedAStallCclk n stallA (bump Cnt.mxFeedBStallCclk n stallB s))
  let s := bump Cnt.chkRetireWaitCclk lc wait s
  let s := if over' = 0 then s else bump Cnt.mxAccOvf n over' s
  if made = 0 then s else raise Ev.mxAccNonfinite (srcOf 4 (4 * lc + i.x)) [] (bump Cnt.mxAccNonfinite n made s)

/-- Contexts that waited for an array go on: those whose MMAs have all retired, and those with an MMA to issue. -/
def wakeArray (lc a : Nat) (s : State) : State :=
  let e := engKey lc a
  let s := (List.range 4).foldl (fun s x =>
    if (ctx s lc x).wait = .array a ∧ !queuedFor s e x then freeWait lc x s else s) s
  (grantOrder s lc).foldl (fun s x =>
    match issueWait (ctx s lc x) with
    | some (.mma _ _ desc faults) => mmaS lc x desc faults (freeWait lc x s)
    | _ => s) s

/-- The effect of the instruction at the head of an array, and its retirement. -/
def mmaFinish (lc a busy stallA stallB wait : Nat) (i : EngInst) (rest : List EngInst) (s : State) : State :=
  let e := engKey lc a
  let fa := mmA lc i s
  let fb := mmB lc i fa.2
  let s := fb.2
  let g := engine s e
  let rows := mmRows g i fa.1 fb.1
  let made := sumNat ((rows.flatMap id).map (fun x => x.made))
  let over' := sumNat ((rows.flatMap id).map (fun x => x.over'))
  let s := setEngine e { writeAcc g i rows with queue := rest } s
  let s := { s with eng := { s.eng with accWritten := (e, mmAccRow i.desc, mmM i.desc, i.x) :: s.eng.accWritten } }
  let s := countMma lc a busy stallA stallB wait i made over' (writeOut lc i rows s)
  finishEnding lc (wakeArray lc a (mmStart e s))

/-- MMA_RETIRE: nothing while a sampled tile is not settled (R463). -/
def mmaRetireS (lc a busy stallA stallB wait : Nat) (s : State) : State :=
  match (engine s (engKey lc a)).queue with
  | i :: rest => if tilesSettled s (engKey lc a) then mmaFinish lc a busy stallA stallB wait i rest s else s
  | [] => s

def execMmaRetire (lc a busy stallA stallB wait : Nat) (s : State) : Result :=
  onUnit (lc < nLc s && a < 2) (mmaRetireS lc a busy stallA stallB wait s)

/-- MX_WAIT: the context waits while an MMA of its own is queued (R275). -/
def mxWaitS (lc x a : Nat) (s : State) : State :=
  let c := ctx s lc x
  if mayIssue c ∧ queuedFor s (engKey lc a) x then setCtx lc x { c with wait := .array a } s else s

def execMxWait (lc x a : Nat) (s : State) : Result := onUnit (lc < nLc s && x < 4 && a < 2) (mxWaitS lc x a s)

/-- MX_QUEUE (R298). -/
def mxQueue (s : State) (lc : Nat) : Nat :=
  (engine s (engKey lc 0)).queue.length + 16 * (engine s (engKey lc 1)).queue.length

end Sys2Proof.Machine
end

