-- ==== Sys2Proof/Machine/LinkRows.lean ====
section
/-! DEFINITION. The link layer: codewords, control slots and the acknowledgement timer (R385, R386), and the map of R392. -/

namespace Sys2Proof.Machine

-- Codewords and control slots (R385, R386).

/-- Uncorrectable codewords of the last second, this one included. -/
def recentBad (s : State) (p : Port) : List Nat := s.now :: p.badTimes.filter (fun t => s.now < t + 1000000000)

/-- A codeword that cannot be corrected is discarded and answered with a negative acknowledgement that names its FSEQ; 1,000
within a second send the port into RETRAINING (R386, R388). -/
def badCodeword (q fseq : Nat) (s : State) : State :=
  let p := port s q
  let l := recentBad s p
  let s := bump Cnt.lnkFecUncorr q 1 (setPort q { p with owes := true, nakOut := some fseq, badTimes := l } s)
  if 1000 ≤ l.length then startRetrain q s else pumpPort q s

/-- A frame is delivered once and in order: only the expected FSEQ is taken. Its acknowledgement goes with a control slot
(R385, R386). -/
def takeFrame (q : Nat) (f : Frame) (s : State) : State :=
  let p := port s q
  let s :=
    if f.fseq = p.rxSeq then
      bump Cnt.lnkRxBytes q f.data.length (setPort q { p with rxSeq := (p.rxSeq + 1) % 4096, owes := true } s)
    else setPort q { p with owes := true } s
  pumpPort q s

/-- LINK_CODEWORD_RECEIVE. -/
def codewordS (q : Nat) (r : DecodeResult) (f : Frame) (s : State) : State :=
  if (port s q).st ≠ .up then s
  else
    match r with
    | .clean => takeFrame q f s
    | .corrected => takeFrame q f (bump Cnt.lnkFecCorr q 1 s)
    | .uncorrectable => badCodeword q f.fseq s

def execLinkCodewordReceive (q : Nat) (r : DecodeResult) (f : Frame) (s : State) : Result :=
  onUnit (q < nPorts s) (codewordS q r f s)

/-- The retry buffer after a cumulative acknowledgement of FSEQ `a`. -/
def ackFrames (a : Nat) (l : List TxFrame) : List TxFrame :=
  if l.any (fun f => f.fseq == a) then (l.dropWhile (fun f => f.fseq != a)).drop 1 else l

/-- The frames resent after a negative acknowledgement of FSEQ `n`. -/
def resentFrom (n : Nat) (l : List TxFrame) : List TxFrame := l.dropWhile (fun f => f.fseq != n)

/-- LINK_LAYER_CONTROL_SLOT: acknowledgement, negative acknowledgement and credits (R385, R386). -/
def controlSlotS (q : Nat) (sl : LlcSlot) (s : State) : State :=
  let p := port s q
  if p.st ≠ .up then s
  else
    let retry := match sl.ack with
      | some a => ackFrames a p.retry
      | none => p.retry
    let again := match sl.nak with
      | some a => resentFrom a retry
      | none => []
    let t := if sl.ack.isSome || sl.nak.isSome then s.now else p.ackFrom
    let s := setPort q { p with retry := retry, credits := addCredits p.credits sl.credits, ackFrom := t } s
    pumpPort q (resend q again s)

def execLinkLayerControlSlot (q : Nat) (sl : LlcSlot) (s : State) : Result :=
  onUnit (q < nPorts s) (controlSlotS q sl s)

/-- LINK_ACK_TIMEOUT: no acknowledgement for 20 us; every unacknowledged frame is resent (R386). -/
def ackTimeoutS (q : Nat) (s : State) : State :=
  let p := port s q
  if p.st = .up ∧ p.retry ≠ [] then
    let s := reachTime (p.ackFrom + 20000) s
    resend q p.retry (setPort q { p with ackFrom := s.now } s)
  else s

def execLinkAckTimeout (q : Nat) (s : State) : Result := onUnit (q < nPorts s) (ackTimeoutS q s)

-- LINK_STATE and BAD_LINK_PACKET (R392, R397).

/-- LINK_STATE: the map of ports in DOWN or DISABLED (R392). -/
def linkStateS (pkg dim : Nat) (plus portB : Bool) (st : Nat) (s : State) : State :=
  let n : PortName := { pkg := pkg, dim := dim, plus := plus, portB := portB }
  if s.job.isNone then s
  else if st = 0 ∨ st = 4 then
    if s.fab.downMap.contains n then s else { s with fab := { s.fab with downMap := n :: s.fab.downMap } }
  else { s with fab := { s.fab with downMap := s.fab.downMap.filter (fun x => x != n) } }

/-- BAD_LINK_PACKET: a header that fails step 1 of R397. -/
def badPacketS (s : State) : State := bump Cnt.lnkBadPkt 0 1 s

def execBadLinkPacket (_ : List Byte) (s : State) : Result := .next (badPacketS s)

end Sys2Proof.Machine
end

