-- ==== Sys2Proof/Machine/Reduce.lean ====
section
/-! DEFINITION. Reduce-scatter, its commit, and its commands (R399 to R405, R411, R416, R417). -/

namespace Sys2Proof.Machine

-- Collective descriptors (R400).

def cdKind (d : List Byte) : Nat := field d 0 8
def cdFuse (d : List Byte) : Bool := flag d 8
def cdFmt (d : List Byte) : Nat := field d 16 5
def cdTable (d : List Byte) : Nat := field d 32 8
def cdGrad (d : List Byte) : Nat := field d 64 64
def cdFirst (d : List Byte) : Nat := field d 128 40
def cdCount (d : List Byte) : Nat := field d 192 32
def cdShardLead (d : List Byte) : Nat := field d 224 32
def cdGnLead (d : List Byte) : Nat := field d 256 32
def cdClip (d : List Byte) : W32 := BitVec.ofNat 32 (field d 288 32)

/-- Bytes of the gradient that a descriptor names. -/
def gradBytes (d : List Byte) : Nat := cdCount d * 256 * elemBytes (cdFmt d)

/-- The gradient lies in a scratchpad window or in a non-pooled region of this package (R400). -/
def gradOk (s : State) (d : List Byte) : Bool :=
  let a := cdGrad d
  a < 2 ^ 42 && (pagesOf a (gradBytes d)).all (fun p =>
    match placeOf s p with
    | some (.scratch _) => true
    | some (.region _ r) => !r.pooled
    | _ => false)

/-- A REDUCE_SCATTER descriptor passes R400. -/
def rsDescOk (s : State) (d : List Byte) : Bool :=
  match table s (cdTable d) with
  | none => false
  | some tb =>
    cdKind d == 1 && tb.bind.isSome && field d 9 7 == 0 && field d 21 11 == 0 && field d 40 24 == 0 && field d 168 24 == 0
      && field d 320 704 == 0 && (cdFmt d == 13 || cdFmt d ≤ 1) && cdFirst d < tb.rows && 1 ≤ cdCount d
      && cdCount d ≤ tb.rows - cdFirst d && 1000 ≤ cdShardLead d && gradOk s d

/-- A descriptor that fails is counted and recorded (R400). -/
def badDesc (s : State) : State := raise Ev.rdBadDesc 0 [] (bump Cnt.rdBadDesc 0 1 s)

/-- A collective leaves its engine, its task complete (R404, R409). -/
def endColl (c : Coll) (s : State) : State :=
  completeTask c.task { s with fab := { s.fab with colls := s.fab.colls.filter (fun x => x.no != c.no) } }

/-- A collective's record changes. -/
def updColl (no : Nat) (f : Coll → Coll) (s : State) : State :=
  { s with fab := { s.fab with colls := s.fab.colls.map (fun c => if c.no = no then f c else c) } }

-- Reduce buffers (R399, R402, R403).

/-- The buffer of a step; zero until something is added. -/
def rdBuf (tb : Table) (step : Nat) : RdBuf := mapGetD tb.bufs step { rows := [], closedAll := false }

/-- A row of a buffer. -/
def rdRow (b : RdBuf) (r : Nat) : RdRow :=
  mapGetD b.rows r { sums := [], c := 0, closed := false, time := 0, before := none, fresh := [] }

/-- The row has closed (R403). -/
def rowClosed (b : RdBuf) (r : Nat) : Bool := b.closedAll || (rdRow b r).closed

/-- The number of members without SITTING_OUT (R403). -/
def activeMembers (s : State) : Nat :=
  match s.job with
  | some j => countIf (fun p => !j.sitting.contains p) j.members
  | none => 0

/-- One row of a unit of package `src` is added at time `now`: the first contribution exactly, later ones in FP32, those of
one time in ascending SRC_PKG (R402). -/
def addRow (full src now : Nat) (b : RdBuf) (r : Nat) (elems : List W32) : RdBuf :=
  let x := rdRow b r
  let again := decide (x.c ≠ 0 ∧ x.time = now)
  let before := if again then x.before else if x.c = 0 then none else some x.sums
  let fresh := if again then insertRank (src, elems) x.fresh else [(src, elems)]
  let sums := foldFresh (List.zipWith add32) before fresh
  let closed := x.closed || full ≤ x.c + 1
  { b with rows := mapSet b.rows r ⟨sums, x.c + 1, closed, now, before, fresh⟩ }

/-- The elements of a unit's row k as FP32. -/
def unitRow (fmt : Nat) (data : List Byte) (k : Nat) : List W32 :=
  let e := elemBytes fmt
  (groupsOf e 256 (slice data (k * 256 * e) (256 * e))).map (decElem fmt)

/-- The FMT that this package's tasks of the step name for a table (R402). -/
def fmtAgrees (s : State) (t fmt : Nat) : Bool :=
  s.fab.colls.all (fun c => !(cdKind c.desc == 1 && cdTable c.desc == t) || cdFmt c.desc == fmt)

/-- What became of a unit: its STATUS and AFTER_CLOSE (R395, R402). -/
structure UnitResult where
  status : Nat
  late : Bool
  deriving DecidableEq, Repr

/-- A contribution unit of package `src` at its owner, for the buffer of `step` (R402). -/
def addUnit (src t row nrows fmt step : Nat) (data : List Byte) (s : State) : UnitResult × State :=
  let refuse : UnitResult × State := ({ status := 2, late := false }, bump Cnt.rdRefused 0 1 s)
  match table s t with
  | none => refuse
  | some tb =>
    let rows := (List.range nrows).map (fun k => row + k)
    if tb.bind.isNone ∨ !rows.all (fun r => r < tb.rows && tb.defaultHome r == pkgNo s) ∨ !fmtAgrees s t fmt then refuse
    else
      let elems := rows.map (fun r => unitRow fmt data (r - row))
      let bad := elems.any (fun l => l.any nonfinite32)
      if bad && !s.fab.rdCfg.nonfiniteAdd then
        ({ status := 1, late := false }, raise Ev.rdNonfinite (srcOf 11 t) [] (bump Cnt.rdNonfinite 0 1 s))
      else
        let b := rdBuf tb step
        let late := rows.any (rowClosed b)
        let b' := (rows.zip elems).foldl (fun b e => addRow (activeMembers s) src s.now b e.1 e.2) b
        let s := setTable t { tb with bufs := mapSet tb.bufs step b' } s
        let s := bump Cnt.rdContribIn 0 1 s
        let s := if bad then bump Cnt.rdNonfiniteAdd 0 1 s else s
        ({ status := 0, late := late }, if late then bump Cnt.rdLateAdd 0 1 s else s)

/-- The rows of a collective's range that this package homes. -/
def homedRows (s : State) (tb : Table) (d : List Byte) : List Nat :=
  ((List.range (cdCount d)).map (fun k => cdFirst d + k)).filter (fun r => tb.defaultHome r == pkgNo s)

/-- The shard partial of a range (R406): sum and NONFINITE. -/
def shardPartial (b : RdBuf) (rows : List Nat) : W64 × Bool :=
  rows.foldl (fun acc r =>
    let x := rdRow b r
    if x.c = 0 then acc
    else x.sums.foldl (fun (a : W64 × Bool) v =>
      let w := val32 (div32 v (nat32 x.c))
      if isFin w then (add64 a.1 (round64 (mulVal w w)), a.2) else (a.1, true)) acc) (0, false)

/-- A REDUCE_SCATTER whose homed rows have all closed forms its shard partial; with every packet acknowledged it completes
(R404, R406). -/
def checkColl (s : State) (c : Coll) : State :=
  if cdKind c.desc ≠ 1 ∨ !c.started then s
  else
    match table s (cdTable c.desc) with
    | none => if c.unacked = [] then endColl c s else s
    | some tb =>
      let rows := homedRows s tb c.desc
      let b := rdBuf tb c.step
      if !rows.all (rowClosed b) then s
      else
        let s := if c.partialDone ∨ rows = [] then s
          else
            let p := shardPartial b rows
            let s := updColl c.no (fun x => { x with partialDone := true }) s
            if cdFuse c.desc then { s with fab := { s.fab with gnParts := s.fab.gnParts ++ [p] } } else s
        if c.unacked = [] then endColl c s else s

/-- Every REDUCE_SCATTER of the package is looked at again, oldest first. -/
def checkColls (s : State) : State := s.fab.colls.foldl checkColl s

-- Sending (R401).

/-- Rows in a unit: 4 in FP32, 8 in BF16 or FP16 (R401). -/
def unitRows (fmt : Nat) : Nat := if fmt = 13 then 4 else 8

/-- The rows from `r` to `last` cut into units of consecutive rows with one owner, at most `k` each: first row, count,
owner. -/
def cutUnits (tb : Table) (k : Nat) : Nat → Nat → Nat → List (Nat × Nat × Nat)
  | 0, _, _ => []
  | fuel + 1, r, last =>
    if last < r then []
    else
      let o := tb.defaultHome r
      let n := ((List.range k).takeWhile (fun i => r + i ≤ last && tb.defaultHome (r + i) == o)).length
      (r, Nat.max n 1, o) :: cutUnits tb k fuel (r + Nat.max n 1) last

/-- A contribution packet: it waits for its RD_ACK whether or not it could be routed (R392, R404); one to a package that is
no member is never sent (R398). -/
def sendContrib (c : Coll) (u : Nat × Nat × Nat) (data : List Byte) (s : State) : State :=
  if !isMember s u.2.2 then s
  else
  let g := freshTag s
  let s := g.2
  let h := mkHdr s u.2.2 g.1
  let s := (sendPacket (.rdContrib h u.1 (cdTable c.desc) u.2.1 (cdFmt c.desc) data) s).1
  let s := addPend { tag := g.1, dst := u.2.2, step := s.step, time := s.now, kind := .contrib c.no } s
  bump Cnt.rdContribOut 0 1 (updColl c.no (fun x => { x with unacked := x.unacked ++ [g.1] }) s)

/-- The gradient bytes of a unit of logical core `lc`'s task: zero where its access to them is bad (R349). -/
def gradRead (lc a n : Nat) (s : State) : List Byte × State :=
  if accessOk s (.core lc .vector) false a n then
    let r := homeRead false a n s
    (r.1, r.2.2)
  else (zeros n, badAccessOf lc s)

/-- One unit of a started task: added here, or sent to its owner (R401). -/
def sendUnit (c : Coll) (s : State) (u : Nat × Nat × Nat) : State :=
  let e := 256 * elemBytes (cdFmt c.desc)
  let r := gradRead c.task.lc (cdGrad c.desc + (u.1 - cdFirst c.desc) * e) (u.2.1 * e) s
  let s := r.2
  if u.2.2 = pkgNo s then (addUnit (pkgNo s) (cdTable c.desc) u.1 u.2.1 (cdFmt c.desc) c.step r.1 s).2
  else sendContrib c u r.1 s

/-- SITTING_OUT of this package (R70). -/
def sittingOut (s : State) : Bool :=
  match s.job with
  | some j => j.sittingOut
  | none => false

/-- REDUCE_SCATTER: the oldest such task of die `d`'s link engine runs (R400, R401); a package that sits out, or has
forfeited the step, sends nothing (R401, R465); it runs once its reads can be made (R28, R371). -/
def reduceScatterS (d : Nat) (s : State) : State :=
  match s.fab.colls.find? (fun c => c.die == d && cdKind c.desc != 2 && !c.started) with
  | none => s
  | some c =>
    if sittingOut s ∨ s.chk.forfeited then s
    else if !rsDescOk s c.desc then endColl c (badDesc s)
    else
      match table s (cdTable c.desc) with
      | none => s
      | some tb =>
        let s := updColl c.no (fun x => { x with started := true }) s
        let us := cutUnits tb (unitRows (cdFmt c.desc)) (cdCount c.desc) (cdFirst c.desc)
          (cdFirst c.desc + cdCount c.desc - 1)
        checkColls (us.foldl (sendUnit c) s)

def execReduceScatter (d : Nat) (s : State) : Result := onUnit (d < nDies s) (whenOpen d (reduceScatterS d) s)

/-- RD_CONTRIB at an owner: the unit is added or refused, and acknowledged (R402). -/
def recvContrib (h : Hdr) (row t nrows fmt : Nat) (data : List Byte) (s : State) : State :=
  let r := addUnit h.src t row nrows fmt h.step data s
  checkColls (sendPlain (.rdAck (replyHdr r.2 h) row t r.1.status r.1.late) r.2)

/-- A contribution is acknowledged, or counts as acknowledged (R404). -/
def ackContrib (tag : Nat) (s : State) : State :=
  let f : Coll → Coll := fun c => { c with unacked := c.unacked.filter (fun x => x != tag) }
  let s := dropPend tag s
  checkColls { s with fab := { s.fab with colls := s.fab.colls.map f } }

/-- RD_ACK at the sender. -/
def recvRdAck (h : Hdr) (s : State) : State :=
  match findPend s h.tag with
  | some p => match p.kind with
    | .contrib _ => ackContrib h.tag s
    | _ => s
  | none => s

/-- RD_ACK_TIMEOUT: ACK_TIMEOUT_US without an RD_ACK (R404). -/
def rdAckTimeoutS (tag : Nat) (s : State) : State :=
  match findPend s tag with
  | some p => match p.kind with
    | .contrib _ =>
      let s := reachTime (p.time + s.fab.rdCfg.ackUs * 1000) s
      ackContrib tag (raise Ev.rdAckTimeout (srcOf 13 p.dst) [] (bump Cnt.rdAckTimeout 0 1 s))
    | _ => s
  | none => s

def execRdAckTimeout (tag : Nat) (s : State) : Result := .next (rdAckTimeoutS tag s)

/-- The largest SHARD_LEAD_NS of the step's tasks for a table (R403). -/
def shardLead (s : State) (t : Nat) : Nat :=
  (s.fab.colls.filter (fun c => cdKind c.desc == 1 && cdTable c.desc == t)).foldl
    (fun m c => Nat.max m (cdShardLead c.desc)) 0

/-- SHARD_CLOSE_TIME: every row of the table's shard closes (R403). -/
def shardCloseS (t : Nat) (s : State) : State :=
  match table s t, s.job with
  | some tb, some j =>
    if tb.bind.isNone then s
    else
      let s := reachTime (j.nominal - j.lead - shardLead s t) s
      let b := rdBuf tb s.step
      checkColls (setTable t { tb with bufs := mapSet tb.bufs s.step { b with closedAll := true } } s)
  | _, _ => s

def execShardCloseTime (t : Nat) (s : State) : Result := .next (shardCloseS t s)

-- The commit (R405).

/-- One row of a buffer is applied (R405). -/
def rdCommitRow (t n : Nat) (tb : Table) (s : State) (e : Nat × RdRow) : State :=
  if e.2.c = 0 then s
  else
    match rowAddr s tb e.1 with
    | none => s
    | some a =>
      let c := nat32 e.2.c
      let sum := e.2.sums.map (fun x => mul32 (div32 x c) tb.clip)
      let before := ctrGet s Cnt.embUpdRow 0
      let s := updateRow t e.1 n a sum tb s
      let members := match s.job with
        | some j => j.members.length
        | none => 0
      if ctrGet s Cnt.embUpdRow 0 ≠ before ∧ e.2.c < members then bump Cnt.rdRenormRow 0 1 s else s

/-- The buffers of step `n` at the departure that ends it: a left-behind home discards its own (R405). -/
def rdCommit (n : Nat) (left : List Nat) (s : State) : State :=
  (mapKeys s.pool.tables).foldl (fun s t =>
    match table s t with
    | none => s
    | some tb =>
      if tb.bind.isNone then s
      else
        let b := rdBuf tb n
        let s := if left.contains (pkgNo s) then s else b.rows.foldl (rdCommitRow t n tb) s
        match table s t with
        | some tb => setTable t { tb with bufs := tb.bufs.filter (fun e => n < e.1), clip := 0x3F800000 } s
        | none => s) s

-- Commands (R416, R417).

/-- CMD_RD_CONFIG: from the next job start. -/
def rdConfig (p : List Byte) (s : State) : State × Completion :=
  let us := field p 16 16
  if field p 1 15 ≠ 0 ∨ field p 32 32 ≠ 0 ∨ us < 10 ∨ 10000 < us then (s, failWith St.badParam 0)
  else
    let cfg : RdCfg := { nonfiniteAdd := flag p 0, ackUs := us }
    ({ s with fab := { s.fab with rdCfgNext := cfg } }, okWith [])

def execCmdRdConfig (src : CmdSrc) (s : State) : Result := .next (performNow 0x0C03 src rdConfig s)

/-- A region for one reduce buffer (R399). -/
def bufferAsk (n : Nat) : RegionAsk :=
  { size := n, spread := true, die := 0, pooled := false, progR := false, progW := false, pfEn := false, hint := 0,
    table := none, device := true }

/-- Two reduce buffers of LOCAL_ROWS x 1,056 bytes; none where the package homes no row (R399). -/
def rdAlloc (n : Nat) (s : State) : Option (List Nat × State) :=
  if n = 0 then some ([], s)
  else
    match createRegion (bufferAsk n) s with
    | none => none
    | some (a, _, s) =>
      match createRegion (bufferAsk n) s with
      | none => none
      | some (b, _, s) => some ([a, b], s)

/-- The number of tables bound. -/
def boundTables (s : State) : Nat := countIf (fun e => e.2.bind.isSome) s.pool.tables

/-- The binding of a table is removed (R399). -/
def unbind (t : Nat) (s : State) : State :=
  match table s t with
  | none => s
  | some tb =>
    let s := tb.rdRegions.foldl (fun s id => destroyRegion id s) s
    setTable t { tb with bind := none, rdRegions := [], bufs := [], clip := 0x3F800000 } s

/-- CMD_RD_BIND. -/
def rdBind (p : List Byte) (s : State) : State × Completion :=
  let t := field p 0 8
  match table s t with
  | none => (s, failWith St.badParam 1)
  | some tb =>
    if field p 10 54 ≠ 0 ∨ tb.width ≠ 256 ∨ tb.place ≠ 1 ∨ tb.migEnable then (s, failWith St.badParam 1)
    else if flag p 9 then (unbind t s, okWith [])
    else if tb.bind.isSome ∨ 64 ≤ boundTables s then (s, failWith St.inUse 2)
    else
      match rdAlloc (localRows tb.payload tb.homes (pkgNo s) * 1056) s with
      | none => (s, failWith St.noSpace 3)
      | some (ids, s) =>
        let tb := { tb with bind := some (flag p 8), rdRegions := ids, bufs := [], clip := 0x3F800000 }
        (setTable t tb s, okWith [])

def execCmdRdBind (src : CmdSrc) (s : State) : Result := .next (performNow 0x0C04 src rdBind s)

/-- The entry of a peer (R417). -/
def digestEntry (peer : Nat) (d : Digest) : List Byte :=
  pack 32 [(0, 12, peer), (32, 32, d.sentCnt), (64, 32, d.recvCnt), (128, 64, d.sentSum), (192, 64, d.recvSum)]

/-- CMD_RD_DIGEST_READ. -/
def rdDigestRead (p : List Byte) (s : State) : Completion :=
  let step := field p 0 64
  let first := field p 64 12
  let n := field p 80 16
  if field p 76 4 ≠ 0 ∨ n = 0 ∨ 4096 < n ∨ !digestKept s step then failWith St.badParam 0
  else
    okWith ((List.range n).flatMap (fun k =>
      match if first + k < 4096 then mapGet s.fab.digests (step * 4096 + (first + k)) else none with
      | some d => if d.sentCnt = 0 ∧ d.recvCnt = 0 then [] else digestEntry (first + k) d
      | none => []))

def execCmdRdDigestRead (src : CmdSrc) (s : State) : Result := .next (performQuery 0x0C05 src rdDigestRead s)

end Sys2Proof.Machine
end

