-- ==== Sys2Proof/Machine/Signals.lean ====
section
/-! DEFINITION. Signal lines, waiting on them and their commands (R323 to R346). -/

namespace Sys2Proof.Machine

/-- A line that nothing has configured (R323: UNUSED). -/
def freshLine : SigLine :=
  { cfg := zeros 40, next := none, contrib := 0, counts := [], gen := 0, value := false, sent := false, children := [] }

/-- Line `l`. -/
def sigLine (s : State) (l : Nat) : SigLine := mapGetD s.sig l freshLine

def setLine (l : Nat) (g : SigLine) (s : State) : State := { s with sig := mapSet s.sig l g }

-- Fields of R326.

def sgMode (b : List Byte) : Nat := field b 8 2
def sgJob (b : List Byte) : Bool := flag b 10
def sgClass (b : List Byte) : Nat := field b 11 2
def sgInit (b : List Byte) : Bool := flag b 13
/-- E_c. -/
def sgExpect (b : List Byte) (c : Nat) : Nat := field b (64 + 4 * c) 4

/-- The logical cores of the device that participate in a line, as a bitmap of contributions INIT (R332). -/
def initContrib (b : List Byte) : Nat :=
  if sgInit b then bitmap ((List.range 64).map (fun c => sgExpect b c != 0)) else 0

/-- A line at a departure: G and every count 0, contributions INIT (R329, R332, R337). What this package and its children
reported stands until the next change is reported (R338). -/
def resetLine (g : SigLine) : SigLine := { g with contrib := initContrib g.cfg, counts := [], gen := 0 }

/-- Every line is reset (R337). -/
def resetLines (s : State) : State := { s with sig := mapVals (fun _ g => resetLine g) s.sig }

/-- A line whose configuration takes effect: nothing has been reported, which counts as INIT, the AND of every package's
contributions then (R338, assumption log 36). -/
def startLine (cfg : List Byte) (g : SigLine) : SigLine :=
  resetLine { g with cfg := cfg, sent := sgInit cfg, children := [] }

/-- The configurations set take effect (R326). -/
def adoptLines (s : State) : State :=
  { s with sig := mapVals (fun _ g => startLine (g.next.getD g.cfg) g) s.sig }

-- Values (R324, R329, R340).

/-- The contribution of logical core `c` to a line. -/
def contribution (g : SigLine) (c : Nat) : Bool :=
  let e := sgExpect g.cfg c
  if e = 0 then true
  else if sgMode g.cfg = 2 then e ≤ mapGetD g.counts c 0 else g.contrib.testBit c

/-- SITTING_OUT of TT_STATUS. -/
def sittingNow (s : State) : Bool :=
  match s.job with
  | some j => j.sittingOut
  | none => false

/-- The package value of a line (R324); a package that sits out contributes 1 to STEP lines of job scope (R340). -/
def pkgLineValue (s : State) (g : SigLine) : Bool :=
  (sittingNow s && sgJob g.cfg && sgClass g.cfg == 0) || (List.range (nLc s)).all (contribution g)

/-- The parent of member `p` in the tree of R56: the first hop of its route to the master (R393). -/
def treeParent (s : State) (master p : Nat) : Option Nat :=
  match (List.range 4).find? (fun i => coordOf p i != coordOf master i) with
  | none => none
  | some i =>
    (chooseWay s p i (coordOf master i)).bind (fun w => (nextCoord s i (coordOf p i) w).map (withCoord p i))

/-- The children of this package in the tree. -/
def treeChildren (s : State) (j : Job) : List Nat :=
  j.members.filter (fun p => p != j.master && treeParent s j.master p == some (pkgNo s))

/-- The AND of this package's value of a line and of what its children last reported (R338). -/
def subtreeValue (s : State) (j : Job) (g : SigLine) : Bool :=
  pkgLineValue s g && (treeChildren s j).all (fun c => mapGetD g.children c (sgInit g.cfg))

-- Contexts that wait (R331 to R334).

/-- Whether a line meets a value (R331, R332). -/
def lineMeets (g : SigLine) (value : Nat) : Bool :=
  if sgMode g.cfg = 2 then (g.gen + 65536 - value % 65536) % 65536 < 32768 else bit g.value == value

/-- SIG_LAST (R342). -/
def packLast (status line value : Nat) : Nat := packNat [(0, 2, status), (8, 5, line), (16, 16, value)]

/-- VALUE of SIG_LAST for a line: G, or the line's value (R342). -/
def lastValue (g : SigLine) : Nat := if sgMode g.cfg = 2 then g.gen else bit g.value

/-- A wait of a context ends with a status (R333). -/
def endWait (lc x status : Nat) (s : State) : State :=
  match (ctx s lc x).wait with
  | .sig line _ _ _ =>
    let s := closeWait lc x s
    setCtx lc x { ctx s lc x with wait := .none, sigLast := packLast status line (lastValue (sigLine s line)) } s
  | _ => s

/-- The wait of a context is met. -/
def waitMet (s : State) (lc x : Nat) : Bool :=
  match (ctx s lc x).wait with
  | .sig line value _ _ => lineMeets (sigLine s line) value
  | _ => false

/-- The waits of one core are judged: those met end with status 0, empty the core's non-pooled prefetch lines (R366) and
restart a stopped core (R333, R334). A core that a fence has stopped keeps its waits until the abandon (R325, R471). -/
def judgeCore (lc : Nat) (s : State) : State :=
  let met := (List.range 4).filter (waitMet s lc)
  if met = [] ∨ underCopy s lc then s
  else
    let stopped := coreStopped s lc
    let s := met.foldl (fun s x => endWait lc x 0 s) s
    let s := emptyNonPooled lc s
    if stopped then bump Cnt.sigWake lc 1 s else s

/-- The waits of every core are judged. -/
def judgeWaits (s : State) : State := (List.range (nLc s)).foldl (fun s lc => judgeCore lc s) s

-- Generations and messages (R329, R338).

/-- A generation of a BARRIER line completes: G rises, every count falls by its expected count (R329). The fall of the
AND is reported with the next registration, and what children reported stands until they report again (R338). -/
def completeGen (l : Nat) (s : State) : State :=
  let g := sigLine s l
  let counts := mapVals (fun c a => a - sgExpect g.cfg c) g.counts
  let g' := { g with
    gen := (g.gen + 1) % 65536
    counts := counts }
  bump Cnt.sigGen l 1 (setLine l g' s)

/-- A line message is sent (R338). -/
def sendSig (dst : Nat) (f : Hdr → Instr) (s : State) : State :=
  bump Cnt.sigMsg 0 1 (sendPlain (f (mkHdr s dst 0)) s)

/-- A broadcast goes on down the tree. -/
def broadcastSig (l value : Nat) (s : State) : State :=
  match s.job with
  | none => s
  | some j => (treeChildren s j).foldl (fun s c => sendSig c (fun h => .sigDown h l value) s) s

/-- The value of a job-scope line that this package forms as root takes effect here and goes down the tree. -/
def rootValue (l : Nat) (v : Bool) (s : State) : State :=
  let g := sigLine s l
  if sgMode g.cfg = 2 then
    let s := setLine l { g with value := v } s
    if v then
      let s := completeGen l s
      broadcastSig l (sigLine s l).gen s
    else s
  else if g.value = v then s
  else broadcastSig l (bit v) (setLine l { g with value := v } s)

/-- A job-scope line after its package value or a child's report may have changed (R338). -/
def combineLine (l : Nat) (s : State) : State :=
  match s.job with
  | none => s
  | some j =>
    let g := sigLine s l
    let v := subtreeValue s j g
    if j.master = pkgNo s then rootValue l v s
    else if v = g.sent then s
    else
      let s := setLine l { g with sent := v } s
      match treeParent s j.master (pkgNo s) with
      | some p => sendSig p (fun h => .sigUp h l v) s
      | none => s

/-- D0 registers the package value of one line (R324); in one of MODE 0 no core participates, and each contributes 1. -/
def registerLine (l : Nat) (s : State) : State :=
  let g := sigLine s l
  if sgJob g.cfg then combineLine l s
  else
    let v := pkgLineValue s g
    let s := setLine l { g with value := v } s
    if v ∧ sgMode g.cfg = 2 then completeGen l s else s

/-- SIG_VALUE_REGISTER (R324): every line, then the waits. -/
def registerLines (s : State) : State := judgeWaits ((List.range 31).foldl (fun s l => registerLine l s) s)

def execSigValueRegister (s : State) : Result := .next (registerLines s)

/-- SIG_UP from a child, once its epoch and step are judged. -/
def sigUpTake (h : Hdr) (l : Nat) (v : Bool) (s : State) : State :=
  let g := sigLine s l
  if sgMode g.cfg ≠ 0 ∧ sgJob g.cfg then
    judgeWaits (combineLine l (setLine l { g with children := mapSet g.children h.src v } s))
  else s

/-- SIG_DOWN from the parent, once its epoch and step are judged: a generation completes, or a value is applied, and it
goes on down the tree. -/
def sigDownTake (l value : Nat) (s : State) : State :=
  let g := sigLine s l
  if sgMode g.cfg = 0 ∨ !sgJob g.cfg then s
  else
    let s := if sgMode g.cfg = 2 then completeGen l s else setLine l { g with value := value == 1 } s
    judgeWaits (broadcastSig l value s)

-- Instructions (R327, R328).

/-- The signal instructions, as R328 tells them apart. -/
inductive SigOp where
  | set
  | clr
  | arrive
  | wait (value : Nat)
  | read
  deriving DecidableEq, Repr

/-- A write to a line, or an arrival at it. -/
def sigWrites : SigOp → Bool
  | .set => true
  | .clr => true
  | .arrive => true
  | _ => false

/-- The lowest reason of R328 that an instruction meets; 0 for none. -/
def sigReason (s : State) (lc l cls : Nat) (op : SigOp) : Nat :=
  let c := (sigLine s l).cfg
  let wrongKind := match op with
    | .set => sgMode c == 2
    | .clr => sgMode c == 2
    | .arrive => sgMode c == 1
    | _ => false
  let badValue := match op with
    | .wait v => sgMode c == 1 && 1 < v
    | _ => false
  if 31 ≤ l ∨ sgMode c = 0 then 1
  else if wrongKind then 2
  else if sigWrites op ∧ sgExpect c lc = 0 then 3
  else if cls ≠ sgClass c then 4
  else if badValue then 5 else 0

/-- A bad signal instruction (R328). VALUE of SIG_LAST is unspecified. -/
def sigBadInstr (lc x l reason : Nat) (s : State) : State :=
  let v := freeVal 65536 s
  let s := v.2
  let s := setCtx lc x { ctx s lc x with sigLast := packLast 2 l v.1, sigBad := reason } s
  raise Ev.sigBadInstr (srcOf 4 (4 * lc + x)) (pack 8 [(0, 8, reason), (8, 8, l), (16, 16, 4 * lc + x)])
    (bump Cnt.sigBadInstr lc 1 s)

/-- A signal instruction of a running task: bad, or `f`. -/
def sigInstr (lc x l : Nat) (op : SigOp) (f : State → State) (s : State) : State :=
  let c := ctx s lc x
  match c.task, c.wait with
  | some t, .none =>
    if c.suspending then s
    else
      let r := sigReason s lc l t.cls op
      if r = 0 then f s else sigBadInstr lc x l r s
  | _, _ => s

/-- A signal instruction has completed: SIG_LAST holds its value, and so does its destination register, if it has one
(R327). -/
def sigDone (lc x l value : Nat) (dest : Option Nat) (s : State) : State :=
  let c := ctx s lc x
  let regs := match dest with
    | some r => mapSet c.regs r value
    | none => c.regs
  setCtx lc x { c with
    sigLast := packLast 0 l value
    regs := regs } s

/-- The contribution of a core to a FLAG line becomes `v`. -/
def sigPut (lc x l : Nat) (v : Bool) (s : State) : State :=
  let g := sigLine s l
  let rest := if g.contrib.testBit lc then g.contrib - 2 ^ lc else g.contrib
  sigDone lc x l (lastValue g) none (setLine l { g with contrib := if v then rest + 2 ^ lc else rest } s)

/-- SIG_SET (R327). -/
def execSigSet (lc x line : Nat) (s : State) : Result :=
  onUnit (lc < nLc s && x < 4) (sigInstr lc x line .set (sigPut lc x line true) s)

/-- SIG_CLR (R327). -/
def execSigClr (lc x line : Nat) (s : State) : Result :=
  onUnit (lc < nLc s && x < 4) (sigInstr lc x line .clr (sigPut lc x line false) s)

/-- An arrival is registered, with its target generation (R330). -/
def registerArrival (lc x l dest : Nat) (s : State) : State :=
  let g := sigLine s l
  let a := mapGetD g.counts lc 0
  let target := (g.gen + 1 + a / sgExpect g.cfg lc) % 65536
  sigDone lc x l target (some dest) (setLine l { g with counts := mapSet g.counts lc (a + 1) } s)

/-- An arrival may be registered: fewer than twice the expected count stand (R330). -/
def arrivalRoom (s : State) (lc l : Nat) : Bool :=
  let g := sigLine s l
  mapGetD g.counts lc 0 < 2 * sgExpect g.cfg lc

/-- An arrival is registered, or stalls (R330). -/
def arriveS (lc x l dest : Nat) (s : State) : State :=
  if arrivalRoom s lc l then registerArrival lc x l dest s
  else bump Cnt.sigArriveStall lc 1 (setCtx lc x { ctx s lc x with wait := .arrive l dest s.now } s)

/-- SIG_ARRIVE (R330). -/
def execSigArrive (lc x line : Nat) (s : State) (dest : Nat := 0) : Result :=
  onUnit (lc < nLc s && x < 4) (sigInstr lc x line .arrive (arriveS lc x line dest) s)

/-- A stalled arrival is retried after a generation has completed (R330). -/
def arriveRetryS (lc x : Nat) (s : State) : State :=
  match (ctx s lc x).wait with
  | .arrive l dest _ =>
    if arrivalRoom s lc l && !underCopy s lc then
      let stopped := coreStopped s lc
      let s := closeWait lc x s
      let s := registerArrival lc x l dest (setCtx lc x { ctx s lc x with wait := .none } s)
      if stopped then bump Cnt.sigWake lc 1 s else s
    else s
  | _ => s

/-- SIG_ARRIVE_RETRY. -/
def execSigArriveRetry (lc x : Nat) (s : State) : Result := onUnit (lc < nLc s && x < 4) (arriveRetryS lc x s)

/-- A wait begins; one whose condition holds ends at once (R333, R366). -/
def waitS (lc x l value timeout : Nat) (s : State) : State :=
  let s := bump Cnt.sigWait lc 1 s
  let g := sigLine s l
  if lineMeets g value then emptyNonPooled lc (sigDone lc x l (lastValue g) none s)
  else
    let deadline := if timeout = 0 then none else some (s.now + timeout)
    setCtx lc x { ctx s lc x with wait := .sig l value s.now deadline } s

/-- SIG_WAIT (R327, R333). -/
def execSigWait (lc x line value timeout : Nat) (s : State) : Result :=
  onUnit (lc < nLc s && x < 4) (sigInstr lc x line (.wait value) (waitS lc x line value timeout) s)

/-- A line is read: its value or generation goes to the destination register (R327, R331, R332). -/
def readS (lc x l dest : Nat) (s : State) : State := sigDone lc x l (lastValue (sigLine s l)) (some dest) s

/-- SIG_READ (R327). -/
def execSigRead (lc x line : Nat) (s : State) (dest : Nat := 0) : Result :=
  onUnit (lc < nLc s && x < 4) (sigInstr lc x line .read (readS lc x line dest) s)

/-- A context waits at SIG_WAIT. -/
def inSigWait (c : Ctx) : Bool :=
  match c.wait with
  | .sig _ _ _ _ => true
  | _ => false

/-- SIG_WAIT_TIMEOUT: the deadline of a wait (R333). D0 registers the lines in that TCLK cycle too, and a satisfying change
of that cycle counts as arrived (R78, R324). -/
def waitTimeoutS (lc x : Nat) (s : State) : State :=
  match (ctx s lc x).wait with
  | .sig _ _ _ (some t) =>
    if underCopy s lc then s
    else
      let s := registerLines (reachTime t s)
      if !inSigWait (ctx s lc x) then s
      else
        let stopped := coreStopped s lc
        let s := endWait lc x 1 s
        let s := raise Ev.sigTimeout (srcOf 4 (4 * lc + x)) [] (bump Cnt.sigWaitTimeout lc 1 s)
        if stopped then bump Cnt.sigWake lc 1 s else s
  | _ => s

def execSigWaitTimeout (lc x : Nat) (s : State) : Result := onUnit (lc < nLc s && x < 4) (waitTimeoutS lc x s)

-- Registers and commands (R341, R343).

/-- SIG_LINES: the value of each line as last received (R341). -/
def sigLines (s : State) : Nat := bitmap ((List.range 31).map (fun l => (sigLine s l).value))

/-- The checks of R326: the first that fails. -/
def sigConfigBad (s : State) (p : List Byte) : Nat :=
  let expects := (List.range 64).map (sgExpect p)
  let mode := sgMode p
  if 30 < field p 0 5 ∨ field p 5 3 ≠ 0 ∨ field p 14 50 ≠ 0 then 1
  else if 2 < mode ∨ 2 < sgClass p ∨ (sgJob p ∧ 1 < sgClass p) then 2
  else if (mode = 0 ∧ field p 8 312 ≠ 0) ∨ (mode = 1 ∧ expects.any (fun e => 1 < e)) ∨ (mode = 2 ∧ sgInit p) then 3
  else if (expects.drop (nLc s)).any (fun e => e != 0) ∨ (mode ≠ 0 ∧ expects.all (fun e => e == 0)) then 4
  else 0

/-- CMD_SIG_CONFIG (R326). -/
def sigConfig (p : List Byte) (s : State) : State × Completion :=
  let bad := sigConfigBad s p
  if bad ≠ 0 then (s, failWith St.badParam bad)
  else
    let l := field p 0 5
    let s := setLine l { sigLine s l with next := some (slice p 0 40) } s
    (raise Ev.sigConfig 0 (pay64 l) s, okWith [])

def execCmdSigConfig (src : CmdSrc) (s : State) : Result := .next (performNow 0x0A00 src sigConfig s)

/-- The configuration of a line as set: line and R326 fields. -/
def lineConfig (l : Nat) (g : SigLine) : List Byte := splice (g.next.getD g.cfg) 0 [BitVec.ofNat 8 l]

/-- The response of CMD_SIG_INFO: for each line its configuration in the layout of R326, then its value, G and counts, in
a layout that the spec does not give (R343). -/
def sigInfoBytes (s : State) : List Byte :=
  (List.range 31).flatMap (fun l =>
    let g := sigLine s l
    lineConfig l g ++ Sys2Proof.Config.sigInfoState g.value g.gen ((List.range (nLc s)).map (fun c => mapGetD g.counts c 0)))

/-- CMD_SIG_INFO. -/
def execCmdSigInfo (src : CmdSrc) (s : State) : Result :=
  .next (performQuery 0x0A01 src (fun _ s => okWith (sigInfoBytes s)) s)

end Sys2Proof.Machine
end

