-- ==== Sys2Proof/Machine/Vector.lean ====
section
/-! DEFINITION. The vector engine (R304 to R322): issuing, checking and retiring ELEM, PERM and MOVE. -/

namespace Sys2Proof.Machine

-- Descriptor fields (R306, R307).

def veOp (d : List Byte) : Nat := field d 0 4
def veOp1 (d : List Byte) : Nat := field d 4 4
def veAct (d : List Byte) : Nat := field d 8 4
def veRedop (d : List Byte) : Nat := field d 12 3
def veGn (d : List Byte) : Bool := flag d 15
def veVl (d : List Byte) : Nat := field d 64 15
def vePl (d : List Byte) : Nat := field d 80 15
def veRows (d : List Byte) : Nat := field d 96 21
def veKeys (d : List Byte) : Nat := field d 128 64

/-- The output length n of a row (R306). -/
def veLen (d : List Byte) : Nat := if veOp d = 1 then vePl d else veVl d

/-- Stream i: A, B, C, D, OUT, RED. -/
def veStream (d : List Byte) (i : Nat) : List Byte := slice d (64 + 32 * i) 32

def stKind (b : List Byte) : Nat := field b 0 3
def stFmt (b : List Byte) : Nat := field b 3 5
def stHalf (b : List Byte) : Bool := flag b 8
def stBcast (b : List Byte) : Nat := field b 9 2
def stSparse (b : List Byte) : Bool := flag b 11
def stTid (b : List Byte) : Nat := field b 12 12
def stStride (b : List Byte) : Nat := field b 32 32
def stAddr (b : List Byte) : Nat := field b 64 64
def stScale (b : List Byte) : Nat := field b 128 64
def stMeta (b : List Byte) : Nat := field b 192 64

/-- The formats of the six streams as they resolve at issue (R308). -/
def veFmts (s : State) (d : List Byte) : List Nat :=
  (List.range 6).map (fun i =>
    let b := veStream d i
    if i = 4 then outFmt s (stFmt b) (stTid b) else inFmt s (stFmt b) (stTid b) (stHalf b))

-- Checks (R308, R309).

/-- Ranges and reserved fields of the header. -/
def veHeaderOk (d : List Byte) : Bool :=
  let keyed := stKind (veStream d 0) == 3 || stKind (veStream d 4) == 3
  veOp d ≤ 2 && veOp1 d ≤ 6 && veAct d ≤ 11 && veRedop d ≤ 5 && field d 16 16 == 0
    && onlyIf (veAct d == 2) (field d 32 32) && 1 ≤ veVl d && veVl d ≤ 16384 && field d 79 1 == 0
    && (if veOp d = 1 then 1 ≤ vePl d && vePl d ≤ 16384 else vePl d == 0) && field d 95 1 == 0 && 1 ≤ veRows d
    && veRows d ≤ 1048576 && field d 117 11 == 0 && onlyIf keyed (veKeys d) && field d 256 256 == 0

/-- Ranges and reserved fields of stream `i`, of resolved format `fmt`. -/
def veStreamOk (d : List Byte) (i fmt : Nat) : Bool :=
  let b := veStream d i
  let k := stKind b
  k ≤ 3 && field b 24 8 == 0 && (!stSparse b || i == 0) && stStride b % 32 == 0 && onlyIf (stBcast b == 0) (stStride b)
    && (k == 1 || if k = 2 then stAddr b < 4096 else stAddr b == 0) && onlyIf (k == 1 && isBlock fmt) (stScale b)
    && onlyIf (stSparse b) (stMeta b)

/-- The kinds that a slot accepts (R308). -/
def veKindOk (d : List Byte) (i : Nat) : Bool :=
  let b := veStream d i
  let k := stKind b
  let bc := stBcast b
  let move := veOp d = 2
  match i with
  | 0 => if move then k == 1 else 1 ≤ k
  | 1 => if move then k == 0 else if veOp d = 1 then k == 1 && bc ≤ 1 else k == 0 || (k == 1 && veOp1 d != 0)
  | 2 => if move then k == 0 else k ≤ 1
  | 3 => if move then k == 0 else k == 0 || (k == 1 && (bc == 1 || bc == 3))
  | 4 => if move then k == 1 else k == 0 || k == 1 || k == 3
  | _ => if move then k == 0 else k == 0 || (k == 1 && bc == 0)

/-- The formats that a slot accepts (R308). -/
def veFmtOk (d : List Byte) (i fmt : Nat) : Bool :=
  let b := veStream d i
  let k := stKind b
  if k = 0 then true
  else if veOp d = 2 then field b 3 21 == 0
  else
    let only13 := 2 ≤ k || i == 3 || i == 5 || (i == 1 && veOp d == 1)
    (if only13 then stFmt b == 13 else fmt ≤ 13) && (!isBlock fmt || stBcast b ≤ 1)
      && (!stSparse b || (k == 1 && stBcast b == 0 && fmt ≤ 10))

/-- Bytes of one row of a stream, of `n` elements (R243, R195). -/
def stRowBytes (b : List Byte) (fmt n : Nat) : Nat :=
  if stSparse b then sparseRowBytes fmt n else fmtRowBytes fmt n

/-- Elements in a row of stream `i`. -/
def veRowLen (d : List Byte) (i : Nat) : Nat := if i = 0 then veVl d else veLen d

/-- Bytes of one row of stream `i` where its rows are a stride apart. -/
def veRowBytes (d : List Byte) (i fmt : Nat) : Nat :=
  let b := veStream d i
  if veOp d = 2 then 32 * veVl d
  else if i = 5 then (if veRedop d = 5 then 8 else 4)
  else if i = 3 then 8 * veLen d
  else stRowBytes b fmt (veRowLen d i)

/-- A stride is large enough (reason 4): RED needs 32 (R314). -/
def veStrideOk (d : List Byte) (i fmt : Nat) : Bool :=
  let b := veStream d i
  if stKind b ≠ 1 ∨ stBcast b ≠ 0 then true
  else if i = 5 then 32 ≤ stStride b
  else veRowBytes d i fmt ≤ stStride b

/-- Bytes that a stream of KIND 1 takes from its address. -/
def stBytes (d : List Byte) (i fmt : Nat) : Nat :=
  let b := veStream d i
  let pair := if i = 3 then 2 else 1
  match stBcast b with
  | 0 => areaBytes (veRows d) (stStride b) (veRowBytes d i fmt)
  | 1 => veRowBytes d i fmt
  | 2 => cdiv (veRows d * fmtBits fmt) 8
  | _ => cdiv (pair * fmtBits fmt) 8

/-- The areas of a stream: its elements, scale array and metadata (R307). -/
def stAreas (d : List Byte) (i fmt : Nat) : List (Nat × Nat) :=
  let b := veStream d i
  let rows := if stBcast b = 0 then veRows d else 1
  if stKind b ≠ 1 then []
  else [(stAddr b, stBytes d i fmt)]
    ++ (if veOp d ≠ 2 ∧ isBlock fmt then [(stScale b, rows * cdiv (veRowLen d i) 32 * scaleBytes fmt)] else [])
    ++ (if stSparse b then [(stMeta b, areaBytes (veRows d) (stStride b / 2) (metaRowBytes (veVl d)))] else [])

/-- The area of the keys. -/
def keyArea (d : List Byte) : List (Nat × Nat) :=
  if stKind (veStream d 0) = 3 ∨ stKind (veStream d 4) = 3 then [(veKeys d, 8 * veRows d)] else []

/-- An area lies in the scratchpad reservation of the job's graph or in the operand cache (reason 5). -/
def inReserved (s : State) (lc a n : Nat) : Bool :=
  inOpCache a n ||
    (match s.job, jobGraph s with
      | some j, some g =>
        let lo := reserveBase s j.graph lc
        lo ≤ a && a + n ≤ lo + reserveKib g lc * 1024
      | _, _ => false)

/-- OUT coincides exactly with A in an ELEM (reason 6). -/
def outIsA (d : List Byte) (fmts : List Nat) : Bool :=
  let a := veStream d 0
  let o := veStream d 4
  veOp d == 0 && stKind a == 1 && stKind o == 1 && stAddr a == stAddr o && stStride a == stStride o
    && fmts.getD 0 0 == fmts.getD 4 0 && stBcast a == 0 && stBcast o == 0

/-- OUT or RED overlaps an input area or each other (reason 6). -/
def veOverlap (d : List Byte) (fmts : List Nat) : Bool :=
  let ar : Nat → List (Nat × Nat) := fun i => stAreas d i (fmts.getD i 0)
  let rest := ar 1 ++ ar 2 ++ ar 3 ++ keyArea d
  let meets : List (Nat × Nat) → List (Nat × Nat) → Bool := fun x y => x.any (fun p => y.any (areasMeet p))
  meets (ar 4) (if outIsA d fmts then rest else ar 0 ++ rest) || meets (ar 5) (ar 0 ++ rest) || meets (ar 4) (ar 5)

/-- Reason 3 of R309. -/
def veKindBad (s : State) (lc : Nat) (d : List Byte) : Bool :=
  let a := veStream d 0
  let o := veStream d 4
  let w := (hacc s lc).width
  (stKind a == 2 && (128 < veVl d || 2048 < stAddr a / 2 + veRows d))
    || ((stKind a == 3 || stKind o == 3) && w != 0 && veVl d != w) || (stKind a == 3 && stKind o == 3)

/-- The lowest reason of R309 that an instruction meets; 0 for none. -/
def veReason (s : State) (lc : Nat) (d : List Byte) (fmts : List Nat) : Nat :=
  let all : (Nat → Nat → Bool) → Bool := fun p => (List.range 6).all (fun i => p i (fmts.getD i 0))
  let areas := (List.range 6).flatMap (fun i => stAreas d i (fmts.getD i 0)) ++ keyArea d
  if !veHeaderOk d ∨ !all (veStreamOk d) then 1
  else if !all (fun i _ => veKindOk d i) ∨ !all (veFmtOk d) then 2
  else if veKindBad s lc d then 3
  else if !all (veStrideOk d) then 4
  else if areas.any (fun a => !inReserved s lc a.1 a.2) then 5
  else if veOverlap d fmts then 6
  else 0

-- Issuing (R304).

/-- Rows of one tile (R456). -/
def veTileRows (d : List Byte) : Nat := Nat.max 1 (16384 / veLen d)

/-- Tiles of an instruction: none for MOVE and for one with a stream of KIND 3. -/
def veTiles (d : List Byte) : Nat :=
  if veOp d = 2 ∨ stKind (veStream d 0) = 3 ∨ stKind (veStream d 4) = 3 then 0 else cdiv (veRows d) (veTileRows d)

/-- The instruction at the head of the queue starts. -/
def veStart (lc : Nat) (s : State) : State :=
  match (engine s (engKey lc 2)).queue with
  | i :: _ => runTiles (engKey lc 2) (veTiles i.desc) i.faults s
  | [] => s

/-- A bad instruction (R309). -/
def veBad' (lc x reason : Nat) (s : State) : State :=
  let s := setCtx lc x { ctx s lc x with veBad := reason } s
  raise Ev.veBadInstr (srcOf 4 (4 * lc + x)) (pack 8 [(0, 8, reason), (8, 16, 4 * lc + x)])
    (bump Cnt.veBadInstr lc 1 (bump Cnt.veInstr lc 1 s))

/-- The row's instruction is the descriptor's: OP `op`, or a reserved OP. -/
def opMatches (op : Nat) (d : List Byte) : Bool := veOp d == op || 2 < veOp d

/-- A VOP that its context may issue: held, bad, or queued with a copy of its descriptor (R104, R304, R309). -/
def vopIssue (op lc x desc : Nat) (held : Instr) (faults : List TileFault) (t : Task) (s : State) : State :=
  let e := engKey lc 2
  let g := engine s e
  let other : Bool := match g.holder with
    | some y => y != x
    | none => false
  if other ∨ 8 ≤ g.queue.length then setCtx lc x { ctx s lc x with wait := .issue held } s
  else
    let r := coreRead lc desc 256 s
    let d := r.1
    let fmts := veFmts s d
    let reason := veReason s lc d fmts
    if !opMatches op d then s
    else
      let s := consumePoison lc r.2.1 r.2.2
      if reason ≠ 0 then veBad' lc x reason s
      else
        let i : EngInst := { no := s.eng.nextNo, x := x, task := t, desc := d, fmts := fmts, fexp := 0,
                             mark := s.mem.written.length, accMark := s.eng.accWritten.length,
                             faults := faults }
        let s := takeNumber (setEngine e { g with queue := g.queue ++ [i], holder := some x } s)
        if g.queue = [] then veStart lc s else s

/-- A VOP (R304). -/
def vopS (op lc x desc : Nat) (held : Instr) (faults : List TileFault) (s : State) : State :=
  let c := ctx s lc x
  match c.task with
  | some t => if mayIssue c then vopIssue op lc x desc held faults t s else s
  | none => s

/-- ELEM (R311). -/
def execElem (lc x desc : Nat) (faults : List TileFault) (s : State) : Result :=
  onUnit (lc < nLc s && x < 4) (vopS 0 lc x desc (.elem lc x desc faults) faults s)

/-- PERM (R312). -/
def execPerm (lc x desc : Nat) (faults : List TileFault) (s : State) : Result :=
  onUnit (lc < nLc s && x < 4) (vopS 1 lc x desc (.perm lc x desc faults) faults s)

/-- MOVE (R315). -/
def execMove (lc x desc : Nat) (s : State) : Result :=
  onUnit (lc < nLc s && x < 4) (vopS 2 lc x desc (.move lc x desc) [] s)

-- Reading streams (R310).

/-- The words of a stream, by the rows it has. -/
structure Stream where
  bcast : Nat
  rows : List (List W32)
  deriving DecidableEq, Repr

/-- Element (r, i) of a stream (R310). -/
def streamAt (t : Stream) (r i : Nat) : W32 :=
  match t.bcast with
  | 0 => cellOf t.rows 0 r i
  | 1 => cellOf t.rows 0 0 i
  | 2 => cellOf t.rows 0 0 r
  | _ => cellOf t.rows 0 0 0

/-- Rows of a memory stream and their length. -/
def streamShape (d : List Byte) (i : Nat) : Nat × Nat :=
  let n := if i = 3 then 2 * veLen d else veRowLen d i
  match stBcast (veStream d i) with
  | 0 => (veRows d, n)
  | 1 => (1, n)
  | 2 => (1, veRows d)
  | _ => (1, if i = 3 then 2 else 1)

/-- A memory stream read (R245, R310). -/
def readMemory (lc i : Nat) (q : EngInst) (s : State) : Stream × State :=
  let b := veStream q.desc i
  let fmt := q.fmts.getD i 0
  let sexp := if isBlock fmt then 0 else tensorExp s (stTid b)
  let sh := streamShape q.desc i
  if stSparse b then
    let r := (List.range sh.1).foldl (fun (acc : List (List W32) × State) k =>
      let x := fetchKept lc (stAddr b + k * stStride b) (stMeta b + k * (stStride b / 2)) (stScale b) fmt sexp k sh.2
        q.mark (lc + 1) acc.2
      (acc.1 ++ [x.1.map (fun v => match v with
        | some v => round32 v
        | none => 0)], x.2)) ([], s)
    ({ bcast := 0, rows := r.1 }, r.2)
  else
    let r := fetchRows lc (stAddr b) (stStride b) (stScale b) fmt sexp sh.1 sh.2 q.mark (lc + 1) s
    ({ bcast := stBcast b, rows := r.1.map (fun row => row.map round32) }, r.2)

/-- A free word for each element of a row. -/
def freeRow (n : Nat) (s : State) : List W32 × State :=
  let r := freeBytes (4 * n) s
  (words32 r.1, r.2)

/-- An instruction of another context than that of `q` writes row `r` of array `e` while `q` stands in its queue: the one
that the array runs, or one that has retired since `q` was issued (R294). -/
def writtenBeside (s : State) (e : Nat) (q : EngInst) (r : Nat) : Bool :=
  let since := s.eng.accWritten.take (s.eng.accWritten.length - q.accMark)
  let runs := (engine s e).queue.head?.toList.map (fun w => (e, mmAccRow w.desc, mmM w.desc, w.x))
  (runs ++ since).any (fun w => w.1 == e && w.2.2.2 != q.x && w.2.1 ≤ r && r < w.2.1 + w.2.2.1)

/-- The first `n` elements of an accumulator row as a stream reads them: x of R287, unspecified beyond the row and where
another context's instruction writes it (R284, R287, R294). -/
def readAccRow (e : Nat) (q : EngInst) (n r : Nat) (s : State) : List W32 × State :=
  let f := freeRow n s
  if writtenBeside s e q r then f
  else if n ≤ 128 then (((accRow (engine s e) r).take n).map (accOut (rowFexp (engine s e) r)), s)
  else (((accRow (engine s e) r).map (accOut (rowFexp (engine s e) r))) ++ f.1.drop 128, f.2)

/-- Accumulator rows read by a stream of KIND 2 (R310). -/
def readAcc (lc : Nat) (q : EngInst) (s : State) : Stream × State :=
  let b := veStream q.desc 0
  let sh := streamShape q.desc 0
  let res := (List.range sh.1).foldl (fun (acc : List (List W32) × State) k =>
    let x := readAccRow (engKey lc (stAddr b % 2)) q sh.2 (stAddr b / 2 + k) acc.2
    (acc.1 ++ [x.1], x.2)) ([], s)
  ({ bcast := stBcast b, rows := res.1 }, res.2)

/-- The keys of the rows (R306). -/
def readKeys (lc : Nat) (q : EngInst) (s : State) : List Nat × State :=
  if keyArea q.desc = [] then ([], s)
  else
    let n := veRows q.desc
    let r := operandRead lc (veKeys q.desc) (8 * n) q.mark (lc + 1) s
    (groupsOf 8 n r.1, r.2)

/-- A stream of KIND 3 in slot A (R310, R316). -/
def readHacc (lc : Nat) (q : EngInst) (keys : List Nat) (s : State) : Stream × State :=
  let sh := streamShape q.desc 0
  let res := (keys.take sh.1).foldl (fun (acc : List (List W32) × State) k =>
    let x := haccRow lc k sh.2 acc.2
    (acc.1 ++ [x.1.map quiet32], x.2)) ([], s)
  ({ bcast := stBcast (veStream q.desc 0), rows := res.1 }, res.2)

/-- An operand that the pass uses and that KIND 0 does not give: unspecified. -/
def readNone (q : EngInst) (i : Nat) (s : State) : Stream × State :=
  let used := i = 1 ∧ veOp1 q.desc ≠ 0
  if used then
    let res := (List.range (veRows q.desc)).foldl (fun (acc : List (List W32) × State) _ =>
      let f := freeRow (veLen q.desc) acc.2
      (acc.1 ++ [f.1], f.2)) ([], s)
    ({ bcast := 0, rows := res.1 }, res.2)
  else ({ bcast := 0, rows := [] }, s)

/-- Stream `i` read. -/
def readStream (lc i : Nat) (q : EngInst) (keys : List Nat) (s : State) : Stream × State :=
  match stKind (veStream q.desc i) with
  | 0 => readNone q i s
  | 1 => readMemory lc i q s
  | 2 => readAcc lc q s
  | _ => readHacc lc q keys s

/-- The indices of a PERM as they stand (R312). -/
def readIndices (lc : Nat) (q : EngInst) (s : State) : List (List Nat) × State :=
  let b := veStream q.desc 1
  let n := vePl q.desc
  let rows := if stBcast b = 0 then veRows q.desc else 1
  (List.range rows).foldl (fun (acc : List (List Nat) × State) r =>
    let x := operandRead lc (stAddr b + r * stStride b) (4 * n) q.mark (lc + 1) acc.2
    (acc.1 ++ [groupsOf 4 n x.1], x.2)) ([], s)

-- The pass (R311).

/-- OP1. -/
def op1Of (op : Nat) (t b : W32) : W32 :=
  match op with
  | 1 => add32 t b
  | 2 => sub32 t b
  | 3 => mul32 t b
  | 4 => max32 t b
  | 5 => min32 t b
  | 6 => div32 t b
  | _ => t

/-- gelu, in the order of R311. -/
def gelu32 (t : W32) : W32 :=
  let cube := mul32 (mul32 (mul32 0x3D372713 t) t) t
  let inner := mul32 0x3F4C422A (add32 t cube)
  mul32 (mul32 0x3F000000 t) (add32 one32 (tanh32 inner))

/-- ACT. -/
def actOf (act : Nat) (alpha t : W32) : W32 :=
  match act with
  | 1 => max32 t 0
  | 2 => if isNan (val32 t) then nan32 else if leVal (.fin false 0 0) (val32 t) then t else mul32 alpha t
  | 3 => gelu32 t
  | 4 => sigmoid32 t
  | 5 => tanh32 t
  | 6 => exp32 t
  | 7 => mul32 t (sigmoid32 t)
  | 8 => sqrt32 t
  | 9 => div32 one32 t
  | 10 => rsqrt32 t
  | 11 => if isNan (val32 t) then nan32 else t &&& 0x7FFFFFFF
  | _ => t

/-- The streams that a pass reads. -/
structure PassIn where
  a : Stream
  b : Stream
  c : Stream
  d : Stream
  idx : List (List Nat)
  deriving DecidableEq, Repr

/-- Scale and bias of element (r, i): pairs of D (R308). -/
def pairAt (t : Stream) (i : Nat) : W32 × W32 :=
  let k := if t.bcast = 1 then 2 * i else 0
  (cellOf t.rows 0 0 k, cellOf t.rows 0 0 (k + 1))

/-- The index of output position (r, i) of a PERM. -/
def indexAt (desc : List Byte) (p : PassIn) (r i : Nat) : Nat :=
  cellOf p.idx 0 (if stBcast (veStream desc 1) = 0 then r else 0) i

/-- The value t of element (r, i) (R311, R312). -/
def passElem (desc : List Byte) (p : PassIn) (r i : Nat) : W32 :=
  let t := if veOp desc = 1 then
      let j := indexAt desc p r i
      if j < veVl desc then streamAt p.a r j else 0
    else streamAt p.a r i
  let b := if veOp desc = 1 then quiet32 (BitVec.ofNat 32 (indexAt desc p r i)) else streamAt p.b r i
  let t := op1Of (veOp1 desc) t b
  let t := if stKind (veStream desc 2) = 0 then t else mul32 t (streamAt p.c r i)
  let t := if stKind (veStream desc 3) = 0 then t
    else
      let e := pairAt p.d i
      add32 (mul32 t e.1) e.2
  actOf (veAct desc) (BitVec.ofNat 32 (field desc 32 32)) t

/-- The values t of every row, with what the standing values of tiles change (R457). -/
def passRows (q : EngInst) (p : PassIn) : List (List W32) :=
  let d := q.desc
  let per := veTileRows d
  (List.range (veRows d)).map (fun r =>
    let row := (List.range (veLen d)).map (passElem d p r)
    (tileOuts q.faults (r / per)).foldl (fun row o => if o.1 = r then row.set o.2.1 o.2.2 else row) row)

-- Reductions (R314, R318).

/-- One level of the lane tree. -/
def laneLevel {α : Type} (f : α → α → α) : List α → List α
  | a :: b :: l => f a b :: laneLevel f l
  | l => l

/-- The lane tree over a group. -/
def laneTree {α : Type} (f : α → α → α) (d : α) : Nat → List α → α
  | 0, l => l.headD d
  | n + 1, l => if l.length ≤ 1 then l.headD d else laneTree f d n (laneLevel f l)

/-- Groups of 1,024, folded in ascending order (R314). -/
def laneReduce {α : Type} (f : α → α → α) (d : α) (l : List α) : α :=
  let groups := (List.range (cdiv l.length 1024)).map (fun g => laneTree f d 11 (chunkOf 1024 g l))
  match groups with
  | [] => d
  | g :: gs => gs.foldl f g

/-- The reductions of a row (R314). -/
def redOf (op : Nat) (l : List W32) : List W32 :=
  let sq := l.map (fun t => mul32 t t)
  match op with
  | 1 => [laneReduce add32 0 l]
  | 2 => [laneReduce add32 0 sq]
  | 3 => [laneReduce max32 0 l]
  | 4 => [laneReduce min32 0 l]
  | 5 => [laneReduce add32 0 l, laneReduce add32 0 sq]
  | _ => []

/-- The square of a value in FP64; +0 for a non-finite one (R318). -/
def sq64 (t : W32) : W64 :=
  let v := val32 t
  if isFin v then round64 (mulVal v v) else 0

/-- The GN total of an instruction (R318). -/
def gnTotal (rows : List (List W32)) : W64 :=
  match rows.map (fun row => laneReduce add64 0 (row.map sq64)) with
  | [] => 0
  | g :: gs => gs.foldl add64 g

/-- VE_GN_SUM of a logical core (R318). -/
def gnSum (s : State) (lc : Nat) : W64 := mapGetD s.eng.gn lc 0

/-- The instruction's GN effect: for a STEP task alone (R318). -/
def addGn (lc : Nat) (q : EngInst) (rows : List (List W32)) (s : State) : State :=
  if !veGn q.desc ∨ q.task.cls ≠ 0 then s
  else
    let bad := sumNat (rows.map (fun row => countIf nonfinite32 row))
    let s := { s with eng := { s.eng with gn := mapSet s.eng.gn lc (add64 (gnSum s lc) (gnTotal rows)) } }
    if bad = 0 then s
    else
      let s := { s with eng := { s.eng with gnBad := setInsert lc s.eng.gnBad } }
      raise Ev.veGnNonfinite (srcOf 3 lc) [] (bump Cnt.veGnNonfinite lc bad s)

/-- VE_GN_SUM and VE_GN_STATUS are cleared (R318). -/
def clearGn (s : State) : State := { s with eng := { s.eng with gn := [], gnBad := [] } }

-- Retiring (R305, R312 to R317).

/-- The rows of t go to OUT (R313, R317). -/
def writeVeOut (lc : Nat) (q : EngInst) (keys : List Nat) (rows : List (List W32)) (s : State) : State :=
  let d := q.desc
  let o := veStream d 4
  let fo := q.fmts.getD 4 0
  let step := taskStep s q.task
  let indexed := (List.range rows.length).zip rows
  match stKind o with
  | 1 => indexed.foldl (fun s e =>
      writeRow (lc + 1) lc (stAddr o + e.1 * stStride o) (stScale o + e.1 * cdiv (veLen d) 32 * scaleBytes fo) fo
        (stTid o) (stHalf o) step (field d 192 32 + e.1 * field d 224 32) e.2 s) s
  | 3 => (keys.zip rows).foldl (fun s e => haccFromVector lc e.1 q.task e.2 s) s
  | _ => s

/-- The reductions of each row go to RED (R314). -/
def writeRed (lc : Nat) (q : EngInst) (rows : List (List W32)) (s : State) : State :=
  let b := veStream q.desc 5
  if stKind b ≠ 1 then s
  else ((List.range rows.length).zip rows).foldl (fun s e =>
    coreWrite (lc + 1) lc (stAddr b + e.1 * stStride b) (bytes32 (redOf (veRedop q.desc) e.2)) s) s

/-- Indices of a PERM that are not below VL (R312). -/
def countOor (lc : Nat) (q : EngInst) (p : PassIn) (s : State) : State :=
  let d := q.desc
  if veOp d ≠ 1 then s
  else
    let n := sumNat ((List.range (veRows d)).map (fun r =>
      countIf (fun i => veVl d ≤ indexAt d p r i) (List.range (vePl d))))
    if n = 0 then s
    else raiseAll Ev.vePermOor (List.replicate n (srcOf 4 (4 * lc + q.x))) (bump Cnt.vePermOor (4 * lc + q.x) n s)

/-- The effect of an ELEM or PERM. -/
def passS (lc : Nat) (q : EngInst) (s : State) : State :=
  let keys := readKeys lc q s
  let a := readStream lc 0 q keys.1 keys.2
  let perm := veOp q.desc = 1
  let idx := if perm then readIndices lc q a.2 else ([], a.2)
  let b := if perm then ({ bcast := 0, rows := [] }, idx.2) else readStream lc 1 q keys.1 idx.2
  let c := readStream lc 2 q keys.1 b.2
  let d := readStream lc 3 q keys.1 c.2
  let p : PassIn := { a := a.1, b := b.1, c := c.1, d := d.1, idx := idx.1 }
  let rows := passRows q p
  let s := countOor lc q p d.2
  let s := writeRed lc q rows (writeVeOut lc q keys.1 rows s)
  addGn lc q rows (bump Cnt.veElem lc (veRows q.desc * veLen q.desc) s)

/-- The effect of a MOVE (R315): marks travel with the sectors (R368). -/
def moveS (lc : Nat) (q : EngInst) (s : State) : State :=
  let a := veStream q.desc 0
  let o := veStream q.desc 4
  let n := 32 * veVl q.desc
  let s := (List.range (veRows q.desc)).foldl (fun s r =>
    let x := coreRead lc (stAddr a + r * stStride a) n s
    let y := smear lc (stAddr a + r * stStride a) q.mark (lc + 1) x.1 x.2.2
    coreCopy (lc + 1) lc (stAddr o + r * stStride o) y.1 x.2.1 y.2) s
  bump Cnt.veElem lc (veRows q.desc * n) s

/-- Contexts that waited for the engine go on: those whose VOPs have all retired, then those with a VOP to issue, in the
order of R104. -/
def wakeVector (lc : Nat) (s : State) : State :=
  let e := engKey lc 2
  let s := (List.range 4).foldl (fun s x =>
    if (ctx s lc x).wait = .vector ∧ !queuedFor s e x then freeWait lc x s else s) s
  (grantOrder s lc).foldl (fun s x =>
    match issueWait (ctx s lc x) with
    | some (.elem _ _ desc f) => vopS 0 lc x desc (.elem lc x desc f) f (freeWait lc x s)
    | some (.perm _ _ desc f) => vopS 1 lc x desc (.perm lc x desc f) f (freeWait lc x s)
    | some (.move _ _ desc) => vopS 2 lc x desc (.move lc x desc) [] (freeWait lc x s)
    | _ => s) s

/-- The instruction waits for an MMA that its context issued before it and that writes accumulator rows it reads (R294). -/
def waitsForMma (s : State) (lc : Nat) (q : EngInst) : Bool :=
  let b := veStream q.desc 0
  stKind b == 2 && (engine s (engKey lc (stAddr b % 2))).queue.any (fun w =>
    w.x == q.x && w.no < q.no
      && areasMeet (mmAccRow w.desc, mmM w.desc) (stAddr b / 2, veRows q.desc))

/-- The instruction at the head of the queue takes effect and retires. -/
def veFinish (lc busy drain wait : Nat) (q : EngInst) (rest : List EngInst) (s : State) : State :=
  let e := engKey lc 2
  let s := if veOp q.desc = 2 then moveS lc q s else passS lc q s
  let g := engine s e
  let s := setEngine e { g with queue := rest, holder := if rest = [] then none else g.holder } s
  let s := bump Cnt.veBusyCclk lc busy (bump Cnt.veDrainCclk lc drain (bump Cnt.veInstr lc 1 s))
  finishEnding lc (wakeVector lc (veStart lc (bump Cnt.chkRetireWaitCclk lc wait s)))

/-- VE_RETIRE: nothing while a sampled tile is not settled (R463). -/
def veRetireS (lc busy drain wait : Nat) (s : State) : State :=
  match (engine s (engKey lc 2)).queue with
  | q :: rest =>
    if tilesSettled s (engKey lc 2) && !waitsForMma s lc q then veFinish lc busy drain wait q rest s else s
  | [] => s

def execVeRetire (lc busy drain wait : Nat) (s : State) : Result := onUnit (lc < nLc s) (veRetireS lc busy drain wait s)

/-- VE_WAIT (R304). -/
def veWaitS (lc x : Nat) (s : State) : State :=
  let c := ctx s lc x
  if mayIssue c ∧ queuedFor s (engKey lc 2) x then setCtx lc x { c with wait := .vector } s else s

def execVeWait (lc x : Nat) (s : State) : Result := onUnit (lc < nLc s && x < 4) (veWaitS lc x s)

/-- VE_QUEUE (R320). -/
def veQueue (s : State) (lc : Nat) : Nat :=
  let g := engine s (engKey lc 2)
  g.queue.length + (match g.holder with
    | some x => 16 * x + 128
    | none => 0)

end Sys2Proof.Machine
end

