-- ==== Sys2Proof/Machine/Norm.lean ====
section
/-! DEFINITION. The global gradient norm (R406 to R409). -/

namespace Sys2Proof.Machine

/-- A GNORM descriptor passes R400. -/
def gnDescOk (d : List Byte) : Bool :=
  cdKind d == 2 && field d 9 7 == 0 && field d 21 11 == 0 && field d 40 24 == 0 && field d 168 24 == 0
    && field d 320 704 == 0 && cdFmt d == 0 && 1000 ≤ cdGnLead d && !nonfinite32 (cdClip d) && !isNeg (val32 (cdClip d))

/-- The package partial (R407): VE_GN_SUM of every logical core, then the shard partials in order. -/
def pkgPartial (s : State) : W64 × Bool :=
  let own := (List.range (nLc s)).foldl (fun a lc => add64 a (gnSum s lc)) 0
  s.fab.gnParts.foldl (fun a p => (add64 a.1 p.1, a.2 || p.2)) (own, s.eng.gnBad != [])

/-- CLIP of R409 for a clip norm, a total and its flag. -/
def clipOf (norm : W32) (total : W64) (bad : Bool) : W32 :=
  let n : Val := val32 norm
  if isZero n ∨ !isFin (val64 total) ∨ bad then one32
  else
    let r := sqrt64 total
    if ltVal n (val64 r) then round32 (val64 (div64 (round64 n) r)) else one32

/-- The GNORM tasks of this package. -/
def gnColls (s : State) : List Coll := s.fab.colls.filter (fun c => cdKind c.desc == 2 && c.started)

/-- CLIP goes to every table bound with CLIP_EN = 1 (R409). -/
def setClip (w : W32) (s : State) : State :=
  { s with pool := { s.pool with tables := mapVals (fun _ (t : Table) =>
      if t.bind = some true then { t with clip := w } else t) s.pool.tables } }

/-- GN_RESULT is applied: CLIP is set and the GNORM tasks complete (R409). -/
def applyGn (total : W64) (bad : Bool) (s : State) : State :=
  match gnColls s with
  | [] => { s with fab := { s.fab with gnResult := some (total, bad) } }
  | c :: l =>
    let norm := cdClip c.desc
    let w := clipOf norm total bad
    let s := setClip w { s with fab := { s.fab with gnApplied := true } }
    let s := if !isZero (val32 norm) ∧ (!isFin (val64 total) ∨ bad) then raise Ev.rdGnNonfinite 0 [] s else s
    let s := if ltVal (val32 w) (val32 one32) then bump Cnt.rdClip 0 1 s else s
    (c :: l).foldl (fun s c => endColl c s) s

/-- GN_RESULT at a package, once its epoch and step are judged: it goes on down the tree, and is applied unless the step's
CLIP is settled (R408, R409). -/
def gnResultTake (total : W64) (count : Nat) (bad : Bool) (s : State) : State :=
  let s := match s.job with
    | none => s
    | some j => (treeChildren s j).foldl (fun s c => sendPlain (.gnResult (mkHdr s c 0) total count bad) s) s
  if s.fab.gnApplied then s else applyGn total bad s

/-- The root closes its collection (R408): partials in ascending package number. -/
def closeGn (s : State) : State :=
  match s.job with
  | none => s
  | some j =>
    if j.master ≠ pkgNo s ∨ s.fab.gnClosed ∨ s.fab.gnRoot = [] then s
    else
      let r := s.fab.gnRoot.foldl (fun (a : W64 × Bool) e => (add64 a.1 e.2.1, a.2 || e.2.2)) (0, false)
      let missing := countIf (fun p => (mapGet s.fab.gnRoot p).isNone) j.members
      let s := { s with fab := { s.fab with gnClosed := true } }
      let s := if missing = 0 then s else bump Cnt.rdGnExcluded 0 missing s
      gnResultTake r.1 s.fab.gnRoot.length r.2 s

/-- A partial at the root, once its epoch and step are judged (R408). -/
def gnPartialTake (p : Nat) (x : W64) (bad : Bool) (s : State) : State :=
  match s.job with
  | none => s
  | some j =>
    if j.master ≠ pkgNo s ∨ s.fab.gnClosed then s
    else
      let s := { s with fab := { s.fab with gnRoot := mapSet s.fab.gnRoot p (x, bad) } }
      if j.members.all (fun m => j.sitting.contains m || (mapGet s.fab.gnRoot m).isSome) then closeGn s else s

/-- The cut-off finds GNORM tasks without a result: CLIP is 1.0 and they complete (R409). -/
def missGn (s : State) : State :=
  match gnColls s with
  | [] => s
  | l =>
    if s.fab.gnApplied then s
    else
      let s := setClip one32 { s with fab := { s.fab with gnApplied := true } }
      l.foldl (fun s c => endColl c s) (raise Ev.rdGnMiss 0 [] (bump Cnt.rdGnMiss 0 1 s))

/-- GNORM: the oldest such task of die `d`'s link engine runs (R407). -/
def gnormS (d : Nat) (s : State) : State :=
  match s.fab.colls.find? (fun c => c.die == d && cdKind c.desc == 2 && !c.started), s.job with
  | some c, some j =>
    if !gnDescOk c.desc then endColl c (badDesc s)
    else if s.fab.gnApplied then endColl c s
    else
      let s := updColl c.no (fun x => { x with started := true }) s
      let p := pkgPartial s
      let s := if j.master = pkgNo s then gnPartialTake (pkgNo s) p.1 p.2 s
        else sendPlain (.gnPartial (mkHdr s j.master 0) p.1 p.2) s
      match s.fab.gnResult with
      | some r => if s.fab.gnApplied then s else applyGn r.1 r.2 s
      | none => if j.nominal ≤ s.now + j.lead then missGn s else s
  | _, _ => s

def execGnorm (d : Nat) (s : State) : Result := onUnit (d < nDies s) (gnormS d s)

/-- The largest GN_LEAD_NS of the root's own GNORM tasks; 0 where it runs none. -/
def gnLead (s : State) : Nat :=
  (s.fab.colls.filter (fun c => cdKind c.desc == 2)).foldl (fun m c => Nat.max m (cdGnLead c.desc)) 0

/-- GN_ROOT_CLOSE: the cut-off minus GN_LEAD_NS (R408). -/
def gnRootCloseS (s : State) : State :=
  match s.job with
  | some j => closeGn (reachTime (j.nominal - j.lead - gnLead s) s)
  | none => s

def execGnRootClose (s : State) : Result := .next (gnRootCloseS s)

/-- What the norm of a step leaves is cleared at its departure. -/
def clearNorm (s : State) : State :=
  clearGn { s with fab := { s.fab with
    gnParts := []
    gnRoot := []
    gnClosed := false
    gnApplied := false
    gnResult := none } }

end Sys2Proof.Machine
end

