-- ==== Sys2Proof/Machine/Abandon.lean ====
section
/-! DEFINITION. Abandoning a step (R116, R117, R284, R303, R404) and QUARANTINED (R482). -/

namespace Sys2Proof.Machine

/-- Words that are unspecified (assumption log 2). -/
def freeWords : Nat → State → List W32 × State
  | 0, s => ([], s)
  | n + 1, s =>
    let x := freeVal (2 ^ 32) s
    let r := freeWords n x.2
    (BitVec.ofNat 32 x.1 :: r.1, r.2)

/-- One accumulator row and its FEXP become unspecified (R284). -/
def scrambleAcc (e r : Nat) (s : State) : State :=
  let w := freeWords 128 s
  let x := freeVal 4096 w.2
  let g := engine x.2 e
  setEngine e { g with acc := mapSet g.acc r w.1, fexp := mapSet g.fexp r ((x.1 : Int) - 2048) } x.2

/-- The accumulator rows that instructions of an array, issued and not yet retired, write. -/
def queuedRows (e : Nat) (g : Engine) : List (Nat × Nat × Nat × Nat) :=
  if e % 3 = 2 then [] else g.queue.map (fun i => (e, mmAccRow i.desc, mmM i.desc, i.x))

/-- An instruction of engine `e` retires without results: it counts as retired (R116, R299, R321). -/
def retireVoid (e : Nat) (i : EngInst) (s : State) : State :=
  let lc := e / 3
  if e % 3 = 2 then
    let n := if veOp i.desc = 2 then veRows i.desc * (32 * veVl i.desc) else veRows i.desc * veLen i.desc
    bump Cnt.veElem lc n (bump Cnt.veInstr lc 1 s)
  else countRetired (2 * lc + e % 3) i s

/-- Every issued instruction retires without results. -/
def retireAll (s : State) : State :=
  s.eng.units.foldl (fun s u => u.2.queue.foldl (fun s i => retireVoid u.1 i s) s) s

/-- Issued instructions retire without results, capsules go but those with retests to run (R467), and the accumulator
rows of the step are unspecified. -/
def abandonEngines (s : State) : State :=
  let rows := s.eng.accWritten ++ s.eng.units.flatMap (fun u => queuedRows u.1 u.2)
  let s := retireAll s
  let s := { s with
    eng := { s.eng with
      units := mapVals (fun _ g => { g with queue := [], holder := none }) s.eng.units
      accWritten := [] }
    chk := { s.chk with capsules := s.chk.capsules.filter (fun c => c.retests != []) } }
  rows.foldl (fun s r => (List.range r.2.2.1).foldl (fun s k => scrambleAcc r.1 (r.2.1 + k) s) s) s

/-- Requests that an abandoned step waits for no longer: reads and contributions (R66, R404), and accesses that a retraining
channel or coupling holds (R70). -/
def abandonPend (s : State) : State :=
  let gone : Pend → Bool := fun p => match p.kind with
    | .demand _ _ _ | .gather _ _ _ | .contrib _ => true
    | _ => false
  dropWaiting { s with fab := { s.fab with pend := s.fab.pend.filter (fun p => !gone p), colls := [] } }

/-- The running step is abandoned (R116): dispatchers, engines and collectives stop, and what the step wrote is
unspecified. -/
def abandonStep (s : State) : State := clearGn (abandonEngines (scrambleWritten (abandonPend (abandonDispatch s))))

/-- The package enters QUARANTINED (R482): it has been replaced. -/
def enterQuarantine (s : State) : State :=
  if s.dev = .running ∨ s.dev = .quiesced then
    raise Ev.fncQuarantine 0 []
      (answerWaiting 0x0200 (plain St.badState) (setDevHw .quarantined (flushAllStaging (abandonStep s))))
  else s

end Sys2Proof.Machine
end

