-- ==== Sys2Proof/Machine/Receive.lean ====
section
/-! DEFINITION. Receiving a packet (R397): its checks, routing onward, epoch, digest, step, and what each pool and
collective packet does. -/

namespace Sys2Proof.Machine

-- Step 1 (R394, R395).

/-- A payload of whole sectors, 1 to 128. -/
def sectorsOk (d : List Byte) : Bool := d.length % 32 == 0 && 32 ≤ d.length && d.length ≤ 4096

/-- An address that a pool packet may carry. -/
def poolAddrOk (a : Nat) : Bool := a % 32 == 0 && a < 2 ^ 42

/-- LENGTH and fields of a packet are ones that its type allows (R394, R395). -/
def packetOk (i : Instr) : Bool :=
  match i with
  | .poolRead _ a n => poolAddrOk a && 1 ≤ n && n ≤ 128
  | .poolData _ _ _ d => sectorsOk d
  | .poolStore _ a d => poolAddrOk a && sectorsOk d
  | .poolAccum _ a d => poolAddrOk a && sectorsOk d
  | .rowUpdate _ _ _ part parts d => d.length % 4 == 0 && 4 ≤ d.length && d.length ≤ 4096 && (part < parts || parts == 0)
  | .rdContrib _ _ _ n fmt d =>
    (fmt == 13 || fmt == 0 || fmt == 1) && 1 ≤ n && n ≤ 8 && d.length == n * 256 * elemBytes fmt && d.length ≤ 4128
  | _ => true

/-- A request, which an error answers (R392, R395, R397). -/
def isRequest : Instr → Bool
  | .poolRead _ _ _ | .poolStore _ _ _ | .poolAccum _ _ _ | .rowUpdate _ _ _ _ _ _ | .slotRequest _ _ _
  | .rowCopy _ _ _ _ _ | .directoryChange _ _ _ _ _ | .forwardedContribution _ _ _ _ _ _ => true
  | _ => false

-- Step 2 (R391, R392).

/-- A packet for another package goes on from die `o`; a request that cannot is answered with reason 5. -/
def passOn (o : Nat) (i : Instr) (h : Hdr) (s : State) : State :=
  let r := routeFrom o i s
  if !r.2 && isRequest i then sendPlain (.poolErr (replyHdr r.1 h) 5 (epochOf r.1)) r.1 else r.1

/-- A packet reaches the package (R397, steps 1 and 2; R482), and its port's receive buffer is free again. -/
def receive (i : Instr) (f : Hdr → State → State) (s : State) : State :=
  match hdrOf i with
  | none => s
  | some h =>
    if !diesRun s then s
    else returnCredits i h (
      if s.dev = .quarantined then bump Cnt.fncQuarDrop 0 1 s
      else if !packetOk i then badPacketS s
      else if h.dst ≠ pkgNo s then passOn (arrivalDie s h) i h s
      else f h s)

-- Replies (R171 to R174, R223, R398).

/-- A hot row's reply is kept at the die that asked, while its replica area has room (R173). -/
def keepReplica (d p a : Nat) (data : List Byte) (marks : List Bool) (s : State) : State :=
  if (findReplica s d p a data.length).isSome then s
  else if replicaUsed s d + data.length ≤ s.pool.gthCfg.replicaMib * 2 ^ 20 then
    let r : Replica := { die := d, pkg := p, addr := a, data := data, poison := marks }
    { s with pool := { s.pool with replicas := s.pool.replicas ++ [r] } }
  else bump Cnt.gthReplicaFull d 1 s

/-- Data for request `p` has come from its home, or from this package itself (R172, R173). -/
def takeData (p : Pend) (hot : Bool) (marks : List Bool) (d : List Byte) (s : State) : State :=
  match p.kind with
  | .demand r g n =>
    let lo := gLocal g / 32 * 32
    let s := if hot then keepReplica (requesterDie s r) (gPkg g) lo d marks s else s
    landRead r g (slice d (gLocal g - lo) n) marks (dropPend p.tag s)
  | .gather no u off =>
    match gatherOf s no with
    | none => dropPend p.tag s
    | some (_, g) =>
      let w := gatherRowAt s g (g.uniq.getD u 0)
      let s := if hot then keepReplica (mapGetD g.remote u 0) w.1 (w.2 + off) d marks s else s
      closeFunc no (landGatherRow no u off (d.take (g.rowBytes - off)) marks (dropPend p.tag s))
  | _ => s

/-- POOL_DATA at the requester. -/
def recvPoolData (h : Hdr) (hot : Bool) (poison : Nat) (d : List Byte) (s : State) : State :=
  match findPend s h.tag with
  | none => s
  | some p => takeData p hot ((List.range (d.length / 32)).map (fun k => poison.testBit k)) d s

/-- A read of another package fails at its requester (R174, R398): a bad address is a bad access of a demand read. -/
def failRequest (p : Pend) (reason : Nat) (s : State) : State :=
  match p.kind with
  | .demand r _ _ =>
    if reason = 2 then badRead r (replyOf s r).base (replyOf s r).data.length (dropReads r s) else failRead r s
  | .gather no u _ => closeFunc no (dropGatherRow no u false (dropPend p.tag s))
  | .write _ | .rowUpdate _ _ => refuseWrite p.tag reason s
  | .fwd src tag => errTo (senderHdr s src tag) reason (dropPend p.tag s)
  | .slotReq t row => refuseMig t row (dropPend p.tag s)
  | .mig _ _ => dropPend p.tag s
  | .contrib _ => s

/-- POOL_ERR at the requester: reason 1 with a newer epoch says that this package has been replaced (R397, R482). -/
def recvPoolErr (h : Hdr) (reason epoch : Nat) (s : State) : State :=
  if reason = 1 ∧ epochOf s < epoch then enterQuarantine s
  else
    match findPend s h.tag with
    | none => s
    | some p => failRequest p reason s

/-- A packet of this package or another, from die `o`, is routed again. A request that cannot be is answered with reason 5:
its sender here takes it so, another package's gets POOL_ERR (R392). -/
def routeAgain (o : Nat) (i : Instr) (s : State) : State :=
  match hdrOf i with
  | none => s
  | some h =>
    if h.src ≠ pkgNo s then passOn o i h s
    else
      let r := routeFrom o i s
      if r.2 || !isRequest i then r.1
      else
        match findPend r.1 h.tag with
        | some p => failRequest p 5 r.1
        | none => r.1

/-- Packets that waited for a coupling on their way to their port go on, in order (R28, R393). -/
def releaseCrossing (s : State) : State :=
  s.fab.crossing.foldl (fun s e => routeAgain e.1 e.2 s) { s with fab := { s.fab with crossing := [] } }

/-- POOL_ACK at the sender (R49); the acknowledgement of a relayed or forwarded contribution goes on to its sender (R222,
R223). -/
def recvPoolAck (h : Hdr) (status : Nat) (s : State) : State :=
  match findPend s h.tag with
  | none => s
  | some p =>
    match p.kind with
    | .fwd src tag => ackTo (senderHdr s src tag) status (dropPend p.tag s)
    | .write _ | .rowUpdate _ _ | .mig _ _ => dropPend p.tag s
    | _ => s

/-- The table whose storage at package `pkg` a requester's address names: its number, it, and how far into that storage. -/
def remoteTableAt (s : State) (pkg a : Nat) : Option (Nat × Table × Nat) :=
  if pkg = pkgNo s then (tableHere s a).map (fun x => (x.2.1, x.2.2, a - x.1))
  else
    s.pool.tables.findSome? (fun e =>
      let b := Sys2Proof.Config.tableBase pkg e.1
      if a < b then none else (rowAtIndex e.2 pkg ((a - b) / rowStride e.2.payload)).map (fun _ => (e.1, e.2, a - b)))

/-- A demand read's request is sent again as one request for each row that it touches, to the same home: a forwarding reply
names the home of one row (assumption log 61). -/
def splitRead (p : Pend) (r : Requester) (g : Nat) (l : List (Nat × Nat)) (s : State) : State :=
  let q := replyOf s r
  let s := setReply r { q with pending := q.pending + l.length - 1 } (dropPend p.tag s)
  l.foldl (fun s e =>
    if (replyOf s r).pending = 0 then s
    else
      let x := sendReq p.dst (.demand r (gPkg g * 2 ^ 42 + e.1) e.2)
        (fun h => .poolRead h (e.1 / 32 * 32) (sectorCount e.1 e.2)) s
      if x.2 then x.1 else remoteReadFail r q.base q.data.length x.1) s

/-- A read of `n` sectors from `off` in a row is sent again to the home that a forwarding reply names (R223). -/
def resendRead (p : Pend) (t row off n home slot : Nat) (tb : Table) (s : State) : State :=
  let layout := if slot = noSlot then tb.firstHome row else home
  if home = pkgNo s then
    match storeAddr s tb layout (storeIndex tb layout row slot) with
    | some a =>
      match poolReadAt home (a + off) (n * 32) s with
      | (.data b marks hot, s) => takeData p hot marks b s
      | (_, s) => failRequest p 2 s
    | none => failRequest p 2 s
  else if !isMember s home then failRequest p 4 s
  else
    let up : Pend → Pend := fun x => if x.tag = p.tag then { x with dst := home } else x
    let s := { s with fab := { s.fab with pend := s.fab.pend.map up } }
    let r := sendPacket (.poolRead (mkHdr s home p.tag) (remoteRowAddr tb t layout home row slot + off) n) s
    if r.2 then r.1 else failRequest p 5 r.1

/-- A demand read of `n` bytes at `g` has got a forwarding reply. -/
def resendDemand (p : Pend) (r : Requester) (g n home slot : Nat) (s : State) : State :=
  match remoteTableAt s (gPkg g) (gLocal g) with
  | none => failRequest p 5 s
  | some (t, tb, o) =>
    let k := rowStride tb.payload
    let l := rowParts tb (gLocal g - o) (gLocal g) n
    if 1 < l.length then splitRead p r g l s
    else
      match rowAtIndex tb (gPkg g) (o / k) with
      | some row => resendRead p t row (o % k / 32 * 32) (sectorCount (gLocal g) n) home slot tb s
      | none => failRequest p 5 s

/-- POOL_FWD at the requester: the read is sent again to the home that the reply names (R223). -/
def recvPoolFwd (h : Hdr) (home slot : Nat) (s : State) : State :=
  match findPend s h.tag with
  | none => s
  | some p =>
    match p.kind with
    | .demand r g n => resendDemand p r g n home slot s
    | .gather no u off =>
      match gatherOf s no with
      | none => failRequest p 5 s
      | some (_, g) =>
        match g.table.bind (fun t => (table s t).map (fun tb => (t, tb))) with
        | some (t, tb) =>
          resendRead p t (g.uniq.getD u 0) off (sectorCount 0 (Nat.min 4096 (g.rowBytes - off))) home slot tb s
        | none => failRequest p 3 s
    | _ => failRequest p 5 s

-- Step 6: what each packet does.



/-- A packet that reads or stages at this home, all its checks passed: it waits for a channel or coupling under retrain
(R28, R371). -/
def poolAccess : Instr → Bool
  | .poolRead _ _ _ | .poolStore _ _ _ | .poolAccum _ _ _ | .rowUpdate _ _ _ _ _ _ | .slotGrant _ _ _ _
  | .rowCopy _ _ _ _ _ | .forwardedContribution _ _ _ _ _ _ => true
  | _ => false

/-- What a packet other than a timetable message does. -/
def perform (i : Instr) (s : State) : State :=
  match i with
  | .poolRead h a n => servePoolRead h a n s
  | .poolData h hot poison d => recvPoolData h hot poison d s
  | .poolStore h a d => stageWrite i h a false d [] s
  | .poolAccum h a d => stageWrite i h a true d [] s
  | .rowUpdate h row t part parts d => recvRowUpdate h row t part parts d s
  | .poolAck h st => recvPoolAck h st s
  | .poolFwd h home slot => recvPoolFwd h home slot s
  | .poolErr h reason epoch => recvPoolErr h reason epoch s
  | .slotRequest h row t => recvSlotRequest h row t s
  | .slotGrant h row t slot => recvSlotGrant h row t slot s
  | .slotRefusal h row t => recvSlotRefusal h row t s
  | .rowCopy h row t image poison => recvRowCopy i h row t image poison s
  | .directoryChange h row t home slot => recvDirChange h row t home slot s
  | .forwardedContribution h row t origin seq d => recvForwarded i h row t origin seq d s
  | .rdContrib h row t n fmt d => recvContrib h row t n fmt d s
  | .rdAck h _ _ _ _ => recvRdAck h s
  | .sigUp h l v => sigUpTake h l v s
  | .sigDown _ l v => sigDownTake l v s
  | .gnPartial h x bad => gnPartialTake h.src x bad s
  | .gnResult _ x n bad => gnResultTake x n bad s
  | _ => s

/-- A packet other than a timetable message, all its checks passed. -/
def handle (i : Instr) (s : State) : State :=
  match hdrOf i with
  | some h => if poolAccess i then orHold (arrivalDie s h) i (perform i) s else perform i s
  | none => s

-- Step 5 (R66, R339).

/-- How a packet's step number is judged: a pooled read, what is staged or added, a line message, a norm message, or a reply,
which only the last row of R66 concerns. -/
inductive StepKind where
  | read
  | staged
  | line
  | norm
  | reply
  deriving DecidableEq, Repr

/-- See StepKind. -/
def stepKind : Instr → StepKind
  | .poolRead _ _ _ => .read
  | .poolStore _ _ _ | .poolAccum _ _ _ | .rowUpdate _ _ _ _ _ _ | .rdContrib _ _ _ _ _ _ | .slotRequest _ _ _
  | .rowCopy _ _ _ _ _ | .directoryChange _ _ _ _ _ | .forwardedContribution _ _ _ _ _ _ => .staged
  | .sigUp _ _ _ | .sigDown _ _ _ => .line
  | .gnPartial _ _ _ | .gnResult _ _ _ _ => .norm
  | _ => .reply

/-- A packet is held until the package fires its own departure. -/
def holdStep (i : Instr) (s : State) : State := { s with fab := { s.fab with heldStep := s.fab.heldStep ++ [i] } }

/-- A packet whose step number is judged (R66, R339). -/
def judgeStep (i : Instr) (h : Hdr) (s : State) : State :=
  let n := stepOf s
  if n + 2 ≤ h.step then raise Ev.ttStepSkew 0 [] (bump Cnt.ttStaleStepDrop 0 1 s)
  else
    match stepKind i with
    | .reply => handle i s
    | .staged => if h.step < n then bump Cnt.ttStaleStepDrop 0 1 s else handle i s
    | .read =>
      if h.step < n then bump Cnt.ttStaleStepDrop 0 1 s else if h.step = n then handle i s else holdStep i s
    | .line =>
      if h.step < n then bump Cnt.sigStaleStepDrop 0 1 s else if h.step = n then handle i s else holdStep i s
    | .norm => if h.step < n then s else if h.step = n then handle i s else holdStep i s

-- Steps 3 and 4 (R397).

/-- Epochs are judged while RUNNING or QUIESCED. -/
def epochJudged (s : State) : Bool := s.dev == .running || s.dev == .quiesced

/-- A pool or collective packet that arrived at `t`: its epoch, then digest and step. -/
def judgeEpoch (t : Nat) (i : Instr) (h : Hdr) (s : State) : State :=
  if epochJudged s && h.epoch < epochOf s then
    let s := bump Cnt.lnkStaleEpochDrop 0 1 s
    if isRequest i then sendPlain (.poolErr (replyHdr s h) 1 (epochOf s)) s else s
  else if epochJudged s && epochOf s < h.epoch then
    { s with fab := { s.fab with heldEpoch := s.fab.heldEpoch ++ [(t, i)] } }
  else judgeStep i h (digest false h.src i s)

/-- A pool or collective packet is received. -/
def takePacket (i : Instr) (s : State) : State := receive i (fun h s => judgeEpoch s.now i h s) s

/-- A line message is received (R339). -/
def takeLine (i : Instr) (s : State) : State :=
  receive i (fun h s =>
    if h.epoch < epochOf s then bump Cnt.sigStaleEpochDrop 0 1 s else judgeStep i h s) s

/-- A message of the global norm is received: one of an older epoch or step is dropped (R76). -/
def takeNorm (i : Instr) (s : State) : State :=
  receive i (fun h s => if h.epoch < epochOf s then s else judgeStep i h s) s

/-- Packets held for a newer epoch are judged again. -/
def releaseEpoch (s : State) : State :=
  let l := s.fab.heldEpoch
  l.foldl (fun s e => match hdrOf e.2 with
    | some h => judgeEpoch e.1 e.2 h s
    | none => s) { s with fab := { s.fab with heldEpoch := [] } }

/-- A packet whose step number is judged again. -/
def rejudge (s : State) (i : Instr) : State :=
  match hdrOf i with
  | some h => judgeStep i h s
  | none => s

/-- Accesses and packets that waited for a channel or a coupling are tried again, in order (R28, R371). -/
def retryWaiting (s : State) : State :=
  s.mem.waiting.foldl (fun s i => if poolAccess i then rejudge s i else runAccess i s)
    { s with mem := { s.mem with waiting := [] } }

/-- Packets held for this departure are served (R66), and writes that flow control held back are staged (R65). -/
def releaseStep (s : State) : State :=
  let l := s.pool.full ++ s.fab.heldStep
  l.foldl rejudge { s with
    pool := { s.pool with full := [] }
    fab := { s.fab with heldStep := [] } }

/-- FUTURE_EPOCH_TIMEOUT: 1 ms without the epoch; the packet is dropped, and the package has been replaced (R397, R482). -/
def futureEpochS (tag : Nat) (s : State) : State :=
  let mine : Nat × Instr → Bool := fun e => match hdrOf e.2 with
    | some h => h.tag == tag
    | none => false
  match takeFirst mine s.fab.heldEpoch with
  | none => s
  | some (e, rest) =>
    let s := reachTime (e.1 + 1000000) { s with fab := { s.fab with heldEpoch := rest } }
    enterQuarantine (bump Cnt.lnkFutureEpochDrop 0 1 s)

def execFutureEpochTimeout (tag : Nat) (s : State) : Result := .next (futureEpochS tag s)

-- The rows.

/-- POOL_READ (R66). -/
def execPoolRead (h : Hdr) (addr nsect : Nat) (s : State) : Result := .next (takePacket (.poolRead h addr nsect) s)

/-- POOL_DATA (R172). -/
def execPoolData (h : Hdr) (hot : Bool) (poison : Nat) (data : List Byte) (s : State) : Result :=
  .next (takePacket (.poolData h hot poison data) s)

/-- POOL_STORE (R62). -/
def execPoolStore (h : Hdr) (addr : Nat) (data : List Byte) (s : State) : Result :=
  .next (takePacket (.poolStore h addr data) s)

/-- POOL_ACCUM (R62). -/
def execPoolAccum (h : Hdr) (addr : Nat) (data : List Byte) (s : State) : Result :=
  .next (takePacket (.poolAccum h addr data) s)

/-- ROW_UPDATE (R212). -/
def execRowUpdate (h : Hdr) (row table part parts : Nat) (data : List Byte) (s : State) : Result :=
  .next (takePacket (.rowUpdate h row table part parts data) s)

/-- POOL_ACK (R49). -/
def execPoolAck (h : Hdr) (status : Nat) (s : State) : Result := .next (takePacket (.poolAck h status) s)

/-- POOL_FWD (R223). -/
def execPoolFwd (h : Hdr) (home slot : Nat) (s : State) : Result := .next (takePacket (.poolFwd h home slot) s)

/-- POOL_ERR (R398). -/
def execPoolErr (h : Hdr) (reason epoch : Nat) (s : State) : Result := .next (takePacket (.poolErr h reason epoch) s)

/-- SLOT_REQUEST (R219). -/
def execSlotRequest (h : Hdr) (row table : Nat) (s : State) : Result := .next (takePacket (.slotRequest h row table) s)

/-- SLOT_GRANT (R220). -/
def execSlotGrant (h : Hdr) (row table slot : Nat) (s : State) : Result :=
  .next (takePacket (.slotGrant h row table slot) s)

/-- SLOT_REFUSAL (R220). -/
def execSlotRefusal (h : Hdr) (row table : Nat) (s : State) : Result := .next (takePacket (.slotRefusal h row table) s)

/-- ROW_COPY (R220). -/
def execRowCopy (h : Hdr) (row table : Nat) (image : List Byte) (s : State) (poison : Nat := 0) : Result :=
  .next (takePacket (.rowCopy h row table image poison) s)

/-- DIRECTORY_CHANGE (R221). -/
def execDirectoryChange (h : Hdr) (row table home slot : Nat) (s : State) : Result :=
  .next (takePacket (.directoryChange h row table home slot) s)

/-- FORWARDED_CONTRIBUTION (R222). -/
def execForwardedContribution (h : Hdr) (row table origin seq : Nat) (elems : List Byte) (s : State) : Result :=
  .next (takePacket (.forwardedContribution h row table origin seq elems) s)

/-- RD_CONTRIB (R402). -/
def execRdContrib (h : Hdr) (row table nrows fmt : Nat) (data : List Byte) (s : State) : Result :=
  .next (takePacket (.rdContrib h row table nrows fmt data) s)

/-- RD_ACK (R404). -/
def execRdAck (h : Hdr) (row table status : Nat) (afterClose : Bool) (s : State) : Result :=
  .next (takePacket (.rdAck h row table status afterClose) s)

/-- SIG_UP (R338). -/
def execSigUp (h : Hdr) (line : Nat) (value : Bool) (s : State) : Result := .next (takeLine (.sigUp h line value) s)

/-- SIG_DOWN (R338). -/
def execSigDown (h : Hdr) (line value : Nat) (s : State) : Result := .next (takeLine (.sigDown h line value) s)

/-- GN_PARTIAL (R408). -/
def execGnPartial (h : Hdr) (partialSum : W64) (nonfinite : Bool) (s : State) : Result :=
  .next (takeNorm (.gnPartial h partialSum nonfinite) s)

/-- GN_RESULT (R409). -/
def execGnResult (h : Hdr) (total : W64) (count : Nat) (nonfinite : Bool) (s : State) : Result :=
  .next (takeNorm (.gnResult h total count nonfinite) s)

/-- LINK_STATE (R392). -/
def execLinkState (h : Hdr) (pkg dim : Nat) (plus portB : Bool) (newState : Nat) (s : State) : Result :=
  .next (receive (.linkState h pkg dim plus portB newState) (fun _ s => linkStateS pkg dim plus portB newState s) s)

end Sys2Proof.Machine
end

