-- ==== Sys2Proof/Machine/Channels.lean ====
section
/-! DEFINITION. The end of a channel's retrain (R371, R372): what waited for it. -/

namespace Sys2Proof.Machine

/-- The committed writes that waited for a channel have reached it. -/
def dropHeld (p : Nat) (s : State) : State := { s with mem := { s.mem with held := mapDel s.mem.held p } }

/-- CHANNEL_RETRAIN_DONE: the waiting accesses proceed (R371). -/
def chanDoneS (p : Nat) (s : State) : State :=
  match chanState s p with
  | .retraining _ => finishAll (retryWaiting (setChan p .up (dropHeld p s)))
  | _ => s

def execChannelRetrainDone (p : Nat) (s : State) : Result := onUnit (p < nChans s) (chanDoneS p s)

/-- The dirty lines of a failed channel are discarded and counted (R372). -/
def discardChannel (p : Nat) (s : State) : State :=
  let mineW := s.mem.wcb.filter (fun l => chanAt s (l.line * 64) == some p)
  let d := p / 256
  let mineD := (depotLines s d).filter (fun l => chanAt s (l.line * 128) == some p)
  let n := mineW.length + countIf (fun l => l.dirty) mineD + mapGetD s.mem.held p 0
  let keepW := s.mem.wcb.filter (fun l => chanAt s (l.line * 64) != some p)
  let keepD := (depotLines s d).filter (fun l => chanAt s (l.line * 128) != some p)
  let s := setDepot d keepD { s with mem := { s.mem with
    wcb := keepW
    held := mapDel s.mem.held p } }
  if n = 0 then s else bump Cnt.memChFailDrop p n s

/-- CHANNEL_RETRAIN_TIMEOUT: 10 ms without completion; the channel has failed (R372). -/
def chanTimeoutS (p : Nat) (s : State) : State :=
  match chanState s p with
  | .retraining t =>
    let s := setChan p .failed (discardChannel p (reachTime (t + 10000000) s))
    let s := addSoft (softEntry 6 (p / 256) (p / 128) (p % 128) 0 false false s) s
    finishAll (retryWaiting (raise Ev.memChFail (srcOf 6 p) [] (bump Cnt.memChFail 0 1 s)))
  | _ => s

def execChannelRetrainTimeout (p : Nat) (s : State) : Result := onUnit (p < nChans s) (chanTimeoutS p s)

end Sys2Proof.Machine
end

