-- ==== Sys2Proof/Machine/EmbCmds.lean ====
section
/-! DEFINITION. The embedding commands (R228 to R235, R596) and the reserved depot ways (R358). -/

namespace Sys2Proof.Machine

-- Reserved depot ways (R358).

/-- The ways that staging, replicas and directory replicas take on every die, rounded up once. -/
def waysFor (stageMib replicaMib dirs : Nat) : Nat := cdiv ((stageMib + replicaMib) * 1048576 + 16 * dirs) 33554432

/-- DIR_ENTRIES of every table of the package. -/
def dirEntriesAll (s : State) : Nat := sumNat (s.pool.tables.map (fun e => e.2.dirEntries))

/-- Staging and replica areas in force, in MiB: none outside a job. -/
def jobMib (s : State) : Nat × Nat :=
  match s.job with
  | some j => (j.stageMib, s.pool.gthCfg.replicaMib)
  | none => (0, 0)

/-- Every die keeps at least 8 ways for caching beside `k` reserved ones. -/
def waysFit (s : State) (k : Nat) : Bool :=
  (List.range (nDies s)).all (fun d => k + (mapGetD s.mem.waysOff d []).length + 8 ≤ 24)

/-- The reserved ways follow the job and the tables. -/
def reserveWays (s : State) : State :=
  { s with mem := { s.mem with reserved := waysFor (jobMib s).1 (jobMib s).2 (dirEntriesAll s) } }

-- CMD_EMB_TABLE_CREATE (R229, R230).

/-- An FP32 field that is finite, and not negative where asked. -/
def finite32 (p : List Byte) (lo : Nat) (notNeg : Bool) : Bool :=
  let v := val32 (BitVec.ofNat 32 (field p lo 32))
  isFin v && (!notNeg || !ltVal v (.fin false 0 0))

/-- A field with 0 <= x < 1. -/
def below1 (p : List Byte) (lo : Nat) : Bool :=
  finite32 p lo true && ltVal (val32 (BitVec.ofNat 32 (field p lo 32))) (.fin false 1 0)

/-- The population of HOMES. -/
def homesOf (p : List Byte) : List Nat :=
  let b := leNat (slice p 64 512)
  (List.range 4096).filter (fun i => b.testBit i)

/-- Check 1 of R230. -/
def createOk (p : List Byte) : Bool :=
  let rows := field p 64 64
  let width := field p 32 16
  let share := field p 440 8
  field p 0 16 < 256 && field p 16 2 < 3 && field p 18 3 < 4 && field p 25 7 == 0 && 1 ≤ width && width ≤ 16384
    && field p 48 16 == 0 && 1 ≤ rows && rows ≤ 2 ^ 40 && field p 128 32 ≤ 16777216 && field p 160 32 ≤ 16777216
    && (!flag p 24 || (homesOf p).length ≤ field p 160 32)
    && finite32 p 192 true && below1 p 224 && below1 p 256
    && finite32 p 288 true && !isZero (val32 (BitVec.ofNat 32 (field p 288 32)))
    && finite32 p 320 true && finite32 p 352 false && finite32 p 384 true
    && 1 ≤ field p 416 8 && field p 416 8 ≤ 64 && 1 ≤ field p 424 16 && 129 ≤ share && share ≤ 255
    && field p 480 32 == 0 && homesOf p != []

/-- The pooled region of a home (R206). -/
def tableAsk (p : List Byte) (n : Nat) : RegionAsk :=
  { size := n * rowStride p, spread := !flag p 23, die := 0, pooled := true, progR := true, progW := true, pfEn := false,
    hint := 0, table := some (field p 0 16), device := true }

/-- A new table. -/
def freshTable (p : List Byte) (region : Option Nat) : Table :=
  let w : Nat → W32 := fun lo => BitVec.ofNat 32 (field p lo 32)
  { payload := p.take 576, region := region, dir := [], hyper := { lr := w 192, wd := w 320, gs := w 352 }, hyperNext := [],
    usedSlots := [], trackers := [], migs := [], queued := [], shadows := [], dirNext := [], bind := none, rdRegions := [],
    bufs := [], clip := 0x3F800000, committing := [], heirs := [], gone := [] }

/-- Every row is written at its reset value (R211). -/
def initRows (p : List Byte) (base n : Nat) (s : State) : State :=
  (List.range n).foldl (fun s i => putBytes (base + i * rowStride p) (resetRow p) s) s

/-- The region of R206 and the rows in it, where this package is a home. -/
def tableRegion (p : List Byte) (s : State) : Option (Option Nat × State) :=
  let loc := localRows p (homesOf p) (pkgNo s)
  let n := loc + field p 128 32
  if !(homesOf p).contains (pkgNo s) ∨ n = 0 then some (none, s)
  else
    match createRegion (tableAsk p n) s with
    | some (id, r, s) => some (some id, initRows p r.base loc s)
    | none => none

/-- CMD_EMB_TABLE_CREATE. -/
def embCreate (p : List Byte) (s : State) : State × Completion :=
  let t := field p 0 16
  if !createOk p then (s, failWith St.badParam 1)
  else if (table s t).isSome then (s, failWith St.inUse 2)
  else if !waysFit s (waysFor (jobMib s).1 (jobMib s).2 (dirEntriesAll s + field p 160 32)) then
    (s, failWith St.noSpace 3)
  else
    match tableRegion p s with
    | none => (s, failWith St.noSpace 3)
    | some (id, u) => (raise Ev.embTable (srcOf 11 t) [] (reserveWays (setTable t (freshTable p id) u)), okWith [])

def execCmdEmbTableCreate (src : CmdSrc) (s : State) : Result := .next (performNow 0x0600 src embCreate s)

/-- CMD_EMB_TABLE_DESTROY (R596): its region, directory copy, slots and binding go. -/
def embDestroy (p : List Byte) (s : State) : State × Completion :=
  let t := field p 0 16
  match table s t with
  | none => (s, failWith St.badParam 0)
  | some tb =>
    if field p 16 16 ≠ 0 then (s, failWith St.badParam 0)
    else
      let s := unbind t s
      let s := match tb.region with
        | some id => destroyRegion id s
        | none => s
      let s := tb.heirs.foldl (fun s h => match h.region with
        | some id => destroyRegion id s
        | none => s) s
      let s := { s with pool := { s.pool with tables := mapDel s.pool.tables t } }
      (raise Ev.embTable (srcOf 11 t) [] (reserveWays s), okWith [])

def execCmdEmbTableDestroy (src : CmdSrc) (s : State) : Result := .next (performNow 0x0601 src embDestroy s)

-- CMD_EMB_WRITE_ROWS and CMD_EMB_READ_ROWS (R231, R232).

/-- ST_BAD_PARAM with the position of the first offending entry. -/
def badEntry (k : Nat) : Completion := { status := St.badParam, resp := toLE 4 k, dstep := 10, dcheck := 0 }

/-- The row of entry `k`, entries of `w` bytes. -/
def entryRow (p : List Byte) (w k : Nat) : Nat := field p (64 + 8 * w * k) 64

/-- The first entry whose row this package does not home. -/
def firstForeign (s : State) (tb : Table) (p : List Byte) (w n : Nat) : Option Nat :=
  (List.range n).find? (fun k => let r := entryRow p w k; tb.rows ≤ r || (rowAddr s tb r).isNone)

/-- CMD_EMB_WRITE_ROWS. -/
def embWriteRows (p : List Byte) (s : State) : State × Completion :=
  match table s (field p 0 16) with
  | none => (s, badEntry 0)
  | some tb =>
    let w := 8 + rowStride tb.payload
    let n := field p 32 32
    if field p 16 16 ≠ 0 ∨ 524288 < p.length then (s, badEntry 0)
    else
      match firstForeign s tb p w n with
      | some k => (s, badEntry k)
      | none =>
        let s := commitTable (field p 0 16) s
        ((List.range n).foldl (fun s k =>
          match rowAddr s tb (entryRow p w k) with
          | some a => homeWrite a (slice p (8 + w * k + 8) (w - 8)) s
          | none => s) s, okWith [])

def execCmdEmbWriteRows (src : CmdSrc) (s : State) : Result := .next (whenOpen 0 (performNow 0x0602 src embWriteRows) s)

/-- The response of CMD_EMB_READ_ROWS gains the entry of row `r`. -/
def rowEntry (tb : Table) (acc : List Byte × State) (r : Nat) : List Byte × State :=
  match rowAddr acc.2 tb r with
  | none => acc
  | some a =>
    let x := homeRead false a (rowStride tb.payload) acc.2
    (acc.1 ++ toLE 8 (r + bit (x.2.1.any id) * 2 ^ 63) ++ x.1, x.2.2)

/-- CMD_EMB_READ_ROWS. -/
def embReadRows (p : List Byte) (s : State) : State × Completion :=
  let t := field p 0 16
  match table s t with
  | none => (s, badEntry 0)
  | some tb =>
    let n := field p 32 32
    if field p 16 16 ≠ 0 ∨ 524288 < n * (8 + rowStride tb.payload) then (s, badEntry 0)
    else
      match firstForeign s tb p 8 n with
      | some k => (s, badEntry k)
      | none =>
        let x := (List.range n).foldl (fun acc k => rowEntry tb acc (entryRow p 8 k)) ([], commitTable t s)
        (x.2, okWith x.1)

def execCmdEmbReadRows (src : CmdSrc) (s : State) : Result := .next (whenOpen 0 (performNow 0x0603 src embReadRows) s)

-- CMD_EMB_SET_HYPER, CMD_EMB_MIGRATE (R233, R234).

/-- The first step whose updates are not yet committed. -/
def firstOpenStep (s : State) : Nat := if s.job.isSome then s.step else 0

/-- CMD_EMB_SET_HYPER. -/
def embSetHyper (p : List Byte) (s : State) : State × Completion :=
  let t := field p 0 16
  match table s t with
  | none => (s, failWith St.badParam 0)
  | some tb =>
    if field p 16 48 ≠ 0 ∨ !finite32 p 64 true ∨ !finite32 p 96 true ∨ !finite32 p 128 false then
      (s, failWith St.badParam 0)
    else
      let w : Nat → W32 := fun lo => BitVec.ofNat 32 (field p lo 32)
      let step := Nat.max (field p 160 64) (firstOpenStep s)
      let e : Nat × HyperSet := (step, { lr := w 64, wd := w 96, gs := w 128 })
      (setTable t { tb with hyperNext := tb.hyperNext ++ [e] } s, okWith [])

def execCmdEmbSetHyper (src : CmdSrc) (s : State) : Result := .next (performNow 0x0604 src embSetHyper s)

/-- CMD_EMB_MIGRATE. -/
def embMigrate (p : List Byte) (s : State) : State × Completion :=
  let t := field p 0 16
  let target := field p 16 12
  let row := field p 64 64
  match table s t with
  | none => (s, failWith St.badParam 0)
  | some tb =>
    if field p 28 36 ≠ 0 ∨ !tb.migEnable ∨ tb.rows ≤ row ∨ tb.home row ≠ pkgNo s ∨ target = pkgNo s ∨ !isMember s target
    then (s, failWith St.badParam 0)
    else (setTable t { tb with queued := tb.queued ++ [(row, target)] } s, okWith [])

def execCmdEmbMigrate (src : CmdSrc) (s : State) : Result := .next (performNow 0x0605 src embMigrate s)

-- CMD_EMB_DIR_READ and CMD_EMB_INFO (R235, R596).

/-- CMD_EMB_DIR_READ: used entries from FIRST on. -/
def embDirRead (p : List Byte) (s : State) : Completion :=
  let n := field p 64 32
  match table s (field p 0 16) with
  | none => failWith St.badParam 0
  | some tb =>
    if field p 16 16 ≠ 0 ∨ n = 0 ∨ 32768 < n then failWith St.badParam 0
    else okWith (((tb.dir.drop (field p 32 32)).take n).flatMap (fun e =>
      pack 16 [(0, 40, e.row), (40, 12, e.home), (64, 32, e.slot)]))

def execCmdEmbDirRead (src : CmdSrc) (s : State) : Result := .next (performQuery 0x0606 src embDirRead s)

/-- CMD_EMB_INFO. -/
def embInfo (p : List Byte) (s : State) : Completion :=
  match table s (field p 0 16) with
  | none => failWith St.badParam 0
  | some tb =>
    if field p 16 16 ≠ 0 then failWith St.badParam 0
    else
      let hy := hyperAt tb (firstOpenStep s)
      let b := splice (splice (splice tb.payload 24 (toLE 4 hy.lr.toNat)) 40 (toLE 4 hy.wd.toNat)) 44 (toLE 4 hy.gs.toNat)
      let home := tb.homes.contains (pkgNo s)
      okWith (padTo 576 b ++ pack 24 [(0, 32, rowStride tb.payload),
        (32, 32, if home then tb.migSlots - tb.usedSlots.length else 0),
        (64, 64, localRows tb.payload tb.homes (pkgNo s)), (128, 32, tb.dir.length), (160, 1, bit tb.bind.isSome),
        (161, 1, bit (tb.bind == some true))])

def execCmdEmbInfo (src : CmdSrc) (s : State) : Result := .next (performQuery 0x0607 src embInfo s)

end Sys2Proof.Machine
end

