-- ==== Sys2Proof/Machine/Replace.lean ====
section
/-! DEFINITION. Dead packages, standing spares and mirrors (R476 to R480). -/

namespace Sys2Proof.Machine

-- Mirrors (R479).

/-- Numbers in ascending order. -/
def sortNat (l : List Nat) : List Nat := sortBy (fun a b => a ≤ b) l

/-- The members of the job that are not standing spares, ascending. -/
def workers (s : State) : List Nat :=
  match s.job with
  | some j => sortNat (j.members.filter (fun p => !standingSpare s p))
  | none => []

/-- The buddy of member `p`: the next member, ascending and cyclically, that is no standing spare. -/
def buddyOf (s : State) (p : Nat) : Option Nat :=
  let l := workers s
  match l.find? (fun q => p < q) with
  | some q => some q
  | none => l.find? (fun q => q < p)

/-- A device-created pooled region for a mirror. -/
def mirrorAsk (n : Nat) (t : Option Nat) : RegionAsk :=
  { size := n, spread := true, die := 0, pooled := true, progR := true, progW := true, pfEn := false, hint := 0,
    table := t, device := true }

/-- What a buddy must mirror of member `p`: for each table it homes its region, with its rows, and, where the table is bound,
its reduction binding; and its other pooled regions. -/
def mirrorNeeds (s : State) (job p : Nat) : List (Option Nat × Nat) :=
  let ofTable : Nat × Table → List (Option Nat × Nat) := fun e =>
    let tb := e.2
    let loc := localRows tb.payload tb.homes p
    if !tb.homes.contains p then []
    else (if loc + tb.migSlots = 0 then [] else [(some e.1, (loc + tb.migSlots) * rowStride tb.payload)])
      ++ (if tb.bind.isSome && loc != 0 then [(none, loc * 1056), (none, loc * 1056)] else [])
  s.pool.tables.flatMap ofTable ++ (Sys2Proof.Config.memberRegions job p).map (fun r => (none, r.2))

/-- The mirrors of member `p` are allocated; none where space is short. -/
def allocMirrors (p : Nat) : List (Option Nat × Nat) → State → Option State
  | [], s => some s
  | (t, n) :: l, s =>
    match createRegion (mirrorAsk n none) s with
    | none => none
    | some (id, _, s) =>
      let m : Mirror := { member := p, table := t, region := id }
      allocMirrors p l { s with chk := { s.chk with mirrors := s.chk.mirrors ++ [m] } }

/-- At job start this package allocates the mirrors of the member whose buddy it is (R479). -/
def startMirrors (s : State) : Option State :=
  match s.job with
  | none => some s
  | some j =>
    if !s.chk.spares.mirror || standingSpare s (pkgNo s) then some s
    else match (workers s).find? (fun p => p != pkgNo s && buddyOf s p == some (pkgNo s)) with
      | some p => allocMirrors p (mirrorNeeds s j.id p) s
      | none => some s

/-- The runs of consecutive sectors of an ascending list, each of at most 128. -/
def sectorRuns : List Nat → List (Nat × Nat)
  | [] => []
  | x :: l =>
    match sectorRuns l with
    | (y, n) :: rest => if y = x + 1 ∧ n < 128 then (x, n + 1) :: rest else (x, 1) :: (y, n) :: rest
    | [] => [(x, 1)]

/-- Sectors committed are sent to the buddy as pooled stores of the new step (R479). -/
def sendMirror (s : State) : State :=
  match buddyOf s (pkgNo s) with
  | none => s
  | some b =>
    let own := pkgNo s
    let runs := sectorRuns (sortNat s.chk.dirty)
    let s := { s with chk := { s.chk with dirty := [] } }
    runs.foldl (fun s r =>
      let a := Sys2Proof.Config.mirrorAddr b own (r.1 * 32) % 2 ^ 42 / 32 * 32
      let x := sendReq b (.write none) (fun h => .poolStore h a (cellsRead s.mem.cells (r.1 * 32) (32 * r.2))) s
      if x.2 then bump Cnt.fncMirrorBytes 0 (32 * r.2) x.1 else x.1) s

/-- The mirror commit of a departure: every row update of the ended step is written first. -/
def mirrorCommit (s : State) : State := if s.chk.spares.mirror then sendMirror (commitAllRows s) else s

-- Spares (R478, R480).

/-- The map of a spare allows package `p`. -/
def mapAllows (m : List Byte) (p : Nat) : Bool := flag m p

/-- The spare that a dead package is assigned: the first in list order whose map allows it, not assigned and not listed as
left behind (R478). -/
def pickSpare (s : State) (left : List Nat) (p : Nat) : Option Nat :=
  ((s.chk.spares.spares.filter (fun e => mapAllows e.2 p && standingSpare s e.1 && !assignedSpare s e.1
    && isMember s e.1 && !left.contains e.1 && e.1 != p)).map (fun e => e.1)).head?

/-- A region here for the rows of package `p` in a table, each as newly created (R211, R480). -/
def heirRegion (tb : Table) (p : Nat) (s : State) : Option Nat × State :=
  let n := localRows tb.payload tb.homes p + tb.migSlots
  if !tb.homes.contains p ∨ n = 0 then (none, s)
  else
    match createRegion (tableAsk tb.payload n) s with
    | some (id, r, s) => (some id, initRows tb.payload r.base n s)
    | none => (none, s)

/-- Table `t` takes `sub` for dead package `p`: at the spare with regions of its own, at the buddy with its mirror. -/
def tableHeir (p sub : Nat) (fresh : Bool) (s : State) (t : Nat) : State :=
  match table s t with
  | none => s
  | some tb =>
    let mine := (s.chk.mirrors.find? (fun m => m.member == p && m.table == some t)).map (fun m => m.region)
    let r : Option Nat × State := if fresh then heirRegion tb p s else (mine, s)
    let h : Heir := { dead := p, sub := sub, region := r.1 }
    match table r.2 t with
    | some tb => setTable t { tb with heirs := tb.heirs.filter (fun x => x.dead != p) ++ [h] } r.2
    | none => r.2

/-- Every table takes `sub` for dead package `p`. -/
def tablesHeir (p sub : Nat) (fresh : Bool) (s : State) : State :=
  (mapKeys s.pool.tables).foldl (tableHeir p sub fresh) s

/-- The substitution of dead package `q` becomes `x`. -/
def setSubst (q : Nat) (x : Subst) (s : State) : State :=
  { s with chk := { s.chk with substs := s.chk.substs.filter (fun y => y.dead != q) ++ [x] } }

/-- Package `p` is declared dead at the departure of step `n` with list `left` (R477, R478, R480); packages that it stood in
for go with it. -/
def declareDead (left : List Nat) (s : State) (p : Nat) : State :=
  match s.job with
  | none => s
  | some j =>
    let s := raise Ev.fncDead (srcOf 13 p) [] (bump Cnt.fncDead 0 1 s)
    let own := pkgNo s
    let spare := pickSpare s left p
    let buddy := if s.chk.spares.mirror then buddyOf s p else none
    let acting := if s.chk.spares.mirror then buddy else spare
    let targets := p :: (s.chk.substs.filter (fun x => x.acting == some p || x.spare == some p)).map (fun x => x.dead)
    let fresh := spare == some own
    let s := { s with job := some { j with
      members := j.members.filter (fun q => q != p)
      sitting := j.sitting.filter (fun q => q != p)
      pending := j.pending.filter (fun q => q != p) } }
    let s := targets.foldl (fun s q =>
      let x : Subst := { dead := q, acting := acting, spare := spare, rebuilt := !s.chk.spares.mirror && spare.isSome,
                         joined := false }
      tablesHeir q (acting.getD q) fresh (setSubst q x s)) s
    match spare with
    | none => raise Ev.fncNoSpare (srcOf 13 p) [] (bump Cnt.fncNoSpare 0 1 s)
    | some _ =>
      if s.chk.spares.mirror then s
      else
        let s := if fresh then raise Ev.fncRebuildLost (srcOf 13 p) [] s else s
        raise Ev.fncReplace (srcOf 13 p) [] (bump Cnt.fncReplace 0 1 s)

/-- How often in a row each member has now been left behind (R477). -/
def countLeft (left : List Nat) (s : State) : State :=
  match s.job with
  | none => s
  | some j =>
    let runs := j.members.foldl (fun m p =>
      mapSet m p (if left.contains p then mapGetD s.chk.leftRuns p 0 + 1 else 0)) s.chk.leftRuns
    { s with chk := { s.chk with leftRuns := runs } }

/-- The members that this departure declares dead, ascending (R477): those left behind often enough, and a former master. -/
def deadNow (s : State) (left : List Nat) (former : Option Nat) : List Nat :=
  match s.job with
  | none => []
  | some j => sortNat (j.members.filter (fun p =>
      (left.contains p && s.chk.spares.deadLeft ≤ mapGetD s.chk.leftRuns p 0) || former == some p))

/-- The declarations of a departure, and the epoch's advance (R478). -/
def declareAll (left : List Nat) (former : Option Nat) (s : State) : State :=
  let s := countLeft left s
  let dead := deadNow s left former
  let s := dead.foldl (declareDead left) s
  let d := countIf (fun p => former != some p) dead
  match s.job with
  | some j => { s with job := some { j with epoch := (j.epoch + d) % 2 ^ 32 } }
  | none => s

/-- A spare that holds a dead package's rows joins in its place at this departure (R480). -/
def joinSpare (s : State) (x : Subst) : State :=
  if !x.rebuilt || x.joined then s
  else
    match x.spare with
    | none => s
    | some p =>
      let s := setSubst x.dead { x with acting := some p, joined := true } s
      let keep : Heir → Heir := fun h => if h.dead = x.dead then { h with sub := p } else h
      let s := { s with pool := { s.pool with
        tables := mapVals (fun _ (tb : Table) => { tb with heirs := tb.heirs.map keep }) s.pool.tables } }
      if s.chk.spares.mirror then raise Ev.fncReplace (srcOf 13 x.dead) [] (bump Cnt.fncReplace 0 1 s) else s

/-- Spares that are ready join. -/
def joinSpares (s : State) : State := s.chk.substs.foldl joinSpare s

/-- The bytes of a region here become those copied from the buddy's mirror: unspecified to this package (assumption log 45). -/
def fillRegion (s : State) (id : Nat) : State :=
  match mapGet s.mem.regions id with
  | none => s
  | some r =>
    let x := freeBytes r.size s
    putBytes r.base x.1 x.2

/-- SPARE_REBUILD_DONE: the spare holds every sector of a dead package; it joins at the next departure (R480). -/
def spareRebuilt (dead : Nat) (s : State) : State :=
  match s.chk.substs.find? (fun x => x.dead == dead && !x.rebuilt) with
  | none => s
  | some x =>
    if x.spare.isNone then s
    else
      let s := setSubst dead { x with rebuilt := true } s
      if x.spare = some (pkgNo s) then
        (s.pool.tables.flatMap (fun e => (e.2.heirs.filter (fun h => h.dead == dead)).filterMap (fun h => h.region))).foldl
          fillRegion s
      else s

def execSpareRebuildDone (dead : Nat) (s : State) : Result := .next (spareRebuilt dead s)

/-- What mirrors and substitutions hold goes at the end of a job. -/
def endReplace (s : State) : State :=
  let ids := s.chk.mirrors.map (fun m => m.region)
    ++ s.pool.tables.flatMap (fun e => e.2.heirs.filterMap (fun h => h.region))
  let s := (setUnion [] ids).foldl (fun s id => destroyRegion id s) s
  { s with
    chk := { s.chk with
      mirrors := []
      dirty := []
      substs := []
      leftRuns := [] }
    pool := { s.pool with tables := mapVals (fun _ (tb : Table) => { tb with heirs := [] }) s.pool.tables } }

end Sys2Proof.Machine
end

