-- ==== Sys2Proof/Machine/Fencing.lean ====
section
/-! DEFINITION. Chapter 14: how a tile settles, retests and the unit history, fencing, sidings and guests, the field
test, and the commands of R485. -/

namespace Sys2Proof.Machine

-- Physical cores (R475).

/-- A physical core without a role. -/
def bareCore : PhysCore :=
  { role := .serving, lc := none, guests := [], fenceUnit := 0, copying := [], active := none }

def physCore (s : State) (key : Nat) : PhysCore := mapGetD s.chk.cores key bareCore

def setCore (key : Nat) (p : PhysCore) (s : State) : State :=
  { s with chk := { s.chk with cores := mapSet s.chk.cores key p } }

-- Settling (R462).

/-- A capsule is replaced; one that is settled with no retest to run is freed (R459). -/
def putCapsule (c : Capsule) (s : State) : State :=
  let l := s.chk.capsules.map (fun x => if x.id = c.id then c else x)
  { s with chk := { s.chk with capsules := l.filter (fun x => x.standing.isNone || x.retests != []) } }

/-- The standing result replaces the original's outputs: the unit's instruction takes it for the tile (R462). -/
def standOutputs (c : Capsule) (v : TileValue) (s : State) : State :=
  let g := engine s c.eng
  match g.queue with
  | [] => s
  | i :: rest =>
    let others := i.faults.filter (fun f => f.tile != c.tile)
    let faults : List TileFault := if v = .right then others else { tile := c.tile, value := v } :: others
    setEngine c.eng { g with queue := { i with faults := faults } :: rest } s

/-- A tile settles with a standing result; the units that gave another are retested (R462, R467). -/
def settle (c : Capsule) (v : TileValue) (s : State) : State :=
  let losers := ((c.execs.take 3).filter (fun e => e.value != v)).map (fun e => e.unit)
  let s := if c.execs.head?.map (fun e => e.value) = some v then s else standOutputs c v s
  putCapsule { c with standing := some v, next := none, retests := losers } s

/-- A further execution is called in; where no core is left the tile stays unsettled (R460, R462). -/
def callNext (c : Capsule) (s : State) : State :=
  match nextUnit s c with
  | some u => putCapsule { c with next := some u } s
  | none => leaveUnsettled c (putCapsule { c with next := none } s)

/-- What follows from the executions so far (R462). -/
def judgeTile (c : Capsule) (s : State) : State :=
  let lc := c.eng / 3
  match c.execs.map (fun e => e.value) with
  | [a, b] =>
    if b = a then settle c a (bump Cnt.chkAgree lc 1 s)
    else callNext { c with next := none } (raise Ev.chkDisagree (srcOf 3 lc) [] s)
  | [a, b, t] =>
    let s := bump Cnt.chkThird lc 1 s
    if t = a then settle c a s
    else if t = b then settle c b s
    else
      let c := { c with next := none }
      if (nextUnit s c).isSome then callNext c (bump Cnt.chkFresh lc 1 s) else callNext c s
  | [_, _, _, _] => callNext { c with next := none } s
  | [_, _, _, p, q] =>
    if p = q then settle c p s else leaveUnsettled c (putCapsule { c with next := none } s)
  | _ => s

/-- CHECK_EXECUTION_DONE: the core that R460 chose has executed the tile. -/
def checkDoneS (cap die k : Nat) (v : TileValue) (s : State) : State :=
  match s.chk.capsules.find? (fun c => c.id == cap) with
  | none => s
  | some c =>
    match c.next with
    | none => s
    | some u =>
      if u.die = die ∧ u.k = k then
        judgeTile { c with execs := c.execs ++ [{ unit := u, value := v }] } (bump Cnt.chkExec (unitIndex u) 1 s)
      else s

/-- What core (die, k) sends: a fenced core's transfer is discarded at its port and counted (R30, R471). -/
def fromCore (die k : Nat) (f : State → State) (s : State) : State :=
  if (physCore s (10 * die + k)).role = .fenced then bump Cnt.fncDiscard (10 * die + k) 1 s else f s

def execCheckExecutionDone (cap die k : Nat) (v : TileValue) (s : State) : Result :=
  onUnit (die < nDies s && k < 10) (fromCore die k (checkDoneS cap die k v) s)

-- Fencing (R470 to R475).

/-- The package has failed: EV_FNC_PKG_FAILED once (R481). -/
def failPackage (s : State) : State :=
  if s.chk.failed then s else raise Ev.fncPkgFailed 0 [] { s with chk := { s.chk with failed := true } }

/-- A context waits on a signal line. -/
def onLine (c : Ctx) : Bool :=
  match c.wait with
  | .sig _ _ _ _ => true
  | .arrive _ _ _ => true
  | _ => false

/-- The contexts, engines and shunters of a logical core stop; what its engines had issued is lost (R471). Waits on signal
lines stay with the logical core (R325). -/
def stopCore (lc : Nat) (s : State) : State :=
  let s := (List.range 4).foldl (fun s x =>
    if onLine (ctx s lc x) then s else dropStalls lc x (setCtx lc x freshCtx s)) s
  let s := (List.range 3).foldl (fun s j =>
    let g := engine s (engKey lc j)
    let rows := queuedRows (engKey lc j) g
    let s := { s with eng := { s.eng with accWritten := s.eng.accWritten ++ rows } }
    setEngine (engKey lc j) { g with queue := [], holder := none } s) s
  let mine : Nat → Bool := fun k => k / 8 == lc
  let deques := s.dsp.deques.filter (fun e => !mine e.1)
  let running := s.dsp.running.filter (fun e => !mine e.1)
  { s with dsp := { s.dsp with
    deques := deques
    running := running } }

/-- The region that a guest's images are copied to (R473): scratchpad, operand cache and accumulators. -/
def guestAsk (die : Nat) : RegionAsk :=
  { size := 0x8000000 + 0x100000 + 2 * 0x100000, spread := false, die := die, pooled := false, progR := false,
    progW := false, pfEn := false, hint := 0, table := none, device := true }

/-- The images of a guest have their region on the die. -/
def guestRegion (die : Nat) (s : State) : State :=
  match createRegion (guestAsk die) s with
  | some (id, _, t) => { t with chk := { t.chk with guestRegions := setInsert id t.chk.guestRegions } }
  | none => s

/-- The siding that takes a logical core of a die (R472): the lowest-numbered. -/
def lowestSiding (s : State) (die : Nat) : Option (Nat × PhysCore) :=
  s.chk.cores.find? (fun e => e.1 / 10 == die && e.2.role == .siding)

/-- The host that takes a guest (R473): the good core of the die that serves the fewest; on a tie the one whose own
logical core is lowest. -/
def chooseHost (s : State) (die : Nat) : Option (Nat × PhysCore) :=
  let good := s.chk.cores.filter (fun e => e.1 / 10 == die && (e.2.role == .serving || e.2.role == .hosting))
  let before : Nat × PhysCore → Nat × PhysCore → Bool := fun a b =>
    let na := (servedBy a.2).length
    let nb := (servedBy b.2).length
    na < nb || (na == nb && a.2.lc.getD 0 ≤ b.2.lc.getD 0)
  (sortBy before good).head?

/-- A logical core whose physical core is fenced moves: to a siding, or as a guest, or the package fails (R472 to R474). -/
def moveCore (die lc : Nat) (s : State) : State :=
  match lowestSiding s die with
  | some (key, p) =>
    bump Cnt.fncSidingUse 0 1 (setCore key { p with role := .serving, lc := some lc, copying := setInsert lc p.copying } s)
  | none =>
    match (if s.chk.spares.sliceOk then chooseHost s die else none) with
    | none => failPackage s
    | some (key, p) =>
      let active := if p.active.isSome then p.active else p.lc
      let guests := p.guests ++ [lc]
      let copying := setInsert lc p.copying
      guestRegion die (setCore key { p with role := .hosting, guests := guests, copying := copying, active := active } s)

/-- Capsules that name a core now isolated: those taken from it go, its retests go, and what it was to execute is called
in anew (R460, R471). -/
def dropCapsules (die k : Nat) (s : State) : State :=
  let here : PhysUnit → Bool := fun u => u.die == die && u.k == k
  let keep := s.chk.capsules.filter (fun c => match c.execs.head? with
    | some o => !here o.unit
    | none => false)
  let keep := (keep.map (fun c => { c with retests := c.retests.filter (fun u => !here u) })).filter
    (fun c => c.standing.isNone || c.retests != [])
  let s := { s with chk := { s.chk with capsules := keep } }
  keep.foldl (fun s c => match c.next with
    | some u => if here u then callNext { c with next := none } s else s
    | none => s) s

/-- A unit declared permanently bad fences its physical core (R470, R471, R475). -/
def fenceCore (u : PhysUnit) (s : State) : State :=
  let key := 10 * u.die + u.k
  let p := physCore s key
  if p.role = .fenced ∨ p.role = .fusedBad then s
  else
    let s := addSoft (softEntry 1 u.die u.k 0 0 false false s) s
    let s := raise Ev.fncFence (srcOf 2 key) [] (bump Cnt.fncFence 0 1 s)
    let served := sortNat (servedBy p)
    let s := if served = [] then s else served.foldl (fun s lc => stopCore lc s) (forfeit s)
    let s := setCore key { bareCore with role := .fenced, fenceUnit := engNo u.eng } s
    let moved := served.foldl (fun m lc => mapSet m lc key) s.chk.movedFrom
    let s := { s with chk := { s.chk with movedFrom := moved } }
    served.foldl (fun s lc => moveCore u.die lc s) (dropCapsules u.die u.k s)

-- The unit history (R467 to R469).

/-- The history that the stationmaster holds: the last 2,592,000 history seconds (R469). -/
def heldHistory (s : State) : List HistEntry :=
  (s.flash.hist ++ s.chk.fresh).filter (fun e => histSeconds s ≤ e.secs + 2592000)

/-- A transient charge. -/
def isCharge (e : HistEntry) : Bool := e.kind == 1 || e.kind == 3

/-- The transient charges of the entries that satisfy `p`, within `w` history seconds. -/
def chargesWithin (s : State) (w : Nat) (p : HistEntry → Bool) : Nat :=
  countIf (fun e => isCharge e && p e && decide (histSeconds s ≤ e.secs + w)) (heldHistory s)

/-- The unit of an entry is `u`. -/
def entryOf (u : PhysUnit) (e : HistEntry) : Bool := e.die == u.die && e.k == u.k && e.unitNo == engNo u.eng

/-- A transient charge as an entry of a kind; two within 86,400 or three within 2,592,000 seconds declare the unit bad
(R467, R468). -/
def chargeTransient (kind : Nat) (u : PhysUnit) (s : State) : State :=
  let s := addHistory kind u 0 s
  let s := raise Ev.fncTransient (srcOf 2 (10 * u.die + u.k)) [] (bump Cnt.fncTransient (unitIndex u) 1 s)
  if 2 ≤ chargesWithin s 86400 (entryOf u) ∨ 3 ≤ chargesWithin s 2592000 (entryOf u) then
    fenceCore u (addHistory 5 u 0 s)
  else s

/-- What a retest decides: a transient charge, or the unit is permanently bad at once (R467). -/
def chargeUnit (kind : Nat) (u : PhysUnit) (agrees : Bool) (s : State) : State :=
  if agrees then chargeTransient kind u s else fenceCore u (addHistory 2 u 0 s)

/-- RETEST_DONE: the unit executed the tile once more from its capsule. -/
def retestS (u : PhysUnit) (cap : Nat) (v : TileValue) (s : State) : State :=
  match s.chk.capsules.find? (fun c => c.id == cap && c.retests.contains u) with
  | none => s
  | some c =>
    let s := bump Cnt.chkExec (unitIndex u) 1 (putCapsule { c with retests := c.retests.erase u } s)
    chargeUnit 1 u (some v == c.standing) s

def execRetestDone (u : PhysUnit) (cap : Nat) (v : TileValue) (s : State) : Result :=
  onUnit (u.die < nDies s && u.k < 10) (fromCore u.die u.k (retestS u cap v) s)

/-- The history entries that the flash area holds beside the soft fault map, at 32 and 16 bytes each (R42, R489, R512). -/
def historyRoom (s : State) : Nat := ((flashArea .history).2 - 16 * s.flash.softMap.length) / 32

/-- HISTORY_FLUSH: entries not yet written go to flash (R469). A full area gives up its oldest entries (assumption log 58). -/
def historyFlushS (s : State) : State :=
  let all := s.flash.hist ++ s.chk.fresh
  { s with
    flash := { s.flash with hist := all.drop (all.length - historyRoom s) }
    chk := { s.chk with fresh := [] } }

def execHistoryFlush (s : State) : Result := .next (historyFlushS s)

-- The copy (R472, R473).

/-- A sector of a logical core's memory arrives poisoned, by its core address (R301, R368). -/
def poisonCore (lc a : Nat) (s : State) : State :=
  if inScratch a 1 then markPoison (scratchAddr lc a / 32) s
  else if inOpCache a 1 then { s with mem := { s.mem with opPoison := mapUpd s.mem.opPoison lc [] (setInsert (a / 32)) } }
  else s

/-- SIDING_COPY_DONE: the copy runs while the package sits out, after the departure that ends the forfeited step. -/
def copyDoneS (lc : Nat) (poisoned : List Nat) (s : State) : State :=
  if underCopy s lc ∧ !s.chk.forfeited then
    let cores := mapVals (fun _ (p : PhysCore) => { p with copying := p.copying.filter (fun c => c != lc) }) s.chk.cores
    let moved := mapDel s.chk.movedFrom lc
    poisoned.foldl (fun s a => poisonCore lc a s) { s with chk := { s.chk with cores := cores, movedFrom := moved } }
  else s

def execSidingCopyDone (lc : Nat) (poisoned : List Nat) (s : State) : Result :=
  onUnit (lc < nLc s) (copyDoneS lc poisoned s)

-- The field test (R483, R484).

/-- Some command executes. -/
def commandRuns (s : State) : Bool :=
  s.host.mbx.any (fun e => e.2.phase == .executing) || s.host.side.isSome || s.host.orphans != []

/-- A field test begins. -/
def beginTest (seconds : Nat) (byCommand : Bool) (s : State) : State :=
  let f : FieldTest := { since := s.now, seconds := if seconds = 0 then 20 else seconds, byCommand := byCommand,
                         stopped := false }
  { s with chk := { s.chk with field := some f } }

/-- AUTO_FIELD_TEST_START. -/
def autoTestS (s : State) : State :=
  if s.dev = .ready ∧ s.job.isNone ∧ s.chk.autoField ∧ !s.chk.autoDone ∧ s.chk.field.isNone ∧ !commandRuns s then
    let s := reachTime (s.chk.readySince + s.chk.idleS * 1000000000) s
    beginTest 0 false { s with chk := { s.chk with autoDone := true } }
  else s

def execAutoFieldTestStart (s : State) : Result := .next (autoTestS s)

/-- FIELD_TEST_END: the tiles run and the charges are counted, and a waiting command is answered. -/
def testEndS (tiles : Nat) (charged : List (PhysUnit × Bool)) (s : State) : State :=
  match s.chk.field with
  | none => s
  | some f =>
    let s := if f.stopped then s else reachTime (f.since + f.seconds * 1000000000) s
    let s := bump Cnt.chkFieldTile 0 tiles { s with chk := { s.chk with field := none } }
    let units := charged.filter (fun e => e.1.die < nDies s && e.1.k < 10)
    let s := units.foldl (fun s e => chargeUnit 3 e.1 e.2 (bump Cnt.chkExec (unitIndex e.1) 1 s)) s
    let s := raise Ev.chkFieldDone 0 [] s
    if f.byCommand then
      answerWaiting 0x0D02 (okWith (pack 8 [(0, 32, sat 0xFFFFFFFF tiles), (32, 16, sat 0xFFFF units.length),
        (48, 1, bit f.stopped)])) s
    else s

def execFieldTestEnd (tiles : Nat) (charged : List (PhysUnit × Bool)) (s : State) : Result :=
  .next (testEndS tiles charged s)

-- The commands (R485 to R489).

/-- CMD_CHK_CONFIG (R486). -/
def chkConfig (p : List Byte) (s : State) : State × Completion :=
  let rate := field p 0 9
  let idle := field p 16 8
  if 256 < rate ∨ field p 10 6 ≠ 0 ∨ field p 24 40 ≠ 0 ∨ (idle ≠ 0 ∧ idle < 10) then (s, failWith St.badParam 0)
  else
    let chk := { s.chk with
      rateNext := if rate = 0 then 64 else rate
      autoField := flag p 9
      idleS := if idle = 0 then 60 else idle }
    ({ s with chk := chk }, okWith [])

def execCmdChkConfig (src : CmdSrc) (s : State) : Result := .next (performNow 0x0D00 src chkConfig s)

/-- CMD_CHK_STATUS (R485). -/
def chkStatus (_ : List Byte) (s : State) : Completion :=
  okWith (pack 16 [(0, 9, s.chk.rateNext), (9, 1, bit s.chk.autoField), (16, 8, s.chk.idleS),
    (64, 1, bit s.chk.field.isSome)])

def execCmdChkStatus (src : CmdSrc) (s : State) : Result := .next (performQuery 0x0D01 src chkStatus s)

/-- CMD_CHK_FIELD_TEST (R483, R486): it waits for the end of the test. -/
def chkFieldTest (c : Slot) (s : State) : Performed :=
  let n := field c.payload 0 8
  if field c.payload 8 56 ≠ 0 ∨ 120 < n ∨ (n ≠ 0 ∧ n < 5) then .done s (failWith St.badParam 0)
  else if s.chk.field.isSome then .done s (failWith St.inUse 0)
  else .wait (beginTest n true s)

def execCmdChkFieldTest (src : CmdSrc) (s : State) : Result := .next (performCmd 0x0D02 src chkFieldTest s)

/-- ROLE of R488. -/
def roleCode : CoreRole → Nat
  | .fusedBad => 0
  | .siding => 1
  | .serving => 2
  | .hosting => 3
  | .fenced => 4

/-- The entry of physical core `key` (R488). -/
def coreEntry (s : State) (key : Nat) : List Byte :=
  let mine : HistEntry → Bool := fun e => 10 * e.die + e.k == key
  let charges := [(32, 16, sat 0xFFFF (chargesWithin s 86400 mine)), (48, 16, sat 0xFFFF (chargesWithin s 2592000 mine))]
  match mapGet s.chk.cores key with
  | none => pack 8 charges
  | some p =>
    let guests := sumNat (p.guests.map (fun lc => 2 ^ (lc % s.brg.m)))
    pack 8 ([(0, 3, roleCode p.role), (6, 6, p.lc.getD 0), (12, 8, guests), (20, 2, p.fenceUnit)] ++ charges)

/-- CMD_FNC_STATUS (R488). -/
def fncStatus (_ : List Byte) (s : State) : Completion :=
  okWith ((List.range (10 * nDies s)).flatMap (coreEntry s))

def execCmdFncStatus (src : CmdSrc) (s : State) : Result := .next (performQuery 0x0D03 src fncStatus s)

/-- An entry of R489. -/
def historyBytes (e : HistEntry) : List Byte :=
  pack 32 [(0, 8, e.kind), (8, 3, e.die), (11, 4, e.k), (15, 2, e.unitNo), (64, 64, e.secs), (128, 64, e.step),
    (192, 64, e.addr)]

/-- CMD_FNC_HISTORY_READ (R489). -/
def historyRead (p : List Byte) (s : State) : Completion :=
  let n := field p 32 16
  if n = 0 ∨ 16384 < n ∨ field p 48 16 ≠ 0 then failWith St.badParam 0
  else okWith (((heldHistory s).drop (field p 0 32)).take n |>.flatMap historyBytes)

def execCmdFncHistoryRead (src : CmdSrc) (s : State) : Result := .next (performQuery 0x0D04 src historyRead s)

/-- Spare entry `i` of CMD_FNC_SPARES_SET (R487). -/
def spareEntry (p : List Byte) (i : Nat) : Nat × List Byte := (field p ((8 + 520 * i) * 8) 12, slice p (16 + 520 * i) 512)

/-- CMD_FNC_SPARES_SET (R487). -/
def sparesSet (p : List Byte) (s : State) : State × Completion :=
  let n := field p 8 4
  let left := field p 0 4
  let spares := (List.range (Nat.min n 8)).map (spareEntry p)
  let pkgs := spares.map (fun e => e.1)
  let reserved := (List.range (Nat.min n 8)).any (fun i => field p ((8 + 520 * i) * 8 + 12) 52 != 0)
  if 8 < left ∨ 8 < n ∨ field p 6 2 ≠ 0 ∨ field p 12 52 ≠ 0 ∨ reserved ∨ (setUnion [] pkgs).length ≠ pkgs.length then
    (s, failWith St.badParam 0)
  else
    let cfg : SparesCfg := { deadLeft := if left = 0 then 2 else left, sliceOk := flag p 4, mirror := flag p 5,
                             spares := spares }
    ({ s with chk := { s.chk with sparesNext := cfg } }, okWith [])

def execCmdFncSparesSet (src : CmdSrc) (s : State) : Result := .next (performNow 0x0D05 src sparesSet s)

end Sys2Proof.Machine
end

