-- ==== Sys2Proof/Machine/CouplingRows.lean ====
section
/-! DEFINITION. The rows of the couplings between dies (R24, R28, R29). -/

namespace Sys2Proof.Machine

/-- A direction of a coupling that has carried nothing. -/
def freshDir : CplDir := { next := 0, retry := [], ahead := [], delivered := [] }

/-- One direction of a coupling, as received so far. -/
def cplDir (s : State) (key : Nat) : CplDir := mapGetD s.cpl.dirs key freshDir

def setCplDir (key : Nat) (d : CplDir) (s : State) : State :=
  { s with cpl := { s.cpl with dirs := mapSet s.cpl.dirs key d } }

/-- The units that have arrived and follow one another from the one expected are delivered, in order. -/
def deliverAhead (d : CplDir) : CplDir :=
  let d := d.ahead.foldl (fun d e =>
    if e.1 = d.next then { d with next := d.next + 1, delivered := d.delivered ++ [e.2] } else d) d
  { d with ahead := d.ahead.filter (fun e => decide (d.next ≤ e.1)) }

/-- A unit that has not been received stands in the sender's retry buffer, as sent. -/
def keepForRetry (seq : Nat) (data : List Byte) (d : CplDir) : CplDir :=
  if seq < d.next ∨ (mapGet d.ahead seq).isSome ∨ (mapGet d.retry seq).isSome then d
  else { d with retry := mapSet d.retry seq data }

/-- A unit is received without error: what a re-send brings is what the retry buffer held; one received before is not
delivered twice (R24). -/
def acceptUnit (seq : Nat) (data : List Byte) (d : CplDir) : CplDir :=
  if seq < d.next then d
  else deliverAhead { d with
    retry := mapDel d.retry seq
    ahead := mapSet d.ahead seq (mapGetD d.retry seq data) }

/-- COUPLING_UNIT_RECEIVE of unit `seq`, sent with `data`: with a CRC error it is re-sent from the retry buffer and
counted; while the coupling does not carry traffic it waits there (R24, R28). -/
def unitReceiveS (c dir seq : Nat) (data : List Byte) (crcOk : Bool) (s : State) : State :=
  let key := 2 * c + dir
  let d := cplDir s key
  if cplPhase s c ≠ .up then setCplDir key (keepForRetry seq data d) s
  else if crcOk then setCplDir key (acceptUnit seq data d) s
  else bump Cnt.pkgCplRetry c 1 (setCplDir key (keepForRetry seq data d) s)

def execCouplingUnitReceive (c dir seq : Nat) (data : List Byte) (crcOk : Bool) (s : State) : Result :=
  onUnit (hasCoupling s c && dir < 2) (unitReceiveS c dir seq data crcOk s)

/-- COUPLING_LANE_FAULT: the coupling retrains on its spare lanes (R28). -/
def cplLaneFaultS (c : Nat) (s : State) : State :=
  if cplPhase s c = .up then bump Cnt.pkgCplRetrain c 1 (setCplPhase c .retraining s) else s

def execCouplingLaneFault (c : Nat) (s : State) : Result := onUnit (hasCoupling s c) (cplLaneFaultS c s)

/-- A coupling cannot carry traffic (R28, R29): the junctions switch to the second route table, or, with a second one
lost or the only one, the package fails. -/
def loseCoupling (c : Nat) (s : State) : State :=
  let s := setCplPhase c .failed s
  if s.fuse.code = .cx2a ∨ s.cpl.avoid.isSome then failPackage s
  else bump Cnt.pkgCplReroute c 1 { s with cpl := { s.cpl with avoid := some c, draining := true } }

/-- COUPLING_RETRAIN_DONE. -/
def cplDoneS (c : Nat) (carries : Bool) (s : State) : State :=
  if cplPhase s c = .retraining then
    finishAll (retryWaiting (releaseCrossing (if carries then setCplPhase c .up s else loseCoupling c s)))
  else s

def execCouplingRetrainDone (c : Nat) (carries : Bool) (s : State) : Result :=
  onUnit (hasCoupling s c) (cplDoneS c carries s)

/-- Every unit of a retry buffer is delivered. -/
def drainDir (d : CplDir) : CplDir := d.retry.foldl (fun d e => acceptUnit e.1 e.2 d) d

/-- COUPLING_REROUTE_DRAIN_DONE: the failed coupling's retry buffers have been delivered on the new routes, so that what
was held goes on (R28). -/
def drainDoneS (c : Nat) (s : State) : State :=
  if s.cpl.avoid = some c ∧ s.cpl.draining then
    let dir : Nat → CplDir := fun key => drainDir (cplDir s key)
    let s := setCplDir (2 * c + 1) (dir (2 * c + 1)) (setCplDir (2 * c) (dir (2 * c)) s)
    finishAll (retryWaiting (releaseCrossing { s with cpl := { s.cpl with draining := false } }))
  else s

def execCouplingRerouteDrainDone (c : Nat) (s : State) : Result := onUnit (hasCoupling s c) (drainDoneS c s)

end Sys2Proof.Machine
end

