-- ==== Sys2Proof/Machine/Identity.lean ====
section
/-! DEFINITION. Identity, firmware images, measurement, update, owner enrolment and attestation (R554 to R566). -/

namespace Sys2Proof.Machine

-- Flash records (R555, R556).

/-- A record with the CRC-32 of R95 over it put at byte `at_`. -/
def withCrc (at_ : Nat) (b : List Byte) : List Byte := splice b at_ (toLE 4 (crc32 (splice b at_ (zeros 4))))

/-- The 64 bytes of the boot header. -/
def bootHdrBytes (h : BootHdr) : List Byte :=
  withCrc 60 (pack 64 [(0, 32, 0x48423858), (32, 16, 1), (48, 1, bit h.activeB), (49, 1, bit h.validA),
    (50, 1, bit h.validB), (51, 1, bit h.session), (64, 64, h.updateNo)])

/-- One slot entry of the enrolment record. -/
def ownerBytes (o : OwnerSlot) : List Byte :=
  pack 16 [(0, 1, bit o.valid), (1, 3, o.use), (64, 64, o.lastNonce)] ++ (padTo 32 o.pubkey).take 32

/-- The 448 bytes of the enrolment record. -/
def enrolBytes (e : Enrol) : List Byte :=
  withCrc 60 (pack 64 [(0, 32, 0x45523858), (32, 16, 1), (64, 64, e.updateNo), (128, 32, e.minSvn),
    (160, 4, e.tabvasDisable)] ++ (e.slots.map ownerBytes).flatten)

/-- The boot header copy in use: the one with the higher update number. -/
def bootHdr (s : State) : BootHdr :=
  if s.flash.boot1.updateNo < s.flash.boot2.updateNo then s.flash.boot2 else s.flash.boot1

/-- The enrolment record copy in use. -/
def enrol (s : State) : Enrol :=
  if s.flash.enrol1.updateNo < s.flash.enrol2.updateNo then s.flash.enrol2 else s.flash.enrol1

/-- An update of the boot header: UPDATE_NO rises by one, both copies are written (R556). -/
def setBootHdr (f : BootHdr → BootHdr) (s : State) : State :=
  let h := f (bootHdr s)
  let h' : BootHdr := { h with updateNo := (bootHdr s).updateNo + 1 }
  { s with flash := { s.flash with boot1 := h', boot2 := h' } }

/-- An update of the enrolment record (R556). -/
def setEnrol (e : Enrol) (s : State) : State :=
  let e' : Enrol := { e with updateNo := (enrol s).updateNo + 1 }
  { s with flash := { s.flash with enrol1 := e', enrol2 := e' } }

/-- Owner slot `k` of 4 to 11, if a key is enrolled there. -/
def ownerSlot (e : Enrol) (k : Nat) : Option OwnerSlot :=
  if 4 ≤ k then (e.slots[k - 4]?).filter (fun o => o.valid) else none

/-- A key is enrolled in some owner slot. -/
def ownerEnrolled (e : Enrol) : Bool := e.slots.any (fun o => o.valid)

/-- The key of slot `k` with USE bit `b`, for owner slots. -/
def ownerKey (e : Enrol) (k b : Nat) : Option (List Byte) :=
  match ownerSlot e k with
  | some o => if o.use.testBit b then some o.pubkey else none
  | none => none

/-- The key that may sign firmware images in slot `k` (R555). -/
def imageKey (s : State) (k : Nat) : Option (List Byte) :=
  if k < 4 then (if (enrol s).tabvasDisable.testBit k then none else s.fuse.tabvasKeys[k]?)
  else ownerKey (enrol s) k 0

-- Signed commands (R438).

/-- The message of a signed command: PKG_SERIAL, the header with CRC zero, the payload up to the signature. -/
def signedMessage (s : State) (header payload : List Byte) : List Byte :=
  toLE 8 s.fuse.serial.toNat ++ splice header 16 (zeros 4) ++ payload.take (payload.length - 64)

/-- The trailer verifies: an owner key with USE bit 1, a nonce above its last, the signature (R438, R555). -/
def trailerOk (s : State) (header payload : List Byte) : Bool :=
  if payload.length < 88 then false
  else
    let t := payload.drop (payload.length - 88)
    let k := field t 64 8
    match ownerSlot (enrol s) k with
    | some o =>
      o.use.testBit 1 && o.lastNonce < field t 0 64 && field t 72 120 == 0
        && edVerify o.pubkey (signedMessage s header payload) (t.drop 24)
    | none => false

-- Firmware images (R558 to R560).

/-- The firmware slot B or A. -/
def fwSlot (s : State) (b : Bool) : FwSlot := if b then s.flash.fwB else s.flash.fwA

/-- Firmware slot `b` becomes `f`. -/
def setFwSlot (b : Bool) (f : FwSlot) (s : State) : State :=
  if b then { s with flash := { s.flash with fwB := f } } else { s with flash := { s.flash with fwA := f } }

/-- Bytes `off` to `off + n - 1` of the units written, zeros elsewhere. -/
def fwBytes (f : FwSlot) (n : Nat) : List Byte :=
  ((List.range (cdiv n 64)).map (fun u => mapGetD f.units u (zeros 64))).flatten.take n

/-- The 256-byte header of the image in a slot. -/
def fwHeader (f : FwSlot) : List Byte :=
  if f.factory then (padTo 256 Sys2Proof.Config.factoryHeader).take 256 else fwBytes f 256

/-- Every 64-byte unit below `n` bytes has been written. -/
def unitsWritten (f : FwSlot) (n : Nat) : Bool := (List.range (cdiv n 64)).all (fun u => (mapGet f.units u).isSome)

/-- The number of the first check of R560 that an image fails, if any; `size`: IMAGE_BYTES of the open, where there was
one. The image of manufacture passes the checks on its own bytes (R556); its key is slot 0's and its SVN the fuse
floor (assumption log 9). -/
def imageCheck (s : State) (f : FwSlot) (size : Option Nat) : Option Nat :=
  if f.factory then
    if (imageKey s 0).isNone then some 4 else if s.fuse.svnFloor < (enrol s).minSvn then some 6 else none
  else
    let h := fwHeader f
    let n := 256 + field h 64 32
    let sizeOk := match size with
      | some k => n == k
      | none => true
    let body := (fwBytes f n).drop 256
    let svn := field h 96 32
    if !unitsWritten f n || !sizeOk then some 1
    else if field h 0 32 ≠ 0x38584354 ∨ field h 32 16 ≠ 1 ∨ field h 56 8 ≠ 0 ∨ field h 176 80 ≠ 0
        ∨ field h 768 768 ≠ 0 then some 2
    else if slice h 32 64 ≠ sha512 body then some 3
    else
      match imageKey s (field h 48 8) with
      | none => some 4
      | some k =>
        if !edVerify k (h.take 192) (slice h 192 64) then some 5
        else if svn < s.fuse.svnFloor ∨ svn < (enrol s).minSvn then some 6
        else none

/-- The slot that a boot starts (R558): the active one if its image passes, else the other; with FALLBACK. -/
def bootChoice (s : State) : Option (Bool × Bool) :=
  let a := (bootHdr s).activeB
  if (imageCheck s (fwSlot s a) none).isNone then some (a, false)
  else if (imageCheck s (fwSlot s !a) none).isNone then some (!a, true)
  else none

/-- An entry of the fault map in the layout of R512. -/
def faultBytes (e : FaultEntry) : List Byte :=
  pack 16 [(0, 4, e.kind), (4, 1, bit e.fuse), (5, 1, bit e.soft), (6, 1, bit e.found), (7, 1, bit e.passed),
    (8, 3, e.die), (11, 1, bit e.repaired), (16, 8, e.unitNo), (24, 8, e.sub), (32, 32, e.row), (64, 64, e.histS)]

/-- The five stage digests of a boot from slot `b` (R557). -/
def stageDigests (s : State) (b : Bool) : List (List Byte) :=
  [padTo 64 s.fuse.romDigest,
   sha512 (Sys2Proof.Config.fuseImage (s.fuse.faults.map faultBytes).flatten),
   sha512 (bootHdrBytes (bootHdr s)),
   sha512 (enrolBytes (enrol s)),
   sha512 (fwHeader (fwSlot s b))]

/-- The chain from 64 zero bytes over the digests (R557). -/
def measure (ds : List (List Byte)) : List Byte := ds.foldl (fun m d => sha512 (m ++ d)) (zeros 64)

/-- The boot ROM measures and starts the firmware (R557, R558); without a slot that passes nothing starts. -/
def bootFirmware (s : State) : State :=
  match bootChoice s with
  | none => s
  | some (b, fb) =>
    let ds := stageDigests s b
    let boot : BootState := { digests := ds, final := measure ds, fallback := fb, started := true, slotB := b,
                              version := field (fwHeader (fwSlot s b)) 128 48 }
    let sram : SmSram := { s.sm.sram with measured := boot.final, imageOk := true }
    let s := { s with
      boot := boot
      sm := { s.sm with sram := sram } }
    if fb then raise Ev.pkgFwFallback 0 [] s else s

/-- PKG_FW_VERSION (R425). -/
def fwVersion (s : State) : Nat := s.boot.version + 2 ^ 48 * bit s.boot.slotB

-- Firmware update (R560, R561, R565, R566).

/-- The slot that ACTIVE_SLOT does not name. -/
def inactive (s : State) : Bool := !(bootHdr s).activeB

/-- VALID of slot `b` in the boot header becomes `v`, and SESSION `ses`. -/
def markSlot (b v ses : Bool) (h : BootHdr) : BootHdr :=
  if b then { h with validB := v, session := ses } else { h with validA := v, session := ses }

/-- An update session opens: the inactive slot is erased (R560). -/
def fwOpenS (n : Nat) (pldm : Bool) (s : State) : State :=
  let b := inactive s
  let s := setBootHdr (markSlot b false true) (setFwSlot b { factory := false, units := [] } s)
  { s with fw := some { imageBytes := n, pldm := pldm } }

/-- CMD_PKG_FW_OPEN. -/
def fwOpen (p : List Byte) (s : State) : State × Completion :=
  let n := field p 0 32
  if n < 320 ∨ (flashArea .slotA).2 < n ∨ n % 64 ≠ 0 then (s, failWith St.badParam 0)
  else (fwOpenS n false s, okWith [])

def execCmdPkgFwOpen (src : CmdSrc) (s : State) : Result := .next (performNow 0x1012 src fwOpen s)

/-- The 64-byte units of `data` from unit `u` on. -/
def fwUnits : Nat → Nat → List Byte → AMap (List Byte) → AMap (List Byte)
  | 0, _, _, m => m
  | n + 1, u, d, m => fwUnits n (u + 1) (d.drop 64) (mapSet m u (d.take 64))

/-- A segment of the image is written to the inactive slot. -/
def fwDataS (off : Nat) (d : List Byte) (s : State) : State :=
  let b := inactive s
  let f := fwSlot s b
  setFwSlot b { f with units := fwUnits (d.length / 64) (off / 64) d f.units } s

/-- CMD_PKG_FW_DATA. -/
def fwData (p : List Byte) (s : State) : State × Completion :=
  let off := field p 0 32
  let n := field p 32 32
  match s.fw with
  | some ses =>
    if ses.pldm ∨ off % 64 ≠ 0 ∨ n % 64 ≠ 0 ∨ n < 64 ∨ 524288 < n ∨ ses.imageBytes < off + n then
      (s, failWith St.badParam 0)
    else (fwDataS off (slice p 8 n) s, okWith [])
  | none => (s, failWith St.badParam 0)

def execCmdPkgFwData (src : CmdSrc) (s : State) : Result := .next (performNow 0x1013 src fwData s)

/-- The image is checked and the session closes: the slot is valid, or stays invalid with the failing check (R560). -/
def fwCommitS (size : Nat) (s : State) : State × Option Nat :=
  let b := inactive s
  let k := imageCheck s (fwSlot s b) (some size)
  let s := setBootHdr (markSlot b k.isNone false) { s with fw := none }
  match k with
  | none =>
    let s := { s with flash := { s.flash with lastCommitB := b } }
    (raise Ev.pkgFwCommit 0 [] (bump Cnt.pkgFwCommit 0 1 s), none)
  | some c => (raise Ev.pkgFwReject 0 (pay64 c) (bump Cnt.pkgFwReject 0 1 s), some c)

/-- CMD_PKG_FW_COMMIT. -/
def fwCommit (_ : List Byte) (s : State) : State × Completion :=
  match s.fw with
  | some ses =>
    if ses.pldm then (s, failWith St.badParam 1)
    else
      let (t, k) := fwCommitS ses.imageBytes s
      match k with
      | none => (t, okWith [])
      | some c => (t, failWith St.badParam c)
  | none => (s, failWith St.badParam 1)

def execCmdPkgFwCommit (src : CmdSrc) (s : State) : Result := .next (performNow 0x1014 src fwCommit s)

/-- The slot that holds the last valid commit, if one exists (R561). -/
def lastValid (s : State) : Option Bool :=
  let h := bootHdr s
  let v : Bool → Bool := fun b => if b then h.validB else h.validA
  if v s.flash.lastCommitB then some s.flash.lastCommitB
  else if v !s.flash.lastCommitB then some !s.flash.lastCommitB
  else none

/-- A slot is named active (R561). -/
def fwActivateS (b : Bool) (s : State) : State :=
  raise Ev.pkgFwActivate 0 [] (setBootHdr (fun h => { h with activeB := b }) s)

/-- A device reset 1 ms from now, in bring-up mode `mode` (R508, R561). -/
def deferReset (mode : Nat) (s : State) : State :=
  { s with brg := { s.brg with resetAt := some (s.now + 1000000, mode) } }

/-- A command whose completion is never written asks for its reset as it is performed (R434, R508, R561). -/
def deferOrphan (src : CmdSrc) (mode : Nat) (s : State) : State :=
  match src with
  | .orphan _ => deferReset mode s
  | _ => s

/-- CMD_PKG_FW_ACTIVATE; the reset of RESET_NOW follows its completion. -/
def fwActivate (src : CmdSrc) (p : List Byte) (s : State) : State × Completion :=
  if field p 1 31 ≠ 0 then (s, failWith St.badParam 0)
  else
    match lastValid s with
    | some b =>
      let s := fwActivateS b s
      (if flag p 0 then deferOrphan src 0 s else s, okWith [])
    | none => (s, failWith St.badParam 0)

def execCmdPkgFwActivate (src : CmdSrc) (s : State) : Result := .next (performNow 0x1015 src (fwActivate src) s)

-- Owner enrolment (R562, R563).

/-- The key under which AUTH_SIG must verify, where the authority of R563 holds. -/
def enrolAuth (p : List Byte) (e : Enrol) : Option (List Byte) :=
  let nonce := field p 64 64
  let auth := field p 384 4
  if !ownerEnrolled e then
    if field p 0 8 = 1 ∧ auth = field p 8 4 ∧ 1 ≤ nonce then some (slice p 16 32) else none
  else
    match ownerSlot e auth with
    | some o => if o.use.testBit 2 ∧ o.lastNonce < nonce then some o.pubkey else none
    | none => none

/-- The slots after owner slot `k` is changed by `f`. -/
def updSlot (e : Enrol) (k : Nat) (f : OwnerSlot → OwnerSlot) : Enrol :=
  { e with slots := e.slots.mapIdx (fun i o => if i + 4 = k then f o else o) }

/-- The record after the operation itself, where its fields are in range. -/
def enrolOp (p : List Byte) (e : Enrol) : Option Enrol :=
  let k := field p 8 4
  match field p 0 8 with
  | 1 =>
    if k < 4 ∨ 11 < k ∨ field p 19 5 ≠ 0 then none
    else some (updSlot e k (fun o => { o with valid := true, use := field p 16 3, pubkey := slice p 16 32 }))
  | 2 =>
    if k < 4 ∨ 11 < k ∨ (ownerSlot e k).isNone then none
    else some (updSlot e k (fun o => { o with valid := false, use := 0, pubkey := zeros 32 }))
  | 3 => if field p 32 32 < e.minSvn then none else some { e with minSvn := field p 32 32 }
  | 4 => some { e with tabvasDisable := field p 24 4 }
  | _ => none

/-- Some enrolled key has USE bit 2. -/
def hasAdmin (e : Enrol) : Bool := e.slots.any (fun o => o.valid && o.use.testBit 2)

/-- The record after an accepted change: the operation, then the nonce of the signing slot. -/
def enrolChange (p : List Byte) (s : State) : Option Enrol :=
  let e := enrol s
  if field p 12 4 ≠ 0 ∨ field p 28 4 ≠ 0 ∨ field p 388 124 ≠ 0 then none
  else
    match enrolAuth p e, enrolOp p e with
    | some key, some e' =>
      if hasAdmin e' && edVerify key (toLE 8 s.fuse.serial.toNat ++ p.take 64) (slice p 64 64) then
        some (updSlot e' (field p 384 4) (fun o => { o with lastNonce := field p 64 64 }))
      else none
    | _, _ => none

/-- CMD_PKG_OWNER_ENROLL. -/
def ownerEnroll (p : List Byte) (s : State) : State × Completion :=
  match enrolChange p s with
  | some e =>
    let s := bump Cnt.pkgEnroll 0 1 (setEnrol e s)
    (raise Ev.pkgOwnerEnroll 0 (pack 8 [(0, 8, field p 0 8), (8, 8, field p 8 4)]) s, okWith [])
  | none => (s, failWith St.badParam 0)

def execCmdPkgOwnerEnroll (src : CmdSrc) (s : State) : Result := .next (performNow 0x1011 src ownerEnroll s)

-- Attestation (R564).

/-- PKG_ID_CODE (R425). -/
def idCode (s : State) : Nat := codeByte s.fuse.code + 0xB100 + 0x10000

/-- The 896 bytes of an attestation. -/
def attestation (challenge : List Byte) (s : State) : List Byte :=
  let flags := bitmap [s.boot.fallback, s.sm.onD1, s.brg.degraded, ownerEnrolled (enrol s)]
  let body := pack 32 [(0, 16, 1), (16, 16, idCode s), (64, 64, s.fuse.serial.toNat), (128, 64, fwVersion s),
      (192, 64, s.now)]
    ++ (padTo 32 challenge).take 32 ++ edPublic s.meter.secret ++ padTo 64 s.boot.final ++ toLE 8 flags
    ++ padTo 320 ((s.boot.digests.map (fun d => (padTo 64 d).take 64)).flatten) ++ zeros 24
    ++ (slotBytes s.win s.win.newest).take 320
  body ++ edSign s.fuse.idSecret body

/-- CMD_PKG_ATTEST. -/
def pkgAttest (p : List Byte) (s : State) : State × Completion :=
  (bump Cnt.pkgAttest 0 1 s, okWith (attestation p s))

def execCmdPkgAttest (src : CmdSrc) (s : State) : Result := .next (performNow 0x1010 src pkgAttest s)

end Sys2Proof.Machine
end

