-- ==== Sys2Proof/Machine/BringupRows.lean ====
section
/-! DEFINITION. Bring-up (chapter 15): its phases and findings, the decision of phase 4, and the commands of R508. -/

namespace Sys2Proof.Machine

-- The bring-up record and the merged fault map (R495, R502).

/-- A quick bring-up is allowed now (R495). -/
def quickOk (s : State) : Bool :=
  match s.flash.brg.lastFullPass with
  | some t => histSeconds s ≤ t + 604800 && !s.flash.brg.memEvent
  | none => false

/-- Fuse entries, marked with what this bring-up passed, then soft entries in the order recorded (R512). -/
def faultMap (s : State) : List FaultEntry :=
  let mark : FaultEntry → FaultEntry := fun e =>
    { e with passed := s.brg.found.any (fun f => f.passed && sameItem f e) }
  s.fuse.faults.map mark ++ s.flash.softMap

/-- An item is listed. -/
def listed (s : State) (kind die unitNo sub : Nat) : Bool :=
  (s.fuse.faults ++ s.flash.softMap).any (fun e => e.kind == kind && e.die == die && e.unitNo == unitNo && e.sub == sub)

/-- The physical core is bad (R502). -/
def coreBad (s : State) (d k : Nat) : Bool := listed s 1 d k 0

/-- The package channel is bad (R502). -/
def chanBad (s : State) (p : Nat) : Bool := listed s 6 (p / 256) (p / 128) (p % 128)

-- What the tests find (R498 to R500, R503).

/-- A finding is recorded for this bring-up. -/
def noteFound (e : FaultEntry) (s : State) : State :=
  addSoft e { s with brg := { s.brg with found := s.brg.found ++ [e] } }

/-- A physical core is found bad. -/
def findCore (d k : Nat) (s : State) : State :=
  if coreBad s d k then s
  else
    let s := noteFound (softEntry 1 d k 0 0 true false s) s
    raise Ev.brgCoreBad (srcOf 2 (10 * d + k)) [] (bump Cnt.brgCoreBad 0 1 s)

/-- A channel is found bad. -/
def findChan (p : Nat) (s : State) : State :=
  if chanBad s p then s
  else
    let s := noteFound (softEntry 6 (p / 256) (p / 128) (p % 128) 0 true false s) s
    let s := { s with brg := { s.brg with fullDirty := true } }
    raise Ev.brgChFail (srcOf 6 p) [] (bump Cnt.brgChFail 0 1 s)

/-- A row with a failing bit, repaired where a spare row of its bank took it (R498). -/
def findRow (kind d unitNo bank row : Nat) (spare : Bool) (s : State) : State :=
  let s := noteFound (softEntry kind d unitNo bank row true spare s) s
  if spare then bump Cnt.brgSramRepair d 1 s else s

/-- A depot way is switched off (R498). -/
def findWay (d way : Nat) (s : State) : State :=
  if listed s 4 d way 0 then s
  else bump Cnt.brgSramWayOff d 1 (noteFound (softEntry 4 d way 0 0 true false s) s)

/-- The field spare rows of a channel that are in use (R500). -/
def sparesUsed (s : State) (p : Nat) : Nat :=
  countIf (fun e => e.kind == 5 && e.unitNo == p / 128 && e.sub == p % 128 && e.repaired) s.flash.softMap

/-- A stack row with a failing sector (R500). -/
def findStackRow (p row : Nat) (s : State) : State :=
  let s := { s with brg := { s.brg with fullDirty := true } }
  if sparesUsed s p < 32 then
    bump Cnt.brgStackRowRepair p 1 (noteFound (softEntry 5 (p / 256) (p / 128) (p % 128) row true true s) s)
  else findChan p (noteFound (softEntry 5 (p / 256) (p / 128) (p % 128) row true false s) s)

/-- A channel is marked MARGINAL (R500). -/
def findMarginal (p : Nat) (s : State) : State :=
  let s := noteFound (softEntry 7 (p / 256) (p / 128) (p % 128) 0 true false s) s
  let s := { s with brg := { s.brg with fullDirty := true } }
  raise Ev.brgMarginal (srcOf 6 p) [] (bump Cnt.brgMarginal 0 1 s)

/-- A listed unit was tested and passed: it stays bad (R503). -/
def discrepancy (kind d unitNo sub src : Nat) (s : State) : State :=
  if listed s kind d unitNo sub then
    let e : FaultEntry := { softEntry kind d unitNo sub 0 false false s with passed := true }
    let soft := s.flash.softMap.map (fun x => if sameItem e x then { x with passed := true } else x)
    let s := { s with
      flash := { s.flash with softMap := soft }
      brg := { s.brg with found := s.brg.found ++ [e] } }
    raise Ev.brgDiscrepancy src [] (bump Cnt.brgDiscrepancy 0 1 s)
  else s

/-- A minority unit of the core cross-check: its retest decides (R499). -/
def crossMinority (u : PhysUnit) (agrees : Bool) (s : State) : State :=
  if agrees then chargeTransient 1 u s else findCore u.die u.k s

/-- What the SRAM test found (R498). -/
def sramFinding (f : Finding) (s : State) : State :=
  match f with
  | .coreRow d k bank row spare =>
    let s := findRow 2 d k bank row spare s
    if spare then s else findCore d k s
  | .depotRow d way bank row spare =>
    let s := findRow 3 d way bank row spare s
    if spare then s else findWay d way s
  | .bufferRow d bank row spare =>
    let s := findRow 2 d 0 bank row spare s
    if spare then s else { s with brg := { s.brg with diesBad := setInsert d s.brg.diesBad } }
  | _ => s

/-- What the core cross-check found (R499). -/
def coreFinding (f : Finding) (s : State) : State :=
  match f with
  | .coreMinority u agrees => crossMinority u agrees s
  | .corePassed d k => discrepancy 1 d k 0 (srcOf 2 (10 * d + k)) s
  | .tiles n => bump Cnt.brgTestTile 0 n s
  | _ => s

/-- What the memory test found; margining runs in FULL mode only (R500). -/
def memFinding (f : Finding) (s : State) : State :=
  match f with
  | .stackRow p row => if chanBad s p then s else findStackRow p row s
  | .channelNominal p => if s.brg.mode = 1 then findChan p s else s
  | .channelMarginal p => if s.brg.mode = 1 ∧ !chanBad s p then findMarginal p s else s
  | .channelPassed p => discrepancy 6 (p / 256) (p / 128) (p % 128) (srcOf 6 p) s
  | _ => s

/-- The units that a finding names exist. -/
def findingOk (s : State) : Finding → Bool
  | .coreRow d k _ _ _ => d < nDies s && k < 10
  | .depotRow d way _ _ _ => d < nDies s && way < 24
  | .bufferRow d _ _ _ => d < nDies s
  | .coreMinority u _ => u.die < nDies s && u.k < 10
  | .corePassed d k => d < nDies s && k < 10
  | .stackRow p _ => p < nChans s
  | .channelNominal p => p < nChans s
  | .channelMarginal p => p < nChans s
  | .channelPassed p => p < nChans s
  | .tiles _ => true
  | .dieMissing d => d < nDies s
  | .couplingBad c => hasCoupling s c

/-- A finding of the phase that completes; the internal topology is discovered along the way (R504). -/
def applyFound (phase : Nat) (s : State) (f : Finding) : State :=
  if !findingOk s f then s
  else
    match f with
    | .dieMissing d => { s with brg := { s.brg with diesBad := setInsert d s.brg.diesBad } }
    | .couplingBad c => { s with brg := { s.brg with couplingsBad := setInsert c s.brg.couplingsBad } }
    | _ =>
      if phase = 1 then sramFinding f s else if phase = 2 then coreFinding f s
      else if phase = 3 then memFinding f s else s

-- Phases (R494, R496).

/-- The mode of this bring-up is chosen once the firmware runs (R494). -/
def chooseMode (s : State) : State :=
  let auto := s.brg.requested = 0
  let mode := if auto then (if quickOk s then 2 else 1) else s.brg.requested
  let s := { s with brg := { s.brg with mode := mode } }
  if auto ∧ mode = 1 then raise Ev.brgQuickDenied 0 [] s else s

/-- The end of phase 0: firmware starts, or the device stays there (R558); the ports begin training. -/
def endStart (found : List Finding) (s : State) : State :=
  let s := if s.boot.started then s else bootFirmware s
  if s.boot.started then
    let s := trainAll (chooseMode (found.foldl (applyFound 0) s))
    { s with brg := { s.brg with phase := 1 } }
  else s

/-- BRG_PHASE_COMPLETE. -/
def phaseDoneS (found : List Finding) (s : State) : State :=
  if s.dev ≠ .bringup then s
  else if s.brg.phase = 0 then endStart found s
  else if s.brg.phase < 4 ∧ s.sm.state = .running then
    let s := found.foldl (applyFound s.brg.phase) s
    { s with brg := { s.brg with phase := s.brg.phase + 1 } }
  else s

def execBrgPhaseComplete (found : List Finding) (s : State) : Result := .next (phaseDoneS found s)

-- The decision (R504, R505).

/-- The good physical cores of a die, ascending. -/
def goodCores (s : State) (d : Nat) : List Nat := (List.range 10).filter (fun k => !coreBad s d k)

/-- The smallest number of good cores on any die. -/
def fewestGood (s : State) : Nat := ((List.range (nDies s)).map (fun d => (goodCores s d).length)).foldl Nat.min 10

/-- m of R504 and R505, with DEGRADED; none where cores are short. -/
def coresPerDie (s : State) : Option (Nat × Bool) :=
  let g := fewestGood s
  if 8 ≤ g then some (8, false)
  else if s.flash.brg.allow ∧ s.flash.brg.minLc ≤ g then some (g, true) else none

/-- The depot ways of a die that are off. -/
def deadWays (s : State) (d : Nat) : List Nat := (List.range 24).filter (fun w => listed s 4 d w 0)

/-- The bits of LIMITED_WHY (R504, R511). -/
def limitedWhy (s : State) : Nat :=
  let cpl := s.brg.couplingsBad.length
  bitmap [(coresPerDie s).isNone,
    s.brg.diesBad != [],
    2 ≤ cpl || (s.fuse.code == .cx2a && 1 ≤ cpl),
    (List.range (nDies s)).any (fun d => 4 < (deadWays s d).length),
    (List.range (nStacks s)).all (fun j => s.mem.stacksOut.contains j)]

/-- Stacks, channels, depot ways and couplings take the service that the merged map gives them (R355, R498, R504). -/
def reconcile (s : State) : State :=
  let bad := (List.range (nChans s)).filter (chanBad s)
  let out := setUnion [] (bad.map (fun p => p / 128))
  let ways := ((List.range (nDies s)).filter (fun d => deadWays s d != [])).map (fun d => (d, deadWays s d))
  let phases := s.brg.couplingsBad.map (fun c => (c, CplPhase.failed))
  { s with
    mem := { s.mem with
      badChans := bad
      stacksOut := out
      waysOff := ways }
    cpl := { s.cpl with
      phases := phases
      avoid := s.brg.couplingsBad.head? }
    brg := { s.brg with spreadOk := out == [] } }

/-- A full bring-up that found no failed channel, no new bad row and no marginal channel has passed (R495). -/
def recordFull (s : State) : State :=
  if s.brg.mode = 1 ∧ !s.brg.fullDirty then
    { s with flash := { s.flash with brg := { s.flash.brg with
      lastFullPass := some (histSeconds s)
      memEvent := false } } }
  else s

/-- The role of a physical core (R32, R505, R475). -/
def roleOf (s : State) (m d k : Nat) : PhysCore :=
  let p := physCore s (10 * d + k)
  if p.role = .fenced then p
  else if coreBad s d k then { bareCore with role := .fusedBad }
  else
    let c := countIf (fun x => decide (x < k)) (goodCores s d)
    if c < m then { bareCore with lc := some (m * d + c) } else { bareCore with role := .siding }

/-- Logical cores are assigned (R32, R505). -/
def assignCores (m : Nat) (s : State) : State :=
  let cores := (List.range (nDies s)).flatMap (fun d => (List.range 10).map (fun k => (10 * d + k, roleOf s m d k)))
  { s with
    brg := { s.brg with m := m }
    chk := { s.chk with cores := cores } }

/-- The device is ready, with m logical cores on each die (R504 to R506). -/
def becomeReady (m : Nat) (degraded : Bool) (s : State) : State :=
  let s := assignCores m s
  let s := { s with brg := { s.brg with
    degraded := degraded
    limitedWhy := 0 } }
  let s := raise Ev.brgReady 0 [] s
  if degraded then raise Ev.brgDegraded 0 (pay64 m) s else s

/-- The device is LIMITED (R504, R506). -/
def becomeLimited (why : Nat) (s : State) : State :=
  raise Ev.brgLimited 0 (pay64 why) { s with brg := { s.brg with limitedWhy := why } }

/-- Bring-up ends: phase 5, ELAPSED_MS frozen (R511); EV_MEM_NEARFAR where placement is near/far (R355). -/
def endBringup (s : State) : State :=
  let ms := (s.now - s.brg.startTime) / 1000000
  let s := { s with brg := { s.brg with
    phase := 5
    elapsedMs := some ms } }
  if s.brg.spreadOk then s else raise Ev.memNearfar 0 [] s

/-- Ports left DISABLED with REASON 2 are counted (R514). -/
def countRejects (s : State) : State :=
  let n := countIf (fun q => (port s q).st == .disabled && (port s q).reason == 2) (List.range (nPorts s))
  if n = 0 then s else bump Cnt.brgPortReject 0 n s

/-- BRG_DECIDE: phase 4 waits for the ports in TRAINING and for CMD_BRG_ALLOW_DEGRADED (R496, R507). -/
def decideS (s : State) : State :=
  let busy := (List.range (nPorts s)).any (fun q => (port s q).st == .training)
  if s.dev ≠ .bringup ∨ s.brg.phase ≠ 4 ∨ s.sm.state ≠ .running ∨ busy ∨ anyExecuting 0x0E02 s then s
  else
    let s := endBringup (recordFull (reconcile (countRejects s)))
    let why := limitedWhy s
    match why, coresPerDie s with
    | 0, some (m, degraded) => setDevHw .ready (becomeReady m degraded s)
    | _, _ => setDevHw .limited (becomeLimited why s)

def execBrgDecide (s : State) : Result := .next (decideS s)

-- The commands (R508 to R512).

/-- CMD_BRG_START: the reset follows its completion. -/
def brgStart (src : CmdSrc) (p : List Byte) (s : State) : State × Completion :=
  let mode := field p 0 2
  if 2 < mode ∨ field p 2 62 ≠ 0 then (s, failWith St.badParam 1)
  else if mode = 2 ∧ !quickOk s then (s, failWith St.badParam 2)
  else
    let s := { s with flash := { s.flash with brg := { s.flash.brg with startMode := mode } } }
    (deferOrphan src mode s, okWith [])

def execCmdBrgStart (src : CmdSrc) (s : State) : Result := .next (performNow 0x0E00 src (brgStart src) s)

/-- DEFERRED_RESET: 1 ms after the completion was written (R508, R561). -/
def deferredS (s : State) : State :=
  match s.brg.resetAt with
  | some (t, mode) => deviceReset mode (reachTime t s)
  | none => s

def execDeferredReset (s : State) : Result := .next (deferredS s)

/-- CMD_BRG_STATUS (R511). -/
def brgStatus (_ : List Byte) (s : State) : Completion :=
  let busy := (List.range (nPorts s)).any (fun q => (port s q).st == .training)
  let ms := s.brg.elapsedMs.getD ((s.now - s.brg.startTime) / 1000000)
  let b := s.flash.brg
  okWith (pack 32 [(0, 3, s.brg.phase), (3, 1, bit busy), (4, 2, s.brg.mode), (6, 1, bit (quickOk s)),
    (7, 1, bit s.brg.spreadOk), (8, 1, bit s.brg.degraded), (9, 1, bit b.allow), (10, 3, b.minLc), (16, 4, s.brg.m),
    (24, 6, s.brg.limitedWhy), (30, 1, bit b.memEvent), (32, 32, sat 0xFFFFFFFF ms),
    (64, 64, b.lastFullPass.getD (2 ^ 64 - 1)), (128, 64, histSeconds s), (192, 32, sat 0xFFFFFFFF b.total)])

def execCmdBrgStatus (src : CmdSrc) (s : State) : Result := .next (performQuery 0x0E01 src brgStatus s)

/-- CMD_BRG_ALLOW_DEGRADED (R506, R507, R510). -/
def allowDegraded (p : List Byte) (s : State) : State × Completion :=
  let allow := flag p 0
  let n := field p 1 3
  if field p 4 60 ≠ 0 ∨ (allow ∧ n = 0) ∨ (!allow ∧ n ≠ 0) then (s, failWith St.badParam 0)
  else
    let s := { s with flash := { s.flash with brg := { s.flash.brg with
      allow := allow
      minLc := n } } }
    match s.dev, s.brg.limitedWhy, coresPerDie s with
    | .limited, 1, some (m, degraded) => (setDev .ready (becomeReady m degraded s), okWith [])
    | _, _, _ => (s, okWith [])

/-- In LIMITED it may change the device state, and waits until every other command judged there has completed (R442). -/
def allowDegradedS (src : CmdSrc) (s : State) : State :=
  if s.dev = .limited ∧ heldBack src s then s else performNow 0x0E02 src allowDegraded s

def execCmdBrgAllowDegraded (src : CmdSrc) (s : State) : Result := .next (allowDegradedS src s)

/-- CMD_BRG_FAULT_MAP_READ (R512). -/
def faultMapRead (p : List Byte) (s : State) : Completion :=
  let n := field p 32 16
  if n = 0 ∨ 32768 < n ∨ field p 48 16 ≠ 0 then failWith St.badParam 0
  else okWith (((faultMap s).drop (field p 0 32)).take n |>.flatMap faultBytes)

def execCmdBrgFaultMapRead (src : CmdSrc) (s : State) : Result := .next (performQuery 0x0E03 src faultMapRead s)

end Sys2Proof.Machine
end

