-- ==== Sys2Proof/Machine/Departure.lean ====
section
/-! DEFINITION. Firing a departure (R47 to R73, R79, R81, R529), the end of a job, and the end-of-step point (R49). -/

namespace Sys2Proof.Machine

/-- The hold limit in ns (R53). -/
def holdLimit (j : Job) : Nat := j.hold * j.headway / 256

/-- Headway, HOLD and TT_LEAD in force from the nominal time of departure `n` on (R87). -/
def takeChanges (n : Nat) (j : Job) : Job :=
  (j.change.filter (fun c => c.step ≤ n)).foldl
    (fun j c => { j with headway := c.headway, hold := c.hold, lead := c.lead })
    { j with change := j.change.filter (fun c => n < c.step) }

/-- The job with the values in force at time `t` of a step, while the departure that ends it is pending (R87). -/
def paceAt (t : Nat) (j : Job) : Job := if j.phase = .inStep ∧ j.nominal ≤ t then takeChanges j.next j else j

/-- The job is changed. -/
def updJob (f : Job → Job) (s : State) : State :=
  match s.job with
  | some j => { s with job := some (f j) }
  | none => s

-- The end-of-step point (R49).

/-- A request of the running step that the end-of-step point waits for. -/
def awaited (s : State) (p : Pend) : Bool := p.step == s.step

/-- The running step has met every condition of R49; a logical core under copy holds it back (R472), and so does an
access of a core that a retraining coupling or channel still holds (R26, R371). -/
def endOfStep (s : State) : Bool :=
  outstanding s == 0 && !s.fab.pend.any (awaited s) && !s.mem.waiting.any coreAccess && !s.chk.failed
    && s.chk.cores.all (fun e => e.2.copying == [])

/-- The package sends its arrival message, or the master notes its own (R61). -/
def sendArrival (j : Job) (s : State) : State :=
  if j.master = pkgNo s then updJob (fun j => { j with pending := j.pending.filter (fun p => p != pkgNo s) }) s
  else sendPlain (.arrival (mkHdr s j.master 0)) s

/-- The end-of-step point is reached: a package that was late says so, unless it has forfeited the step or failed (R61, R75,
R465, R481). -/
def markEnd (s : State) : State :=
  match s.job with
  | none => s
  | some j =>
    if j.phase ≠ .inStep ∨ j.arrived ∨ !endOfStep s then s
    else
      let s := updJob (fun j => { j with arrived := true, endAt := some s.now, owes := false }) s
      if (j.late ∨ j.owes) ∧ !s.chk.forfeited then sendArrival j s else s

-- The phase entry (R529).

/-- The time of the last completion of a class, ns from departure n: 0 with none readied, none while some did not complete. -/
def classTime (j : Job) (cls : Nat) : Option Nat :=
  let r := mapGetD j.readied cls 0
  if r = 0 then some 0
  else if mapGetD j.done cls 0 < r then none
  else some (mapGetD j.doneAt cls 0 - j.depTime)

/-- The phase entry of the step that departure `m` ends, and its samples of R528. -/
def recordPhase (m : DepMsg) (s : State) : State :=
  match s.job with
  | none => s
  | some j =>
    if j.phase ≠ .inStep then s
    else
      let e : PhaseEntry := {
        step := s.step, depTime := j.depTime, tStep := classTime j 0, tLoad := classTime j 1
        tEnd := j.endAt.map (fun t => t - j.depTime), tNext := s.now - j.depTime, tHold := s.now - j.nominal
        late := j.late, left := m.left.contains (pkgNo s), sittingOut := j.sittingOut, forfeit := s.chk.forfeited
        syncLost := j.syncLost || !j.syncOk }
      let s := addPhase e s
      match e.tEnd with
      | none => s
      | some t => sample 0x0004 0 (e.tNext - t) (sample 0x0003 0 t s)

-- Firing (R59, R64, R67, R70).

/-- What the departure with left-behind list `left`, which declares `dead`, commits of the step that ends: staged writes,
directory and migrations, reductions (R64, R213, R220, R225, R405); hyperparameters in force for that step stay (R234). -/
def commitEnded (left dead : List Nat) (s : State) : State :=
  let n := s.step
  let s := commitStep n left s
  let s := (mapKeys s.pool.tables).foldl (fun s t => migCommit t n left dead s) s
  let s := rdCommit n left s
  let fold : Table → Table := fun tb =>
    { tb with hyper := hyperAt tb n, hyperNext := tb.hyperNext.filter (fun e => n < e.1) }
  { s with pool := { s.pool with tables := mapVals (fun _ tb => fold tb) s.pool.tables } }

/-- What every departure clears in the package (R67, R337, R366, R458). -/
def clearStep (s : State) : State :=
  let s := slotsDue (resetLines (clearNorm (flushAllStaging s)))
  { s with
    pool := { s.pool with
      replicas := []
      reads := [] }
    chk := { s.chk with
      tiles := []
      forfeited := false }
    eng := { s.eng with accWritten := [] }
    mem := { s.mem with written := [] } }

/-- The last step of a bounded job (R94). -/
def lastStepOf (j : Job) (n : Nat) : Bool := j.stepLimit != 0 && n + 1 == j.stepLimit

/-- The task classes readied at departure `n` (R70, R92, R94, R117, R476). -/
def classesAt (s : State) (j : Job) (n : Nat) : List Nat :=
  let own := pkgNo s
  if standingSpare s own && !assignedSpare s own then []
  else (if j.sittingOut then [1] else [0, 1]).filter (fun c => c == 0 || !lastStepOf j n)

/-- The job after departure `m` has fired, before any step begins. -/
def jobAfter (s : State) (m : DepMsg) (j : Job) : Job :=
  let spares := j.members.filter (fun p => standingSpare s p)
  let sit := setUnion (m.left.filter (fun p => j.members.contains p)) spares
  let j := takeChanges m.step j
  { j with
    nominal := m.fireTime + j.headway
    depTime := m.fireTime
    late := false
    arrived := false
    endAt := none
    readied := []
    done := []
    doneAt := []
    syncLost := !j.syncOk
    owes := false
    sittingOut := sit.contains (pkgNo s)
    sitting := sit
    holding := false
    decided := false
    pending := []
    sent := none
    leftCont := []
    partDep := none
    takeover := none
    adopted := none
    replaced := none
    started := true }

/-- Digests of step n - 16 and before are discarded when departure n + 1 fires, and what an older step awaited (R411). -/
def dropOld (n : Nat) (s : State) : State :=
  { s with fab := { s.fab with
    digests := s.fab.digests.filter (fun e => n ≤ e.1 / 4096 + 16)
    pend := s.fab.pend.filter (fun p => n ≤ p.step) } }

/-- Step `n` begins (R47): its tasks are readied, packets held for it are judged, migrations start (R218). -/
def beginStep (n : Nat) (s : State) : State :=
  match s.job with
  | none => s
  | some j =>
    let s := { s with job := some { j with phase := .inStep, next := n + 1 } }
    let s := armAll (classesAt s j n) s
    let s := (mapKeys s.pool.tables).foldl (fun s t => migDeparture t n s) s
    mirrorCommit (releaseStep (releaseEpoch s))

/-- Nothing is dispatched any more. -/
def stopDispatch (s : State) : State :=
  { s with dsp := { s.dsp with
    disps := []
    ctxs := []
    flight := []
    deques := []
    running := []
    samples := []
    idle := []
    asleep := []
    funcs := [] } }

/-- Migrations under way are completed where the job ends. -/
def finishMigs (s : State) : State := (mapKeys s.pool.tables).foldl (fun s t => migCommit t s.step [] [] s) s

/-- The regions that the device created for the job are freed (R79, R350). -/
def freeAreas (s : State) : State :=
  match s.job with
  | some j => j.areas.foldl (fun s id => destroyRegion id s) s
  | none => s

/-- The package leaves its job (R79, R80): what the job held is released. -/
def leaveJob (s : State) : State :=
  let s := freeAreas (endReplace (commitAllRows s))
  let s := stopDispatch s
  let s := { s with
    job := none
    pool := { s.pool with
      tables := mapVals (fun _ (tb : Table) => { tb with bufs := [], migs := [], queued := [], shadows := [], dirNext := [] })
        s.pool.tables
      staged := []
      contribs := []
      parts := []
      full := []
      writeback := []
      reads := []
      replicas := [] }
    fab := { s.fab with
      downMap := []
      pend := []
      heldEpoch := []
      heldStep := []
      colls := [] } }
  reserveWays (clearNorm s)

/-- The job is over: READY (R79). -/
def endJob (s : State) : State := setDevHw .ready (leaveJob (finishMigs s))

/-- Departure `m` fires (R59): the ended step is recorded, abandoned where this package is left behind, and committed;
spares join, packages are declared dead, and the next step begins, the job pauses, or it ends. -/
def fireDeparture (m : DepMsg) (s : State) : State :=
  match s.job with
  | none => s
  | some j =>
    let own := pkgNo s
    let ended := j.phase == .inStep
    let lost := m.left.contains own
    let former := j.replaced
    let s := bump Cnt.ttDep 0 1 (recordPhase m s)
    let s := if lost then bump Cnt.ttLeft 0 1 s else s
    let held : Bool := ended && j.decided && j.master == own && j.takeover.isNone && j.nominal < m.fireTime
    let s := if held then bump Cnt.ttHoldNs 0 (m.fireTime - j.nominal) s else s
    let s := sample 0x0001 0 j.offset s
    let s := if lost then abandonStep s else s
    let gone := deadNow (countLeft m.left s) m.left former
    let s := if ended then promoteAll lost (commitEnded m.left gone s) else promoteAll true s
    let s := declareAll m.left former (joinSpares (clearStep s))
    let dead := !isMember s own
    let s := dropOld m.step { s with step := m.step }
    let s := updJob (fun j => { jobAfter s m j with next := m.step }) s
    let s := if j.started then s else answerWaiting 0x0200 (okWith []) s
    if dead then enterQuarantine s
    else if m.ends ∨ (ended ∧ j.stepLimit ≠ 0 ∧ m.step = j.stepLimit) then endJob s
    else if m.quiesce then setDevHw .quiesced (updJob (fun j => { j with phase := .paused }) (mirrorCommit s))
    else beginStep m.step s

/-- DEPARTURE_FIRE: TCLK of D0 reaches the fire time of the departure message in hand (R58, R59). -/
def departureFireS (s : State) : State :=
  match s.job with
  | none => s
  | some j =>
    match j.sent with
    | some m => if s.dev = .running then fireDeparture m (reachTime m.fireTime s) else s
    | none => s

def execDepartureFire (s : State) : Result := .next (departureFireS s)

/-- END_OF_STEP_REACHED (R49): with the arrival of the last late package, a master that holds sends the departure. -/
def endOfStepS (s : State) : State := if s.dev = .running then markEnd s else s

end Sys2Proof.Machine
end

