-- ==== Sys2Proof/Machine/Graphs.lean ====
section
/-! DEFINITION. The graph commands of R121 to R124 and R593. -/

namespace Sys2Proof.Machine

/-- Graph `h` becomes `g`. -/
def setGraph (h : Nat) (g : Graph) (s : State) : State :=
  { s with dsp := { s.dsp with graphs := mapSet s.dsp.graphs h g } }

-- CMD_DSP_GRAPH_OPEN and CMD_DSP_GRAPH_DATA (R122, R123).

/-- CMD_DSP_GRAPH_OPEN. -/
def graphOpen (p : List Byte) (s : State) : State × Completion :=
  let n := field p 0 32
  if n < 1024 ∨ 1073741824 < n ∨ n % 64 ≠ 0 then (s, failWith St.badParam 0)
  else if 8 ≤ s.dsp.graphs.length then (s, failWith St.noSpace 0)
  else
    let h := s.dsp.nextHandle
    let s := setGraph h { size := n, units := [], committed := false, bases := [] } s
    let next := if h + 1 < 2 ^ 32 then h + 1 else 1
    ({ s with dsp := { s.dsp with nextHandle := next } }, okWith (toLE 4 h))

def execCmdDspGraphOpen (src : CmdSrc) (s : State) : Result := .next (performNow 0x0300 src graphOpen s)

/-- CMD_DSP_GRAPH_DATA: the last data written before the commit counts. -/
def graphData (p : List Byte) (s : State) : State × Completion :=
  let h := field p 0 32
  let off := field p 32 32
  let n := field p 64 32
  match mapGet s.dsp.graphs h with
  | none => (s, failWith St.badParam 0)
  | some g =>
    if g.committed ∨ off % 64 ≠ 0 ∨ n % 64 ≠ 0 ∨ n < 64 ∨ 524288 < n ∨ g.size < off + n then (s, failWith St.badParam 0)
    else
      let units := (List.range (n / 64)).foldl (fun m k => mapSet m (off / 64 + k) (slice p (12 + 64 * k) 64)) g.units
      (setGraph h { g with units := units } s, okWith [])

def execCmdDspGraphData (src : CmdSrc) (s : State) : Result := .next (performNow 0x0301 src graphData s)

-- CMD_DSP_GRAPH_COMMIT (R124).

/-- A field at an image offset, and whether it is right. -/
abbrev FieldCheck := Nat × Bool

/-- The offset of the first field that is wrong. -/
def firstBad (l : List FieldCheck) : Option Nat := (l.find? (fun c => !c.2)).map (fun c => c.1)

/-- IMAGE_CRC of the image, the field itself taken as zero (R95). -/
def imgCrc (g : Graph) : Nat :=
  crc32 (splice (imgRead g 0 g.size) 12 (zeros 4))

/-- Check 2: every unit is written. -/
def checkWritten (g : Graph) : List FieldCheck :=
  (List.range (g.size / 64)).map (fun u => (64 * u, (mapGet g.units u).isSome))

/-- Check 3: IMAGE_CRC. -/
def checkCrc (g : Graph) : List FieldCheck := [(12, field (imgHeader g) 96 32 == imgCrc g)]

/-- Check 4, the header. -/
def checkHeader (s : State) (g : Graph) : List FieldCheck :=
  let b := imgHeader g
  let q := field b 32 32
  let dir := imgDir g
  [(0, field b 0 16 == 1), (2, imgLcCount g == nLc s), (3, field b 24 8 == 0),
   (4, q == 0 || (7000 ≤ q && q ≤ 7000000)), (8, field b 64 32 == g.size),
   (24, dir % 16 == 0 && 128 ≤ dir && dir + 16 * imgLcCount g ≤ g.size), (26, field b 208 816 == 0)]

/-- Check 4, directory entry c. -/
def checkDirEntry (g : Graph) (c : Nat) : List FieldCheck :=
  let o := imgDir g + 16 * c
  let e := dirEntryOf g c
  let so := secOffset g c
  let last := secEnd g c
  [(o, so % 64 == 0 && imgDir g + 16 * imgLcCount g ≤ so && so < g.size),
   (o + 4, so + 64 * taskCount g c ≤ last),
   (o + 6, templateCount g c ≤ 1024 && so + 64 * (taskCount g c + templateCount g c) ≤ last),
   (o + 14, field e 112 16 == 0)]

/-- Check 4: header, then directory. -/
def check4 (s : State) (g : Graph) : List FieldCheck :=
  checkHeader s g ++ (List.range (imgLcCount g)).flatMap (checkDirEntry g)

/-- Check 5, one descriptor at offset `o` whose section holds `ext` bytes; `tmpl`: a template. -/
def checkDesc (o ext : Nat) (tmpl : Bool) (b : List Byte) : List FieldCheck :=
  let k := tdKind b
  [(o, k ≤ 3 && tdClass b ≤ 2),
   (o + 1, (!tdStealOk b || k == 1) && field b 12 4 == 0),
   (o + 2, !tmpl || tdDeps b == 0),
   (o + 4, !tmpl || tdSuccs b == 0),
   (o + 6, field b 48 16 == 0),
   (o + 8, tdSuccOff b % 4 == 0
      && (if tmpl then tdSuccOff b == 0 else tdSuccOff b < ext && tdSuccOff b + 4 * tdSuccs b ≤ ext)),
   (o + 12, if k == 3 then tdCode b == 0 else tdCode b < ext),
   (o + 16, if k == 1 then tdShunter b < 8 || tdShunter b == 255 else tdShunter b == 0),
   (o + 17, field b 136 24 == 0),
   (o + 20, tdArgOff b == 0 || (tdArgOff b < ext && tdArgOff b + tdArgBytes b ≤ ext)),
   (o + 24, tdArgBytes b ≤ 65536),
   (o + 28, field b 224 32 == 0)]

/-- Check 5: every descriptor and template. -/
def check5 (g : Graph) : List FieldCheck :=
  (List.range (imgLcCount g)).flatMap (fun c =>
    let so := secOffset g c
    let ext := secEnd g c - so
    (List.range (taskCount g c)).flatMap (fun t => checkDesc (so + 64 * t) ext false (taskBytes g c t))
      ++ (List.range (templateCount g c)).flatMap (fun k =>
        checkDesc (so + 64 * (taskCount g c + k)) ext true (templateBytes g c k)))

/-- Every task: logical core and index. -/
def allTasks (g : Graph) : List (Nat × Nat) :=
  (List.range (imgLcCount g)).flatMap (fun c => (List.range (taskCount g c)).map (fun t => (c, t)))

/-- The successors of a task. -/
def succsOf (g : Graph) (e : Nat × Nat) : List (Nat × Nat) :=
  let b := taskBytes g e.1 e.2
  (List.range (tdSuccs b)).map (successor g e.1 b)

/-- The number of successor entries of `l` that name a task. -/
def namings (g : Graph) (l : List (Nat × Nat)) (e : Nat × Nat) : Nat :=
  sumNat (l.map (fun p => countIf (fun q => q == e) (succsOf g p)))

/-- Check 6: every entry names a task of the same class, and every DEP_COUNT is the number of entries that name it. -/
def check6 (g : Graph) : List FieldCheck :=
  let all := allTasks g
  let entries := all.flatMap (fun e =>
    let b := taskBytes g e.1 e.2
    (List.range (tdSuccs b)).map (fun k =>
      let x := successor g e.1 b k
      (secOffset g e.1 + tdSuccOff b + 4 * k, x.1 < imgLcCount g && x.2 < taskCount g x.1
        && tdClass (taskBytes g x.1 x.2) == tdClass b)))
  entries ++ all.map (fun e =>
    (secOffset g e.1 + 64 * e.2 + 2, tdDeps (taskBytes g e.1 e.2) == namings g all e))

/-- The tasks left when those without producers among them are taken away, again and again. -/
def peel (g : Graph) : Nat → List (Nat × Nat) → List (Nat × Nat)
  | 0, l => l
  | fuel + 1, l =>
    let l' := l.filter (fun e => namings g l e != 0)
    if l'.length = l.length then l else peel g fuel l'

/-- Check 7: no cycle. -/
def check7 (g : Graph) : List FieldCheck :=
  let all := allTasks g
  (peel g (all.length + 1) all).map (fun e => (secOffset g e.1 + 64 * e.2, false))

/-- Where the reservation of a graph goes in the scratchpad of logical core `c`: the lowest free range of the program area
of 123 MiB beside those of the committed graphs (R124, R348; assumption log 34). -/
def placeReserve (s : State) (g : Graph) (c : Nat) : Option Nat :=
  let taken := (s.dsp.graphs.filter (fun e => e.2.committed)).map
    (fun e => (mapGetD e.2.bases c 0, reserveKib e.2 c * 1024))
  lowestFree (taken.filter (fun e => e.2 != 0)) (reserveKib g c * 1024) 0x7B00000

/-- Check 8: where the reservation goes on every logical core, if each can hold it. -/
def check8 (s : State) (g : Graph) : Option (AMap Nat) :=
  (List.range (imgLcCount g)).foldl (fun m c =>
    match m, placeReserve s g c with
    | some m, some o => some (mapSet m c o)
    | _, _ => none) (some [])

/-- ST_BAD_GRAPH at check `k`, with the image offset of the first offending field. -/
def badGraph (k off : Nat) : Completion :=
  { status := St.badGraph, resp := toLE 4 k ++ toLE 4 off, dstep := 10, dcheck := k }

/-- The first of checks 2 to 7 that fails, with its offset. -/
def graphFault (s : State) (g : Graph) : Option (Nat × Nat) :=
  let at' : Nat → List FieldCheck → Option (Nat × Nat) := fun k l => (firstBad l).map (fun o => (k, o))
  match at' 2 (checkWritten g) with
  | some e => some e
  | none => match at' 3 (checkCrc g) with
    | some e => some e
    | none => match at' 4 (check4 s g) with
      | some e => some e
      | none => match at' 5 (check5 g) with
        | some e => some e
        | none => match at' 6 (check6 g) with
          | some e => some e
          | none => at' 7 (check7 g)

/-- A committed graph's sections are placed in their reservations (R96, R105; assumption log 34). -/
def placeGraph (h : Nat) (g : Graph) (s : State) : State :=
  (List.range (imgLcCount g)).foldl (fun s c =>
    let n := Nat.min (reserveKib g c * 1024) (secEnd g c - secOffset g c)
    homeWrite (scratchBase + c * scratchBytes + reserveBase s h c) (imgRead g (secOffset g c) n) s) s

/-- CMD_DSP_GRAPH_COMMIT. -/
def graphCommit (p : List Byte) (s : State) : State × Completion :=
  let h := field p 0 32
  match mapGet s.dsp.graphs h with
  | none => (s, failWith St.badParam 1)
  | some g =>
    if g.committed then (s, failWith St.badParam 1)
    else
      match graphFault s g with
      | some (k, off) => (s, badGraph k off)
      | none =>
        match check8 s g with
        | some bases =>
          let g' := { g with committed := true, bases := bases }
          (raise Ev.dspGraphCommit 0 [] (placeGraph h g' (setGraph h g' s)), okWith [])
        | none => (s, failWith St.noSpace 8)

def execCmdDspGraphCommit (src : CmdSrc) (s : State) : Result := .next (performNow 0x0302 src graphCommit s)

-- CMD_DSP_GRAPH_UNLOAD and CMD_DSP_GRAPH_INFO (R123, R593).

/-- A running or quiesced job names the handle. -/
def graphInJob (s : State) (h : Nat) : Bool :=
  match s.job with
  | some j => j.graph == h
  | none => false

/-- CMD_DSP_GRAPH_UNLOAD. -/
def graphUnload (p : List Byte) (s : State) : State × Completion :=
  let h := field p 0 32
  match mapGet s.dsp.graphs h with
  | none => (s, failWith St.badParam 0)
  | some _ =>
    if graphInJob s h then (s, failWith St.inUse 0)
    else ({ s with dsp := { s.dsp with graphs := mapDel s.dsp.graphs h } }, okWith [])

def execCmdDspGraphUnload (src : CmdSrc) (s : State) : Result := .next (performNow 0x0303 src graphUnload s)

/-- CMD_DSP_GRAPH_INFO. -/
def graphInfo (p : List Byte) (s : State) : Completion :=
  let h := field p 0 32
  match mapGet s.dsp.graphs h with
  | none => failWith St.badParam 0
  | some g =>
    if g.committed then
      let st := if graphInJob s h then 2 else 1
      let b := imgHeader g
      okWith (pack 32 [(0, 32, h), (32, 2, st), (40, 7, imgLcCount g), (47, 1, bit (imgFixed g)), (64, 32, g.size),
          (96, 32, imgQuantum g), (128, 64, field b 128 64)]
        ++ (List.range (imgLcCount g)).flatMap (fun c =>
          pack 8 [(0, 16, taskCount g c), (16, 16, templateCount g c), (32, 16, reserveKib g c)]))
    else okWith (pack 32 [(0, 32, h), (64, 32, g.size)])

def execCmdDspGraphInfo (src : CmdSrc) (s : State) : Result := .next (performQuery 0x0304 src graphInfo s)

end Sys2Proof.Machine
end

