-- ==== Sys2Proof/Machine/CmdTable.lean ====
section
/-! DEFINITION. What validation needs to know of each command (R437, R441, R446): the length of its payload, its largest
response, and the objects it holds. -/

namespace Sys2Proof.Machine

/-- The objects of R446. -/
inductive Obj where
  | graph (h : Nat)
  | region (r : Nat)
  | table (t : Nat)
  | tensor (t : Nat)
  | channel (c : Nat)
  | port (p : Nat)
  | timetable
  | config
  | flash
  deriving DecidableEq, Repr

/-- The payload bytes of the commands with a fixed field map, the signature trailer apart (R437). -/
def fixedLens : List (Nat × Nat) :=
  [(0x0101, 0), (0x0200, 560), (0x0201, 20), (0x0202, 0), (0x0203, 0), (0x0204, 0), (0x0205, 0), (0x0300, 4),
   (0x0302, 4), (0x0303, 4), (0x0304, 4), (0x0400, 48), (0x0401, 4), (0x0402, 20), (0x0403, 0), (0x0404, 24),
   (0x0500, 8), (0x0501, 0), (0x0600, 576), (0x0601, 4), (0x0604, 28), (0x0605, 16), (0x0606, 12), (0x0607, 4)]
  ++ [(0x0700, 72), (0x0701, 8), (0x0A00, 40), (0x0A01, 0), (0x0B00, 16), (0x0B01, 2), (0x0B03, 12), (0x0B04, 4),
   (0x0B05, 8), (0x0B06, 2), (0x0B07, 3), (0x0B08, 0), (0x0C00, 8), (0x0C01, 0), (0x0C02, 4), (0x0C03, 8),
   (0x0C04, 8), (0x0C05, 12), (0x0D00, 8), (0x0D01, 0), (0x0D02, 8), (0x0D03, 0), (0x0D04, 8)]
  ++ [(0x0E00, 8), (0x0E01, 0), (0x0E02, 8), (0x0E03, 8), (0x0F00, 20), (0x0F01, 2), (0x0F02, 0), (0x0F03, 1),
   (0x0F04, 6), (0x0F05, 16), (0x0F07, 10), (0x1000, 1), (0x1001, 10), (0x1010, 32), (0x1011, 128), (0x1012, 4),
   (0x1014, 0), (0x1015, 4), (0x1100, 0), (0x1101, 8), (0x1102, 0)]

/-- Bytes of a row entry of CMD_EMB_WRITE_ROWS, where the table is created here (R231). -/
def writeEntry (s : State) (p : List Byte) : Option Nat := (table s (field p 0 16)).map (fun tb => 8 + rowStride tb.payload)

/-- The payload length of R437, from the payload's own fields where it has variable parts. A row entry of a table that is
not created has no length to check. -/
def cmdLen (s : State) (op : Nat) (p : List Byte) : Nat :=
  match mapGet fixedLens op with
  | some n => n
  | none =>
    if op = 0x0100 then Nat.min p.length 4096
    else if op = 0x0301 ∨ op = 0x0B02 then 12 + field p 64 32
    else if op = 0x0602 then
      match writeEntry s p with
      | some w => 8 + w * field p 32 32
      | none => p.length
    else if op = 0x0603 then 8 + 8 * field p 32 32
    else if op = 0x0D05 then 8 + 520 * field p 8 4
    else if op = 0x0F06 then 8 + 8 * field p 0 8
    else if op = 0x1013 then 8 + field p 32 32
    else 0

/-- The responses of one size (step 8 of R441). -/
def fixedResps (s : State) : List (Nat × Nat) :=
  [(0x0101, 32), (0x0205, 64), (0x0300, 4), (0x0302, 8), (0x0304, 32 + 8 * nLc s), (0x0403, 1152), (0x0501, 8),
   (0x0602, 4), (0x0607, 600), (0x0A01, (sigInfoBytes s).length), (0x0B00, 24), (0x0B08, 8 + 8 * 16 + 256),
   (0x0C01, 8 + 8 * nPorts s), (0x0D01, 16), (0x0D02, 8), (0x0D03, 80 * nDies s), (0x0E01, 32), (0x1010, 896),
   (0x1100, 24), (0x1102, 8 * nDies s)]

/-- The values that CMD_EVR_COUNTERS_READ asks for (R532). -/
def counterValues (p : List Byte) : Nat := sumNat ((List.range (field p 0 8)).map (fun i => field p ((8 + 8 * i) * 8 + 32) 16))

/-- `n` entries of `w` bytes; a count out of its range produces none. -/
def entriesOf (n limit w : Nat) : Nat := if n ≤ limit then n * w else 0

/-- The largest response that the payload can produce (step 8 of R441). -/
def cmdMaxResp (s : State) (op : Nat) (p : List Byte) : Nat :=
  match mapGet (fixedResps s) op with
  | some n => n
  | none =>
    if op = 0x0100 then p.length
    else if op = 0x0404 then 8 + 8 * field p 160 10
    else if op = 0x0603 then
      match writeEntry s p with
      | some w => if field p 32 32 * w ≤ 524288 then Nat.max 4 (field p 32 32 * w) else 4
      | none => 4
    else if op = 0x0606 then entriesOf (field p 64 32) 32768 16
    else if op = 0x0701 then (tensorInfo p s).resp.length
    else if op = 0x0B03 then
      let n := field p 64 32
      if n ≤ 524288 then n + cdiv (unitsOf 32 (field p 0 64) n).length 8 else 0
    else if op = 0x0B04 then entriesOf (field p 16 16) 4096 32
    else if op = 0x0B07 then (if field p 17 7 ≤ 64 then cdiv (2 * field p 17 7 + 1) 8 else 0)
    else if op = 0x0C05 then entriesOf (field p 80 16) 4096 32
    else if op = 0x0D04 then entriesOf (field p 32 16) 16384 32
    else if op = 0x0E03 then entriesOf (field p 32 16) 32768 16
    else if op = 0x0F00 then entriesOf (field p 128 32) 524288 1
    else if op = 0x0F04 then entriesOf (field p 32 16) 4096 (if field p 0 2 = 0 then 48 else 192)
    else if op = 0x0F06 then (if counterValues p ≤ 65536 then 16 + 8 * counterValues p else 0)
    else if op = 0x0F07 then entriesOf (field p 64 16) 4096 48
    else if op = 0x1000 then entriesOf (field p 0 8) 64 512
    else if op = 0x1001 then entriesOf (field p 64 16) 256 64
    else 0

/-- The region that a range begins in. -/
def regionObj (s : State) (a : Nat) (excl : Bool) : List (Obj × Bool) :=
  match regionAt s a with
  | some (id, _) => [(.region id, excl)]
  | none => []

/-- The exclusive holders of the package's configuration, and the queries that share it (R446). -/
def configHolders : List Nat := [0x0B05, 0x0500, 0x0C03, 0x0D00, 0x0F05, 0x0A00, 0x0C00, 0x0400, 0x0401, 0x0402]

/-- See configHolders. -/
def configReaders : List Nat := [0x0B08, 0x0501, 0x0D01, 0x0A01, 0x0C01, 0x0403]

/-- The commands that hold the flash exclusively (R508, R531, R565). -/
def flashHolders : List Nat := [0x0E00, 0x0E02, 0x0F03, 0x1011, 0x1012, 0x1013, 0x1014, 0x1015]

/-- The objects a command holds, each exclusively or shared (R446). -/
def cmdObjs (s : State) (op : Nat) (p : List Byte) : List (Obj × Bool) :=
  if configHolders.contains op then [(.config, true)]
  else if configReaders.contains op then [(.config, false)]
  else if flashHolders.contains op then [(.flash, true)]
  else if [0x0301, 0x0302, 0x0303].contains op then [(.graph (field p 0 32), true)]
  else if op = 0x0304 then [(.graph (field p 0 32), false)]
  else if op = 0x0200 then [(.timetable, true), (.graph (field p 64 32), false)]
  else if [0x0201, 0x0202, 0x0203, 0x0204].contains op then [(.timetable, true)]
  else if op = 0x0205 then [(.timetable, false)]
  else if op = 0x0B01 then [(.region (field p 0 12), true)]
  else if op = 0x0B02 then regionObj s (field p 0 64) true
  else if op = 0x0B03 then regionObj s (field p 0 64) false
  else if op = 0x0B04 then
    ((List.range (field p 16 16)).filter (fun i => field p 0 12 + i < 4096)).map (fun i => (.region (field p 0 12 + i), false))
  else if [0x0600, 0x0601, 0x0602].contains op then [(.table (field p 0 16), true)]
  else if op = 0x0C04 then [(.table (field p 0 8), true)]
  else if [0x0603, 0x0604, 0x0605, 0x0606, 0x0607].contains op then [(.table (field p 0 16), false)]
  else if op = 0x0700 then [(.tensor (field p 0 12), true)]
  else if op = 0x0701 then [(.tensor (field p 0 12), false)]
  else if op = 0x0B06 ∨ op = 0x0B07 then [(.channel (field p 0 4 * 128 + field p 8 7), true)]
  else if op = 0x0C02 then [(.port (field p 0 4), true)]
  else []

/-- This package is the tick master of its job (R79, R84). -/
def tickMaster (s : State) : Bool :=
  match s.job with
  | some j => j.master == pkgNo s
  | none => false

/-- QUIESCED was entered under R77: every member accepts CMD_TT_JOB_END itself (R79). -/
def r77Quiesced (s : State) : Bool :=
  match s.job with
  | some j => j.noMaster && s.dev == .quiesced
  | none => false

end Sys2Proof.Machine
end

