-- ==== Sys2Proof/Machine/Mailbox.lean ====
section
/-! DEFINITION. The host interface (chapter 13): BAR registers, mailboxes, validation and completion of commands, load
shedding, and the sideband. -/

namespace Sys2Proof.Machine

/-- The host reaches the BARs (R423, R575, R578). -/
def reachable (s : State) : Bool := diesRun s && s.pkg.perstN && s.pkg.refclk

/-- A BAR write is discarded and counted (R424, R427, R432). -/
def dropBar (s : State) : State := bump Cnt.mbxBarWrDrop 0 1 s

/-- What the host does reaches the device only over a working PCIe link. -/
def onBar (f : State → State) (s : State) : State := if reachable s then f s else s

-- Completions (R434, R439, R440, R591).

/-- The counters of one completion (R454). -/
def countCompletion (n : Nat) (c : Slot) (r : Completion) (s : State) : State :=
  let s := bump Cnt.mbxCmd n 1 s
  let s := if r.status = St.busy then bump Cnt.mbxBusy n 1 s
    else if r.status = St.ok then s else bump Cnt.mbxReject n 1 s
  let s := if r.status = St.timeout then bump Cnt.mbxTimeout n 1 s else s
  bump Cnt.mbxServiceNs (cmdClass c.opcode) (s.now - c.postTime) s

/-- A completed CMD_BRG_START or CMD_PKG_FW_ACTIVATE with RESET_NOW resets the device 1 ms later (R508, R561). -/
def afterCompletion (c : Slot) (r : Completion) (s : State) : State :=
  if r.status ≠ St.ok then s
  else if c.opcode = 0x0E00 then deferReset s.flash.brg.startMode s
  else if c.opcode = 0x1015 ∧ flag c.payload 0 then deferReset 0 s
  else s

/-- The newest checkpoint records what the completion says, and its copy goes to the flash (R38, R42). -/
def newCheckpoint (s : State) : State :=
  let k := s.sm.sram.ckpt + 1
  { s with
    sm := { s.sm with sram := { s.sm.sram with ckpt := k } }
    flash := { s.flash with ckpt := k } }

/-- The steps of R439 for mailbox n: response, record bytes 8 to 63, bytes 0 to 7, the mailbox's registers and state, the
interrupt. -/
def writeCompletion (n : Nat) (c : Slot) (r : Completion) (s : State) : State :=
  let m := mailbox s n
  let rec_ := recordBytes c r s.now
  let s := newCheckpoint s
  let outs := (if r.resp.isEmpty then [] else [HostOut.write (m.retBase + 64) r.resp])
    ++ [.write (m.retBase + 8) (rec_.drop 8), .write m.retBase (rec_.take 8)]
  let s := { s with host := { s.host with out := s.host.out ++ outs } }
  let detail := r.dstep + 256 * r.dcheck
  let s := setMailbox n { m with
    phase := if m.closing then .closed else .idle
    closing := false
    held := false
    slot := none
    lastSeq := field c.header 32 32
    lastStatus := r.status + 65536 * detail } s
  let s := noteIdle (countCompletion n c r s)
  let s := if m.irqEn then msix n s else s
  afterCompletion c r s

/-- A completion of mailbox n falls due: it is written, or held while Bus Master Enable is clear (R591). -/
def completeMbx (n : Nat) (s : State) : State :=
  let m := mailbox s n
  match m.slot with
  | some c =>
    match c.done with
    | some r =>
      if m.phase ≠ .executing then s
      else if s.host.busMaster && reachable s then writeCompletion n c r s
      else setMailbox n { m with held := true } s
    | none => s
  | none => s

/-- The command posted in mailbox n, as its window holds it. -/
def postedSlot (m : Mailbox) : Slot :=
  let h := slice m.window 0 64
  { header := h, payload := slice m.window 64 (Nat.min (field h 64 32) 1048512), opcode := field h 0 16,
    postTime := m.postTime, waits := false, stale := false, done := none }

/-- The hardware completes the posted command of mailbox n with a status and no effect (R434, R443). -/
def completePosted (n st : Nat) (s : State) : State :=
  let m := mailbox s n
  completeMbx n (setMailbox n { m with
    phase := .executing, slot := some { postedSlot m with done := some (plain st) } } s)

/-- MBX_COMPLETION: the stationmaster's completion of the command that mailbox n executes is written. -/
def execMbxCompletion (n : Nat) (s : State) : Result := onUnit (n < 64) (completeMbx n s)

-- Mailbox registers (R432 to R435).

/-- MBX_RET_BASE and MBX_RET_SIZE are valid (R432). -/
def retValid (m : Mailbox) : Bool :=
  m.retBase != 0 && m.retBase % 4096 == 0 && m.retSize % 4096 == 0 && 4096 ≤ m.retSize && m.retSize ≤ 2097152

/-- OPEN is written 1 (R434). -/
def openMbx (n : Nat) (irqEn : Bool) (s : State) : State :=
  let m := mailbox s n
  match m.phase with
  | .closed =>
    if retValid m && s.host.busMaster then setMailbox n { m with phase := .idle, irqEn := irqEn } s
    else setMailbox n { m with irqEn := irqEn, lastStatus := St.badParam } s
  | _ => if m.closing then s else setMailbox n { m with irqEn := irqEn } s

/-- OPEN is written 0 (R434). -/
def closeMbx (n : Nat) (irqEn : Bool) (s : State) : State :=
  let m := { mailbox s n with irqEn := irqEn }
  match m.phase with
  | .closed => setMailbox n m s
  | .idle => setMailbox n { m with phase := .closed } s
  | .posted => bump Cnt.mbxAbort n 1 (setMailbox n { m with phase := .closed } s)
  | .executing => setMailbox n { m with closing := true } s

/-- ABORT is written 1 (R434, R435). -/
def abortMbx (n : Nat) (s : State) : State :=
  match (mailbox s n).phase with
  | .posted => bump Cnt.mbxAbort n 1 (completePosted n St.aborted s)
  | _ => bump Cnt.mbxPostIgnored n 1 s

/-- MBX_POST is written (R434, R443). -/
def postMbx (n value : Nat) (s : State) : State :=
  let m := mailbox s n
  match m.phase with
  | .idle =>
    let s := setMailbox n { m with phase := .posted, postValue := value, postTime := s.now } s
    if s.sm.state = .failed then completePosted n St.smFailed s else s
  | _ => bump Cnt.mbxPostIgnored n 1 s

/-- Bytes are written to the window of mailbox n (R430). -/
def windowWrite (n off : Nat) (d : List Byte) (s : State) : State :=
  let m := mailbox s n
  match m.phase with
  | .closed | .idle => setMailbox n { m with window := splice m.window off d } s
  | _ => bump Cnt.mbxWinWrDrop n 1 s

def execMbxOpen (n : Nat) (irqEn : Bool) (s : State) : Result := onUnit (n < 64) (onBar (openMbx n irqEn) s)

def execMbxClose (n : Nat) (irqEn : Bool) (s : State) : Result := onUnit (n < 64) (onBar (closeMbx n irqEn) s)

def execMbxAbort (n : Nat) (s : State) : Result := onUnit (n < 64) (onBar (abortMbx n) s)

def execMbxPost (n value : Nat) (s : State) : Result := onUnit (n < 64) (onBar (postMbx n value) s)

def execMbxWindowWrite (n offset : Nat) (data : List Byte) (s : State) : Result :=
  onUnit (n < 64 && offset + data.length ≤ 1048576) (onBar (windowWrite n offset data) s)

/-- MBX_POST_TIMEOUT: the header's timeout of a posted command expires (R434, R435). -/
def postTimeoutS (n : Nat) (s : State) : State :=
  let m := mailbox s n
  let t := field m.window 96 32
  if m.phase = .posted ∧ t ≠ 0 then completePosted n St.timeout (reachTime (m.postTime + t * 1000000) s) else s

def execMbxPostTimeout (n : Nat) (s : State) : Result := onUnit (n < 64) (postTimeoutS n s)

-- PKG_RESET, PKG_EVT_STATUS and the other registers (R424 to R429, R591).

/-- DEV_RESET: PKG_RESET written with DEV_RESET = 1 and its key (R427, R494). -/
def execDevReset (full : Bool) (s : State) : Result := .next (onBar (deviceReset (bit full)) s)

/-- PKG_EVT_STATUS: each 1 clears its bit (R12, R428), but one that the hardware set in the same cycle, TCLK's (R13). -/
def evtStatusWrite (v : W32) (s : State) : State :=
  let held := BitVec.ofNat 32 (packNat ((s.host.evtSet.filter (fun e => e.2 == s.now)).map (fun e => (e.1, 1, 1))))
  { s with host := { s.host with evtStatus := s.host.evtStatus &&& ~~~(v &&& ~~~held) } }

def execPkgEvtStatusWrite (value : W32) (s : State) : Result := .next (onBar (evtStatusWrite value) s)

/-- PKG_RESET (R427): a wrong key is discarded and counted. -/
def resetWrite (v : Nat) (s : State) : State :=
  if v / 256 % 256 ≠ 0xA5 then dropBar s
  else if v % 2 = 1 then deviceReset (v / 2 % 2) s
  else s

/-- A dword of the MSI-X table is written; a vector that is unmasked with its message pending sends it (R591). -/
def msixWrite (k v : Nat) (s : State) : State :=
  let s := { s with host := { s.host with msixTable := mapSet s.host.msixTable k (BitVec.ofNat 32 v) } }
  let vec := k / 4
  if s.host.msixPending.contains vec && !msixMasked s vec then
    msix vec { s with host := { s.host with msixPending := s.host.msixPending.filter (fun x => x != vec) } }
  else s

/-- A write to the control registers of mailbox n at entry offset `o` (R432, R433). -/
def mbxRegWrite (n o v : Nat) (s : State) : State :=
  let m := mailbox s n
  match o with
  | 0x00 =>
    if m.phase = .closed then setMailbox n { m with retBase := m.retBase / 2 ^ 32 * 2 ^ 32 + v } s else dropBar s
  | 0x04 =>
    if m.phase = .closed then setMailbox n { m with retBase := m.retBase % 2 ^ 32 + v * 2 ^ 32 } s else dropBar s
  | 0x08 => if m.phase = .closed then setMailbox n { m with retSize := v } s else dropBar s
  | 0x0C =>
    let s := if v.testBit 2 then abortMbx n s else s
    if v.testBit 0 then openMbx n (v.testBit 1) s else closeMbx n (v.testBit 1) s
  | 0x10 => postMbx n v s
  | _ => dropBar s

/-- A 32-bit write to BAR0 (R424): reserved offsets and RO registers discard it. -/
def bar0Write (off v : Nat) (s : State) : State :=
  if off = 0x1008 then resetWrite v s
  else if off = 0x1010 then evtStatusWrite (BitVec.ofNat 32 v) s
  else if off = 0x1014 then { s with host := { s.host with evtMask := BitVec.ofNat 32 v } }
  else if 0x10000 ≤ off ∧ off < 0x11000 then mbxRegWrite ((off - 0x10000) / 64) ((off - 0x10000) % 64) v s
  else if 0x20000 ≤ off ∧ off < 0x20000 + 65 * 16 then msixWrite ((off - 0x20000) / 4) v s
  else dropBar s

/-- A host write of 4 or 8 bytes to a BAR; 8 bytes act as two writes of 4, low first (assumption log 15). -/
def registerWriteS (bar off width v : Nat) (s : State) : State :=
  if bar = 0 then
    if width = 4 ∧ off % 4 = 0 then bar0Write off (v % 2 ^ 32) s
    else if width = 8 ∧ off % 4 = 0 then bar0Write (off + 4) (v / 2 ^ 32 % 2 ^ 32) (bar0Write off (v % 2 ^ 32) s)
    else dropBar s
  else if bar = 2 then windowWrite (off / 1048576 % 64) (off % 1048576) (toLE width v) s
  else if bar = 4 then dropBar s
  else s

def execRegisterWrite (bar offset width value : Nat) (s : State) : Result :=
  .next (onBar (registerWriteS bar offset width value) s)

-- Resets of the function, and Bus Master Enable (R423, R591).

def execFunctionLevelReset (s : State) : Result := .next (onBar hostReset s)

def execD3hotEntry (s : State) : Result := .next (onBar hostReset s)

/-- BUS_MASTER_ENABLE_SET: held completions are written (R591). -/
def busMasterSetS (s : State) : State :=
  let s := { s with host := { s.host with busMaster := true } }
  (mapKeys s.host.mbx).foldl (fun s n => if (mailbox s n).held then completeMbx n s else s) s

def execBusMasterEnableSet (s : State) : Result := .next (onBar busMasterSetS s)

def execBusMasterEnableClear (s : State) : Result :=
  .next (onBar (fun s => { s with host := { s.host with busMaster := false } }) s)

/-- MSIX_FUNCTION_UNMASK: pending messages of vectors that are not masked themselves are sent (R591). -/
def functionUnmaskS (s : State) : State :=
  let pend := s.host.msixPending
  pend.foldl (fun s v => msix v s) { s with host := { s.host with funcMask := false, msixPending := [] } }

def execMsixFunctionUnmask (s : State) : Result := .next (onBar functionUnmaskS s)

-- Take-up and validation (R434, R441, R445, R446).

/-- Two holds of one object conflict unless both are shared (R446). -/
def holdConflict (a b : Obj × Bool) : Bool := a.1 == b.1 && (a.2 || b.2)

/-- The commands in flight: executing in a mailbox, over the sideband, or after a reset of their mailbox. -/
def inFlight (s : State) : List Slot :=
  (s.host.mbx.filterMap (fun e => if e.2.phase = .executing then e.2.slot else none))
    ++ s.host.side.toList ++ s.host.orphans

/-- The objects in flight; a PLDM firmware update holds the flash (R451). -/
def heldObjs (s : State) : List (Obj × Bool) :=
  ((inFlight s).map (fun c => cmdObjs s c.opcode c.payload)).flatten
    ++ (match s.fw with
        | some f => if f.pldm then [(.flash, true)] else []
        | none => [])

/-- This package is the tick master, or the command's rule lets any package take it (R84). -/
def masterOk (s : State) (c : CmdInfo) : Bool := !c.master || tickMaster s || (c.op == 0x0204 && r77Quiesced s)

/-- Step 1 of R441: the header. -/
def headerOk (h : List Byte) (postValue : Option Nat) : Bool :=
  field h 18 14 == 0 && field h 160 352 == 0 && field h 64 32 ≤ 1048512 && field h 96 32 ≤ 600000
    && (match postValue with
        | some v => v == field h 32 32
        | none => true)

/-- Step 2 of R441: the CRC, when the header asks for it. -/
def crcOk (h p : List Byte) : Bool :=
  !flag h 16 || crc32 (splice h 16 (zeros 4) ++ p) == field h 128 32

/-- The bytes of the signature trailer that the header says the payload ends in (R436, R437). -/
def trailerLen (h : List Byte) : Nat := if flag h 17 then 88 else 0

/-- Steps 1 to 9 of R441 for a command with `room` bytes for its response: the status and the step that failed. -/
def validate (c : Slot) (postValue : Option Nat) (room : Nat) (s : State) : Option (Nat × Nat) :=
  let h := c.header
  let p := c.payload
  if !headerOk h postValue then some (St.badHeader, 1)
  else if !crcOk h p then some (St.badCrc, 2)
  else
    match cmdInfo c.opcode with
    | none => some (St.badOpcode, 3)
    | some i =>
      if p.length ≠ cmdLen s c.opcode (p.take (p.length - trailerLen h)) + trailerLen h then some (St.badLength, 4)
      else if flag h 17 ≠ i.signed then some (St.badSig, 5)
      else if i.signed && !trailerOk s h p then some (St.badSig, 5)
      else if !accepts i.accept s.dev then some (St.badState, 6)
      else if !masterOk s i then some (St.notMaster, 7)
      else if room < cmdMaxResp s c.opcode p then some (St.retSmall, 8)
      else if (cmdObjs s c.opcode p).any (fun o => (heldObjs s).any (holdConflict o)) then some (St.busy, 9)
      else none

/-- A failed signature check is counted and raises EV_MBX_BAD_SIG (R444, R455). -/
def noteBadSig (src st : Nat) (s : State) : State :=
  if st = St.badSig then raise Ev.mbxBadSig src [] (bump Cnt.mbxBadSig 0 1 s) else s

/-- The order of take-up: class, posting time, mailbox number (R445). -/
def takeBefore (a b : Nat × Mailbox) : Bool :=
  let ca := cmdClass (field a.2.window 0 16)
  let cb := cmdClass (field b.2.window 0 16)
  ca < cb || (ca == cb && (a.2.postTime < b.2.postTime || (a.2.postTime == b.2.postTime && a.1 ≤ b.1)))

/-- The commands that count toward the limits of R445: executing, not waiting for an event, their completion not held. -/
def working (s : State) : List Slot :=
  (s.host.mbx.filterMap (fun e => if e.2.phase = .executing && !e.2.held then e.2.slot else none)).filter
    (fun c => !c.waits)

/-- The mailbox whose command the stationmaster takes up next, if the limits of R445 let it. -/
def nextTakeUp (s : State) : Option Nat :=
  let posted := s.host.mbx.filter (fun e => e.2.phase == .posted)
  match sortBy takeBefore posted with
  | [] => none
  | (n, m) :: _ =>
    let w := working s
    let bulk := countIf (fun c => 2 ≤ cmdClass c.opcode) w
    if w.length < 3 ∧ (cmdClass (field m.window 0 16) < 2 ∨ bulk < 2) then some n else none

/-- The stationmaster serves commands: its firmware runs (R441, R558). -/
def smServes (s : State) : Bool := s.sm.state == .running && s.boot.started && diesRun s

/-- MBX_TAKE_UP: header and payload are copied and steps 1 to 9 checked; the first that fails decides (R434, R441). -/
def takeUpS (n : Nat) (s : State) : State :=
  if smServes s && nextTakeUp s == some n then
    let m := mailbox s n
    let c := postedSlot m
    let v := validate c (some m.postValue) (m.retSize - 64) s
    let c := match v with
      | some (st, k) => { c with done := some (failStep st k) }
      | none => c
    let s := setMailbox n { m with phase := .executing, slot := some c } s
    match v with
    | some (st, _) => noteBadSig (srcOf 9 n) st s
    | none => s
  else s

def execMbxTakeUp (n : Nat) (s : State) : Result := onUnit (n < 64) (takeUpS n s)

-- Shedding (R447).

/-- The level whose threshold a utilisation exceeds. -/
def shedLevel (u : Nat) : Nat := if 95 < u then 3 else if 85 < u then 2 else if 70 < u then 1 else 0

/-- SHED_WINDOW: a window of 100 ms ends; ten in a row below 60 % are the second that lowers the level. -/
def shedWindowS (u : Nat) (s : State) : State :=
  if !smServes s then s
  else
    let l := shedLevel u
    if s.sm.shed < l then raise Ev.mbxShed 0 [] { s with sm := { s.sm with shed := l, below := 0 } }
    else if u < 60 then
      if 10 ≤ s.sm.below + 1 then { s with sm := { s.sm with shed := s.sm.shed - 1, below := 0 } }
      else { s with sm := { s.sm with below := s.sm.below + 1 } }
    else { s with sm := { s.sm with below := 0 } }

def execShedWindow (utilisation : Nat) (s : State) : Result := .next (shedWindowS utilisation s)

-- CMD_MBX_NOP and CMD_MBX_INFO (R449).

def execCmdMbxNop (src : CmdSrc) (s : State) : Result := .next (performQuery 0x0100 src (fun p _ => okWith p) s)

/-- The response of CMD_MBX_INFO. -/
def mbxInfo (_ : List Byte) (s : State) : Completion :=
  let openN := (List.range 64).filter (fun n => (mailbox s n).phase != .closed)
  okWith (pack 32 [(0, 64, fwVersion s), (64, 32, 1048512), (96, 32, 2097152), (128, 64, bitmapOf 64 openN),
    (192, 2, s.sm.shed), (200, 8, (inFlight s).length)])

def execCmdMbxInfo (src : CmdSrc) (s : State) : Result := .next (performQuery 0x0101 src mbxInfo s)

-- The sideband (R450, R451).

/-- The sideband's answer goes out. -/
def sideSay (m : SideMsg) (s : State) : State :=
  { s with host := { s.host with sideOut := s.host.sideOut ++ [m] } }

/-- In STANDBY the standby path answers the sideband; later the firmware does (R450). -/
def sideServes (s : State) : Bool := s.dev == .standby || smServes s

/-- The checks of a sideband command packet: those of R441, class 0, no signature, and the 1,024-byte limits. -/
def sideValidate (c : Slot) (s : State) : Option (Nat × Nat) :=
  match validate c none 1024 s with
  | some e => some e
  | none => if cmdClass c.opcode ≠ 0 ∨ 1024 < c.payload.length then some (St.badOpcode, 3) else none

/-- MCTP_COMMAND: a command packet is taken up beside the mailboxes, one at a time. -/
def mctpCommandS (packet : List Byte) (s : State) : State :=
  if !sideServes s || s.host.side.isSome then s
  else
    let h := slice packet 0 64
    let bytes := slice packet 64 (Nat.min (field h 64 32) 1048512)
    let c : Slot := { header := h, payload := bytes, opcode := field h 0 16, postTime := s.now,
                      waits := false, stale := false, done := none }
    let s := bump Cnt.mbxMctpCmd 0 1 s
    match sideValidate c s with
    | some (st, k) => noteBadSig 0 st (answerSide c (failStep st k) s)
    | none => { s with host := { s.host with side := some c } }

def execMctpCommand (packet : List Byte) (s : State) : Result := .next (mctpCommandS packet s)

/-- MCTP_CONTROL: the five messages of R450; versions and the UUID are not given (Config). -/
def mctpControlS (m : MctpControl) (s : State) : State :=
  match m with
  | .setEndpointId e => sideSay (.mctp .done [(e : Int)]) { s with host := { s.host with eid := e } }
  | .getEndpointId => sideSay (.mctp .done [(s.host.eid : Int)]) s
  | .getEndpointUuid => sideSay (.mctp .done [(Sys2Proof.Config.endpointUuid s.fuse.serial.toNat : Int)]) s
  | .getVersionSupport => sideSay (.mctp .done [(Sys2Proof.Config.mctpVersion : Int)]) s
  | .getMessageTypes => sideSay (.mctp .done [1, 0x7F]) s
  | .other _ => sideSay (.mctp .unsupported []) s

def execMctpControl (msg : MctpControl) (s : State) : Result :=
  .next (if s.dev = .off then s else mctpControlS msg s)

/-- Someone answers what the sideband asks of the stationmaster: the standby path in STANDBY (R450), else the
stationmaster itself, which serves nothing while it restarts and nothing more once it has failed (R38, R39). -/
def sideServed (s : State) : Bool := s.dev == .standby || (s.dev != .off && s.sm.state == .running)

/-- The reading of a PLDM numeric sensor: those of R586. -/
def pldmSensor (s : State) (id inst : Nat) : Option Int :=
  match id with
  | 0x0100 => if inst = 0 then some s.pkg.vinMv else none
  | 0x0101 => if inst = 0 then some s.pkg.iinMa else none
  | 0x0102 => if inst = 0 then some s.pkg.p10Mw else none
  | 0x0103 => if inst < nDies s then some (dieClock s inst).temp else none
  | 0x0104 => if inst < nDies s then some (dieClock s inst).cclk else none
  | _ => none

/-- PLDM_MESSAGE: the base and monitoring messages of R450. -/
def pldmMessageS (m : PldmMsg) (s : State) : State :=
  match m with
  | .getTid => sideSay (.pldm .done [(Sys2Proof.Config.pldmTid : Int)]) s
  | .getPldmVersion => sideSay (.pldm .done [(Sys2Proof.Config.pldmVersion : Int)]) s
  | .getPldmTypes => sideSay (.pldm .done [0, 2, 5]) s
  | .getPldmCommands => sideSay (.pldm .done [(Sys2Proof.Config.pldmCommands : Int)]) s
  | .getSensor id inst =>
    match pldmSensor s id inst with
    | some v => sideSay (.pldm .done [v]) s
    | none => sideSay (.pldm .failed []) s
  | .getStateSensor => sideSay (.pldm .done [(devCode s.dev : Int)]) s
  | .other _ => sideSay (.pldm .unsupported []) s

def execPldmMessage (msg : PldmMsg) (s : State) : Result :=
  .next (if sideServed s then pldmMessageS msg s else s)

/-- A PLDM firmware update may run: in the states of CMD_PKG_FW_OPEN, or served by the boot ROM when no slot passed
(R558, R565). -/
def pldmFwAllowed (s : State) : Bool :=
  accepts accUpdate s.dev || (s.dev == .bringup && s.brg.phase == 0 && !s.boot.started)

/-- The flash is held by a mailbox command in flight, or a mailbox update session is open (R451, R560). -/
def flashBusy (s : State) : Bool :=
  s.fw.isSome || (heldObjs s).any (fun o => o.1 == .flash && o.2)

/-- PLDM_FIRMWARE_UPDATE: from RequestUpdate to ActivateFirmware, by the checks of R560 (R450, R451). -/
def pldmFwS (m : PldmFw) (s : State) : State :=
  match m with
  | .requestUpdate n =>
    if !pldmFwAllowed s then sideSay (.pldm .failed []) s
    else if flashBusy s then sideSay (.pldm .busy []) s
    else if n < 320 ∨ (flashArea .slotA).2 < n ∨ n % 64 ≠ 0 then sideSay (.pldm .failed []) s
    else sideSay (.pldm .done []) (fwOpenS n true s)
  | .data off d =>
    match s.fw with
    | some f =>
      if f.pldm ∧ off % 64 = 0 ∧ d.length % 64 = 0 ∧ off + d.length ≤ f.imageBytes then
        sideSay (.pldm .done []) (fwDataS off d s)
      else sideSay (.pldm .failed []) s
    | none => sideSay (.pldm .failed []) s
  | .complete =>
    match s.fw with
    | some f =>
      if f.pldm then
        let (t, k) := fwCommitS f.imageBytes s
        sideSay (.pldm (if k.isNone then .done else .failed) (k.toList.map (fun c => (c : Int)))) t
      else sideSay (.pldm .failed []) s
    | none => sideSay (.pldm .failed []) s
  | .activate =>
    match lastValid s with
    | some b => if s.fw.isNone then sideSay (.pldm .done []) (fwActivateS b s) else sideSay (.pldm .failed []) s
    | none => sideSay (.pldm .failed []) s
  | .cancel =>
    match s.fw with
    | some f =>
      if f.pldm then
        sideSay (.pldm .done []) (setBootHdr (markSlot (inactive s) false false) { s with fw := none })
      else sideSay (.pldm .failed []) s
    | none => sideSay (.pldm .failed []) s

def execPldmFirmwareUpdate (msg : PldmFw) (s : State) : Result :=
  .next (if sideServed s then pldmFwS msg s else s)

end Sys2Proof.Machine
end

