-- ==== Sys2Proof/Machine/MemCmds.lean ====
section
/-! DEFINITION. The memory commands of R375 to R379, R597 and R598, but for CMD_MEM_FREE. -/

namespace Sys2Proof.Machine

-- CMD_MEM_ALLOC (R376, R377).

/-- What CMD_MEM_ALLOC asks for. -/
def allocAsk (p : List Byte) : RegionAsk :=
  { size := field p 0 64, spread := !flag p 64, die := field p 65 3, pooled := flag p 68, progR := flag p 69,
    progW := flag p 70, pfEn := flag p 71, hint := field p 72 2, table := none, device := false }

/-- Check 1 of R377. -/
def allocFieldsOk (s : State) (p : List Byte) : Bool :=
  let q := allocAsk p
  0 < q.size && q.size ≤ 2 ^ 41 && q.die < nDies s && q.hint < 3 && field p 74 54 == 0
    && (!q.progW || q.progR) && (!q.pfEn || q.progR)

/-- The response of CMD_MEM_ALLOC (R376). -/
def allocResp (id : Nat) (r : Region) : List Byte :=
  pack 24 [(0, 12, id), (12, 3, r.die), (15, 1, bit r.spread), (16, 1, bit r.far), (64, 64, r.base), (128, 64, r.size)]

/-- CMD_MEM_ALLOC. -/
def memAlloc (p : List Byte) (s : State) : State × Completion :=
  let q := allocAsk p
  if !allocFieldsOk s p then (s, failWith St.badParam 1)
  else if !q.spread ∧ (dieSet s q.die).isNone then (s, failWith St.badParam 2)
  else if 4096 ≤ s.mem.regions.length then (s, failWith St.noSpace 3)
  else
    match createRegion q s with
    | some (id, r, t) => (t, okWith (allocResp id r))
    | none => (s, failWith St.noSpace 4)

def execCmdMemAlloc (src : CmdSrc) (s : State) : Result := .next (performNow 0x0B00 src memAlloc s)

-- CMD_MEM_WRITE and CMD_MEM_READ (R378).

/-- ADDR and LENGTH name bytes of one region. -/
def rangeOk (s : State) (a n : Nat) : Option Region :=
  if 1 ≤ n ∧ n ≤ 524288 ∧ a < 2 ^ 41 then (regionOfRange s a n).map (fun e => e.2) else none

/-- CMD_MEM_WRITE: a write to a pooled region takes effect at once; it and CMD_MEM_READ go through D0, and wait for a
channel or coupling that retrains (R28, R371). -/
def memWrite (p : List Byte) (s : State) : State × Completion :=
  let a := field p 0 64
  let n := field p 64 32
  match rangeOk s a n with
  | none => (s, failWith St.badParam 0)
  | some r => if r.table.isSome then (s, failWith St.badParam 0) else (homeWrite a (slice p 12 n) s, okWith [])

def execCmdMemWrite (src : CmdSrc) (s : State) : Result := .next (whenOpen 0 (performNow 0x0B02 src memWrite) s)

/-- CMD_MEM_READ: the bytes, then one bit for each sector touched. A guest's image has no layout in the spec: its bytes
are free values. -/
def memRead (p : List Byte) (s : State) : State × Completion :=
  let a := field p 0 64
  let n := field p 64 32
  match rangeOk s a n with
  | none => (s, failWith St.badParam 0)
  | some r =>
    let s := match r.table with
      | some t => commitTable t s
      | none => s
    let x := homeRead false a n s
    let guest := s.chk.guestRegions.any (fun id => (mapGet s.mem.regions id) == some r)
    let y := if guest then freeBytes n x.2.2 else (x.1, x.2.2)
    (y.2, okWith (y.1 ++ toLE (cdiv x.2.1.length 8) (bitmap x.2.1)))

def execCmdMemRead (src : CmdSrc) (s : State) : Result := .next (whenOpen 0 (performNow 0x0B03 src memRead) s)

-- CMD_MEM_REGIONS (R597).

/-- The entry of region number `i`. -/
def regionEntry (s : State) (i : Nat) : List Byte :=
  match mapGet s.mem.regions i with
  | none => pack 32 [(0, 12, i)]
  | some r => pack 32 [(0, 12, i), (12, 1, 1), (13, 1, bit r.spread), (14, 1, bit r.far), (15, 1, bit r.pooled),
      (16, 1, bit r.progR), (17, 1, bit r.progW), (18, 1, bit r.pfEn), (19, 2, r.hint), (21, 1, bit r.table.isSome),
      (22, 1, bit r.device), (23, 3, if r.spread then 0 else r.die), (64, 64, r.base), (128, 64, r.size),
      (192, 16, r.f0), (208, 8, r.n)]

/-- CMD_MEM_REGIONS. -/
def memRegions (p : List Byte) (s : State) : Completion :=
  let first := field p 0 12
  let n := field p 16 16
  if field p 12 4 ≠ 0 ∨ n = 0 ∨ 4096 < n ∨ 4096 < first + n then failWith St.badParam 0
  else okWith ((List.range n).flatMap (fun i => regionEntry s (first + i)))

def execCmdMemRegions (src : CmdSrc) (s : State) : Result := .next (performQuery 0x0B04 src memRegions s)

-- CMD_MEM_CONFIG (R379).

/-- The payload's fields are in range. -/
def memConfigOk (p : List Byte) : Bool :=
  let thr := field p 8 8
  let pf := field p 16 7
  let sc := field p 32 8
  field p 1 7 == 0 && field p 23 9 == 0 && field p 48 16 == 0 && 85 ≤ thr && thr ≤ 100
    && (pf == 0 || (4 ≤ pf && pf ≤ 64)) && 1 ≤ sc && sc ≤ 168 && 1 ≤ field p 40 8

/-- CMD_MEM_CONFIG: THERMAL_MODE and T_THR at once, the rest at the next accepted job start. -/
def memConfig (p : List Byte) (s : State) : State × Completion :=
  if !memConfigOk p then (s, failWith St.badParam 0)
  else
    let new : MemCfg := { thermalMode := field p 0 1, tThr := field p 8 8, pfDepth := field p 16 7,
                          scrubHours := field p 32 8, retrainErrs := field p 40 8 }
    let cur := { s.mem.cfg with thermalMode := new.thermalMode, tThr := new.tThr }
    let s := { s with mem := { s.mem with cfg := cur, cfgNext := new } }
    (s.mem.stk.foldl (fun s e => setStackTemp e.1 e.2.temp s) s, okWith [])

def execCmdMemConfig (src : CmdSrc) (s : State) : Result := .next (performNow 0x0B05 src memConfig s)

-- CMD_MEM_RETRAIN and CMD_MEM_MARGIN (R371, R378).

/-- The channel that STACK and CHANNEL name, where its stack is in service. -/
def namedChan (s : State) (p : List Byte) : Option Nat :=
  if field p 4 4 = 0 ∧ flag p 15 = false ∧ stackIn s (field p 0 4) then some (field p 0 4 * 128 + field p 8 7) else none

/-- The channel retrains. -/
def retraining (s : State) (c : Nat) : Bool :=
  match chanState s c with
  | .retraining _ => true
  | _ => false

/-- CMD_MEM_RETRAIN: completes when the retrain has begun. A failed channel stays failed (R372). -/
def memRetrain (p : List Byte) (s : State) : State × Completion :=
  match namedChan s p with
  | none => (s, failWith St.badParam 0)
  | some c =>
    if retraining s c then (s, failWith St.inUse 0)
    else if chanState s c = .failed then (bump Cnt.memRetrain c 1 (raise Ev.memRetrain (srcOf 6 c) [] s), okWith [])
    else (startChanRetrain c s, okWith [])

def execCmdMemRetrain (src : CmdSrc) (s : State) : Result := .next (performNow 0x0B06 src memRetrain s)

/-- CMD_MEM_MARGIN: `passes` is what the sweep measured at each offset, the negative extreme first. -/
def memMargin (passes : List Bool) (p : List Byte) (s : State) : Completion :=
  let steps := field p 17 7
  match namedChan s p with
  | none => failWith St.badParam 0
  | some c =>
    if steps = 0 ∨ 64 < steps ∨ field p 24 8 ≠ 0 then failWith St.badParam 0
    else if retraining s c then failWith St.inUse 0
    else
      let n := 2 * steps + 1
      okWith (toLE (cdiv n 8) (bitmap ((List.range n).map (fun i => passes.getD i false))))

def execCmdMemMargin (src : CmdSrc) (passes : List Bool) (s : State) : Result :=
  .next (performQuery 0x0B07 src (memMargin passes) s)

-- CMD_MEM_STATUS (R598).

/-- The entry of stack j. -/
def stackEntry (s : State) (j : Nat) : List Byte :=
  if nStacks s ≤ j then zeros 8
  else
    let c := stackState s j
    pack 8 [(0, 2, if stackIn s j then 1 else 2), (16, 16, ofSigned 16 c.temp), (32, 2, c.step), (34, 2, c.refresh)]

/-- CMD_MEM_STATUS. -/
def memStatus (_ : List Byte) (s : State) : Completion :=
  let bad : Nat → Bool := fun p => p < nChans s && (chanState s p == .failed || s.mem.badChans.contains p)
  okWith (pack 8 [(0, 1, bit (spreadOk s)), (1, 1, s.mem.cfg.thermalMode)]
    ++ (List.range 16).flatMap (stackEntry s) ++ toLE 256 (bitmap ((List.range 2048).map bad)))

def execCmdMemStatus (src : CmdSrc) (s : State) : Result := .next (performQuery 0x0B08 src memStatus s)

end Sys2Proof.Machine
end

