-- ==== Sys2Proof/Machine/PortRows.lean ====
section
/-! DEFINITION. The port states (R388 to R392) and the link commands (R412 to R415). -/

namespace Sys2Proof.Machine

/-- The packets that a port held go to the routing of R392 again; the digest has counted them already. -/
def rerouteAll (q : Nat) (s : State) : State :=
  let pkts := portPackets (port s q)
  pkts.foldl (fun s i => routeAgain (portDie q) (mapHdr (fun h => { h with hops := h.hops - 1 }) i) s) (emptyPort q s)

-- Port states (R388).

/-- The port gives its neighbour the credits of its empty receive buffers (R387). -/
def offerCredits (q : Nat) (s : State) : State :=
  setPort q { port s q with
    owes := true
    credOut := (List.range 6).map Sys2Proof.Config.linkBuffer } s

/-- A port that has its lanes and a matching HELLO enters UP. After a retrain, lanes lost are counted and recorded, and the
frames that waited are resent; after training it begins with its credits (R388). -/
def tryUp (q : Nat) (s : State) : State :=
  let p := port s q
  match p.trained with
  | some l =>
    if !p.matched then s
    else
      let lost := if p.st = .retraining then (List.range 8).filter (fun i => p.lanes.testBit i && !l.testBit i) else []
      let s := enterPort q .up 0 s
      let s := setPort q { port s q with lanes := l } s
      let s := if lost = [] then s
        else raiseAll Ev.lnkLaneLoss (lost.map (fun _ => srcOf 7 q)) (bump Cnt.lnkLaneLoss q lost.length s)
      if p.st = .retraining then pumpPort q (resend q p.retry s) else pumpPort q (offerCredits q s)
  | none => s

/-- A port gives up: DOWN, its packets routed elsewhere (R388, R392). -/
def portDown (q reason : Nat) (counted : Bool) (s : State) : State :=
  let s := if counted then raise Ev.lnkDown (srcOf 7 q) [] (bump Cnt.lnkDown q 1 s) else s
  rerouteAll q (enterPort q .down reason s)

/-- PORT_TRAINING_DONE: the lanes that hold lock; with 6 or more the port sends its HELLO (R388, R390). -/
def trainingDoneS (q lanes : Nat) (s : State) : State :=
  let p := port s q
  let l := goodLanes s q lanes
  if p.st ≠ .training ∧ p.st ≠ .retraining then s
  else if 6 ≤ laneCount l then
    let lanes' := if p.st = .training then l else p.lanes
    tryUp q (sendHello q (setPort q { p with trained := some l, lanes := lanes' } s))
  else if p.st = .training then portDown q 3 false (setPort q { p with lanes := l } s)
  else setPort q { p with trained := none } s

def execPortTrainingDone (q lanes : Nat) (s : State) : Result := onUnit (q < nPorts s) (trainingDoneS q lanes s)

/-- A HELLO matches (R390): the expected neighbour, our code, our dimension, the opposite direction, A to A and B to B. -/
def helloMatches (s : State) (q src code dim : Nat) (plus portB : Bool) : Bool :=
  let f := portFace s q
  expectedNbr s q == some src && code == codeByte s.fuse.code && dim == f.1 && plus != f.2.1 && portB == f.2.2

/-- A HELLO that does not match disables the port (R388). -/
def helloMismatch (q : Nat) (s : State) : State :=
  let was := (port s q).st
  let s := if was = .retraining then raise Ev.lnkDown (srcOf 7 q) [] (bump Cnt.lnkDown q 1 s) else s
  let s := raise Ev.lnkMismatch (srcOf 7 q) [] (bump Cnt.lnkMismatch q 1 s)
  rerouteAll q (enterPort q .disabled 2 s)

/-- HELLO (R390). -/
def helloS (h : Hdr) (q : Nat) (coords : List Nat) (code dim : Nat) (plus portB : Bool) (nbrPort : Nat) (s : State) :
    State :=
  let p := port s q
  if p.st ≠ .training ∧ p.st ≠ .retraining then s
  else
    let s := setPort q { p with nbrPkg := h.src, nbrPort := nbrPort } s
    let placed := coords == (List.range 4).map (coordOf h.src)
    if placed && helloMatches s q h.src code dim plus portB then
      tryUp q (setPort q { port s q with matched := true } s)
    else helloMismatch q s

def execHello (h : Hdr) (q : Nat) (coords : List Nat) (code dim : Nat) (plus portB : Bool) (nbrPort : Nat) (s : State) :
    Result :=
  onUnit (q < nPorts s) (helloS h q coords code dim plus portB nbrPort s)

/-- PORT_HELLO_TIMEOUT: 2 s of TRAINING (R388). -/
def helloTimeoutS (q : Nat) (s : State) : State :=
  let p := port s q
  if p.st = .training then
    portDown q (if p.trained.isSome then 4 else 3) false (reachTime (p.since + 2000000000) s)
  else s

def execPortHelloTimeout (q : Nat) (s : State) : Result := onUnit (q < nPorts s) (helloTimeoutS q s)

/-- PORT_LANE_FAULT: a lane leaves service, or lock is lost (R388). -/
def laneFaultS (q lanes : Nat) (s : State) : State :=
  let p := port s q
  if p.st = .up ∧ lanes % 256 &&& p.lanes ≠ p.lanes then startRetrain q s else s

def execPortLaneFault (q lanes : Nat) (s : State) : Result := onUnit (q < nPorts s) (laneFaultS q lanes s)

/-- PORT_RETRAIN_TIMEOUT: the window of 100 ms expires (R388). -/
def retrainTimeoutS (q : Nat) (s : State) : State :=
  let p := port s q
  if p.st = .retraining then
    portDown q (if p.trained.isSome then 4 else 3) true (reachTime (p.since + 100000000) s)
  else s

def execPortRetrainTimeout (q : Nat) (s : State) : Result := onUnit (q < nPorts s) (retrainTimeoutS q s)

-- Commands (R412 to R415).

/-- The topology record as CMD_LNK_TOPO_SET names it (R413). -/
def topoOf (p : List Byte) : Topo :=
  { coords := (List.range 4).map (fun i => field p (3 * i) 3), lens := (List.range 4).map (fun i => field p (16 + 3 * i) 3 + 1),
    wraps := (List.range 4).map (fun i => flag p (28 + i)) }

/-- The record in the layout of R413. -/
def topoBytes (s : State) : List Byte :=
  match s.flash.topo with
  | none => zeros 8
  | some t => pack 8 ((List.range 4).flatMap (fun i =>
      [(3 * i, 3, t.coords.getD i 0), (16 + 3 * i, 3, t.lens.getD i 1 - 1), (28 + i, 1, bit (t.wraps.getD i false))]))

/-- The fields of R413 are in range. -/
def topoOk (s : State) (p : List Byte) : Bool :=
  let t := topoOf p
  field p 12 4 == 0 && field p 32 32 == 0
    && (List.range 4).all (fun i => t.coords.getD i 0 < t.lens.getD i 1 && !(t.wraps.getD i false && t.lens.getD i 1 == 1))
    && (s.fuse.code != .cx2a || (t.lens.getD 2 1 == 1 && t.lens.getD 3 1 == 1))

/-- A port is checked against a new record (R388, R390, R412). -/
def recheckPort (s : State) (q : Nat) : State :=
  let p := port s q
  match expectedNbr s q with
  | none => setPort q { coldPort with reason := 1, nbrPkg := p.nbrPkg, nbrPort := p.nbrPort } s
  | some _ =>
    let f := portFace s p.nbrPort
    if p.st = .up ∨ p.st = .retraining then
      if helloMatches s q p.nbrPkg (codeByte s.fuse.code) f.1 f.2.1 f.2.2 then s else helloMismatch q s
    else if p.st = .disabled ∧ p.reason = 1 then setPort q { p with reason := 0 } s
    else s

/-- CMD_LNK_TOPO_SET. -/
def lnkTopoSet (p : List Byte) (s : State) : State × Completion :=
  if !topoOk s p then (s, failWith St.badParam 0)
  else if s.pool.tables ≠ [] then (s, failWith St.inUse 0)
  else
    let s := { s with flash := { s.flash with topo := some (topoOf p) } }
    ((List.range (nPorts s)).foldl recheckPort s, okWith [])

def execCmdLnkTopoSet (src : CmdSrc) (s : State) : Result := .next (performNow 0x0C00 src lnkTopoSet s)

/-- A port's entry (R415). -/
def portEntry (s : State) (q : Nat) : List Byte :=
  let p := port s q
  pack 8 [(0, 3, portCode p.st), (3, 5, p.reason), (8, 8, p.lanes), (16, 12, p.nbrPkg), (28, 4, p.nbrPort)]

/-- CMD_LNK_STATUS: the record, then one entry for each populated port. -/
def lnkStatus (_ : List Byte) (s : State) : Completion :=
  okWith (topoBytes s ++ (List.range (nPorts s)).flatMap (portEntry s))

def execCmdLnkStatus (src : CmdSrc) (s : State) : Result := .next (performQuery 0x0C01 src lnkStatus s)

/-- CMD_LNK_RETRAIN. -/
def lnkRetrain (p : List Byte) (s : State) : State × Completion :=
  let q := field p 0 4
  let x := port s q
  if nPorts s ≤ q ∨ field p 4 28 ≠ 0 ∨ (x.st = .disabled ∧ ((expectedNbr s q).isNone ∨ x.reason = 1)) then
    (s, failWith St.badParam 0)
  else
    match x.st with
    | .training | .retraining => (s, failWith St.inUse 0)
    | .up => (startRetrain q s, okWith [])
    | _ => (startTraining q s, okWith [])

def execCmdLnkRetrain (src : CmdSrc) (s : State) : Result := .next (performNow 0x0C02 src lnkRetrain s)

end Sys2Proof.Machine
end

