-- ==== Sys2Proof/Machine/Serve.lean ====
section
/-! DEFINITION. How a dispatcher starts ready tasks (R103), and how a task that comes back from a save slot goes on (R109,
R113, R336). -/

namespace Sys2Proof.Machine

/-- The timeout of a wait that is to run again: its full one (R336). -/
def fullTimeout (since : Nat) (deadline : Option Nat) : Nat :=
  match deadline with
  | some d => d - since
  | none => 0

/-- An instruction that waited for its unit is issued anew, from the context that its task now has. -/
def issueAgain (lc x : Nat) (i : Instr) (s : State) : State :=
  match i with
  | .mma _ _ desc faults => mmaS lc x desc faults s
  | .elem _ _ desc faults => vopS 0 lc x desc (.elem lc x desc faults) faults s
  | .perm _ _ desc faults => vopS 1 lc x desc (.perm lc x desc faults) faults s
  | .move _ _ desc => vopS 2 lc x desc (.move lc x desc) [] s
  | _ => s

/-- A resumed task runs the instruction it was suspended at: a stalled SPAWN is retried, a SIG_WAIT or SIG_ARRIVE runs again
from the start (R113, R336), and one that waited for a unit is issued. -/
def goOn (lc x : Nat) (t : Task) (w : CtxWait) (s : State) : State :=
  match w with
  | .spawn z => trySpawn lc x z.template z.target z.joinTask z.arg t s
  | .sig l v since deadline => sigInstr lc x l (.wait v) (waitS lc x l v (fullTimeout since deadline)) s
  | .arrive l dest _ => sigInstr lc x l .arrive (arriveS lc x l dest) s
  | .issue i => issueAgain lc x i s
  | _ => s

/-- A CORE task starts or resumes on context `x`. -/
def beginCore (lc x : Nat) (t : Task) (s : State) : State :=
  goOn lc x t (savedCtx s lc t).wait (startCore lc x t s)

/-- What becomes of the head of a ready list: it starts, it stays and nothing lower is served, or it stays and lower lists
are served. -/
inductive Served where
  | started (t : State)
  | stop
  | pass

/-- The head of a ready list is offered (R103). -/
def serveHead (lc p : Nat) (t : Task) (rest : List Task) (s : State) : Served :=
  let d := disp s lc
  let s' := setDisp lc { d with ready := mapSet d.ready p rest } s
  let run := if t.spawned then s' else setTaskState lc t.idx .running s'
  match tdKind t.bytes with
  | 3 => .started (completeTask t s')
  | 1 =>
    let i := pickShunter s lc t
    let h := shunterLc s lc
    if 256 ≤ (deque s h i).length then .stop else .started (setDeque h i (deque s h i ++ [t]) run)
  | 2 => .started (startColl t run)
  | _ =>
    match freeCtx s lc with
    | some x => .started (beginCore lc x t s')
    | none => .pass

/-- Ready lists are served from priority `p` on. -/
def serveFrom (lc : Nat) (s : State) : List Nat → State
  | [] => s
  | p :: ps =>
    match readyAt (disp s lc) p with
    | [] => serveFrom lc s ps
    | t :: rest =>
      match serveHead lc p t rest s with
      | .started u => u
      | .stop => s
      | .pass => serveFrom lc s ps

/-- DISPATCH_TASK: the dispatcher starts at most one task (R103). -/
def execDispatchTask (lc : Nat) (s : State) : Result :=
  onUnit (lc < nLc s) (if underCopy s lc then s else serveFrom lc s (List.range 8))

end Sys2Proof.Machine
end

