-- ==== Sys2Proof/Machine/Station.lean ====
section
/-! DEFINITION. The stationmaster's watchdog, restart, takeover and failure (R34 to R39, R443). -/

namespace Sys2Proof.Machine

/-- SM_ALIVE_MARK: a mark is written and counted (R36, R425). -/
def aliveS (s : State) : State :=
  if s.sm.state = .running ∧ diesRun s then
    { s with sm := { s.sm with alive := s.sm.alive + 1, awaitingMark := false, lastMark := some s.now } }
  else s

def execSmAliveMark (s : State) : Result := .next (aliveS s)

/-- The standby path on D1 begins a takeover (R37); once the stationmaster runs on D1 there is no further path, and it is
failed (assumption log 16). -/
def startTakeover (s : State) : State :=
  let s := { s with sm := { s.sm with awaitingMark := false } }
  if s.sm.onD1 then setSm .failed s else setSm .takeover s

/-- The watchdog expired within 10 s of its last expiry (R37). -/
def secondExpiry (s : State) : Bool :=
  match s.sm.lastExpiry with
  | some t => s.now - t ≤ 10000000000
  | none => false

/-- Every executing or posted command is completed with ST_SM_FAILED by the hardware (R443). -/
def failAll (s : State) : State :=
  let s := { s with host := { s.host with orphans := [] } }
  let s := match s.host.side with
    | some c => answerSide c (plain St.smFailed) s
    | none => s
  (mapKeys s.host.mbx).foldl (fun s n =>
    let m := mailbox s n
    match m.phase with
    | .posted => completePosted n St.smFailed s
    | .executing =>
      match m.slot with
      | some c => completeMbx n (setMailbox n { m with slot := some { c with done := some (plain St.smFailed) } } s)
      | none => s
    | _ => s) s

/-- The stationmaster is failed (R39). -/
def smFail (s : State) : State := failAll (setSm .failed s)

/-- SM_WATCHDOG_EXPIRY: the stationmaster complex is reset and restarts; a second expiry within 10 s starts a takeover.
A mark registered in the same cycle of MPCLK, 1 ns, counts as written: nothing expires (R36, R37). -/
def watchdogS (s : State) : State :=
  if s.sm.state = .running ∧ diesRun s ∧ s.sm.lastMark ≠ some s.now then
    let second := secondExpiry s
    let s := bump Cnt.pkgSmWdt 0 1 { s with sm := { s.sm with lastExpiry := some s.now, awaitingMark := true } }
    if second then
      let s := startTakeover s
      if s.sm.state = .failed then failAll s else s
    else setSm .restarting s
  else s

def execSmWatchdogExpiry (s : State) : Result := .next (watchdogS s)

/-- A command that was not performed is answered so (R443); one that waits for an event goes on waiting. -/
def notPerformed (c : Slot) : Bool := c.done.isNone && !c.waits

/-- The number of commands in flight that were not performed. -/
def countNotPerformed (s : State) : Nat := countIf notPerformed (inFlight s)

/-- Each command in flight is answered according to the checkpoint (R38, R443). -/
def answerInFlight (s : State) : State :=
  let n := countNotPerformed s
  let f : Slot → Slot := fun c => if notPerformed c then { c with done := some (plain St.notPerformed) } else c
  let mbx := mapVals (fun _ m => if m.phase = .executing then { m with slot := m.slot.map f } else m) s.host.mbx
  let side := s.host.side
  let s := { s with host := { s.host with mbx := mbx, orphans := s.host.orphans.filter (fun c => c.waits) } }
  let s := match side with
    | some c => if notPerformed c then answerSide c (plain St.notPerformed) s else s
    | none => s
  if n = 0 then s
  else (List.range n).foldl (fun s _ => raise Ev.mbxNotPerformed 0 [] s) (bump Cnt.mbxNotPerformed 0 n s)

/-- What the reads of D0's SRAM found of the image and the checkpoint there. -/
def noteSram (imageOk ckptOk : Bool) (s : State) : State :=
  { s with sm := { s.sm with sram := { s.sm.sram with imageOk := imageOk, ckptOk := ckptOk } } }

/-- SM_RESTART_DONE: the boot ROM has checked the image in SRAM. One that no longer measures as at the last boot is not
restarted, so that R37's deadline follows (assumption log 16); a checkpoint with an uncorrectable error fails the
stationmaster (R39); else it resumes from its checkpoint (R36, R38). -/
def restartDoneS (imageOk ckptOk : Bool) (s : State) : State :=
  if s.sm.state ≠ .restarting then s
  else
    let s := noteSram imageOk ckptOk s
    if !imageOk then s
    else if !ckptOk then smFail s
    else answerInFlight (setSm .running s)

def execSmRestartDone (s : State) (imageOk ckptOk : Bool := true) : Result := .next (restartDoneS imageOk ckptOk s)

/-- SM_ALIVE_DEADLINE: 2 s after the watchdog reset without an alive mark (R37). -/
def aliveDeadlineS (s : State) : State :=
  match s.sm.lastExpiry with
  | some t =>
    if s.sm.awaitingMark ∧ (s.sm.state = .restarting ∨ s.sm.state = .running) then
      let s := startTakeover (reachTime (t + 2000000000) s)
      if s.sm.state = .failed then failAll s else s
    else s
  | none => s

def execSmAliveDeadline (s : State) : Result := .next (aliveDeadlineS s)

/-- Coupling 0, over which D1 reads the checkpoint, cannot be passed yet: it retrains, or its transfers drain to the new
route (R28, R37). -/
def ckptPathWaits (s : State) : Bool :=
  cplPhase s 0 == .retraining || (s.cpl.avoid == some 0 && s.cpl.draining)

/-- No way from D1 to the SRAM of D0 is left: the only coupling of a CX8-2A has failed (R28, R29). -/
def ckptPathLost (s : State) : Bool := s.fuse.code == .cx2a && cplPhase s 0 == .failed

/-- SM_TAKEOVER_DONE: the D1 complex has loaded, verified and measured an image as at power-up and read the checkpoint over
coupling 0, and continues from it (R37, R557); or the takeover fails: no image verifies, D0 cannot be reached, or the
checkpoint is uncorrectable (R39). DESIGN CHOICE (assumption log 57): an expiry of the D1 complex is judged against
expiries of its own, not against the one that led to the takeover. -/
def takeoverDoneS (ok ckptOk : Bool) (s : State) : State :=
  if s.sm.state ≠ .takeover ∨ ckptPathWaits s then s
  else
    let s := noteSram s.sm.sram.imageOk ckptOk s
    if ok ∧ ckptOk ∧ !ckptPathLost s ∧ (bootChoice s).isSome then
      let s := bump Cnt.pkgSmTakeover 0 1 { s with sm := { s.sm with onD1 := true, lastExpiry := none } }
      answerInFlight (setSm .running (bootFirmware s))
    else smFail s

def execSmTakeoverDone (ok : Bool) (s : State) (ckptOk : Bool := true) : Result := .next (takeoverDoneS ok ckptOk s)

end Sys2Proof.Machine
end

