-- ==== Sys2Proof/Machine/Timetable.lean ====
section
/-! DEFINITION. The timetable: starting, pausing and ending a job (R79 to R87, R599), the master's points (R58, R68, R69), the
messages of R59 and R61, time transfer (R56, R57, R578) and takeover (R74 to R77). -/

namespace Sys2Proof.Machine

-- The master sends a departure (R58, R59, R68, R69).

/-- A list in pieces of `n` elements; none for the empty list. -/
def piecesOf (n : Nat) : Nat → List Nat → List (List Nat)
  | 0, _ => []
  | fuel + 1, l => if l = [] then [] else l.take n :: piecesOf n fuel (l.drop n)

/-- The departure message goes to every member, continuation messages before it. -/
def sendMessages (m : DepMsg) (s : State) : State :=
  let head := m.left.take 64
  let more := piecesOf 64 64 (m.left.drop 64)
  let s := more.foldl (fun s l => toMembers (fun h => .leftCont { h with step := m.step } l) s) s
  toMembers (fun h => .departure { h with step := m.step } m.fireTime m.quiesce m.ends m.left.length head) s

/-- The packages that a departure lists are counted and recorded at the master (R69). -/
def countListed (left : List Nat) (s : State) : State :=
  let s := if left = [] then s else bump Cnt.ttLeftOthers 0 left.length s
  raiseAll Ev.ttLeftBehind (left.map (srcOf 13)) s

/-- The master sends departure `next` with a fire time and a left-behind list; what it was asked takes effect (R81). -/
def sendDeparture (fire : Nat) (left : List Nat) (s : State) : State :=
  match s.job with
  | none => s
  | some j =>
    let l := sortNat left
    let m : DepMsg := { step := j.next, fireTime := fire, epoch := j.epoch, quiesce := j.quiesceReq, ends := j.endReq,
                        left := l }
    let s := countListed l (sendMessages m s)
    updJob (fun j => { j with sent := some m, quiesceReq := false, endReq := false, holding := false }) s

/-- This package is the tick master of its running job. -/
def isMaster (s : State) : Bool :=
  match s.job with
  | some j => j.master == pkgNo s
  | none => false

/-- A held departure is sent once no late signal is outstanding and the decision point has passed (R68). -/
def trySend (s : State) : State :=
  match s.job with
  | none => s
  | some j =>
    if isMaster s && j.phase == .inStep && j.decided && j.sent.isNone && j.takeover.isNone && j.pending == [] then
      sendDeparture (s.now + (paceAt s.now j).lead / 2) [] s
    else s

/-- END_OF_STEP_REACHED: the arrival of the last late package frees a held departure. -/
def execEndOfStepReached (s : State) : Result := .next (trySend (endOfStepS s))

/-- CUTOFF (R58, R57, R78, R409, R481): an end of step met in this very cycle has been reached. -/
def cutoffS (s : State) : State :=
  match s.job with
  | none => s
  | some j =>
    if j.phase ≠ .inStep ∨ s.dev ≠ .running then s
    else
      let s := markEnd (missGn (reachTime (j.nominal - j.lead) s))
      match s.job with
      | none => s
      | some j => if j.arrived && j.syncOk && !s.chk.failed then s else raiseLate s

def execCutoff (s : State) : Result := .next (cutoffS s)

/-- A member that this package's map shows unreachable (R477). -/
def unreachable (s : State) (p : Nat) : Bool := p != pkgNo s && (nextHop s (pkgNo s) p).isNone

/-- DECISION_POINT (R58, R68, R53): with nothing outstanding the departure goes out; with HOLD = 0 it goes out all the same.
DESIGN CHOICE (assumption log 70): half of an odd TT_LEAD is rounded down; the spec states no rounding. -/
def decisionS (s : State) : State :=
  match s.job with
  | none => s
  | some j =>
    if !isMaster s ∨ s.dev ≠ .running ∨ j.phase ≠ .inStep ∨ j.decided ∨ j.sent.isSome ∨ j.takeover.isSome then s
    else
      let s := reachTime (j.nominal - j.lead / 2) s
      let out := setUnion j.pending (j.members.filter (unreachable s))
      let s := updJob (fun j => { j with decided := true, pending := out }) s
      if out = [] then sendDeparture j.nominal [] s
      else if j.hold = 0 then sendDeparture j.nominal out s
      else bump Cnt.ttHold 0 1 (updJob (fun j => { j with holding := true }) s)

def execDecisionPoint (s : State) : Result := .next (decisionS s)

/-- HOLD_DEADLINE (R69): a change that names the departure counts from its nominal time on (R87). -/
def holdDeadlineS (s : State) : State :=
  match s.job with
  | none => s
  | some j =>
    if !j.holding ∨ j.sent.isSome ∨ s.dev ≠ .running then s
    else
      let early := j.nominal + holdLimit j - j.lead / 2
      let k := paceAt early j
      let s := reachTime (if early < j.nominal then early else Nat.max j.nominal (j.nominal + holdLimit k - k.lead / 2)) s
      sendDeparture (j.nominal + holdLimit k) j.pending s

def execHoldDeadline (s : State) : Result := .next (holdDeadlineS s)

-- Messages of the timetable (R59, R61, R76).

/-- A timetable message: one of an older epoch is dropped and counted (R76). -/
def takeTimetable (i : Instr) (f : Job → Hdr → State → State) (s : State) : State :=
  receive i (fun h s =>
    match s.job with
    | none => s
    | some j => if h.epoch < j.epoch then bump Cnt.ttStaleEpochDrop 0 1 s else f j h s) s

/-- LATE at the master (R68): it is outstanding until the package arrives, unless the departure has been sent. -/
def lateS (h : Hdr) (s : State) : State :=
  takeTimetable (.late h) (fun j h s =>
    if isMaster s && j.sent.isNone && h.step == s.step && isMember s h.src then
      updJob (fun j => { j with pending := setInsert h.src j.pending }) s
    else s) s

def execLate (h : Hdr) (s : State) : Result := .next (lateS h s)

/-- ARRIVAL at the master (R61, R68, R75). -/
def arrivalS (h : Hdr) (s : State) : State :=
  takeTimetable (.arrival h) (fun _ h s =>
    let gone : Takeover → Takeover := fun t => { t with notReached := t.notReached.filter (fun p => p != h.src) }
    if h.step == s.step then
      trySend (updJob (fun j => { j with
        pending := j.pending.filter (fun p => p != h.src)
        takeover := j.takeover.map gone }) s)
    else s) s

def execArrival (h : Hdr) (s : State) : Result := .next (arrivalS h s)

/-- A departure message or its continuation: one whose epoch this package has not adopted says that it was replaced (R482). -/
def takeDeparture (i : Instr) (f : Job → State → State) (s : State) : State :=
  takeTimetable i (fun j h s =>
    if j.epoch < h.epoch then enterQuarantine s
    else if h.src == j.master && h.step == j.next && j.sent.isNone && s.dev == .running then f j s else s) s

/-- The list of departure message `m`, which has `count` entries, is complete: the message is held until its fire time, and
one already past fires at once (R59). -/
def holdDeparture (m : DepMsg) (s : State) : State :=
  let s := updJob (fun j => { j with sent := some m, partDep := none }) s
  if m.fireTime < s.now then fireDeparture m (bump Cnt.ttDepPast 0 1 s) else s

/-- DEPARTURE: one whose list is not yet complete waits for the rest of it (R59, R391). -/
def departureS (h : Hdr) (fire : Nat) (quiesce ends : Bool) (count : Nat) (left : List Nat) (s : State) : State :=
  takeDeparture (.departure h fire quiesce ends count left) (fun j s =>
    let l := j.leftCont ++ left
    let m : DepMsg := { step := j.next, fireTime := fire, epoch := h.epoch, quiesce := quiesce, ends := ends, left := l }
    if l.length ≠ count then updJob (fun j => { j with partDep := some ({ m with left := left }, count) }) s
    else holdDeparture m s) s

def execDeparture (h : Hdr) (fireTime : Nat) (quiesce ends : Bool) (listCount : Nat) (left : List Nat) (s : State) :
    Result :=
  .next (departureS h fireTime quiesce ends listCount left s)

/-- LEFT_CONT: further entries of a departure's list, which may come before it or after it (R59, R391). -/
def leftContS (h : Hdr) (left : List Nat) (s : State) : State :=
  takeDeparture (.leftCont h left) (fun j s =>
    let l := j.leftCont ++ left
    let s := updJob (fun j => { j with leftCont := l }) s
    match j.partDep with
    | some (m, count) =>
      if l.length + m.left.length = count then holdDeparture { m with left := l ++ m.left } s else s
    | none => s) s

def execLeftCont (h : Hdr) (left : List Nat) (s : State) : Result := .next (leftContS h left s)

-- CMD_TT_JOB_START (R84 to R86, R392).

/-- The members of a bitmap. -/
def membersOf (p : List Byte) : List Nat := (List.range 4096).filter (fun i => flag p (384 + i))

/-- The deputies that the payload names. -/
def deputiesOf (p : List Byte) : List Nat := (List.range (field p 164 3)).map (fun k => field p (128 + 12 * k) 12)

/-- ROLE and DEPUTY_RANK agree with the package's number (R86). -/
def roleOk (s : State) (p : List Byte) : Bool :=
  let own := pkgNo s
  let role := field p 96 2
  let rank := field p 98 2
  let deps := deputiesOf p
  let right := if field p 100 12 = own then 2
    else if rank < deps.length && deps.getD rank 4096 == own then 3 else 1
  role == right && (role == 3 || rank == 0)

/-- Headway and lead keep R52, `prop2` being twice the measured propagation time. -/
def paceOk (headway lead prop2 : Nat) : Bool := 2000 ≤ lead && prop2 ≤ lead && 4 * lead ≤ headway

/-- The checks of R86 that the package can make at once: an automatic TT_LEAD is checked when it is measured. -/
def startOk (s : State) (p : List Byte) : Bool :=
  let stage := field p 112 16
  let deps := deputiesOf p
  let mem : Nat → Bool := fun q => flag p (384 + q)
  let headway := field p 192 32
  let lead := field p 256 32
  field p 96 2 != 0 && (stage == 0 || (8 ≤ stage && stage ≤ 256)) && field p 164 3 ≤ 3 && field p 167 1 == 0
    && field p 184 8 == 0 && field p 232 24 == 0 && 20000 ≤ headway && headway ≤ 4000000000 && field p 224 8 ≤ 128
    && (match mapGet s.dsp.graphs (field p 64 32) with
      | some g => g.committed
      | none => false)
    && mem (pkgNo s) && mem (field p 100 12) && deps.all mem && !deps.contains (field p 100 12)
    && (setUnion [] deps).length == deps.length && roleOk s p
    && (if lead = 0 then 8000 ≤ headway else paceOk headway lead 0)

/-- The job that a start command names. -/
def jobOf (s : State) (p : List Byte) (lead : Nat) : Job :=
  let stage := field p 112 16
  let join := field p 168 16
  let fixed := match mapGet s.dsp.graphs (field p 64 32) with
    | some g => imgFixed g
    | none => false
  { id := field p 0 64, graph := field p 64 32, role := field p 96 2, rank := field p 98 2, master := field p 100 12
    deputies := deputiesOf p, stageMib := if stage = 0 then 32 else stage
    joinNs := (if join = 0 then 10000 else join) * 1000000, members := membersOf p, stepLimit := field p 320 64
    fixedOrder := fixed, epoch := field p 288 32, headway := field p 192 32, hold := field p 224 8, lead := lead
    leadGiven := field p 256 32, prop := 0, measured := 0, probes := [], phase := .loading, started := false, next := 0
    nominal := 0, depTime := 0, startTime := s.now, loaded := false, onceDone := false, joined := [], late := false
    arrived := false, endAt := none, readied := [], done := [], doneAt := [], syncLost := false, owes := false
    sittingOut := false, sitting := [], holding := false, decided := false, pending := [], sent := none, leftCont := []
    quiesceReq := false, endReq := false, change := [], offset := 0, syncOk := true, takeover := none, adopted := none
    noMaster := false, replaced := none, partDep := none, parent := none, areas := [] }

/-- The counters that clear at the acceptance of CMD_TT_JOB_START: those of chapters 2 to 10, the logical cores' memory and
PF_ counters, RD_ counters, and those of R491. -/
def clearsAtStart (i : Nat) : Bool :=
  (0x0100 ≤ i && i ≤ 0x08FF) || [0x0906, 0x0908, 0x0912].contains i || (0x0980 ≤ i && i ≤ 0x0986)
    || (0x0A80 ≤ i && i ≤ 0x0AFF) || (0x0C00 ≤ i && i ≤ 0x0C09) || [0x0C84, 0x0C85, 0x0C89].contains i

/-- Parameters that take effect at a job start come into force, and the state of an earlier job is cleared (R66, R264, R284,
R318, R326, R379, R411, R486, R487, R529). -/
def adoptParams (s : State) : State :=
  let s := tensorsAtStart (adoptLines (clearGn (flushAllStaging s)))
  { s with
    mem := { s.mem with
      cfg := { s.mem.cfgNext with
        thermalMode := s.mem.cfg.thermalMode
        tThr := s.mem.cfg.tThr }
      written := [] }
    pool := { s.pool with gthCfg := s.pool.gthCfgNext }
    eng := { s.eng with
      units := []
      accWritten := [] }
    evr := { s.evr with phases := [] }
    chk := { s.chk with
      rate := s.chk.rateNext
      spares := s.chk.sparesNext
      tiles := []
      owed := []
      capsules := s.chk.capsules.filter (fun c => c.retests != [])
      forfeited := false
      leftRuns := []
      substs := []
      dirty := []
      mirrors := []
      field := s.chk.field.map (fun f => { f with stopped := true }) }
    fab := { s.fab with
      rdCfg := s.fab.rdCfgNext
      downMap := []
      digests := [] } }

/-- LINK_STATE for every port in DOWN, or in DISABLED with REASON 2, 3 or 4 (R392). -/
def sendPortStates (s : State) : State :=
  (List.range (nPorts s)).foldl (fun s q =>
    let p := port s q
    if p.st = .down ∨ (p.st = .disabled ∧ 2 ≤ p.reason) then sendLinkState q s else s) s

/-- The master sends its probes (R55). -/
def sendProbes (s : State) : State :=
  match s.job with
  | none => s
  | some j =>
    let l := j.members.filter (fun p => p != pkgNo s)
    let s := updJob (fun j => { j with probes := l }) s
    l.foldl (fun s p => sendPlain (.probe (mkHdr s p 0) s.now) s) s

/-- A member's TT_LEAD where the start command gives none: no message tells it what the master measured (assumption log 32). -/
def memberLead (headway : Nat) (s : State) : Nat × State :=
  let x := freeVal (headway / 4 - 1999) s
  (2000 + x.1, x.2)

/-- JOINs that came before this package had the job count (R80). -/
def earlyJoins (s : State) (epoch : Nat) : List Nat :=
  setUnion [] ((s.fab.early.filter (fun e => e.2 == epoch)).map (fun e => e.1))

/-- This package's parent in the time-transfer tree, from the routes to the tick master as they are now (R56, R393). -/
def takeParent (s : State) : State := updJob (fun j => { j with parent := parentPkg s j.master }) s

/-- The job is joined: ONCE tasks, then LOAD tasks, are readied (R80, R92). -/
def joinJob (p : List Byte) (s : State) : State :=
  let master := field p 96 2 == 2
  let l := if field p 256 32 ≠ 0 then (field p 256 32, s) else if master then (2000, s) else memberLead (field p 192 32) s
  let s := clearCtrs clearsAtStart l.2
  let s := { s with
    job := some (jobOf s p l.1)
    step := 0 }
  let s := reserveWays (adoptParams s)
  let spares := (membersOf p).filter (fun q => standingSpare s q)
  let joined := if master then earlyJoins s (field p 288 32) else []
  let s := updJob (fun j => { j with
    sitting := spares
    sittingOut := spares.contains (pkgNo s)
    joined := joined }) s
  let s := { s with fab := { s.fab with early := [] } }
  let s := takeParent (sendPortStates s)
  let s := if master then sendProbes s else s
  afterOnce (armAll [2] s)

/-- A region that the device creates for a job: no program reaches it. -/
def areaAsk (die mib : Nat) : RegionAsk :=
  { size := mib * 1048576, spread := false, die := die, pooled := false, progR := false, progW := false, pfEn := false,
    hint := 0, table := none, device := true }

/-- One region more for the job, if it fits. -/
def addArea (q : RegionAsk) (s : State) : Option State :=
  (createRegion q s).map (fun r => updJob (fun j => { j with areas := j.areas ++ [r.1] }) r.2.2)

/-- The regions of a job: a staging area on each die, and a spill log for each logical core on its own die (R65, R184,
R350); none where they do not fit (assumption log 68). -/
def startAreas (s : State) : Option State :=
  match s.job with
  | none => none
  | some j =>
    let asks := (List.range (nDies s)).map (fun d => areaAsk d j.stageMib)
      ++ (List.range (nLc s)).map (fun c => areaAsk (lcDie s c) s.pool.gthCfg.spillMib)
    asks.foldl (fun o q => o.bind (addArea q)) (some s)

/-- CMD_TT_JOB_START: its completion follows departure 0 (R79, R445). -/
def jobStart (c : Slot) (s : State) : Performed :=
  let p := c.payload
  if !startOk s p then .done s (failWith St.badParam 0)
  else if !waysFit s (waysFor (if field p 112 16 = 0 then 32 else field p 112 16) s.pool.gthCfgNext.replicaMib
      (dirEntriesAll s)) then .done s (failWith St.noSpace 0)
  else
    match (startAreas (joinJob p s)).bind startMirrors with
    | none => .done s (failWith St.noSpace 0)
    | some t => .wait (setDev .running t)

def execCmdTtJobStart (src : CmdSrc) (s : State) : Result :=
  .next (if heldBack src s then s else performCmd 0x0200 src jobStart s)

-- Joining (R55, R80, R81).

/-- JOB_CTRL to every member (R599). -/
def sendJobCtrl (op : Nat) (s : State) : State :=
  match s.job with
  | none => s
  | some j => toMembers (fun h => .jobCtrl h j.id op) s

/-- The start of the job fails: the master tells the members, and the package returns to READY (R55, R80). -/
def abortStart (st : Nat) (s : State) : State :=
  let s := if isMaster s then sendJobCtrl 0 s else s
  answerWaiting 0x0200 (plain st) (setDevHw .ready (leaveJob s))

/-- The automatic TT_LEAD: twice the propagation time, rounded up to a microsecond, at least 2,000 ns (R55). -/
def autoLead (measured : Nat) : Nat := Nat.max 2000 (cdiv measured 1000 * 1000)

/-- With every probe answered the master sets or checks TT_LEAD (R55): `measured` is the longest round trip, twice the
measured time. DESIGN CHOICE (assumption log 70): TT_LEAD is set from it and checked against it without halving, and
PROP_NS is half of it rounded down; the spec states no rounding for an odd round trip. -/
def judgeLead (s : State) : State :=
  match s.job with
  | none => s
  | some j =>
    if j.probes ≠ [] ∨ j.started ∨ !isMaster s then s
    else
      let lead := if j.leadGiven = 0 then autoLead j.measured else j.leadGiven
      if paceOk j.headway lead j.measured then updJob (fun j => { j with lead := lead, prop := j.measured / 2 }) s
      else abortStart St.badParam s

/-- Departure 0, or the resume departure, goes out once every member has joined and, before departure 0, every probe is
answered (R50, R80, R81). -/
def tryFirst (s : State) : State :=
  match s.job with
  | none => s
  | some j =>
    let all := j.members.all (fun p => j.joined.contains p)
    if isMaster s && j.phase == .loading && j.sent.isNone && all && j.probes == [] && s.dev == .running then
      sendDeparture (s.now + j.lead / 2) [] s
    else s

/-- PROBE: answered at once (R55). -/
def probeS (h : Hdr) (sendTime : Nat) (s : State) : State :=
  receive (.probe h sendTime) (fun h s => sendPlain (.probeReply (replyHdr s h) sendTime 0) s) s

def execProbe (h : Hdr) (sendTime : Nat) (s : State) : Result := .next (probeS h sendTime s)

/-- PROBE_REPLY: the longest round trip is kept (R55). -/
def probeReplyS (h : Hdr) (sendTime rtt : Nat) (s : State) : State :=
  receive (.probeReply h sendTime rtt) (fun h s =>
    match s.job with
    | none => s
    | some j =>
      if j.probes.contains h.src then
        tryFirst (judgeLead (updJob (fun j => { j with
          probes := j.probes.filter (fun p => p != h.src)
          measured := Nat.max j.measured rtt }) s))
      else s) s

def execProbeReply (h : Hdr) (sendTime rtt : Nat) (s : State) : Result := .next (probeReplyS h sendTime rtt s)

/-- TRAIN_LOAD_COMPLETE: the package has joined and its train is loaded (R80, R81). -/
def trainLoadedS (s : State) : State :=
  match s.job with
  | none => s
  | some j =>
    if j.phase ≠ .loading ∨ j.loaded ∨ !j.onceDone ∨ outstanding s ≠ 0 ∨ s.dev ≠ .running then s
    else
      let s := updJob (fun j => { j with loaded := true }) s
      if isMaster s then
        let s := updJob (fun j => { j with joined := setInsert (pkgNo s) j.joined }) s
        tryFirst (if j.members.length = 1 ∧ !j.started then judgeLead s else s)
      else sendPlain (.join (mkHdr s j.master 0)) s

def execTrainLoadComplete (s : State) : Result := .next (trainLoadedS s)

/-- JOIN at the master (R80); before this package has a job it is kept. -/
def joinS (h : Hdr) (s : State) : State :=
  receive (.join h) (fun h s =>
    match s.job with
    | none => { s with fab := { s.fab with early := s.fab.early ++ [(h.src, h.epoch)] } }
    | some j =>
      if isMaster s && j.phase == .loading && h.epoch == j.epoch && isMember s h.src then
        tryFirst (updJob (fun j => { j with joined := setInsert h.src j.joined }) s)
      else s) s

def execJoin (h : Hdr) (s : State) : Result := .next (joinS h s)

/-- JOIN_TIMEOUT: before departure 0 the job is given up; before a resume departure the master leaves the missing behind
(R80, R81). -/
def joinTimeoutS (s : State) : State :=
  match s.job with
  | none => s
  | some j =>
    if j.phase ≠ .loading ∨ j.sent.isSome ∨ s.dev ≠ .running then s
    else
      let s := reachTime (j.startTime + j.joinNs) s
      if !j.started then abortStart St.joinTimeout (raise Ev.ttJoinTimeout 0 [] s)
      else if isMaster s then
        sendDeparture (s.now + j.lead / 2) (j.members.filter (fun p => !j.joined.contains p)) s
      else s

def execJoinTimeout (s : State) : Result := .next (joinTimeoutS s)

/-- LOAD tasks are readied again before the resume departure (R81). -/
def reload (s : State) : State :=
  let s := updJob (fun j => { j with
    phase := .loading
    noMaster := false
    loaded := false
    joined := []
    startTime := s.now }) s
  if standingSpare s (pkgNo s) && !assignedSpare s (pkgNo s) then s else armAll [1] s

/-- JOB_CTRL at a member (R599). DESIGN CHOICE (assumption log 70): a member that returns to READY by an ABORT answers its
start command with ST_JOIN_TIMEOUT and raises no EV_TT_JOIN_TIMEOUT, since the message does not say why the start failed. -/
def jobCtrlS (h : Hdr) (jobId op : Nat) (s : State) : State :=
  receive (.jobCtrl h jobId op) (fun _ s =>
    match s.job with
    | none => s
    | some j =>
      if j.id ≠ jobId then s
      else
        match op with
        | 0 => if s.dev = .running ∧ !j.started then abortStart St.joinTimeout s else s
        | 1 => if s.dev = .quiesced then reload (setDevHw .running s) else s
        | 2 => if s.dev = .quiesced then endJob s else s
        | _ => s) s

def execJobCtrl (h : Hdr) (jobId op : Nat) (s : State) : Result := .next (jobCtrlS h jobId op s)

-- The other commands (R84, R87, R592).

/-- The command is for the tick master (R79). -/
def asMaster (f : List Byte → State → State × Completion) (p : List Byte) (s : State) : State × Completion :=
  if isMaster s then f p s else (s, failStep St.notMaster 6)

/-- CMD_TT_SET_HEADWAY (R87). DESIGN CHOICE (assumption log 70): the automatic TT_LEAD and the check of R52 take the longest
round trip known when the command is performed: what the probes answered so far gave, and 0 at a deputy that has taken over
and so measured none, for which the automatic TT_LEAD is 2,000 ns; nothing is checked again later. -/
def setHeadway (p : List Byte) (s : State) : State × Completion :=
  match s.job with
  | none => (s, failWith St.badState 0)
  | some j =>
    let headway := field p 0 32
    let lead := if field p 64 32 = 0 then autoLead j.measured else field p 64 32
    let n := field p 96 64
    let unsent := if j.sent.isSome then j.next + 1 else j.next
    if headway < 20000 ∨ 4000000000 < headway ∨ 128 < field p 32 8 ∨ field p 40 24 ≠ 0 ∨ !paceOk headway lead j.measured then
      (s, failWith St.badParam 0)
    else
      let c : HeadwayChange := { step := if n = 0 ∨ n < unsent then unsent else n, headway := headway
                                 hold := field p 32 8, lead := lead }
      (updJob (fun j => { j with change := j.change ++ [c] }) s, okWith [])

def execCmdTtSetHeadway (src : CmdSrc) (s : State) : Result := .next (performNow 0x0201 src (asMaster setHeadway) s)

/-- CMD_TT_QUIESCE (R81). -/
def ttQuiesce (_ : List Byte) (s : State) : State × Completion :=
  (updJob (fun j => { j with quiesceReq := true }) s, okWith [])

def execCmdTtQuiesce (src : CmdSrc) (s : State) : Result := .next (performNow 0x0202 src (asMaster ttQuiesce) s)

/-- CMD_TT_RESUME (R81). -/
def ttResume (_ : List Byte) (s : State) : State × Completion :=
  if s.dev = .quiesced then (reload (sendJobCtrl 1 (setDev .running s)), okWith []) else (s, failWith St.badState 0)

def execCmdTtResume (src : CmdSrc) (s : State) : Result :=
  .next (if heldBack src s then s else performNow 0x0203 src (asMaster ttResume) s)

/-- CMD_TT_JOB_END (R79, R81): at the next departure, or at once in QUIESCED. -/
def ttJobEnd (_ : List Byte) (s : State) : State × Completion :=
  match s.job with
  | none => (s, failWith St.badState 0)
  | some j =>
    let leave : State → State := fun s => setDev .ready (leaveJob (finishMigs s))
    if s.dev = .quiesced ∧ j.noMaster then (leave s, okWith [])
    else if !isMaster s then (s, failStep St.notMaster 6)
    else if s.dev = .quiesced then (leave (sendJobCtrl 2 s), okWith [])
    else (updJob (fun j => { j with endReq := true }) s, okWith [])

def execCmdTtJobEnd (src : CmdSrc) (s : State) : Result :=
  .next (if s.dev = .quiesced ∧ heldBack src s then s else performNow 0x0204 src ttJobEnd s)

/-- ROLE of TT_STATUS: after a takeover the deputy is the tick master (R75, R83). -/
def roleNow (s : State) (j : Job) : Nat :=
  if j.master = pkgNo s then 2 else if j.deputies.contains (pkgNo s) then 3 else 1

/-- TT_STATUS (R83). -/
def ttStatusReg (s : State) : Nat :=
  match s.job with
  | none => 0
  | some j =>
    let role := roleNow s j
    let phase := match j.phase with
      | .loading => 1
      | .inStep => if j.arrived then 3 else 2
      | .paused => 0
    let pend := if role = 2 then sat 65535 j.pending.length else 0
    packNat [(0, 2, role), (2, 2, phase), (4, 1, bit j.late), (5, 1, bit j.sittingOut), (6, 1, bit j.holding),
      (7, 1, bit j.syncOk), (8, 2, if role = 3 then j.rank else 0), (16, 16, pend)]

/-- TT_NEXT_DEP (R82). DESIGN CHOICE (assumption log 70): 0 outside a job and before departure 0, which have no next
departure with a nominal time; in QUIESCED, the time of the pause departure plus the headway. TT_STEP keeps the last step
after a job has ended. -/
def ttNextDep (s : State) : Nat :=
  match s.job with
  | some j => j.nominal
  | none => 0

/-- CMD_TT_STATUS (R592), with the values in force now (R87). DESIGN CHOICE (assumption log 70): PROP_NS is 0 at a deputy
that has taken over, which measured nothing. -/
def ttStatus (_ : List Byte) (s : State) : Completion :=
  let tail := match s.job with
    | none => []
    | some j =>
      let k := paceAt s.now j
      [(320, 32, if isMaster s then j.prop else 0), (352, 32, k.lead), (384, 32, k.headway), (416, 8, k.hold),
        (448, 64, j.id)]
  okWith (pack 64 ([(0, 64, s.now), (64, 64, s.step), (128, 64, ttNextDep s), (192, 32, epochOf s),
    (256, 64, ttStatusReg s)] ++ tail))

def execCmdTtStatus (src : CmdSrc) (s : State) : Result := .next (performQuery 0x0205 src ttStatus s)

-- Time transfer (R56, R57, R578).

/-- TIME_XFER_TIMER: every 1 ms a port in UP sends its part of an exchange (R56). -/
def timeXferTimerS (q : Nat) (s : State) : State :=
  let p := port s q
  if p.st ≠ .up then s
  else
    let t2 := freeVal (2 ^ 64) s
    let t3 := freeVal (2 ^ 64) t2.2
    let s := t3.2
    let i : Instr := .timeXfer { mkHdr s p.nbrPkg 0 with hops := 1 } s.now t2.1 t3.1 0
    queueAt q i s

def execTimeXferTimer (port : Nat) (s : State) : Result := onUnit (port < nPorts s) (timeXferTimerS port s)

/-- The estimated offset from the tick master becomes `x` (R57). -/
def setOffset (x : Int) (s : State) : State :=
  match s.job with
  | none => s
  | some j =>
    let far := 1000 < x.natAbs
    let near := x.natAbs < 100
    let s := updJob (fun j => { j with
      offset := x
      syncOk := if far then false else if near then true else j.syncOk
      syncLost := j.syncLost || far }) s
    if far && j.syncOk then raise Ev.ttSyncLost 0 [] (bump Cnt.ttSyncLost 0 1 s) else s

/-- TIME_XFER: an exchange with the parent in the tree disciplines TCLK (R56, R393). -/
def timeXferS (h : Hdr) (t1 t2 t3 : Nat) (offset : Int) (s : State) : State :=
  receive (.timeXfer h t1 t2 t3 offset) (fun h s =>
    match s.job with
    | none => s
    | some j => if j.master ≠ pkgNo s ∧ j.parent = some h.src then setOffset offset s else s) s

def execTimeXfer (h : Hdr) (t1 t2 t3 : Nat) (offset : Int) (s : State) : Result := .next (timeXferS h t1 t2 t3 offset s)

/-- TIMEREF_LOSS: TIMEREF or PPS_IN is lost; the tick master runs free, and global time does not jump (R578). -/
def timerefLossS (s : State) : State :=
  if s.pkg.timeref then
    let s := { s with pkg := { s.pkg with
      timeref := false
      ppsSinceReturn := 0 } }
    if isMaster s && diesRun s then raise Ev.pkgTimerefLoss 0 [] s else s
  else s

def execTimerefLoss (s : State) : Result := .next (timerefLossS s)

/-- TIMEREF_RETURN: discipline waits for two valid PPS edges (R578). -/
def execTimerefReturn (s : State) : Result :=
  .next (if s.pkg.timeref then s
    else { s with pkg := { s.pkg with
      timeref := true
      ppsSinceReturn := 0 } })

/-- PPS_EDGE: the second valid edge after TIMEREF returned resumes the discipline (R578). -/
def execPpsEdge (s : State) : Result :=
  .next (if s.pkg.timeref then
      { s with pkg := { s.pkg with ppsSinceReturn := Nat.min 2 (s.pkg.ppsSinceReturn + 1) } }
    else s)

-- Losing the tick master (R74 to R77).

/-- The rank of a deputy. -/
def rankOf (j : Job) (p : Nat) : Nat := (j.deputies.takeWhile (fun q => q != p)).length

/-- A member counts a takeover (R75). -/
def countTakeover (s : State) : State := raise Ev.ttFailover 0 [] (bump Cnt.ttFailover 0 1 s)

/-- The deputy takes over: a new epoch, announced to every member (R75). -/
def takeOver (j : Job) (s : State) : State :=
  let t : Takeover := { time := s.now, answered := [], notReached := [] }
  let s := updJob (fun j => { j with
    epoch := (j.epoch + 1) % 2 ^ 32
    replaced := if j.replaced.isSome then j.replaced else some j.master
    master := pkgNo s
    takeover := some t
    pending := []
    holding := false
    decided := false
    leftCont := []
    partDep := none
    parent := none }) s
  countTakeover (toMembers (fun h => .takeover h (pkgNo s) (rankOf j (pkgNo s)) false false) s)

/-- A deputy of lower rank has announced a takeover to this one, which follows it (R74). -/
def lowerAnnounced (j : Job) (own : Nat) : Bool := j.adopted.isSome && rankOf j j.master < rankOf j own

/-- DEPUTY_DEADLINE (R74). -/
def deputyDeadlineS (s : State) : State :=
  match s.job with
  | none => s
  | some j =>
    let own := pkgNo s
    let k := paceAt j.nominal j
    if !j.deputies.contains own ∨ j.master = own ∨ j.sent.isSome ∨ j.partDep.isSome ∨ lowerAnnounced j own
        ∨ j.phase ≠ .inStep ∨ s.dev ≠ .running then s
    else takeOver j (reachTime (j.nominal + holdLimit k + (rankOf j own + 1) * k.lead) s)

def execDeputyDeadline (s : State) : Result := .next (deputyDeadlineS s)

/-- A member answers the announcement of the deputy it follows (R75). -/
def answerTakeover (s : State) : State :=
  match s.job with
  | none => s
  | some j =>
    let s := updJob (fun j => { j with owes := !j.arrived }) s
    sendPlain (.takeover (mkHdr s j.master 0) j.master (rankOf j j.master) true j.arrived) s

/-- A member adopts an announcement: the deputy's epoch and the deputy as master, the root of the tree of R56 (R75).
DESIGN CHOICE (assumption log 70): a member that adopts a second announcement for one departure, of a deputy of lower rank
or in place of its own takeover, counts TT_FAILOVER_CNT and raises EV_TT_FAILOVER again: the spec does not say whether a
takeover that is withdrawn counts. -/
def adoptTakeover (h : Hdr) (s : State) : State :=
  let s := updJob (fun j => { j with
    epoch := h.epoch
    replaced := if j.replaced.isSome then j.replaced else some j.master
    master := h.src
    takeover := none
    adopted := some s.now
    sent := none
    leftCont := []
    partDep := none
    holding := false }) s
  releaseEpoch (answerTakeover (countTakeover (takeParent s)))

/-- An announcement at a member (R75, R76). -/
def announced (h : Hdr) (rank : Nat) (j : Job) (s : State) : State :=
  let own := pkgNo s
  let firstNews := j.epoch < h.epoch
  let lower := h.epoch == j.epoch && j.replaced.isSome && rank < rankOf j j.master
  if firstNews then (if j.master = own then s else adoptTakeover h s)
  else if h.epoch = j.epoch ∧ j.adopted.isSome ∧ j.master = h.src then answerTakeover s
  else if lower then adoptTakeover h s
  else bump Cnt.ttStaleEpochDrop 0 1 s

/-- An answer at the deputy (R75). -/
def answered (h : Hdr) (eos : Bool) (s : State) : State :=
  let note : Takeover → Takeover := fun t => { t with
    answered := setInsert h.src t.answered
    notReached := if eos then t.notReached else setInsert h.src t.notReached }
  updJob (fun j => if h.epoch = j.epoch then { j with takeover := j.takeover.map note } else j) s

/-- TAKEOVER: an announcement or an answer (R75). -/
def takeoverS (h : Hdr) (master rank : Nat) (isAnswer eos : Bool) (s : State) : State :=
  receive (.takeover h master rank isAnswer eos) (fun h s =>
    match s.job with
    | none => s
    | some j =>
      if s.dev ≠ .running ∧ s.dev ≠ .quiesced then s
      else if isAnswer then answered h eos s
      else announced h rank j s) s

def execTakeover (h : Hdr) (master rank : Nat) (isAnswer eosReached : Bool) (s : State) : Result :=
  .next (takeoverS h master rank isAnswer eosReached s)

/-- TAKEOVER_ANSWER_WINDOW: the deputy issues the pending departure (R75). -/
def answerWindowS (s : State) : State :=
  match s.job with
  | none => s
  | some j =>
    match j.takeover with
    | none => s
    | some t =>
      if j.sent.isSome ∨ s.dev ≠ .running then s
      else
        let own := pkgNo s
        let s := reachTime (t.time + (paceAt t.time j).lead) s
        let missing := j.members.filter (fun p =>
          if p = own then !j.arrived else !t.answered.contains p || t.notReached.contains p)
        sendDeparture (s.now + (paceAt s.now j).lead / 2) missing s

def execTakeoverAnswerWindow (s : State) : Result := .next (answerWindowS s)

/-- When a member gives the master up (R77). -/
def noMasterAt (j : Job) : Nat :=
  match j.adopted with
  | some t => t + 3 * (paceAt t j).lead
  | none =>
    let k := paceAt j.nominal j
    j.nominal + holdLimit k + (j.deputies.length + 1) * k.lead

/-- The member stops at the last departure it fired (R77): nothing of the running step goes on, and nothing of it is
counted as abandoned (assumption log 69). -/
def stopStep (s : State) : State :=
  let s := stopDispatch (dropWaiting s)
  { s with
    eng := { s.eng with units := mapVals (fun _ g => { g with queue := [], holder := none }) s.eng.units }
    chk := { s.chk with capsules := s.chk.capsules.filter (fun c => c.retests != []) }
    fab := { s.fab with colls := [] } }

/-- NO_MASTER_DEADLINE (R77). -/
def noMasterS (s : State) : State :=
  match s.job with
  | none => s
  | some j =>
    if j.master = pkgNo s ∨ j.sent.isSome ∨ j.partDep.isSome ∨ j.phase ≠ .inStep ∨ s.dev ≠ .running then s
    else
      let s := reachTime (noMasterAt j) s
      let s := updJob (fun j => { j with
        noMaster := true
        phase := .paused }) s
      raise Ev.ttNoMaster 0 [] (setDevHw .quiesced (stopStep s))

def execNoMasterDeadline (s : State) : Result := .next (noMasterS s)

end Sys2Proof.Machine
end

