-- ==== Sys2Proof/Machine/Dispatch.lean ====
section
/-! DEFINITION. One arm per command: its meaning, or its rejection by name. -/

namespace Sys2Proof.Machine

def exec (i : Instr) (s : State) : Host.Outcome State Fault Refusal :=
  match i with
  | .couplingUnitReceive c dir seq data crcOk => Sys2Proof.Machine.execCouplingUnitReceive c dir seq data crcOk s
  | .couplingLaneFault c => Sys2Proof.Machine.execCouplingLaneFault c s
  | .couplingRetrainDone c carries => Sys2Proof.Machine.execCouplingRetrainDone c carries s
  | .couplingRerouteDrainDone c => Sys2Proof.Machine.execCouplingRerouteDrainDone c s
  | .smAliveMark => Sys2Proof.Machine.execSmAliveMark s
  | .smWatchdogExpiry => Sys2Proof.Machine.execSmWatchdogExpiry s
  | .smRestartDone imageOk ckptOk => Sys2Proof.Machine.execSmRestartDone s imageOk ckptOk
  | .smAliveDeadline => Sys2Proof.Machine.execSmAliveDeadline s
  | .smTakeoverDone ok ckptOk => Sys2Proof.Machine.execSmTakeoverDone ok s ckptOk
  | .bridgeWindowWrite offset data => Sys2Proof.Machine.execBridgeWindowWrite offset data s
  | .meterReportRx damaged => Sys2Proof.Machine.execMeterReportRx damaged s
  | .meterStaleTimeout => Sys2Proof.Machine.execMeterStaleTimeout s
  | .cmdTtJobStart src => Sys2Proof.Machine.execCmdTtJobStart src s
  | .cmdTtSetHeadway src => Sys2Proof.Machine.execCmdTtSetHeadway src s
  | .cmdTtQuiesce src => Sys2Proof.Machine.execCmdTtQuiesce src s
  | .cmdTtResume src => Sys2Proof.Machine.execCmdTtResume src s
  | .cmdTtJobEnd src => Sys2Proof.Machine.execCmdTtJobEnd src s
  | .cmdTtStatus src => Sys2Proof.Machine.execCmdTtStatus src s
  | .probe h sendTime => Sys2Proof.Machine.execProbe h sendTime s
  | .probeReply h sendTime rtt => Sys2Proof.Machine.execProbeReply h sendTime rtt s
  | .join h => Sys2Proof.Machine.execJoin h s
  | .trainLoadComplete => Sys2Proof.Machine.execTrainLoadComplete s
  | .joinTimeout => Sys2Proof.Machine.execJoinTimeout s
  | .jobCtrl h jobId op => Sys2Proof.Machine.execJobCtrl h jobId op s
  | .timeXferTimer port => Sys2Proof.Machine.execTimeXferTimer port s
  | .timeXfer h t1 t2 t3 offset => Sys2Proof.Machine.execTimeXfer h t1 t2 t3 offset s
  | .cutoff => Sys2Proof.Machine.execCutoff s
  | .decisionPoint => Sys2Proof.Machine.execDecisionPoint s
  | .holdDeadline => Sys2Proof.Machine.execHoldDeadline s
  | .departure h fireTime quiesce ends listCount left => Sys2Proof.Machine.execDeparture h fireTime quiesce ends listCount left s
  | .leftCont h left => Sys2Proof.Machine.execLeftCont h left s
  | .departureFire => Sys2Proof.Machine.execDepartureFire s
  | .stagingWritebackDone die => Sys2Proof.Machine.execStagingWritebackDone die s
  | .embRowCommit table row => Sys2Proof.Machine.execEmbRowCommit table row s
  | .endOfStepReached => Sys2Proof.Machine.execEndOfStepReached s
  | .late h => Sys2Proof.Machine.execLate h s
  | .arrival h => Sys2Proof.Machine.execArrival h s
  | .deputyDeadline => Sys2Proof.Machine.execDeputyDeadline s
  | .takeover h master rank isAnswer eosReached => Sys2Proof.Machine.execTakeover h master rank isAnswer eosReached s
  | .takeoverAnswerWindow => Sys2Proof.Machine.execTakeoverAnswerWindow s
  | .noMasterDeadline => Sys2Proof.Machine.execNoMasterDeadline s
  | .completionNotice src lc => Sys2Proof.Machine.execCompletionNotice src lc s
  | .dispatchTask lc => Sys2Proof.Machine.execDispatchTask lc s
  | .noticeHeldApply lc => Sys2Proof.Machine.execNoticeHeldApply lc s
  | .taskEnd lc x => Sys2Proof.Machine.execTaskEnd lc x s
  | .taskBadCode lc x => Sys2Proof.Machine.execTaskBadCode lc x s
  | .spawn lc x template target joinTask argAddr => Sys2Proof.Machine.execSpawn lc x template target joinTask argAddr s
  | .spawnStallResume lc => Sys2Proof.Machine.execSpawnStallResume lc s
  | .spawnStallTimeout lc x => Sys2Proof.Machine.execSpawnStallTimeout lc x s
  | .quantumExpiry lc x => Sys2Proof.Machine.execQuantumExpiry lc x s
  | .suspensionDone lc x => Sys2Proof.Machine.execSuspensionDone lc x s
  | .cmdDspGraphOpen src => Sys2Proof.Machine.execCmdDspGraphOpen src s
  | .cmdDspGraphData src => Sys2Proof.Machine.execCmdDspGraphData src s
  | .cmdDspGraphCommit src => Sys2Proof.Machine.execCmdDspGraphCommit src s
  | .cmdDspGraphUnload src => Sys2Proof.Machine.execCmdDspGraphUnload src s
  | .cmdDspGraphInfo src => Sys2Proof.Machine.execCmdDspGraphInfo src s
  | .sample lc idx => Sys2Proof.Machine.execSample lc idx s
  | .samplePieceRun lc idx => Sys2Proof.Machine.execSamplePieceRun lc idx s
  | .shunterSteal lc idx => Sys2Proof.Machine.execShunterSteal lc idx s
  | .stealRetryTimer lc idx => Sys2Proof.Machine.execStealRetryTimer lc idx s
  | .shunterSleepTimer lc idx => Sys2Proof.Machine.execShunterSleepTimer lc idx s
  | .cmdSmpAdjSet src => Sys2Proof.Machine.execCmdSmpAdjSet src s
  | .cmdSmpAdjClear src => Sys2Proof.Machine.execCmdSmpAdjClear src s
  | .cmdSmpSeedsSet src => Sys2Proof.Machine.execCmdSmpSeedsSet src s
  | .cmdSmpInfo src => Sys2Proof.Machine.execCmdSmpInfo src s
  | .cmdSmpProbe src => Sys2Proof.Machine.execCmdSmpProbe src s
  | .gather lc idx => Sys2Proof.Machine.execGather lc idx s
  | .scatter lc idx => Sys2Proof.Machine.execScatter lc idx s
  | .spmm lc idx => Sys2Proof.Machine.execSpmm lc idx s
  | .haccDrain lc idx => Sys2Proof.Machine.execHaccDrain lc idx s
  | .compress24 lc idx => Sys2Proof.Machine.execCompress24 lc idx s
  | .haccContribution lc key elems task piece seq c j => Sys2Proof.Machine.execHaccContribution lc key elems task piece seq s c j
  | .haccCfgWrite lc width op => Sys2Proof.Machine.execHaccCfgWrite lc width op s
  | .haccOpen lc => Sys2Proof.Machine.execHaccOpen lc s
  | .remoteReadTimeout tag => Sys2Proof.Machine.execRemoteReadTimeout tag s
  | .cmdGthConfig src => Sys2Proof.Machine.execCmdGthConfig src s
  | .cmdGthInfo src => Sys2Proof.Machine.execCmdGthInfo src s
  | .poolRead h addr nsect => Sys2Proof.Machine.execPoolRead h addr nsect s
  | .poolData h hot poison data => Sys2Proof.Machine.execPoolData h hot poison data s
  | .poolStore h addr data => Sys2Proof.Machine.execPoolStore h addr data s
  | .poolAccum h addr data => Sys2Proof.Machine.execPoolAccum h addr data s
  | .rowUpdate h row table part parts data => Sys2Proof.Machine.execRowUpdate h row table part parts data s
  | .poolAck h status => Sys2Proof.Machine.execPoolAck h status s
  | .poolFwd h home slot => Sys2Proof.Machine.execPoolFwd h home slot s
  | .poolErr h reason epoch => Sys2Proof.Machine.execPoolErr h reason epoch s
  | .slotRequest h row table => Sys2Proof.Machine.execSlotRequest h row table s
  | .slotGrant h row table slot => Sys2Proof.Machine.execSlotGrant h row table slot s
  | .slotRefusal h row table => Sys2Proof.Machine.execSlotRefusal h row table s
  | .rowCopy h row table image poison => Sys2Proof.Machine.execRowCopy h row table image s poison
  | .directoryChange h row table home slot => Sys2Proof.Machine.execDirectoryChange h row table home slot s
  | .forwardedContribution h row table origin seq data => Sys2Proof.Machine.execForwardedContribution h row table origin seq data s
  | .cmdEmbTableCreate src => Sys2Proof.Machine.execCmdEmbTableCreate src s
  | .cmdEmbTableDestroy src => Sys2Proof.Machine.execCmdEmbTableDestroy src s
  | .cmdEmbWriteRows src => Sys2Proof.Machine.execCmdEmbWriteRows src s
  | .cmdEmbReadRows src => Sys2Proof.Machine.execCmdEmbReadRows src s
  | .cmdEmbSetHyper src => Sys2Proof.Machine.execCmdEmbSetHyper src s
  | .cmdEmbMigrate src => Sys2Proof.Machine.execCmdEmbMigrate src s
  | .cmdEmbDirRead src => Sys2Proof.Machine.execCmdEmbDirRead src s
  | .cmdEmbInfo src => Sys2Proof.Machine.execCmdEmbInfo src s
  | .cmdMxTensorSet src => Sys2Proof.Machine.execCmdMxTensorSet src s
  | .cmdMxTensorInfo src => Sys2Proof.Machine.execCmdMxTensorInfo src s
  | .mma lc x desc faults => Sys2Proof.Machine.execMma lc x desc faults s
  | .mmaRetire lc a busy stallA stallB wait => Sys2Proof.Machine.execMmaRetire lc a busy stallA stallB wait s
  | .mxWait lc x a => Sys2Proof.Machine.execMxWait lc x a s
  | .elem lc x desc faults => Sys2Proof.Machine.execElem lc x desc faults s
  | .perm lc x desc faults => Sys2Proof.Machine.execPerm lc x desc faults s
  | .move lc x desc => Sys2Proof.Machine.execMove lc x desc s
  | .veRetire lc busy drain wait => Sys2Proof.Machine.execVeRetire lc busy drain wait s
  | .veWait lc x => Sys2Proof.Machine.execVeWait lc x s
  | .sigSet lc x line => Sys2Proof.Machine.execSigSet lc x line s
  | .sigClr lc x line => Sys2Proof.Machine.execSigClr lc x line s
  | .sigArrive lc x line dest => Sys2Proof.Machine.execSigArrive lc x line s dest
  | .sigArriveRetry lc x => Sys2Proof.Machine.execSigArriveRetry lc x s
  | .sigWait lc x line value timeout => Sys2Proof.Machine.execSigWait lc x line value timeout s
  | .sigRead lc x line dest => Sys2Proof.Machine.execSigRead lc x line s dest
  | .sigValueRegister => Sys2Proof.Machine.execSigValueRegister s
  | .sigWaitTimeout lc x => Sys2Proof.Machine.execSigWaitTimeout lc x s
  | .sigUp h line value => Sys2Proof.Machine.execSigUp h line value s
  | .sigDown h line value => Sys2Proof.Machine.execSigDown h line value s
  | .cmdSigConfig src => Sys2Proof.Machine.execCmdSigConfig src s
  | .cmdSigInfo src => Sys2Proof.Machine.execCmdSigInfo src s
  | .memoryReadRequest r gaddr len found => Sys2Proof.Machine.execMemoryReadRequest r gaddr len found s
  | .memoryWriteRequest r gaddr data => Sys2Proof.Machine.execMemoryWriteRequest r gaddr data s
  | .wcbIdleFlush line => Sys2Proof.Machine.execWcbIdleFlush line s
  | .prefetchFill lc granule => Sys2Proof.Machine.execPrefetchFill lc granule s
  | .patrolScrub chan found => Sys2Proof.Machine.execPatrolScrub chan found s
  | .channelRetrainStart chan => Sys2Proof.Machine.execChannelRetrainStart chan s
  | .channelRetrainDone chan => Sys2Proof.Machine.execChannelRetrainDone chan s
  | .channelRetrainTimeout chan => Sys2Proof.Machine.execChannelRetrainTimeout chan s
  | .stackTempReport j temp => Sys2Proof.Machine.execStackTempReport j temp s
  | .cmdMemAlloc src => Sys2Proof.Machine.execCmdMemAlloc src s
  | .cmdMemFree src => Sys2Proof.Machine.execCmdMemFree src s
  | .cmdMemWrite src => Sys2Proof.Machine.execCmdMemWrite src s
  | .cmdMemRead src => Sys2Proof.Machine.execCmdMemRead src s
  | .cmdMemRegions src => Sys2Proof.Machine.execCmdMemRegions src s
  | .cmdMemConfig src => Sys2Proof.Machine.execCmdMemConfig src s
  | .cmdMemRetrain src => Sys2Proof.Machine.execCmdMemRetrain src s
  | .cmdMemMargin src passes => Sys2Proof.Machine.execCmdMemMargin src passes s
  | .cmdMemStatus src => Sys2Proof.Machine.execCmdMemStatus src s
  | .linkCodewordReceive port result frame => Sys2Proof.Machine.execLinkCodewordReceive port result frame s
  | .linkLayerControlSlot port slot => Sys2Proof.Machine.execLinkLayerControlSlot port slot s
  | .linkAckTimeout port => Sys2Proof.Machine.execLinkAckTimeout port s
  | .portTrainingDone port lanes => Sys2Proof.Machine.execPortTrainingDone port lanes s
  | .hello h port coords code dim plus portB nbrPort => Sys2Proof.Machine.execHello h port coords code dim plus portB nbrPort s
  | .portHelloTimeout port => Sys2Proof.Machine.execPortHelloTimeout port s
  | .portLaneFault port lanes => Sys2Proof.Machine.execPortLaneFault port lanes s
  | .portRetrainTimeout port => Sys2Proof.Machine.execPortRetrainTimeout port s
  | .linkState h pkg dim plus portB newState => Sys2Proof.Machine.execLinkState h pkg dim plus portB newState s
  | .futureEpochTimeout tag => Sys2Proof.Machine.execFutureEpochTimeout tag s
  | .reduceScatter die => Sys2Proof.Machine.execReduceScatter die s
  | .gnorm die => Sys2Proof.Machine.execGnorm die s
  | .rdContrib h row table nrows fmt data => Sys2Proof.Machine.execRdContrib h row table nrows fmt data s
  | .rdAck h row table status afterClose => Sys2Proof.Machine.execRdAck h row table status afterClose s
  | .rdAckTimeout tag => Sys2Proof.Machine.execRdAckTimeout tag s
  | .shardCloseTime table => Sys2Proof.Machine.execShardCloseTime table s
  | .gnPartial h partialSum nonfinite => Sys2Proof.Machine.execGnPartial h partialSum nonfinite s
  | .gnRootClose => Sys2Proof.Machine.execGnRootClose s
  | .gnResult h total count nonfinite => Sys2Proof.Machine.execGnResult h total count nonfinite s
  | .cmdLnkTopoSet src => Sys2Proof.Machine.execCmdLnkTopoSet src s
  | .cmdLnkStatus src => Sys2Proof.Machine.execCmdLnkStatus src s
  | .cmdLnkRetrain src => Sys2Proof.Machine.execCmdLnkRetrain src s
  | .cmdRdConfig src => Sys2Proof.Machine.execCmdRdConfig src s
  | .cmdRdBind src => Sys2Proof.Machine.execCmdRdBind src s
  | .cmdRdDigestRead src => Sys2Proof.Machine.execCmdRdDigestRead src s
  | .registerWrite bar offset width value => Sys2Proof.Machine.execRegisterWrite bar offset width value s
  | .devReset full => Sys2Proof.Machine.execDevReset full s
  | .pkgEvtStatusWrite value => Sys2Proof.Machine.execPkgEvtStatusWrite value s
  | .mbxWindowWrite n offset data => Sys2Proof.Machine.execMbxWindowWrite n offset data s
  | .mbxOpen n irqEn => Sys2Proof.Machine.execMbxOpen n irqEn s
  | .mbxClose n irqEn => Sys2Proof.Machine.execMbxClose n irqEn s
  | .mbxAbort n => Sys2Proof.Machine.execMbxAbort n s
  | .mbxPost n value => Sys2Proof.Machine.execMbxPost n value s
  | .mbxTakeUp n => Sys2Proof.Machine.execMbxTakeUp n s
  | .mbxPostTimeout n => Sys2Proof.Machine.execMbxPostTimeout n s
  | .mbxCompletion n => Sys2Proof.Machine.execMbxCompletion n s
  | .functionLevelReset => Sys2Proof.Machine.execFunctionLevelReset s
  | .d3hotEntry => Sys2Proof.Machine.execD3hotEntry s
  | .busMasterEnableSet => Sys2Proof.Machine.execBusMasterEnableSet s
  | .shedWindow utilisation => Sys2Proof.Machine.execShedWindow utilisation s
  | .cmdMbxNop src => Sys2Proof.Machine.execCmdMbxNop src s
  | .cmdMbxInfo src => Sys2Proof.Machine.execCmdMbxInfo src s
  | .mctpCommand packet => Sys2Proof.Machine.execMctpCommand packet s
  | .mctpControl msg => Sys2Proof.Machine.execMctpControl msg s
  | .pldmMessage msg => Sys2Proof.Machine.execPldmMessage msg s
  | .pldmFirmwareUpdate msg => Sys2Proof.Machine.execPldmFirmwareUpdate msg s
  | .checkExecutionDone cap die k value => Sys2Proof.Machine.execCheckExecutionDone cap die k value s
  | .retestDone u cap value => Sys2Proof.Machine.execRetestDone u cap value s
  | .sidingCopyDone lc poisoned => Sys2Proof.Machine.execSidingCopyDone lc poisoned s
  | .spareRebuildDone dead => Sys2Proof.Machine.execSpareRebuildDone dead s
  | .historyFlush => Sys2Proof.Machine.execHistoryFlush s
  | .autoFieldTestStart => Sys2Proof.Machine.execAutoFieldTestStart s
  | .fieldTestEnd tiles charged => Sys2Proof.Machine.execFieldTestEnd tiles charged s
  | .cmdChkConfig src => Sys2Proof.Machine.execCmdChkConfig src s
  | .cmdChkStatus src => Sys2Proof.Machine.execCmdChkStatus src s
  | .cmdChkFieldTest src => Sys2Proof.Machine.execCmdChkFieldTest src s
  | .cmdFncStatus src => Sys2Proof.Machine.execCmdFncStatus src s
  | .cmdFncHistoryRead src => Sys2Proof.Machine.execCmdFncHistoryRead src s
  | .cmdFncSparesSet src => Sys2Proof.Machine.execCmdFncSparesSet src s
  | .brgPhaseComplete found => Sys2Proof.Machine.execBrgPhaseComplete found s
  | .brgDecide => Sys2Proof.Machine.execBrgDecide s
  | .cmdBrgStart src => Sys2Proof.Machine.execCmdBrgStart src s
  | .deferredReset => Sys2Proof.Machine.execDeferredReset s
  | .cmdBrgStatus src => Sys2Proof.Machine.execCmdBrgStatus src s
  | .cmdBrgAllowDegraded src => Sys2Proof.Machine.execCmdBrgAllowDegraded src s
  | .cmdBrgFaultMapRead src => Sys2Proof.Machine.execCmdBrgFaultMapRead src s
  | .eventAdmit => Sys2Proof.Machine.execEventAdmit s
  | .tokenRefill code => Sys2Proof.Machine.execTokenRefill code s
  | .spillBatch => Sys2Proof.Machine.execSpillBatch s
  | .freezeTimeout => Sys2Proof.Machine.execFreezeTimeout s
  | .summaryRefresh => Sys2Proof.Machine.execSummaryRefresh s
  | .cmdEvrRead src => Sys2Proof.Machine.execCmdEvrRead src s
  | .cmdEvrFreeze src => Sys2Proof.Machine.execCmdEvrFreeze src s
  | .cmdEvrUnfreeze src => Sys2Proof.Machine.execCmdEvrUnfreeze src s
  | .cmdEvrClear src => Sys2Proof.Machine.execCmdEvrClear src s
  | .cmdEvrHistRead src => Sys2Proof.Machine.execCmdEvrHistRead src s
  | .cmdEvrConfig src => Sys2Proof.Machine.execCmdEvrConfig src s
  | .cmdEvrCountersRead src => Sys2Proof.Machine.execCmdEvrCountersRead src s
  | .cmdEvrPhaseRead src => Sys2Proof.Machine.execCmdEvrPhaseRead src s
  | .meterSample mv ma => Sys2Proof.Machine.execMeterSample mv ma s
  | .meterPulseEnd => Sys2Proof.Machine.execMeterPulseEnd s
  | .meterCommit => Sys2Proof.Machine.execMeterCommit s
  | .meterReportTimer => Sys2Proof.Machine.execMeterReportTimer s
  | .sealChange => Sys2Proof.Machine.execSealChange s
  | .readReport => Sys2Proof.Machine.execReadReport s
  | .challenge bytes => Sys2Proof.Machine.execChallenge bytes s
  | .readAudit seq => Sys2Proof.Machine.execReadAudit seq s
  | .accountOpen id => Sys2Proof.Machine.execAccountOpen id s
  | .accountClose => Sys2Proof.Machine.execAccountClose s
  | .readId => Sys2Proof.Machine.execReadId s
  | .paramLoad blocks => Sys2Proof.Machine.execParamLoad blocks s
  | .meterBadCommand byte => Sys2Proof.Machine.execMeterBadCommand byte s
  | .cmdMtrReportRead src => Sys2Proof.Machine.execCmdMtrReportRead src s
  | .cmdMtrAuditRead src => Sys2Proof.Machine.execCmdMtrAuditRead src s
  | .cmdPkgAttest src => Sys2Proof.Machine.execCmdPkgAttest src s
  | .cmdPkgOwnerEnroll src => Sys2Proof.Machine.execCmdPkgOwnerEnroll src s
  | .cmdPkgFwOpen src => Sys2Proof.Machine.execCmdPkgFwOpen src s
  | .cmdPkgFwData src => Sys2Proof.Machine.execCmdPkgFwData src s
  | .cmdPkgFwCommit src => Sys2Proof.Machine.execCmdPkgFwCommit src s
  | .cmdPkgFwActivate src => Sys2Proof.Machine.execCmdPkgFwActivate src s
  | .vauxApplied romOk => Sys2Proof.Machine.execVauxApplied romOk s
  | .vauxLoss => Sys2Proof.Machine.execVauxLoss s
  | .vinLoss => Sys2Proof.Machine.execVinLoss s
  | .vinRangeExit => Sys2Proof.Machine.execVinRangeExit s
  | .pkgPwrgdFall => Sys2Proof.Machine.execPkgPwrgdFall s
  | .pkgPwrgdRise => Sys2Proof.Machine.execPkgPwrgdRise s
  | .pkgRstNFall => Sys2Proof.Machine.execPkgRstNFall s
  | .pkgRstNRise => Sys2Proof.Machine.execPkgRstNRise s
  | .pciePerstNFall => Sys2Proof.Machine.execPciePerstNFall s
  | .pcieRefclkLoss => Sys2Proof.Machine.execPcieRefclkLoss s
  | .pcieRefclkReturn => Sys2Proof.Machine.execPcieRefclkReturn s
  | .lrefclkLoss => Sys2Proof.Machine.execLrefclkLoss s
  | .timerefLoss => Sys2Proof.Machine.execTimerefLoss s
  | .ppsEdge => Sys2Proof.Machine.execPpsEdge s
  | .dieTempReport d temp => Sys2Proof.Machine.execDieTempReport d temp s
  | .powerCeilingUpdate vin iin p10 mhz => Sys2Proof.Machine.execPowerCeilingUpdate vin iin p10 mhz s
  | .pkgThrottleNFall => Sys2Proof.Machine.execPkgThrottleNFall s
  | .pkgThrottleNRise => Sys2Proof.Machine.execPkgThrottleNRise s
  | .jtagInstruction idx => Sys2Proof.Machine.execJtagInstruction idx s
  | .cmdPkgPowerStatus src => Sys2Proof.Machine.execCmdPkgPowerStatus src s
  | .cmdPkgPowerLimit src => Sys2Proof.Machine.execCmdPkgPowerLimit src s
  | .cmdPkgThermalStatus src => Sys2Proof.Machine.execCmdPkgThermalStatus src s
  | .pciePerstNRise => Sys2Proof.Machine.execPciePerstNRise s
  | .busMasterEnableClear => Sys2Proof.Machine.execBusMasterEnableClear s
  | .msixFunctionUnmask => Sys2Proof.Machine.execMsixFunctionUnmask s
  | .badLinkPacket header => Sys2Proof.Machine.execBadLinkPacket header s
  | .timerefReturn => Sys2Proof.Machine.execTimerefReturn s
  | .cclkChangeDone d => Sys2Proof.Machine.execCclkChangeDone d s

end Sys2Proof.Machine
end

