-- ==== Sys2Proof/Safety.lean ====
section
/-! DEFINITION. What counts as a safe step and a sound state, in the terms the claims use. -/

namespace Sys2Proof.Machine

/-- The step from `s` stops with neither a fault nor a refusal. -/
def completes (s : State) : Prop := ∃ t, step s = .next t

/-- Two regions share no byte. -/
def Region.apart (a b : Region) : Prop := a.base + a.size ≤ b.base ∨ b.base + b.size ≤ a.base

/-- No two regions overlap (R350). -/
def regionsApart (m : AMap Region) : Prop := (m.map (fun e => e.2)).Pairwise Region.apart

/-- Every item that soft fault map `a` names is named in `b` (R502). -/
def softKept (a b : List FaultEntry) : Prop := ∀ e ∈ a, ∃ f ∈ b, sameItem e f = true

/-- Between a loss of VAUX and its return the registers hold no more than was committed (R540). -/
def meterSettled (m : Meter) (vaux : Bool) : Prop :=
  m.powered = vaux ∧ (vaux = false → m.regs.energy ≤ m.nv.energy)

/-- `src` executes, in slot `c`, a command of opcode `op` that passed steps 1 to 9 and is performed now: not yet
performed, waiting for nothing, judged in the state that the device is in, the stationmaster running (R434, R441, R442,
R445). -/
def performs (s : State) (src : CmdSrc) (op : Nat) (c : Slot) : Prop :=
  slotOf s src = some c ∧ runnable op c = true ∧ c.stale = false ∧ s.sm.state = .running

/-- `t` with completion `r` recorded for the command in slot `c` of `src`, effect and completion in one (R38). -/
def recorded (src : CmdSrc) (c : Slot) (r : Completion) (t : State) : State := putSlot src { c with done := some r } t

/-- `t` with the command in slot `c` of `src` waiting for its event (R445). -/
def leftWaiting (src : CmdSrc) (c : Slot) (t : State) : State := putSlot src { c with waits := true } t

/-- Link packet `i` with header `h` is for this package and passes steps 1 and 2 of R397: the dies run, the package is not
quarantined (R482), and its fields are ones that its type allows. -/
def addressed (s : State) (i : Instr) (h : Hdr) : Prop :=
  hdrOf i = some h ∧ diesRun s = true ∧ s.dev ≠ .quarantined ∧ packetOk i = true ∧ h.dst = pkgNo s

/-- Packet `i` with header `h` passes steps 1 to 5 of R397 now: it is for this package, its epoch is in force where epochs
are judged, and its step number is one that its kind is served at (R66, R339). -/
def current (s : State) (i : Instr) (h : Hdr) : Prop :=
  addressed s i h ∧ (epochJudged s = true → h.epoch = epochOf s) ∧ h.step < stepOf s + 2
    ∧ (stepKind i = .staged → stepOf s ≤ h.step)
    ∧ (stepKind i = .read → h.step = stepOf s)
    ∧ ((stepKind i = .line ∨ stepKind i = .norm) → h.step = stepOf s ∧ epochOf s ≤ h.epoch)

/-- `s` as a row that makes its accesses from die `d` finds it (R28, R371). -/
def rowBegun (d : Nat) (s : State) : State := { s with mem := { s.mem with via := some d, met := false } }

/-- Row `i`, which leaves `t` when all its accesses can be made, leaves it where none of them meets a channel or coupling
under retrain; where one does, the row's unit waits, and nothing changes (R28, R371, assumption log 59). -/
def takesEffect (i : Instr) (s t : State) : Prop :=
  (t.mem.met = false → exec i s = .next (rowDone s t)) ∧ (t.mem.met = true → exec i s = .next s)

/-- This package as packet `i` with header `h`, which makes its accesses from the die of its port, finds it: its digest holds
the packet (R397, R410). -/
def arrived (i : Instr) (h : Hdr) (s : State) : State := let u := digest false h.src i s; rowBegun (arrivalDie u h) u

/-- Packet `i` with header `h`, which leaves `t` when all its accesses can be made, leaves it where none of them meets a
channel or coupling under retrain; where one does, the packet waits (R28, R371). Its credits go back either way. -/
def takesEffectOrWaits (i : Instr) (h : Hdr) (s t : State) : Prop :=
  let u := digest false h.src i s
  (t.mem.met = false → exec i s = .next (returnCredits i h (rowDone u t)))
  ∧ (t.mem.met = true → exec i s =
    .next (returnCredits i h { u with mem := { u.mem with waiting := u.mem.waiting ++ [i] } }))

/-- `i` is a pool or collective packet (R395). -/
def poolPacket : Instr → Bool
  | .poolRead _ _ _ | .poolData _ _ _ _ | .poolStore _ _ _ | .poolAccum _ _ _ | .rowUpdate _ _ _ _ _ _ | .poolAck _ _
  | .poolFwd _ _ _ | .poolErr _ _ _ | .slotRequest _ _ _ | .slotGrant _ _ _ _ | .slotRefusal _ _ _ | .rowCopy _ _ _ _ _
  | .directoryChange _ _ _ _ _ | .forwardedContribution _ _ _ _ _ _ | .rdContrib _ _ _ _ _ _ | .rdAck _ _ _ _ _ => true
  | _ => false

/-- The opcode and the source of a command of the command tables (R453); the other rows have none. -/
def commandRow : Instr → Option (Nat × CmdSrc)
  | .cmdTtJobStart src => some (0x0200, src)
  | .cmdTtSetHeadway src => some (0x0201, src)
  | .cmdTtQuiesce src => some (0x0202, src)
  | .cmdTtResume src => some (0x0203, src)
  | .cmdTtJobEnd src => some (0x0204, src)
  | .cmdTtStatus src => some (0x0205, src)
  | .cmdDspGraphOpen src => some (0x0300, src)
  | .cmdDspGraphData src => some (0x0301, src)
  | .cmdDspGraphCommit src => some (0x0302, src)
  | .cmdDspGraphUnload src => some (0x0303, src)
  | .cmdDspGraphInfo src => some (0x0304, src)
  | .cmdSmpAdjSet src => some (0x0400, src)
  | .cmdSmpAdjClear src => some (0x0401, src)
  | .cmdSmpSeedsSet src => some (0x0402, src)
  | .cmdSmpInfo src => some (0x0403, src)
  | .cmdSmpProbe src => some (0x0404, src)
  | .cmdGthConfig src => some (0x0500, src)
  | .cmdGthInfo src => some (0x0501, src)
  | .cmdEmbTableCreate src => some (0x0600, src)
  | .cmdEmbTableDestroy src => some (0x0601, src)
  | .cmdEmbWriteRows src => some (0x0602, src)
  | .cmdEmbReadRows src => some (0x0603, src)
  | .cmdEmbSetHyper src => some (0x0604, src)
  | .cmdEmbMigrate src => some (0x0605, src)
  | .cmdEmbDirRead src => some (0x0606, src)
  | .cmdEmbInfo src => some (0x0607, src)
  | .cmdMxTensorSet src => some (0x0700, src)
  | .cmdMxTensorInfo src => some (0x0701, src)
  | .cmdSigConfig src => some (0x0A00, src)
  | .cmdSigInfo src => some (0x0A01, src)
  | .cmdMemAlloc src => some (0x0B00, src)
  | .cmdMemFree src => some (0x0B01, src)
  | .cmdMemWrite src => some (0x0B02, src)
  | .cmdMemRead src => some (0x0B03, src)
  | .cmdMemRegions src => some (0x0B04, src)
  | .cmdMemConfig src => some (0x0B05, src)
  | .cmdMemRetrain src => some (0x0B06, src)
  | .cmdMemMargin src _ => some (0x0B07, src)
  | .cmdMemStatus src => some (0x0B08, src)
  | .cmdLnkTopoSet src => some (0x0C00, src)
  | .cmdLnkStatus src => some (0x0C01, src)
  | .cmdLnkRetrain src => some (0x0C02, src)
  | .cmdRdConfig src => some (0x0C03, src)
  | .cmdRdBind src => some (0x0C04, src)
  | .cmdRdDigestRead src => some (0x0C05, src)
  | .cmdMbxNop src => some (0x0100, src)
  | .cmdMbxInfo src => some (0x0101, src)
  | .cmdChkConfig src => some (0x0D00, src)
  | .cmdChkStatus src => some (0x0D01, src)
  | .cmdChkFieldTest src => some (0x0D02, src)
  | .cmdFncStatus src => some (0x0D03, src)
  | .cmdFncHistoryRead src => some (0x0D04, src)
  | .cmdFncSparesSet src => some (0x0D05, src)
  | .cmdBrgStart src => some (0x0E00, src)
  | .cmdBrgStatus src => some (0x0E01, src)
  | .cmdBrgAllowDegraded src => some (0x0E02, src)
  | .cmdBrgFaultMapRead src => some (0x0E03, src)
  | .cmdEvrRead src => some (0x0F00, src)
  | .cmdEvrFreeze src => some (0x0F01, src)
  | .cmdEvrUnfreeze src => some (0x0F02, src)
  | .cmdEvrClear src => some (0x0F03, src)
  | .cmdEvrHistRead src => some (0x0F04, src)
  | .cmdEvrConfig src => some (0x0F05, src)
  | .cmdEvrCountersRead src => some (0x0F06, src)
  | .cmdEvrPhaseRead src => some (0x0F07, src)
  | .cmdMtrReportRead src => some (0x1000, src)
  | .cmdMtrAuditRead src => some (0x1001, src)
  | .cmdPkgAttest src => some (0x1010, src)
  | .cmdPkgOwnerEnroll src => some (0x1011, src)
  | .cmdPkgFwOpen src => some (0x1012, src)
  | .cmdPkgFwData src => some (0x1013, src)
  | .cmdPkgFwCommit src => some (0x1014, src)
  | .cmdPkgFwActivate src => some (0x1015, src)
  | .cmdPkgPowerStatus src => some (0x1100, src)
  | .cmdPkgPowerLimit src => some (0x1101, src)
  | .cmdPkgThermalStatus src => some (0x1102, src)
  | _ => none

end Sys2Proof.Machine
end

