-- ==== Sys2Proof/Certificates/Slice0/Obligations.lean ====
section
/-! DEFINITION. The statements for the provers, chapter by chapter of the spec. -/

section Statements

open Sys2Proof Sys2Proof.Machine

/-- For every command c and state s whose queue is c followed by rest, step s is exec c on s with the queue rest; for
every s with an empty queue, step s is s after one TCLK cycle of 1 ns (log 3). -/
def Obligations.FrontCommandRuns : Prop :=
  (∀ (c : Instr) (rest : List Instr) (s : State), s.pending = c :: rest → step s = exec c { s with pending := rest })
    ∧ ∀ s : State, s.pending = [] → step s = .next (advance 1 s)

/-- State.reset holds what the field maps give for reset: STATE 2 (BRINGUP), SM_STATE 0 and SM_ON_D1 0, STATE_SEQ 0,
SHED_LEVEL 0 (R426); every counter reads 0 (R15); PKG_EVT_STATUS 0 and PKG_EVT_MASK 0xF (R428); every mailbox CLOSED
with control block zero (R432, R433); PL the code's package maximum and TJ_THR 95 (R584); every register of bring-up
phase 0; nothing waits. -/
def Obligations.ResetState : Prop :=
  devCode State.reset.dev = 2 ∧ smCode State.reset.sm.state = 0 ∧ State.reset.sm.onD1 = false ∧ State.reset.stateSeq = 0
    ∧ State.reset.sm.shed = 0 ∧ (∀ id inst, ctrGet State.reset id inst = 0)
    ∧ State.reset.host.evtStatus = 0#32 ∧ State.reset.host.evtMask = 0xF#32
    ∧ (∀ n, (mailbox State.reset n).phase = .closed ∧ (mailbox State.reset n).irqEn = false
        ∧ (mailbox State.reset n).closing = false ∧ (mailbox State.reset n).retBase = 0
        ∧ (mailbox State.reset n).retSize = 0 ∧ (mailbox State.reset n).slot = none)
    ∧ State.reset.pkg.plW = codeMaxW State.reset.fuse.code ∧ State.reset.pkg.tjThr = 95
    ∧ State.reset.brg.phase = 0 ∧ State.reset.pending = []

/-- State.reset's memory is in canonical form, no two of its regions overlap, and its meter is settled. -/
def Obligations.ResetIsSound : Prop :=
  State.reset.mem.wf = true ∧ regionsApart State.reset.mem.regions ∧ meterSettled State.reset.meter State.reset.pkg.vaux

/-- For every state s: if step s answers next t, then every fuse of t (ordering code, serial, fuse map, DBG_LOCK,
identity secret, floor, keys) is as in s. -/
def Obligations.FusesNeverBlown : Prop :=
  ∀ s t : State, step s = .next t → t.fuse = s.fuse

/-- For every state s: if step s answers next t, then every item that the soft fault map of s names is named in that of
t. -/
def Obligations.SoftFaultMapKeepsItems : Prop :=
  ∀ s t : State, step s = .next t → softKept s.flash.softMap t.flash.softMap

/-- For every state s: if step s answers next t, then the clear log of s is a prefix of that of t. -/
def Obligations.ClearLogNeverErased : Prop :=
  ∀ s t : State, step s = .next t → s.flash.clearLog <+: t.flash.clearLog

/-- For every state s whose memory and operand caches list addresses strictly rising and no byte that an unlisted
address reads as: if step s answers next t, the same holds of t. -/
def Obligations.MemoryStaysCanonical : Prop :=
  ∀ s t : State, s.mem.wf = true → step s = .next t → t.mem.wf = true

/-- For every state s in which no two regions overlap: if step s answers next t, no two regions of t overlap. -/
def Obligations.RegionsNeverOverlap : Prop :=
  ∀ s t : State, regionsApart s.mem.regions → step s = .next t → regionsApart t.mem.regions

/-- For every state s in which the meter is powered exactly while VAUX is applied and, without VAUX, holds no more than
it committed: if step s answers next t, the same holds of t and ENERGY of t is at least that of s. -/
def Obligations.EnergyNeverFalls : Prop :=
  ∀ s t : State, meterSettled s.meter s.pkg.vaux → step s = .next t →
    meterSettled t.meter t.pkg.vaux ∧ s.meter.regs.energy ≤ t.meter.regs.energy

/-- For every state s: if step s answers next t, then global time of t is at least that of s, and the secret of the
meter's key is that of s. -/
def Obligations.TimeAndKeysStand : Prop :=
  ∀ s t : State, step s = .next t → s.now ≤ t.now ∧ t.meter.secret = s.meter.secret

/-- For every command c and state s: if exec c s answers next t, the queue of t is that of s. -/
def Obligations.QueueUntouched : Prop :=
  ∀ (c : Instr) (s t : State), exec c s = .next t → t.pending = s.pending

/-- For every command c and state s: exec c s is a next state, the fault absentUnit, or the refusal privateDebug; the
refusal is answered only for the JTAG private debug instruction on a part whose DBG_LOCK fuse is intact. -/
def Obligations.OnlyTwoStops : Prop :=
  ∀ (c : Instr) (s : State), (∃ t, exec c s = .next t) ∨ exec c s = .fault .absentUnit
    ∨ (exec c s = .refused .privateDebug ∧ c = .jtagInstruction .privateDebug ∧ s.fuse.dbgLockBlown = false)

/-- For every row of the command tables (opcode op), every source and state: where the source executes an unperformed
command of op that is marked stale, and the stationmaster runs, exec answers next the same state with completion
ST_BAD_STATE recorded for it and nothing else. A change of device state by the hardware marks every executing,
unperformed command of a mailbox or the sideband stale. -/
def Obligations.StaleCommandHasNoEffect : Prop :=
  (∀ (i : Instr) (op : Nat) (src : CmdSrc) (c : Slot) (s : State), commandRow i = some (op, src) →
      slotOf s src = some c → runnable op c = true → c.stale = true → s.sm.state = .running →
      exec i s = .next (recorded src c (plain St.badState) s))
    ∧ (∀ (d : DevState) (s : State) (src : CmdSrc) (c : Slot), s.dev ≠ d → slotOf s src = some c → c.done = none →
      slotOf (setDevHw d s) src = some { c with stale := true })

/-- For every slot c, completion r and state t: recorded for mailbox n it is that mailbox's slot with r done and nothing
else; for the sideband the slot is freed and record and response go out (R451), the device being idle from then
(R484); for a command whose mailbox a reset closed, the command is dropped (R434). -/
def Obligations.CompletionRecorded : Prop :=
  ∀ (c : Slot) (r : Completion) (t : State),
    (∀ n, mailbox (recorded (.mbx n) c r t) n = { mailbox t n with slot := some { c with done := some r } }
      ∧ (∀ m, m ≠ n → mailbox (recorded (.mbx n) c r t) m = mailbox t m)
      ∧ recorded (.mbx n) c r t = { t with host := { t.host with mbx := (recorded (.mbx n) c r t).host.mbx } })
    ∧ recorded .sideband c r t = { t with
        chk := { t.chk with readySince := t.now }
        host := { t.host with
          side := none
          sideOut := t.host.sideOut ++ [.vendor (recordBytes { c with done := some r } r t.now) r.resp] } }
    ∧ ∀ i, recorded (.orphan i) c r t = { t with host := { t.host with orphans := t.host.orphans.eraseIdx i } }

/-- For every counter ID id, instance below 65,536, amount n and state s: after counting, the counter reads its old
value plus n, or 2^64 - 1 where that is larger; every other counter and every other part of the state is unchanged. -/
def Obligations.CounterRises : Prop :=
  ∀ (id inst n : Nat) (s : State), inst < 65536 →
    ctrGet (bump id inst n s) id inst = Nat.min (ctrGet s id inst + n) (2 ^ 64 - 1)
      ∧ (∀ id' inst', inst' < 65536 → (id', inst') ≠ (id, inst) → ctrGet (bump id inst n s) id' inst' = ctrGet s id' inst')
      ∧ bump id inst n s = { s with ctr := (bump id inst n s).ctr }

/-- For every code, unit, payload and state: EVR_RAISED_CNT of the code rises by one. Where the token bucket of the code
is not empty and the event queue holds fewer than 4,096 records, one record with the code, its severity, the unit,
the present time and the payload joins the end of the queue and no EVR_SUPPRESS_CNT changes; otherwise the queue is
unchanged and EVR_SUPPRESS_CNT of the code rises by one. Only counters, the recorder and, for the three memory
events of R495, MEM_EVENT in flash change. -/
def Obligations.EventRaised : Prop :=
  ∀ (code src : Nat) (payload : List Byte) (s : State),
    ctrGet (raise code src payload s) Cnt.evrRaised code = ctrGet (bump Cnt.evrRaised code 1 s) Cnt.evrRaised code
    ∧ (if (bucketDue s code).tokens ≠ 0 ∧ s.evr.queue.length < 4096 then
        (raise code src payload s).evr.queue = s.evr.queue ++
          [{ seq := 0, code := code, sev := evSev code, src := src, time := s.now, payload := payload }]
        ∧ (raise code src payload s).ctr = (bump Cnt.evrRaised code 1 s).ctr
      else
        (raise code src payload s).evr.queue = s.evr.queue
        ∧ (raise code src payload s).ctr = (bump Cnt.evrSuppress code 1 (bump Cnt.evrRaised code 1 s)).ctr)
    ∧ raise code src payload s = { s with
        ctr := (raise code src payload s).ctr
        evr := (raise code src payload s).evr
        flash := { s.flash with brg := { s.flash.brg with
          memEvent := s.flash.brg.memEvent || memEventCodes.contains code } } }

/-- For every coupling c that the code has and direction, with d its state (fresh where it has carried nothing): a unit
not yet received that comes with a CRC error, or while the coupling does not carry traffic, stays as sent in the
sender's retry buffer; a CRC error counts one in PKG_CPL_RETRY_CNT of c. While the coupling carries traffic, with
nothing received ahead: the unit next in order is delivered, as the retry buffer holds it where it holds it, and the
next number is expected; a unit received before is not delivered twice; one after the next waits until those before
it have come. A unit on a coupling that the code does not have faults. -/
def Obligations.CouplingUnitsDelivered : Prop :=
  ∀ (c dir seq : Nat) (data : List Byte) (s : State),
    (hasCoupling s c = true → dir < 2 →
      let d := mapGetD s.cpl.dirs (2 * c + dir) freshDir
      let becomes : CplDir → State := fun e => { s with cpl := { s.cpl with dirs := mapSet s.cpl.dirs (2 * c + dir) e } }
      (d.next ≤ seq → mapGet d.ahead seq = none → mapGet d.retry seq = none →
        let kept := becomes { d with retry := mapSet d.retry seq data }
        (cplPhase s c = .up → exec (.couplingUnitReceive c dir seq data false) s = .next (bump Cnt.pkgCplRetry c 1 kept))
        ∧ (∀ ok, cplPhase s c ≠ .up → exec (.couplingUnitReceive c dir seq data ok) s = .next kept))
      ∧ (cplPhase s c = .up → d.ahead = [] →
        let x := mapGetD d.retry seq data
        (seq = d.next → exec (.couplingUnitReceive c dir seq data true) s = .next (becomes { d with
            next := d.next + 1, retry := mapDel d.retry seq, delivered := d.delivered ++ [x] }))
        ∧ (seq < d.next → exec (.couplingUnitReceive c dir seq data true) s = .next (becomes d))
        ∧ (d.next < seq → exec (.couplingUnitReceive c dir seq data true) s = .next (becomes { d with
            retry := mapDel d.retry seq, ahead := [(seq, x)] }))))
    ∧ (∀ ok, hasCoupling s c = false → exec (.couplingUnitReceive c dir seq data ok) s = .fault .absentUnit)

/-- For every coupling c that the code has and every state: a lane fault in service starts a retrain, counted in
PKG_CPL_RETRAIN_CNT. A retrain that lets the coupling carry traffic puts it back in service. One that does not, on a
code with more than one coupling and while no coupling has failed, takes it out, switches to the second route table,
counted in PKG_CPL_REROUTE_CNT, and holds new transfers until the retry buffer has drained; the end of the drain
releases them. With a coupling failed already, or on a CX8-2A, the package fails. The units in its retry buffers are
delivered by the end of the drain. After the retrain and the drain, packets that waited to cross go on and accesses
that waited are tried again. -/
def Obligations.CouplingFailureReroutes : Prop :=
  ∀ (c : Nat) (s : State), hasCoupling s c = true →
    let goOn : State → State := fun s => finishAll (retryWaiting (releaseCrossing s))
    let drained : Nat → CplDir := fun key => drainDir (mapGetD s.cpl.dirs key freshDir)
    (cplPhase s c = .up →
      exec (.couplingLaneFault c) s = .next (bump Cnt.pkgCplRetrain c 1 { s with cpl := { s.cpl with
        phases := mapSet s.cpl.phases c .retraining } }))
    ∧ (cplPhase s c = .retraining →
      exec (.couplingRetrainDone c true) s = .next (goOn { s with cpl := { s.cpl with
        phases := mapSet s.cpl.phases c .up } }))
    ∧ (cplPhase s c = .retraining → s.fuse.code ≠ .cx2a → s.cpl.avoid = none →
      exec (.couplingRetrainDone c false) s = .next (goOn (bump Cnt.pkgCplReroute c 1 { s with cpl := { s.cpl with
        phases := mapSet s.cpl.phases c .failed, avoid := some c, draining := true } })))
    ∧ (cplPhase s c = .retraining → (s.fuse.code = .cx2a ∨ s.cpl.avoid.isSome = true) →
      exec (.couplingRetrainDone c false) s = .next (goOn (failPackage { s with cpl := { s.cpl with
        phases := mapSet s.cpl.phases c .failed } })))
    ∧ (s.cpl.avoid = some c → s.cpl.draining = true →
      exec (.couplingRerouteDrainDone c) s = .next (goOn { s with cpl := { s.cpl with
        draining := false
        dirs := mapSet (mapSet s.cpl.dirs (2 * c) (drained (2 * c))) (2 * c + 1) (drained (2 * c + 1)) } }))

/-- For every state with the compute dies running. While the stationmaster runs, an alive mark is counted and ends the
wait for a mark; a watchdog expiry in another cycle than the last mark is counted in PKG_SM_WDT_CNT and leads to a
restart, or, within 10 s of the last expiry, to a takeover by D1 (the state change is shown in STATE_SEQ and
PKG_EVT_STATUS). A restart whose image measures as before, with a readable checkpoint, leaves the stationmaster
running, and one with an uncorrectable checkpoint failed; a takeover with a verified image and a readable
checkpoint, counted in PKG_SM_TAKEOVER_CNT, leaves it running on D1; each executing mailbox command that was neither
performed nor waiting is then done with ST_NOT_PERFORMED, every other one is as it was. Without a mark 2 s after the
watchdog reset D1 takes over. A takeover that fails leaves the stationmaster failed. -/
def Obligations.StationmasterRestartsAndMoves : Prop :=
  ∀ s : State, diesRun s = true →
    (s.sm.state = .running →
      exec .smAliveMark s = .next { s with sm := { s.sm with
        alive := s.sm.alive + 1, awaitingMark := false, lastMark := some s.now } })
    ∧ (s.sm.state = .running → s.sm.lastMark ≠ some s.now → secondExpiry s = false →
      exec .smWatchdogExpiry s = .next (setSm .restarting (bump Cnt.pkgSmWdt 0 1 { s with sm := { s.sm with
        lastExpiry := some s.now, awaitingMark := true } })))
    ∧ (s.sm.state = .running → s.sm.lastMark ≠ some s.now → secondExpiry s = true → s.sm.onD1 = false →
      exec .smWatchdogExpiry s = .next (setSm .takeover { (bump Cnt.pkgSmWdt 0 1 s) with sm := { s.sm with
        lastExpiry := some s.now, awaitingMark := false } }))
    ∧ (s.sm.state = .restarting → ∃ t, exec (.smRestartDone true true) s = .next t ∧ t.sm.state = .running
      ∧ t.sm.onD1 = s.sm.onD1
      ∧ ∀ n c, slotOf s (.mbx n) = some c → slotOf t (.mbx n) =
        some (if notPerformed c then { c with done := some (plain St.notPerformed) } else c))
    ∧ (s.sm.state = .restarting → ∃ t, exec (.smRestartDone true false) s = .next t ∧ t.sm.state = .failed)
    ∧ (∀ e, s.sm.lastExpiry = some e → s.sm.awaitingMark = true → s.sm.state = .restarting → s.sm.onD1 = false →
      ∃ t, exec .smAliveDeadline s = .next t ∧ t.sm.state = .takeover ∧ t.now = Nat.max s.now (e + 2000000000))
    ∧ (s.sm.state = .takeover → cplPhase s 0 = .up → s.cpl.draining = false → (bootChoice s).isSome = true →
      ∃ t, exec (.smTakeoverDone true true) s = .next t ∧ t.sm.state = .running ∧ t.sm.onD1 = true
      ∧ ctrGet t Cnt.pkgSmTakeover 0 = ctrGet (bump Cnt.pkgSmTakeover 0 1 s) Cnt.pkgSmTakeover 0
      ∧ ∀ n c, slotOf s (.mbx n) = some c → slotOf t (.mbx n) =
        some (if notPerformed c then { c with done := some (plain St.notPerformed) } else c))
    ∧ (∀ ok ckptOk, s.sm.state = .takeover → cplPhase s 0 = .up → s.cpl.draining = false →
      (ok = false ∨ ckptOk = false ∨ bootChoice s = none) →
      ∃ t, exec (.smTakeoverDone ok ckptOk) s = .next t ∧ t.sm.state = .failed)

/-- For every state with the compute dies running. A write into the 64 KiB bridge window only raises
PKG_MTR_BRIDGE_WR_CNT. The oldest report on the bridge, as sent, leaves the bridge and becomes the newest report
slot, with its time of receipt and whether its signature verifies under the meter's public key; the window's
generation rises by 2, at most 64 slots are filled, MTR_REPORT_RX_CNT rises by one and nothing of the meter but the
bridge changes. 5 s without a report is counted in MTR_STALE_CNT and raises EV_MTR_STALE, and the next 5 s begin
(log 3 on time). -/
def Obligations.BridgeIsOneWay : Prop :=
  ∀ s : State, diesRun s = true →
    (∀ (offset : Nat) (data : List Byte), offset + data.length ≤ 65536 →
      exec (.bridgeWindowWrite offset data) s = .next (bump Cnt.pkgMtrBridgeWr 0 1 s))
    ∧ (∀ sent entries rest, s.meter.bridge = (sent, entries) :: rest → ∃ t, exec (.meterReportRx none) s = .next t
      ∧ t.meter = { s.meter with bridge := rest }
      ∧ t.win.newest = (if s.win.filled = 0 then 0 else (s.win.newest + 1) % 64)
      ∧ mapGet t.win.slots t.win.newest = some
          { report := sent, rxTime := s.now, sigOk := edVerify (edPublic s.meter.secret) (sent.take 256) (sent.drop 256) }
      ∧ t.win.gen = s.win.gen + 2 ∧ t.win.filled = Nat.min 64 (s.win.filled + 1)
      ∧ ctrGet t Cnt.mtrReportRx 0 = ctrGet (bump Cnt.mtrReportRx 0 1 s) Cnt.mtrReportRx 0
      ∧ t = { s with ctr := t.ctr, win := t.win, meter := t.meter, evr := t.evr, flash := t.flash, host := t.host })
    ∧ (let u := reachTime (s.win.lastRx + 5000000000) s
      exec .meterStaleTimeout s = .next (raise Ev.mtrStale 0 [] (bump Cnt.mtrStale 0 1 { u with
        win := { u.win with lastRx := u.now } })))

/-- For every state, source and slot c that performs the command. CMD_TT_JOB_START passing R86: with ways and regions to
hold the job, the package joins it, enters RUNNING and the command waits for departure 0; else ST_NO_SPACE; one that
breaks R86: ST_BAD_PARAM. At the tick master: CMD_TT_SET_HEADWAY in range queues its change for the departure it
names, or the first not yet sent, and one that breaks R52 or a range is ST_BAD_PARAM; CMD_TT_QUIESCE sets the
request for the next departure; CMD_TT_RESUME in QUIESCED sends RELOAD, enters RUNNING and loads again;
CMD_TT_JOB_END sets the request, or in QUIESCED sends END and leaves the job for READY. A member whose QUIESCED has
no master leaves by CMD_TT_JOB_END alone. The four at another member complete with ST_NOT_MASTER. CMD_TT_STATUS
answers the registers, in a job with the values in force, and changes nothing. (A command that changes the device
state is performed once no other executing command is unperformed: log 56.) -/
def Obligations.TimetableCommands : Prop :=
  ∀ (s : State) (src : CmdSrc) (c : Slot),
    let p := c.payload
    let done : Completion → State → State := recorded src c
    (performs s src 0x0200 c → heldBack src s = false →
      let fits := waysFit s (waysFor (if field p 112 16 = 0 then 32 else field p 112 16) s.pool.gthCfgNext.replicaMib
        (dirEntriesAll s))
      let joined := (startAreas (joinJob p s)).bind startMirrors
      (∀ t, startOk s p = true → fits = true → joined = some t →
        exec (.cmdTtJobStart src) s = .next (leftWaiting src c (setDev .running t)))
      ∧ (startOk s p = true → (fits = false ∨ joined = none) →
        exec (.cmdTtJobStart src) s = .next (done (failWith St.noSpace 0) s))
      ∧ (startOk s p = false → exec (.cmdTtJobStart src) s = .next (done (failWith St.badParam 0) s)))
    ∧ (∀ j, s.job = some j → j.master = pkgNo s →
      (performs s src 0x0201 c →
        let headway := field p 0 32
        let lead := if field p 64 32 = 0 then autoLead j.measured else field p 64 32
        let n := field p 96 64
        let unsent := if j.sent.isSome then j.next + 1 else j.next
        let change : HeadwayChange :=
          { step := if n = 0 ∨ n < unsent then unsent else n, headway := headway, hold := field p 32 8, lead := lead }
        let ok := 20000 ≤ headway ∧ headway ≤ 4000000000 ∧ field p 32 8 ≤ 128 ∧ field p 40 24 = 0
          ∧ paceOk headway lead j.measured = true
        (ok → exec (.cmdTtSetHeadway src) s =
            .next (done (okWith []) { s with job := some { j with change := j.change ++ [change] } }))
        ∧ (¬ ok → exec (.cmdTtSetHeadway src) s = .next (done (failWith St.badParam 0) s)))
      ∧ (performs s src 0x0202 c → exec (.cmdTtQuiesce src) s =
          .next (done (okWith []) { s with job := some { j with quiesceReq := true } }))
      ∧ (performs s src 0x0203 c → heldBack src s = false → s.dev = .quiesced → exec (.cmdTtResume src) s =
          .next (done (okWith []) (reload (sendJobCtrl 1 (setDev .running s)))))
      ∧ (performs s src 0x0204 c → s.dev ≠ .quiesced → exec (.cmdTtJobEnd src) s =
          .next (done (okWith []) { s with job := some { j with endReq := true } }))
      ∧ (performs s src 0x0204 c → heldBack src s = false → s.dev = .quiesced → j.noMaster = false →
          exec (.cmdTtJobEnd src) s =
            .next (done (okWith []) (setDev .ready (leaveJob (finishMigs (sendJobCtrl 2 s))))))
      ∧ (performs s src 0x0205 c →
          let k := paceAt s.now j
          exec (.cmdTtStatus src) s = .next (done (okWith (pack 64
            [(0, 64, s.now), (64, 64, s.step), (128, 64, j.nominal), (192, 32, j.epoch), (256, 64, ttStatusReg s),
             (320, 32, j.prop), (352, 32, k.lead), (384, 32, k.headway), (416, 8, k.hold), (448, 64, j.id)])) s)))
    ∧ (∀ j, s.job = some j → j.master ≠ pkgNo s →
      (performs s src 0x0201 c → exec (.cmdTtSetHeadway src) s = .next (done (failStep St.notMaster 6) s))
      ∧ (performs s src 0x0202 c → exec (.cmdTtQuiesce src) s = .next (done (failStep St.notMaster 6) s))
      ∧ (performs s src 0x0203 c → heldBack src s = false →
          exec (.cmdTtResume src) s = .next (done (failStep St.notMaster 6) s))
      ∧ (performs s src 0x0204 c → (s.dev ≠ .quiesced ∨ (heldBack src s = false ∧ j.noMaster = false)) →
          exec (.cmdTtJobEnd src) s = .next (done (failStep St.notMaster 6) s))
      ∧ (performs s src 0x0205 c →
          let k := paceAt s.now j
          exec (.cmdTtStatus src) s = .next (done (okWith (pack 64
            [(0, 64, s.now), (64, 64, s.step), (128, 64, j.nominal), (192, 32, j.epoch), (256, 64, ttStatusReg s),
             (320, 32, 0), (352, 32, k.lead), (384, 32, k.headway), (416, 8, k.hold), (448, 64, j.id)])) s)))
    ∧ (∀ j, s.job = some j → performs s src 0x0204 c → heldBack src s = false → s.dev = .quiesced → j.noMaster = true →
        exec (.cmdTtJobEnd src) s = .next (done (okWith []) (setDev .ready (leaveJob (finishMigs s)))))
    ∧ (s.job = none → performs s src 0x0205 c → exec (.cmdTtStatus src) s = .next (done (okWith (pack 64
        [(0, 64, s.now), (64, 64, s.step), (128, 64, 0), (192, 32, 0), (256, 64, 0)])) s))

/-- For every state and packet addressed to this package; the credits of each packet that has come are returned. A PROBE
is answered with a PROBE_REPLY that returns its send time. At a package with a job: a PROBE_REPLY from a package
still to answer keeps the longest round trip and takes the package off the list, then TT_LEAD is judged and
departure 0 goes out if it can; a JOIN at the master that loads, of the job's epoch and from a member, counts the
member as joined. A train loaded with the ONCE tasks done and no task outstanding is noted, and a member sends JOIN
to the master. The join timeout before departure 0 raises EV_TT_JOIN_TIMEOUT and gives the job up with
ST_JOIN_TIMEOUT. JOB_CTRL of the job with RELOAD reloads a package in QUIESCED, END ends its job there, ABORT before
departure 0 gives the job up. -/
def Obligations.JobJoined : Prop :=
  ∀ (s : State) (h : Hdr),
    (∀ st, addressed s (.probe h st) h →
      exec (.probe h st) s =
        .next (returnCredits (.probe h st) h (sendPlain (.probeReply { mkHdr s h.src 0 with tag := h.tag } st 0) s)))
    ∧ ∀ j, s.job = some j →
      (∀ st rtt, addressed s (.probeReply h st rtt) h → h.src ∈ j.probes →
        exec (.probeReply h st rtt) s = .next (returnCredits (.probeReply h st rtt) h (tryFirst (judgeLead { s with
          job := some { j with probes := j.probes.filter (fun p => p != h.src), measured := Nat.max j.measured rtt } }))))
      ∧ (addressed s (.join h) h → j.master = pkgNo s → j.phase = .loading → h.epoch = j.epoch → h.src ∈ j.members →
        exec (.join h) s =
          .next (returnCredits (.join h) h (tryFirst { s with job := some { j with joined := setInsert h.src j.joined } })))
      ∧ (j.phase = .loading → j.loaded = false → j.onceDone = true → outstanding s = 0 → s.dev = .running →
        j.master ≠ pkgNo s → exec .trainLoadComplete s =
          .next (sendPlain (.join (mkHdr s j.master 0)) { s with job := some { j with loaded := true } }))
      ∧ (j.phase = .loading → j.sent = none → s.dev = .running → j.started = false → exec .joinTimeout s =
          .next (abortStart St.joinTimeout (raise Ev.ttJoinTimeout 0 [] (reachTime (j.startTime + j.joinNs) s))))
      ∧ ∀ op, let back : State → State := returnCredits (.jobCtrl h j.id op) h
        addressed s (.jobCtrl h j.id op) h →
        (op = 1 → s.dev = .quiesced → exec (.jobCtrl h j.id op) s = .next (back (reload (setDevHw .running s))))
        ∧ (op = 2 → s.dev = .quiesced → exec (.jobCtrl h j.id op) s = .next (back (endJob s)))
        ∧ (op = 0 → s.dev = .running → j.started = false →
          exec (.jobCtrl h j.id op) s = .next (back (abortStart St.joinTimeout s)))

/-- For every state of a package RUNNING a step of a job. At the cut-off a package that has not reached its end of step,
or is out of synchrony or failed, raises its late signal; one that has, does not. At the decision point the master
with nothing outstanding sends the departure at its nominal time; with members outstanding it leaves them behind
where HOLD is 0, and otherwise begins to hold, counted in TT_HOLD_CNT. At the hold deadline, counted by the values
in force from the nominal time on, it sends the departure at the limit and leaves them behind. LATE of the running
step from a member is outstanding until its ARRIVAL, after which a held departure goes out if it can. A DEPARTURE of
the job's epoch and next step from the master is held, with the list of its LEFT_CONT messages before its own, and
one whose list is not complete waits for the rest; one whose fire time is past fires at once, counted in
TT_DEP_PAST_CNT. Timetable messages of an older epoch are dropped and counted in TT_STALE_EPOCH_DROP_CNT. -/
def Obligations.DeparturePrepared : Prop :=
  ∀ (s : State) (j : Job) (h : Hdr), s.job = some j → s.dev = .running →
    (j.phase = .inStep → ∀ u k, markEnd (missGn (reachTime (j.nominal - j.lead) s)) = u → u.job = some k →
      ((k.arrived && k.syncOk && !u.chk.failed) = true → exec .cutoff s = .next u)
      ∧ ((k.arrived && k.syncOk && !u.chk.failed) = false → exec .cutoff s = .next (raiseLate u)))
    ∧ (j.master = pkgNo s → j.phase = .inStep → j.decided = false → j.sent = none → j.takeover = none →
      let u := reachTime (j.nominal - j.lead / 2) s
      let out := setUnion j.pending (j.members.filter (unreachable u))
      let v : State := { u with job := some { j with decided := true, pending := out } }
      (out = [] → exec .decisionPoint s = .next (sendDeparture j.nominal [] v))
      ∧ (out ≠ [] → j.hold = 0 → exec .decisionPoint s = .next (sendDeparture j.nominal out v))
      ∧ (out ≠ [] → j.hold ≠ 0 → exec .decisionPoint s =
          .next (bump Cnt.ttHold 0 1 { v with job := some { j with decided := true, pending := out, holding := true } })))
    ∧ (j.holding = true → j.sent = none →
        let early := j.nominal + holdLimit j - j.lead / 2
        let k := paceAt early j
        let at' := if early < j.nominal then early else Nat.max j.nominal (j.nominal + holdLimit k - k.lead / 2)
        exec .holdDeadline s = .next (sendDeparture (j.nominal + holdLimit k) j.pending (reachTime at' s)))
    ∧ (addressed s (.late h) h → j.epoch ≤ h.epoch → j.master = pkgNo s → j.sent = none → h.step = s.step →
        h.src ∈ j.members →
        exec (.late h) s =
          .next (returnCredits (.late h) h { s with job := some { j with pending := setInsert h.src j.pending } }))
    ∧ (addressed s (.arrival h) h → j.epoch ≤ h.epoch → h.step = s.step → j.takeover = none →
        exec (.arrival h) s = .next (returnCredits (.arrival h) h
          (trySend { s with job := some { j with pending := j.pending.filter (fun p => p != h.src) } })))
    ∧ (h.epoch = j.epoch → h.src = j.master → h.step = j.next → j.sent = none →
      (∀ l, addressed s (.leftCont h l) h → j.partDep = none → exec (.leftCont h l) s =
        .next (returnCredits (.leftCont h l) h { s with job := some { j with leftCont := j.leftCont ++ l } }))
      ∧ ∀ fire q e n l, addressed s (.departure h fire q e n l) h →
        let back : State → State := returnCredits (.departure h fire q e n l) h
        let m : DepMsg := { step := j.next, fireTime := fire, epoch := j.epoch, quiesce := q, ends := e, left := j.leftCont ++ l }
        let u : State := { s with job := some { j with sent := some m, partDep := none } }
        (n = (j.leftCont ++ l).length → exec (.departure h fire q e n l) s =
          .next (back (if fire < s.now then fireDeparture m (bump Cnt.ttDepPast 0 1 u) else u)))
        ∧ (n ≠ (j.leftCont ++ l).length → exec (.departure h fire q e n l) s =
          .next (back { s with job := some { j with partDep := some ({ m with left := l }, n) } })))
    ∧ (h.epoch < j.epoch →
      let dropped : Instr → State := fun i => returnCredits i h (bump Cnt.ttStaleEpochDrop 0 1 s)
      (addressed s (.late h) h → exec (.late h) s = .next (dropped (.late h)))
      ∧ (addressed s (.arrival h) h → exec (.arrival h) s = .next (dropped (.arrival h)))
      ∧ ∀ fire q e n l, addressed s (.departure h fire q e n l) h →
        exec (.departure h fire q e n l) s = .next (dropped (.departure h fire q e n l)))

/-- For every state RUNNING a step of a job whose departure message m is in hand, m neither quiescing nor ending, this
package neither left behind nor declared dead by it, nor a member at the end of a bounded job: at the fire time the
phase entry is recorded, TT_DEP_CNT counted and TT_HOLD_NS_CNT raised where the master held, the step's writes
committed, caches and lines cleared, left packages judged, the job moves to step m.step with its nominal time one
headway after the fire time, and step m.step begins. Reaching the end of step marks it and frees a held departure. A
staged write-back that is done clears that die's count and nothing else. -/
def Obligations.DepartureFires : Prop :=
  ∀ (s : State) (j : Job), s.job = some j → s.dev = .running →
    (∀ m, j.sent = some m → j.phase = .inStep → j.started = true → m.left.contains (pkgNo s) = false → m.ends = false →
      m.quiesce = false → (j.stepLimit = 0 ∨ m.step ≠ j.stepLimit) →
      let a := bump Cnt.ttDep 0 1 (recordPhase m (reachTime m.fireTime s))
      let b := if j.decided && j.master == pkgNo s && j.takeover.isNone && j.nominal < m.fireTime then
          bump Cnt.ttHoldNs 0 (m.fireTime - j.nominal) a
        else a
      let c := sample 0x0001 0 j.offset b
      let dead := deadNow (countLeft m.left c) m.left j.replaced
      let d := declareAll m.left j.replaced (joinSpares (clearStep (promoteAll false (commitEnded m.left dead c))))
      let u := updJob (fun k => { jobAfter (dropOld m.step { d with step := m.step }) m k with next := m.step })
        (dropOld m.step { d with step := m.step })
      isMember d (pkgNo s) = true → exec .departureFire s = .next (beginStep m.step u))
    ∧ exec .endOfStepReached s = .next (trySend (markEnd s))
    ∧ (∀ d, d < nDies s → exec (.stagingWritebackDone d) s =
        .next { s with pool := { s.pool with writeback := mapDel s.pool.writeback d } })

/-- For every state RUNNING a step of a job in which no departure message is in hand. At a deputy that follows no
takeover of a deputy of lower rank, its deadline gives it the next epoch and the mastership, counted and announced
to every member. An announcement of a newer epoch at a member that is not master is adopted: counted, answered with
whether its end of step is reached, its place in the tree taken from its routes to the new master, and packets held
for that epoch are judged. An answer at the deputy is noted. When the answer window ends the deputy sends the
pending departure and leaves behind whoever has not answered or not reached its end of step. A member past the
deadline of R77 stops at the last departure it fired, nothing of the running step going on (log 69): QUIESCED,
EV_TT_NO_MASTER. -/
def Obligations.MasterReplaced : Prop :=
  ∀ (s : State) (j : Job) (h : Hdr), s.job = some j → s.dev = .running → j.sent = none → j.phase = .inStep →
    j.partDep = none →
    (pkgNo s ∈ j.deputies → j.master ≠ pkgNo s → lowerAnnounced j (pkgNo s) = false →
      let k := paceAt j.nominal j
      exec .deputyDeadline s =
        .next (takeOver j (reachTime (j.nominal + holdLimit k + (rankOf j (pkgNo s) + 1) * k.lead) s)))
    ∧ (∀ m r eos, addressed s (.takeover h m r false eos) h → j.epoch < h.epoch → j.master ≠ pkgNo s → j.replaced = none →
      exec (.takeover h m r false eos) s = .next (returnCredits (.takeover h m r false eos) h (releaseEpoch
        (answerTakeover (raise Ev.ttFailover 0 [] (bump Cnt.ttFailover 0 1 (takeParent { s with job := some { j with
          epoch := h.epoch, replaced := some j.master, master := h.src, takeover := none, adopted := some s.now,
          sent := none, leftCont := [], partDep := none, holding := false } })))))))
    ∧ (∀ m r eos t, addressed s (.takeover h m r true eos) h → h.epoch = j.epoch → j.takeover = some t →
      exec (.takeover h m r true eos) s = .next (returnCredits (.takeover h m r true eos) h { s with job := some { j with
        takeover := some { t with
          answered := setInsert h.src t.answered
          notReached := if eos then t.notReached else setInsert h.src t.notReached } } }))
    ∧ (∀ t, j.takeover = some t →
      let u := reachTime (t.time + (paceAt t.time j).lead) s
      let missing := j.members.filter (fun p =>
        if p = pkgNo s then !j.arrived else !t.answered.contains p || t.notReached.contains p)
      exec .takeoverAnswerWindow s = .next (sendDeparture (u.now + (paceAt u.now j).lead / 2) missing u))
    ∧ (j.master ≠ pkgNo s → exec .noMasterDeadline s = .next (raise Ev.ttNoMaster 0 [] (setDevHw .quiesced (stopStep
        { (reachTime (noMasterAt j) s) with job := some { j with noMaster := true, phase := .paused } }))))

/-- For every state. A port in UP that begins an exchange queues one TIME_XFER to its neighbour with its own time, the
other two timestamps being free values (log 2), and sends what it may. A TIME_XFER from the parent in the tree taken
at job start, at a package that is not master, sets the estimated offset: above 1,000 ns SYNC_OK clears, counted in
TT_SYNC_LOST_CNT with EV_TT_SYNC_LOST where it was set; below 100 ns it is set again. Losing TIMEREF clears it and
the count of PPS edges, and raises EV_PKG_TIMEREF_LOSS at the tick master with its dies running; TIMEREF returned
waits for two PPS edges. -/
def Obligations.TimeDisciplined : Prop :=
  ∀ s : State,
    (∀ q, q < nPorts s → (port s q).st = .up →
      ∃ t2 t3, exec (.timeXferTimer q) s =
        .next (queueAt q (.timeXfer { mkHdr s (port s q).nbrPkg 0 with hops := 1 } s.now t2 t3 0)
          { s with free := s.free + 2 }))
    ∧ (∀ (h : Hdr) t1 t2 t3 (x : Int) (j : Job), s.job = some j → addressed s (.timeXfer h t1 t2 t3 x) h →
      j.master ≠ pkgNo s → j.parent = some h.src →
      let i : Instr := .timeXfer h t1 t2 t3 x
      let back : State → State := returnCredits i h
      (x.natAbs < 100 → exec i s = .next (back { s with job := some { j with offset := x, syncOk := true } }))
      ∧ (100 ≤ x.natAbs → x.natAbs ≤ 1000 → exec i s = .next (back { s with job := some { j with offset := x } }))
      ∧ (1000 < x.natAbs → j.syncOk = false →
        exec i s = .next (back { s with job := some { j with offset := x, syncLost := true } }))
      ∧ (1000 < x.natAbs → j.syncOk = true → exec i s =
        .next (back (raise Ev.ttSyncLost 0 [] (bump Cnt.ttSyncLost 0 1
          { s with job := some { j with offset := x, syncOk := false, syncLost := true } })))))
    ∧ (s.pkg.timeref = true →
      let u : State := { s with pkg := { s.pkg with timeref := false, ppsSinceReturn := 0 } }
      exec .timerefLoss s = .next (if isMaster s && diesRun s then raise Ev.pkgTimerefLoss 0 [] u else u))
    ∧ (s.pkg.timeref = false →
      exec .timerefReturn s = .next { s with pkg := { s.pkg with timeref := true, ppsSinceReturn := 0 } })
    ∧ (s.pkg.timeref = true →
      exec .ppsEdge s = .next { s with pkg := { s.pkg with ppsSinceReturn := Nat.min 2 (s.pkg.ppsSinceReturn + 1) } })

/-- For every logical core that the device has and every state, n being the oldest notice in flight from src to lc and c
its task's live count: the notice leaves the network; with c above 1 the count falls by one and nothing else
changes; with c at most 1 and a free ready entry with nothing held, the task also becomes ready; with no free entry,
or notices held, the notice joins the held ones (fewer than 1,024), counted in DSP_READY_FULL_CNT once. The first
held notice is applied when an entry is free. -/
def Obligations.NoticesReadyTasks : Prop :=
  ∀ (src lc : Nat) (s : State) (n : Notice) (rest : List Notice), src < nLc s → lc < nLc s →
    (takeFirst (fun n : Notice => n.src == src && n.dst == lc) s.dsp.flight = some (n, rest) →
      let d := disp s n.dst
      let u : State := { s with dsp := { s.dsp with flight := rest } }
      let low := setDisp n.dst { d with counts := mapSet d.counts n.idx (mapGetD d.counts n.idx 0 - 1) } u
      d.held.length < 1024 →
        (1 < mapGetD d.counts n.idx 0 → exec (.completionNotice src lc) s = .next low)
        ∧ (mapGetD d.counts n.idx 0 ≤ 1 → readyFree d = true → d.held = [] →
          exec (.completionNotice src lc) s = .next (makeReady n.dst n.idx low))
        ∧ (mapGetD d.counts n.idx 0 ≤ 1 → (readyFree d = false ∨ d.held ≠ []) →
          let v := setDisp n.dst { d with held := d.held ++ [n] } u
          exec (.completionNotice src lc) s = .next (if n.flow then v else bump Cnt.dspReadyFull n.dst 1 v)))
    ∧ ((disp s lc).held = n :: rest → readyFree (disp s lc) = true →
      exec (.noticeHeldApply lc) s = .next (applyNotice n (setDisp lc { disp s lc with held := rest } s)))

/-- For every logical core not under copy and every state whose highest nonempty ready list has head t: the head leaves
its list, and a CORE task starts on the lowest free context, one from a save slot with its saved state, running
again the instruction it was suspended at; a SHUNT task joins the tail of its shunter's deque where that has room; a
COLL task goes to the link engine of its die; a NULL task completes at once. A static task is RUNNING from then. -/
def Obligations.DispatchStartsHead : Prop :=
  ∀ (lc p : Nat) (s : State) (t : Task) (rest : List Task), lc < nLc s → underCopy s lc = false → p < 8 →
    (∀ q, q < p → readyAt (disp s lc) q = []) → readyAt (disp s lc) p = t :: rest →
    let u := setDisp lc { disp s lc with ready := mapSet (disp s lc).ready p rest } s
    let run := if t.spawned then u else setTaskState lc t.idx .running u
    let i := pickShunter s lc t
    let h := shunterLc s lc
    let k : Coll :=
      { no := run.fab.nextColl
        die := lcDie run t.lc
        task := t
        desc := sectionRead run t.lc (tdCode t.bytes) 128
        step := taskStep run t
        started := false
        unacked := []
        partialDone := false }
    (tdKind t.bytes = 0 → ∀ x, freeCtx s lc = some x →
      let w := (savedCtx u lc t).wait
      (w = .none → exec (.dispatchTask lc) s = .next (startCore lc x t u))
      ∧ (w ≠ .none → exec (.dispatchTask lc) s = .next (goOn lc x t w (startCore lc x t u))))
    ∧ (tdKind t.bytes = 1 → (deque s h i).length < 256 →
      exec (.dispatchTask lc) s = .next (setDeque h i (deque s h i ++ [t]) run))
    ∧ (tdKind t.bytes = 2 → exec (.dispatchTask lc) s = .next { run with fab := { run.fab with
        colls := run.fab.colls ++ [k]
        nextColl := run.fab.nextColl + 1 } })
    ∧ (tdKind t.bytes = 3 → exec (.dispatchTask lc) s = .next (completeTask t u))

/-- For every context x of a logical core that the device has, holding task t, and every state. A task free to issue,
none of whose instructions is unretired and none of whose accesses waits, with no other context at END, ends: its
context is free and the task completes; bad code is counted in DSP_BAD_CODE_CNT, raises EV_DSP_BAD_CODE with the
task's index and logical core and ends the task the same way. SPAWN with valid operands, a free entry, nothing held
or stalled: the spawned task is ready, its join task's count and the outstanding count of the target rise by one,
DSP_SPAWN_CNT counts; with bad operands it is dropped and counted; with no entry the context stalls. A stalled spawn
whose turn has come is performed. A quantum that expires with a CORE task of the same or higher priority waiting, no
free context, a free save slot and no read awaited suspends the task, counted in DSP_PREEMPT_CNT; otherwise its
timer starts again. A stall of 256 cycles with a free save slot and a ready CORE task yields, counted in
DSP_SPAWN_YIELD_CNT. A suspended task with nothing unretired and no access waiting is saved in the lowest free slot,
with what it waits at, and waits at the tail of its list; a wait on a line is counted as cleared. -/
def Obligations.TasksEndAndSpawn : Prop :=
  ∀ (lc x : Nat) (s : State) (t : Task), lc < nLc s → x < 4 → (ctx s lc x).task = some t →
    ((ctx s lc x).wait = .none → (ctx s lc x).suspending = false →
      (unretired s lc x = false → ctxWaits s lc x = false → (∀ y, y < 4 → y ≠ x → (ctx s lc y).wait ≠ .ending) →
        exec (.taskEnd lc x) s = .next (completeTask t (setCtx lc x freshCtx s))
        ∧ exec (.taskBadCode lc x) s = .next (completeTask t (setCtx lc x freshCtx
            (raise Ev.dspBadCode (srcOf 4 (4 * lc + x)) (pay64 (dspTaskId t)) (bump Cnt.dspBadCode lc 1 s)))))
      ∧ ∀ template target joinTask arg,
        (spawnBad s t template target joinTask = true → exec (.spawn lc x template target joinTask arg) s =
          .next (raise Ev.dspSpawnDrop (srcOf 4 (4 * lc + x)) [] (bump Cnt.dspSpawnDrop lc 1 s)))
        ∧ (∀ g, jobGraph s = some g → spawnBad s t template target joinTask = false → readyFree (disp s target) = true →
          (disp s target).held = [] → (disp s target).stalls = [] →
          let d := disp s target
          let n : Task :=
            { lc := target
              idx := template
              uid := s.dsp.nextUid + 1
              spawned := true
              cls := t.cls
              bytes := templateBytes g target template
              arg := arg
              join := some (target, joinTask)
              piece := none
              saved := none
              since := 0 }
          exec (.spawn lc x template target joinTask arg) s = .next (noteReadied t.cls 1 (bump Cnt.dspSpawn lc 1
            (pushReady target n (setDisp target
              { d with counts := mapUpd d.counts joinTask 0 (fun k => k + 1), outstanding := d.outstanding + 1 }
              { s with dsp := { s.dsp with nextUid := s.dsp.nextUid + 1 } })))))
        ∧ (spawnBad s t template target joinTask = false → readyFree (disp s target) = false →
          let d := disp s target
          let z : SpawnStall :=
            { lc := lc, x := x, template := template, target := target, joinTask := joinTask, arg := arg, since := s.now }
          exec (.spawn lc x template target joinTask arg) s = .next (bump Cnt.dspReadyFull target 1
            (setCtx lc x { ctx s lc x with wait := .spawn z } (setDisp target { d with stalls := d.stalls ++ [z] } s)))))
    ∧ (∀ k z rest, k < nLc s → (disp s k).stalls = z :: rest → z.lc = lc → z.x = x → readyFree (disp s k) = true →
      (disp s k).held = [] →
      let u := setCtx lc x { ctx s lc x with wait := .none } (setDisp k { disp s k with stalls := rest } s)
      spawnBad u t z.template z.target z.joinTask = false →
      exec (.spawnStallResume k) s = .next (performSpawn lc t z.template z.target z.joinTask z.arg u))
    ∧ (∀ z, stallOf s lc x = some z → (freeSave s lc).isSome = true →
      anyCoreReady s lc = true →
      exec (.spawnStallTimeout lc x) s = .next (beginSuspend lc x true (reachTime (z.since + cclkNs s lc 256) s)))
    ∧ (∀ g, jobGraph s = some g → hostCore s lc = none → (ctx s lc x).suspending = false →
      (ctx s lc x).wait ≠ .ending →
      let u := reachTime ((ctx s lc x).quantumAt + cclkNs s lc (imgQuantum g)) s
      exec (.quantumExpiry lc x) s = .next (
        if coreWaiting s lc (tdPriority t.bytes) && (freeCtx s lc).isNone && (freeSave s lc).isSome
            && !awaitsRead s lc x then beginSuspend lc x false u
        else setCtx lc x { ctx s lc x with quantumAt := u.now } u))
    ∧ (∀ i, (ctx s lc x).suspending = true → unretired s lc x = false → ctxWaits s lc x = false →
      freeSave s lc = some i → exec (.suspensionDone lc x) s = .next (pushTail lc { t with saved := some i }
        (setCtx lc x freshCtx (setDisp lc
          { disp s lc with slots := mapSet (disp s lc).slots i (stateToSave (ctx s lc x)) } (clearWait lc x s)))))

/-- For every state, source and slot c that performs the command, h being the handle in its payload. OPEN with a size of
1 KiB to 1 GiB in units of 64 and fewer than 8 handles makes an open, empty graph under the next handle and answers
that handle. DATA for an open graph, aligned and inside its size, writes its 64-byte units. COMMIT of an open graph
that passes checks 2 to 8 of R124 marks it committed, places its sections where check 8 found room (log 34) and
raises EV_DSP_GRAPH_COMMIT; one that fails checks 2 to 7 answers ST_BAD_GRAPH with the check and the offset, and
nothing changes. UNLOAD of a graph that no job names removes it, and one that a job names is refused with ST_IN_USE.
INFO answers from the state and changes nothing. -/
def Obligations.GraphCommands : Prop :=
  ∀ (s : State) (src : CmdSrc) (c : Slot),
    (performs s src 0x0300 c →
      let n := field c.payload 0 32
      let h := s.dsp.nextHandle
      1024 ≤ n → n ≤ 1073741824 → n % 64 = 0 → s.dsp.graphs.length < 8 →
      exec (.cmdDspGraphOpen src) s = .next (recorded src c (okWith (toLE 4 h)) { s with dsp := { s.dsp with
        graphs := mapSet s.dsp.graphs h { size := n, units := [], committed := false, bases := [] }
        nextHandle := if h + 1 < 2 ^ 32 then h + 1 else 1 } }))
    ∧ ∀ g, mapGet s.dsp.graphs (field c.payload 0 32) = some g →
      (performs s src 0x0301 c → g.committed = false →
        let off := field c.payload 32 32
        let n := field c.payload 64 32
        off % 64 = 0 → n % 64 = 0 → 64 ≤ n → n ≤ 524288 → off + n ≤ g.size →
        exec (.cmdDspGraphData src) s = .next (recorded src c (okWith []) { s with dsp := { s.dsp with
          graphs := mapSet s.dsp.graphs (field c.payload 0 32) { g with
            units := (List.range (n / 64)).foldl
              (fun m k => mapSet m (off / 64 + k) (slice c.payload (12 + 64 * k) 64)) g.units } } }))
      ∧ (performs s src 0x0302 c → g.committed = false → graphFault s g = none → ∀ bases, check8 s g = some bases →
        let g' : Graph := { g with committed := true, bases := bases }
        let u : State := { s with dsp := { s.dsp with graphs := mapSet s.dsp.graphs (field c.payload 0 32) g' } }
        exec (.cmdDspGraphCommit src) s =
          .next (recorded src c (okWith []) (raise Ev.dspGraphCommit 0 [] (placeGraph (field c.payload 0 32) g' u))))
      ∧ (performs s src 0x0302 c → g.committed = false → ∀ k off, graphFault s g = some (k, off) →
        exec (.cmdDspGraphCommit src) s = .next (recorded src c (badGraph k off) s))
      ∧ (performs s src 0x0303 c → graphInJob s (field c.payload 0 32) = false →
        exec (.cmdDspGraphUnload src) s = .next (recorded src c (okWith []) { s with dsp := { s.dsp with
          graphs := mapDel s.dsp.graphs (field c.payload 0 32) } }))
      ∧ (performs s src 0x0303 c → graphInJob s (field c.payload 0 32) = true →
        exec (.cmdDspGraphUnload src) s = .next (recorded src c (failWith St.inUse 0) s))
      ∧ (performs s src 0x0304 c → g.committed = false → exec (.cmdDspGraphInfo src) s =
          .next (recorded src c (okWith (pack 32 [(0, 32, field c.payload 0 32), (64, 32, g.size)])) s))
      ∧ (performs s src 0x0304 c → g.committed = true → exec (.cmdDspGraphInfo src) s = .next (recorded src c
          (okWith (pack 32 [(0, 32, field c.payload 0 32), (32, 2, if graphInJob s (field c.payload 0 32) then 2 else 1),
              (40, 7, imgLcCount g), (47, 1, bit (imgFixed g)), (64, 32, g.size), (96, 32, imgQuantum g),
              (128, 64, field (imgHeader g) 128 64)]
            ++ (List.range (imgLcCount g)).flatMap (fun k =>
              pack 8 [(0, 16, taskCount g k), (16, 16, templateCount g k), (32, 16, reserveKib g k)]))) s))

/-- For every shunter i of a logical core that the device has and every state, t being the newest task of its deque and
u the state without it, the core's reads of non-pooled memory fresh; what follows takes effect where no access of
the row meets a retrain, and else the shunter waits (takesEffect). A sample task whose descriptor passes R136 takes
the next number; the half of its step becomes unspecified; its seeds are read; hop 0 and layer 1 are formed and cut
into pieces, its working area used; and it is driven as far as no piece is left. One whose descriptor fails is
counted in SMP_BAD_DESC_CNT with its event, writes a header of 128 bytes with BAD_DESC and its step alone, where the
half lies in its core's reservation, and completes, counted in SMP_TRAIN_CNT. A piece of a sample task that runs
leaves the task's list of pieces, runs, completes as a task, and drives its sample task on; a piece that its task no
longer lists completes alone. -/
def Obligations.SampleTasksRun : Prop :=
  ∀ (lc i : Nat) (s : State) (t : Task) (rest : List Task), lc < nLc s → i < 8 → (deque s lc i).reverse = t :: rest →
    let d := sectionRead s t.lc (tdCode t.bytes) 128
    let u := emptyNonPooled lc (setDeque lc i rest.reverse (rowBegun (lcDie s lc) s))
    let m := taskStep u t
    (t.piece = none → field d 0 8 = 1 → sampleDescOk u t.lc d t.bytes = true →
      let no := u.dsp.nextUid + 1
      let v := unspecify t.lc (sdBase d m) (sdBytes d) { u with dsp := { u.dsp with nextUid := no } }
      let bound := (adjIn v (leSlot (layerEntry t.bytes 1))).map (fun a => a.nodes)
      let seeds := readSeeds lc t.lc (sdSeedSlot d) (sdSeeds d) m bound v
      let j : SmpJob :=
        { no := no
          task := t
          home := 8 * lc + i
          desc := d
          step := m
          layer := 1
          seedMap := []
          nodes := []
          hops := []
          layers := []
          pieces := []
          nextPiece := 1
          rows := []
          longs := []
          dropped := 0
          truncated := false
          degraded := seeds.2.1 }
      let z := hopZero j seeds.1 seeds.2.2
      let w := cutLayer z.1 (useWork z.1 z.2)
      takesEffect (.sample lc i) s (driveSample 9 w.1 w.2))
    ∧ (t.piece = none → field d 0 8 = 1 → sampleDescOk u t.lc d t.bytes = false →
      let v := raise Ev.smpBadDesc (srcOf 3 t.lc) [] (bump Cnt.smpBadDesc t.lc 1 u)
      let w := if inReservation v t.lc (sdBase d m) (sdBytes d) then
          coreWrite 0 t.lc (sdBase d m) ((pack 128 [(0, 64, m), (100, 1, 1)]).take (sdBytes d)) v
        else v
      takesEffect (.sample lc i) s (completeTask t (bump Cnt.smpTrain t.lc 1 w)))
    ∧ (∀ id j, t.piece = some id → sampleJob s t.uid = some j →
      (j.pieces.find? (fun p => p.id == id) = none → takesEffect (.samplePieceRun lc i) s (completeTask t u))
      ∧ ∀ p, j.pieces.find? (fun p => p.id == id) = some p →
        let r := runPiece (8 * lc + i) p { j with pieces := j.pieces.filter (fun p => p.id != id) } u
        takesEffect (.samplePieceRun lc i) s (driveSample 9 r.1 (completeTask t r.2)))

/-- For every fanout f, key and ordered lists a and b of edges with their keys whose positions differ from one another:
keeping the f smallest of the f smallest of a, together with b, keeps what the f smallest of a and b keep. So
merging chunk after chunk gives the set of the uncut row, edge for edge. -/
def Obligations.ChunksChooseAsAnUncutRow : Prop :=
  ∀ (f : Nat) (a b : List (Nat × Nat × Nat)), ((a ++ b).map (fun e => e.2.1)).Nodup →
    smallest f (smallest f a ++ b) = smallest f (a ++ b)

/-- For every shunter i of a logical core that the device has, with an empty deque, no task, its clock running, its core
under its own number and not copied, and every state: it takes the oldest stealable task of the first victim of R153
that has one, and the steal is counted by the step at which the victim was found; with no victim, SMP_STEAL_FAIL_CNT
counts. Deques met before in which fixed-order mode alone withholds a task are counted. The retry timer makes it
scan again 64 FCLK cycles after a scan in vain; 1,024 cycles after it first found nothing it sleeps. -/
def Obligations.ShuntersSteal : Prop :=
  ∀ (lc i : Nat) (s : State), lc < nLc s → i < 8 → deque s lc i = [] → shunterTask s lc i = none →
    s.dsp.asleep.contains (8 * lc + i) = false → shunterLc s lc = lc → underCopy s lc = false →
    let vs := victims s lc i
    let has := fun (v : Nat × Nat × Nat) => (stealFrom s v.2.1 v.2.2).isSome
    let met := fun (l : List (Nat × Nat × Nat)) => countIf (fun v => blockedAt s v.2.1 v.2.2) l
    let noted := fun (n : Nat) => if n = 0 then s else bump Cnt.dspStealBlock lc n s
    (∀ v t rest, vs.find? has = some v → stealFrom s v.2.1 v.2.2 = some (t, rest) →
      exec (.shunterSteal lc i) s = .next (setDeque lc i [t] (setDeque v.2.1 v.2.2 rest
        (bump (if v.1 = 1 then Cnt.smpStealCore else if v.1 = 2 then Cnt.smpStealDie else Cnt.smpStealXdie) lc 1
          (noted (met (vs.takeWhile (fun x => x != v))))))))
    ∧ (vs.find? has = none →
      let u := noted (met vs)
      let since := match mapGet u.dsp.idle (8 * lc + i) with
        | some e => e.1
        | none => u.now
      exec (.shunterSteal lc i) s = .next (bump Cnt.smpStealFail lc 1 { u with dsp := { u.dsp with
        idle := mapSet u.dsp.idle (8 * lc + i) (since, u.now) } }))
    ∧ ∀ e, mapGet s.dsp.idle (8 * lc + i) = some e →
      (∃ v, exec (.shunterSteal lc i) (reachTime (e.2 + fclkNs 64) s) = .next v
        ∧ exec (.stealRetryTimer lc i) s = .next v)
      ∧ (let u := reachTime (e.1 + fclkNs 1024) s
        exec (.shunterSleepTimer lc i) s = .next { u with dsp := { u.dsp with
          asleep := setInsert (8 * lc + i) u.dsp.asleep, idle := mapDel u.dsp.idle (8 * lc + i) } })

/-- For every state, source and slot c that performs the command, p being its payload. ADJ_SET and SEEDS_SET that pass
the checks of R158 put the payload into the slot named, at once in READY and otherwise from the next departure;
ADJ_CLEAR empties a slot in the same way; one that fails check b answers ST_BAD_PARAM with b and changes nothing.
INFO answers the sixteen adjacency and the sixteen seed entries. PROBE with a fanout, a layer of 1 to 8 and reserved
bits zero answers the counts, positions and neighbours of the row that R159 samples, once its accesses can be made. -/
def Obligations.SamplerCommands : Prop :=
  ∀ (s : State) (src : CmdSrc) (c : Slot),
    let p := c.payload
    let n := field p 0 4
    let put := fun (w : SmpSlot) (v : Option (List Byte)) =>
      if s.dev = .ready then { w with cur := v, next := none } else { w with next := some v }
    let adjSet := fun (v : Option (List Byte)) => { s with dsp := { s.dsp with
      adj := mapSet s.dsp.adj n (put (mapGetD s.dsp.adj n { cur := none, next := none }) v) } }
    (performs s src 0x0400 c →
      (adjBad s p = 0 → exec (.cmdSmpAdjSet src) s = .next (recorded src c (okWith []) (adjSet (some (slice p 0 48)))))
      ∧ (adjBad s p ≠ 0 → exec (.cmdSmpAdjSet src) s = .next (recorded src c (failWith St.badParam (adjBad s p)) s)))
    ∧ (performs s src 0x0401 c → field p 4 28 = 0 →
      exec (.cmdSmpAdjClear src) s = .next (recorded src c (okWith []) (adjSet none)))
    ∧ (performs s src 0x0402 c →
      (seedsBad s p = 0 → exec (.cmdSmpSeedsSet src) s = .next (recorded src c (okWith []) { s with dsp := { s.dsp with
        seeds := mapSet s.dsp.seeds n
          (put (mapGetD s.dsp.seeds n { cur := none, next := none }) (some (slice p 0 20))) } }))
      ∧ (seedsBad s p ≠ 0 →
        exec (.cmdSmpSeedsSet src) s = .next (recorded src c (failWith St.badParam (seedsBad s p)) s)))
    ∧ (performs s src 0x0403 c → exec (.cmdSmpInfo src) s = .next (recorded src c
        (okWith ((List.range 16).flatMap (adjEntry s) ++ (List.range 16).flatMap (seedEntry s))) s))
    ∧ (performs s src 0x0404 c →
      let e := field p 160 16
      leFanout e ≠ 0 → 1 ≤ field p 176 4 → field p 176 4 ≤ 8 → field p 183 9 = 0 →
      let h : SmpHow :=
        { jobId := field p 0 64
          m := field p 64 64
          l := field p 176 4
          stream := field p 180 3
          fanout := leFanout e
          mode := leMode e
          lc := 0
          via := 0 }
      let r := probeRow h e (field p 128 32) (rowBegun 0 s)
      takesEffect (.cmdSmpProbe src) s (recorded src c (okWith (toLE 4 r.1.edges.length ++ toLE 4 r.1.dropped
        ++ entries 4 (r.1.edges.map (fun x => x.2.1)) ++ entries 4 (r.1.edges.map (fun x => x.2.2)))) r.2))

/-- For every shunter i of a logical core that the device has and every state; each effect takes place where no access
of the row meets a retrain, else the shunter waits (takesEffect). A piece of a function of chapter 5 that is newest
in the deque leaves its task's list, runs, completes as a task, and lets its task end where nothing of it is left.
Else, t being the newest task, no piece, d its descriptor and u the state without it: a gather whose fields, source,
requests and areas pass R165 and R167 counts its requests, its unique rows and its duplicates and begins, its unique
rows cut into pieces where the descriptor names an output; one whose fields fail writes an INVALID waybill header in
its reservation and completes, counted in GTH_BAD_DESC_CNT with its event. A scatter that passes R190 counts
requests that name no row as skipped and begins over its unique rows; one that does not completes as bad. A merge
that passes R165 and R176 begins over its destinations; one that does not completes as bad. A descriptor with a
reserved FUNC completes as bad (log 41). -/
def Obligations.GatherScatterMerge : Prop :=
  ∀ (lc i : Nat) (s : State), lc < nLc s → i < 8 →
    let b := rowBegun (lcDie s lc) s
    (∀ func row t j p, (func, row) ∈ [(2, Instr.gather lc i), (3, .scatter lc i), (5, .spmm lc i), (6, .haccDrain lc i),
        (7, .compress24 lc i)] → newestPiece s lc i func = some (t, j, p) →
      let u := emptyNonPooled lc (setDeque lc i (deque s lc i).dropLast b)
      takesEffect row s (closeFunc j.no (completeTask t (runFuncPiece (8 * lc + i) j.no p { u with dsp := { u.dsp with
        funcs := mapSet u.dsp.funcs j.no { j with pieces := j.pieces.filter (fun q => q.id != p.id) } } }))))
    ∧ ∀ (t : Task) (rest : List Task), (deque s lc i).reverse = t :: rest → t.piece = none →
      let d := sectionRead s t.lc (tdCode t.bytes) 128
      let u := emptyNonPooled lc (setDeque lc i rest.reverse b)
      let f := funcRun (8 * lc + i) t d (taskStep u t)
      let bad := fun (v : State) => completeTask t (raise Ev.gthBadDesc (srcOf 3 t.lc) [] (bump Cnt.gthBadDesc t.lc 1 v))
      let begins := fun (inp : FuncInput) (rows : Nat) (v : State) =>
        let no := v.dsp.nextUid + 1
        let j : FuncJob :=
          { no := no, task := t, home := 8 * lc + i, desc := d, step := f.m, input := inp, pieces := [], nextPiece := 1 }
        closeFunc no ((List.range (cdiv rows f.batch)).foldl (fun s k =>
            givePiece (8 * lc + i) no (f.batch * k) (Nat.min f.batch (rows - f.batch * k)) none
              (runFuncPiece (8 * lc + i) no) s)
          (useArea f { v with dsp := { v.dsp with nextUid := no, funcs := mapSet v.dsp.funcs no j } }))
      (funcCodes.contains (field d 0 8) = false → takesEffect (.gather lc i) s (bad u))
      ∧ (field d 0 8 = 2 → gatherFieldsOk d = false →
        let h := waybillHeader f.m 0 0 (if flag d 8 then 0xFFFF else field d 256 16) true false 0 0
          (if flag d 8 then field d 576 64 else 0)
        takesEffect (.gather lc i) s (bad (
          if inReservation u t.lc (f.addr 448) 64 then coreWrite 0 t.lc (f.addr 448) h u else u)))
      ∧ (∀ q0, field d 0 8 = 2 → gatherFieldsOk d = true → gatherSource u d = some q0 →
        (flag d 10 = true → inReservation u t.lc (f.addr 384) 128 = true) →
        let q := (gatherRequests f q0 u).1
        Nat.max 64 (cdiv (16 * q.reqs) 1024) ≤ field d 192 32 →
        inReservation u t.lc q.reqAddr (q.width * q.reqs) = true →
        let l := readRequests t.lc q (gatherRequests f q0 u).2
        let rows := l.1.filterMap Request.rowOf
        let uniq := setUnion [] rows
        areasOk u t.lc (gatherAreas f q uniq.length) = true →
        let v := bump Cnt.gthUniq t.lc uniq.length (bump Cnt.gthReq t.lc l.1.length l.2)
        let w := countRequests t.lc q.table l.1
          (if rows.length = uniq.length then v else bump Cnt.gthDup t.lc (rows.length - uniq.length) v)
        let g : GatherIn :=
          { table := q.table
            flatBase := q.flatBase
            uniq := uniq
            inv := l.1.map (fun r => match r.rowOf with
              | some i => placeIn uniq i
              | none => 0xFFFFFFFF)
            waybill := f.addr 448
            out := if field d 512 64 = 0 then none else some (f.addr 512)
            rowBytes := q.rowBytes
            drops := []
            remote := []
            degraded := l.1.any (fun r => r == .range || r == .poison) }
        takesEffect (.gather lc i) s (begins (.gather g) (if field d 512 64 = 0 then 0 else uniq.length) w))
      ∧ (field d 0 8 = 3 → inReservation u t.lc (f.addr 320) 64 = true →
        let r := readWaybill t.lc (f.addr 320) u
        (scatterOk u f r.1 = false → takesEffect (.scatter lc i) s (bad r.2))
        ∧ (scatterOk u f r.1 = true →
          let skips := countIf (fun x => x == 0xFFFFFFFF) r.1.inv
          takesEffect (.scatter lc i) s (begins (.scatter r.1) r.1.uniq.length
            (if skips = 0 then r.2 else bump Cnt.gthScatterSkip t.lc skips r.2))))
      ∧ (field d 0 8 = 5 →
        (spmmFieldsOk u t.lc d = false → takesEffect (.spmm lc i) s (bad u))
        ∧ ∀ q v, spmmFieldsOk u t.lc d = true → (if flag d 10 then spmmMerge f u else spmmTrain f u) = some (q, v) →
          areasOk u t.lc (spmmAreas f q) = true →
          takesEffect (.spmm lc i) s (begins (.spmm q.dests []) q.dests.length v))

/-- For every shunter i of a logical core that the device has and every state, t being the newest task of its deque, no
piece, d its descriptor and u the state without it; each effect takes place where no access of the row meets a
retrain, else the shunter waits (takesEffect). A drain that passes R165 and R188 takes the lowest keys present, at
most its bound, with their values out of the accumulator and begins over them; the row of a key is the key and its
value. A compression that passes R165 and R193 begins over its rows; a row is compressed, and counts its groups and
the non-zeros dropped. Either one with a reserved bit set in its fields completes as bad. -/
def Obligations.DrainAndCompress : Prop :=
  ∀ (lc i : Nat) (s : State) (t : Task) (rest : List Task), lc < nLc s → i < 8 → (deque s lc i).reverse = t :: rest →
    t.piece = none →
    let d := sectionRead s t.lc (tdCode t.bytes) 128
    let u := emptyNonPooled lc (setDeque lc i rest.reverse (rowBegun (lcDie s lc) s))
    let f := funcRun (8 * lc + i) t d (taskStep u t)
    let bad := fun (v : State) => completeTask t (raise Ev.gthBadDesc (srcOf 3 t.lc) [] (bump Cnt.gthBadDesc t.lc 1 v))
    let begins := fun (inp : FuncInput) (rows : Nat) (v : State) =>
      let no := v.dsp.nextUid + 1
      let j : FuncJob :=
        { no := no, task := t, home := 8 * lc + i, desc := d, step := f.m, input := inp, pieces := [], nextPiece := 1 }
      closeFunc no ((List.range (cdiv rows f.batch)).foldl (fun s k =>
          givePiece (8 * lc + i) no (f.batch * k) (Nat.min f.batch (rows - f.batch * k)) none
            (runFuncPiece (8 * lc + i) no) s)
        (useArea f { v with dsp := { v.dsp with nextUid := no, funcs := mapSet v.dsp.funcs no j } }))
    (field d 0 8 = 6 →
      let v := haccLate t.lc u
      let most := field d 256 32
      let h := hacc v t.lc
      let out := (haccKeys v t.lc).take most
      let n := out.length
      let k := haccEntryBytes h.width - 16
      let areas := [f.work, (f.addr 320, 8 * n), (f.addr 384, n * k), (f.addr 448, 4)]
      (commonOk d 8 false = false → takesEffect (.haccDrain lc i) s (bad v))
      ∧ (commonOk d 8 false = true → 1 ≤ most → most ≤ 16777216 → field d 288 32 = 0 → field d 512 512 = 0 →
        areasOk v t.lc areas = true →
        takesEffect (.haccDrain lc i) s (begins
          (.drain (out.map (fun k => (k, (haccValue v t.lc k).getD []))) (n < (haccKeys v t.lc).length) h.width) n
          (setHacc t.lc { h with
            entries := h.entries.filter (fun e => !out.contains e.key)
            spill := h.spill.filter (fun e => !out.contains e.key) } v))))
    ∧ (field d 0 8 = 7 →
      let fmt := field d 8 4
      let n := field d 256 32
      let k := field d 288 32
      let g := cdiv k 4
      let areas := [f.work, (f.addr 320, (n - 1) * field d 512 32 + cdiv (k * fmtBits fmt) 8),
        (f.addr 384, n * up64 (cdiv (2 * g * fmtBits fmt) 8)), (f.addr 448, n * up64 (cdiv g 2))]
      (commonOk d 12 false = false → takesEffect (.compress24 lc i) s (bad u))
      ∧ (commonOk d 12 false = true → fmt ≤ 10 → 1 ≤ n → n ≤ 16777216 → 1 ≤ k → k ≤ 65536 → field d 512 32 % 32 = 0 →
        field d 544 480 = 0 → areasOk u t.lc areas = true → takesEffect (.compress24 lc i) s (begins .compress n u))
      ∧ ∀ (r : Nat) (v : State),
        let src := coreRead t.lc (f.addr 320 + r * field d 512 32) (cdiv (k * fmtBits fmt) 8) v
        let c := compressRow fmt k src.1
        let pad := freeVal 16 src.2.2
        let a := coreWrite 0 t.lc (f.addr 384 + r * up64 (cdiv (2 * g * fmtBits fmt) 8))
          (codeBytes (fmtBits fmt) c.1 0) pad.2
        let b := bump Cnt.spCompressGroup t.lc g
          (coreWrite 0 t.lc (f.addr 448 + r * up64 (cdiv g 2)) (codeBytes 4 c.2.1 pad.1) a)
        compressOne f fmt k r v = if c.2.2 = 0 then b else bump Cnt.spPrune t.lc c.2.2 b)
    ∧ ∀ (rows : List (Nat × List W32)) (w r : Nat) (v : State) (key : Nat) (x : List W32), rows.getD r (0, []) = (key, x) →
      let pad := freeBytes (haccEntryBytes w - 16 - 4 * w) v
      drainRow f rows w r v = coreWrite 0 t.lc (f.addr 384 + r * (haccEntryBytes w - 16)) (bytes32 x ++ pad.1)
        (coreWrite 0 t.lc (f.addr 320 + 8 * r) (toLE 8 key) pad.2)

/-- For every logical core that the device has and every state, h being its accumulator. While a CORE task of the core
may issue, opening empties entries, spill and sequence numbers and keeps the configuration, and takes again the
contributions of the same cycle (log 39); a configuration with a width up to 256 and an operation up to 3 sets the
two, and another changes nothing; without such a task both change nothing. A contribution to a closed accumulator is
dropped, counted with its event; one that comes while a drain runs waits, counted in GTH_HACC_LATE_CNT. One of the
right width to an open one with no drain running and none waiting, its NaNs made canonical: outside fixed-order mode
a key present is combined, contributions of one cycle in the order of their senders, and becomes the newest of its
set; a key absent, and in fixed-order mode every contribution, takes a way of its set where one of the sixteen is
free; in a full set the oldest entry first goes to the spill where that has room, counted. -/
def Obligations.HashAccumulatorTakesRows : Prop :=
  ∀ (lc c j key task piece seq : Nat) (elems : List W32) (s : State), lc < nLc s → c < nLc s → j < 8 →
    let h := hacc s lc
    let x := elems.map quiet32
    let e : HaccEntry :=
      { key := key, elems := x, task := task, piece := piece, seqNo := seq, time := s.now, before := none
        fresh := [(16 * c + j, x)] }
    let mine := fun (x : HaccEntry) => haccSet h.width x.key == haccSet h.width key
    let i : Instr := .haccContribution lc key elems task piece seq c j
    (coreTaskRuns s lc = true →
      exec (.haccOpen lc) s = .next ((freshEntries s h).foldl (haccTake lc)
          (setHacc lc { h with entries := [], spill := [], seqs := [] } s))
      ∧ ∀ width op, (width ≤ 256 → op ≤ 3 →
          exec (.haccCfgWrite lc width op) s = .next (setHacc lc { h with width := width, op := op } s))
        ∧ ((256 < width ∨ 3 < op) → exec (.haccCfgWrite lc width op) s = .next s))
    ∧ (coreTaskRuns s lc = false → exec (.haccOpen lc) s = .next s
      ∧ ∀ width op, exec (.haccCfgWrite lc width op) s = .next s)
    ∧ (h.width = 0 → exec i s = .next (raise Ev.gthHaccDrop (srcOf 3 lc) [] (bump Cnt.gthHaccDrop lc 1 s)))
    ∧ (h.width ≠ 0 → elems.length = h.width → draining s lc = true →
      exec i s = .next (bump Cnt.gthHaccLate lc 1 (setHacc lc { h with late := h.late ++ [e] } s)))
    ∧ (h.width ≠ 0 → elems.length = h.width → draining s lc = false → h.late = [] →
      (∀ y rest, fixedOrder s = false → takeFirst (fun x : HaccEntry => x.key == key) h.entries = some (y, rest) →
        let l := insertRank (16 * c + j, x) y.fresh
        exec i s = .next (setHacc lc { h with
          entries := rest ++ [if y.time = s.now then { y with fresh := l, elems := foldFresh (haccJoin h.op) y.before l }
            else { y with time := s.now, before := some y.elems, fresh := e.fresh, elems := haccJoin h.op y.elems x }] } s))
      ∧ ((fixedOrder s = true ∨ h.entries.any (fun x => x.key == key) = false) →
        (countIf mine h.entries < 16 → exec i s = .next (setHacc lc { h with entries := h.entries ++ [e] } s))
        ∧ ∀ y rest, 16 ≤ countIf mine h.entries → takeFirst mine h.entries = some (y, rest) →
          let log := s.pool.gthCfg.spillMib * 1048576 / haccEntryBytes h.width
          h.spill.length < log → exec i s =
            .next (setHacc lc { h with entries := rest ++ [e], spill := h.spill ++ [y] } (bump Cnt.gthHaccSpill lc 1 s))))

/-- For every logical core that the device has, every state and every contribution, with no drain running and none
waiting, that takes a way of an open accumulator's set whose sixteen ways are in use, while the spill log is full:
the oldest entry of the set is dropped, counted once in GTH_HACC_DROP_CNT, and EV_GTH_HACC_DROP is raised; every
other entry, in its order, every spilled partial and the sequence numbers stand, and the contribution is in. -/
def Obligations.EvictionIntoAFullLog : Prop :=
  ∀ (lc c j key task piece seq : Nat) (elems : List W32) (s : State) (x : HaccEntry) (rest : List HaccEntry),
    lc < nLc s → c < nLc s → j < 8 →
    let h := hacc s lc
    h.width ≠ 0 → elems.length = h.width → draining s lc = false → h.late = [] →
    (fixedOrder s = true ∨ h.entries.any (fun x => x.key == key) = false) →
    16 ≤ countIf (fun x => haccSet h.width x.key == haccSet h.width key) h.entries →
    takeFirst (fun x : HaccEntry => haccSet h.width x.key == haccSet h.width key) h.entries = some (x, rest) →
    s.pool.gthCfg.spillMib * 1048576 / haccEntryBytes h.width ≤ h.spill.length →
    ∃ u, exec (.haccContribution lc key elems task piece seq c j) s = .next u
      ∧ (hacc u lc).entries = rest ++ [haccContrib s (16 * c + j) key elems task piece seq]
      ∧ (hacc u lc).spill = h.spill ∧ (hacc u lc).seqs = h.seqs
      ∧ (∀ k, k ≠ lc → hacc u k = hacc s k)
      ∧ (let v := bump Cnt.gthHaccDrop lc 1 (setHacc lc { h with entries := rest } s)
        u.ctr = (raise Ev.gthHaccDrop (srcOf 3 lc) [] v).ctr ∧ u.evr = (raise Ev.gthHaccDrop (srcOf 3 lc) [] v).evr)

/-- For every pool or collective packet i with header h that is for this package and well formed, and every state;
whatever becomes of it, the credits of its port go back. While epochs are judged, an older epoch drops it, counted,
and a request is answered by POOL_ERR with reason 1 and the epoch in force; a newer one holds it with the time of
its arrival. In the epoch in force it enters the received digest of its step and sender; then a step two or more
ahead drops it, counted, with its event; a read or write of an older step is dropped, counted; a read of the next
step is held. A package in QUARANTINED drops every packet, counted, and one whose fields its type does not allow is
counted in LNK_BAD_PKT_CNT: nothing else changes. -/
def Obligations.PacketsJudged : Prop :=
  ∀ (i : Instr) (h : Hdr) (s : State), poolPacket i = true → hdrOf i = some h → diesRun s = true →
    (s.dev = .quarantined → exec i s = .next (returnCredits i h (bump Cnt.fncQuarDrop 0 1 s)))
    ∧ (s.dev ≠ .quarantined → packetOk i = false → exec i s = .next (returnCredits i h (bump Cnt.lnkBadPkt 0 1 s)))
    ∧ (addressed s i h →
      (epochJudged s = true → h.epoch < epochOf s →
        let u := bump Cnt.lnkStaleEpochDrop 0 1 s
        exec i s = .next (returnCredits i h
          (if isRequest i then sendPlain (.poolErr (replyHdr s h) 1 (epochOf s)) u else u)))
      ∧ (epochJudged s = true → epochOf s < h.epoch → exec i s = .next (returnCredits i h
          { s with fab := { s.fab with heldEpoch := s.fab.heldEpoch ++ [(s.now, i)] } }))
      ∧ ((epochJudged s = true → h.epoch = epochOf s) →
        let u := digest false h.src i s
        (stepOf s + 2 ≤ h.step → exec i s =
          .next (returnCredits i h (raise Ev.ttStepSkew 0 [] (bump Cnt.ttStaleStepDrop 0 1 u))))
        ∧ (h.step < stepOf s → (stepKind i = .staged ∨ stepKind i = .read) →
          exec i s = .next (returnCredits i h (bump Cnt.ttStaleStepDrop 0 1 u)))
        ∧ (h.step = stepOf s + 1 → stepKind i = .read → exec i s =
          .next (returnCredits i h { u with fab := { u.fab with heldStep := u.fab.heldStep ++ [i] } }))))

/-- For every state and every request with header h, current by R397, b being the state with the packet in its digest,
as the packet's accesses from its port's die find it; it has its effect when none of them meets a channel or
coupling under retrain, and waits otherwise. A read, store or accumulate outside a pooled region that programs may
so access is answered by POOL_ERR with reason 2. A read is answered with the bytes and poison marks of its home and
counted towards HOT; of a table's rows that are served here their pending updates are waited for and their accesses
tracked. A store or accumulate to a table's region is acknowledged with status 1, counted in EMB_BAD_WR_CNT with
EV_EMB_BAD_ROW; to another region it is staged, sector by sector, and acknowledged with status 0 where every home
die has room, and otherwise waits, counted in TT_STAGE_FULL_CNT. A row update in one part: of no table it is
answered with reason 3; out of the table's rows or width it is dropped, counted with its event, and acknowledged
with status 1; of a row homed here, with room and no migration of this step, its access is tracked, it is staged and
counted, and acknowledged with status 0; without room it waits, counted. A part that does not complete its update is
kept. -/
def Obligations.PoolRequestsServed : Prop :=
  ∀ (s : State) (h : Hdr),
    (∀ a n, let i := Instr.poolRead h a n
      current s i h →
      let b := arrived i h s
      ((∀ e, regionOfRange b a (n * 32) = some e → (!e.2.pooled || !e.2.progR) = true) →
        takesEffectOrWaits i h s (errTo h 2 b))
      ∧ ∀ id r, regionOfRange b a (n * 32) = some (id, r) → r.pooled = true → r.progR = true →
        let answer := fun (c : State × Bool) =>
          let x := homeRead false a (n * 32) c.1
          sendPlain (.poolData (replyHdr x.2.2 h) c.2 (bitmap x.2.1) x.1) x.2.2
        (r.table = none → takesEffectOrWaits i h s (answer (countRead (flatKey a) b)))
        ∧ ∀ t tb, r.table = some t → table b t = some tb →
          let rows := rowsIn b tb r.base a (n * 32)
          (∀ row ∈ rows, rowRoute b tb row = .here) → takesEffectOrWaits i h s
            (answer (countReads t rows (rows.foldl (fun s row => trackAccess t row h.src s) (awaitRows t rows b)))))
    ∧ (∀ a d acc, let i := if acc then Instr.poolAccum h a d else .poolStore h a d
      current s i h →
      let b := arrived i h s
      ((∀ e, regionOfRange b a d.length = some e → (!e.2.pooled || !e.2.progW) = true) →
        takesEffectOrWaits i h s (errTo h 2 b))
      ∧ ∀ id r, regionOfRange b a d.length = some (id, r) → r.pooled = true → r.progW = true →
        (∀ t, r.table = some t →
          takesEffectOrWaits i h s (ackTo h 1 (raise Ev.embBadRow (srcOf 11 t) [] (bump Cnt.embBadWr 0 1 b))))
        ∧ (r.table = none →
          let v := touchHomes a d.length b
          let units := unitsOf 32 a d.length
          let fits := (setUnion [] (units.map (fun x => homeDie v (x * 32)))).all (fun k =>
            stageUsed v k + countIf (fun x => homeDie v (x * 32) == k) units ≤ stageSectors v)
          let sectors := (List.range (d.length / 32)).map (fun k => ({ step := h.step, origin := h.src, addr := a + 32 * k, accum := acc, poison := false, data := slice d (32 * k) 32 } : Staged))
          (fits = true → takesEffectOrWaits i h s
            (ackTo h 0 { v with pool := { v.pool with staged := v.pool.staged ++ sectors } }))
          ∧ (fits = false → takesEffectOrWaits i h s
            (bump Cnt.ttStageFull 0 1 { v with pool := { v.pool with full := v.pool.full ++ [i] } }))))
    ∧ (∀ row t part parts d, let i := Instr.rowUpdate h row t part parts d
      current s i h →
      let b := arrived i h s
      (parts ≤ 1 → table b t = none → takesEffectOrWaits i h s (errTo h 3 b))
      ∧ (∀ tb, parts ≤ 1 → table b t = some tb →
        ((tb.rows ≤ row ∨ (words32 d).length ≠ tb.width) → takesEffectOrWaits i h s
          (ackTo h 1 (raise Ev.embBadRow (srcOf 11 t) [] (bump Cnt.embBadRow 0 1 b))))
        ∧ (row < tb.rows → (words32 d).length = tb.width → rowRoute b tb row = .here →
          let v := touchHomes ((rowStore b tb row).getD 0) 1 b
          let c : Contrib := { step := h.step, origin := h.src, table := t, row := row, seq := 0, elems := words32 d, owed := none }
          (stageFits v (rowDie b tb row) (cdiv (4 * (words32 d).length) 32) = true →
            tb.migs.find? (fun m => m.row == row && m.start == h.step) = none →
            let w := trackAccess t row h.src v
            takesEffectOrWaits i h s (ackTo h 0
              (bump Cnt.embContrib 0 1 { w with pool := { w.pool with contribs := w.pool.contribs ++ [c] } })))
          ∧ (stageFits v (rowDie b tb row) (cdiv (4 * (words32 d).length) 32) = false → takesEffectOrWaits i h s
            (bump Cnt.ttStageFull 0 1 { v with pool := { v.pool with full := v.pool.full ++ [i] } }))))
      ∧ (1 < parts →
        let mine := fun (p : PartSet) => p.src == h.src && p.tag == h.tag
        let old := (b.pool.parts.find? mine).getD { src := h.src, tag := h.tag, parts := [] }
        let p : PartSet := { old with parts := mapSet old.parts part (words32 d) }
        joinParts p parts = none → takesEffectOrWaits i h s { b with pool := { b.pool with
          parts := b.pool.parts.filter (fun p => !mine p) ++ [p] } }))

/-- For every state, header h and request p of this package with the tag of h, u being the state with the packet in its
digest; the credits of the packet's port go back. Data that come without the HOT flag: for a demand read they leave
the request's list and land at the reader; for a row of a gather they land in its output and close the gather when
nothing else is out. An acknowledgement of a write, row update or migration message ends the request; one of a
forwarded contribution also answers its sender. An error for a demand read fails the read, with reason 2 as a bad
address; for a row of a gather it drops the row; for a write it refuses the write; reason 1 with a newer epoch puts
the package in QUARANTINED. A forwarded read of a gather's row, or a demand read that touches one row, goes again to
the home named. REMOTE_TIMEOUT_US without an answer fails a demand read or drops a row of a gather. -/
def Obligations.PoolRepliesTaken : Prop :=
  ∀ (s : State) (h : Hdr) (p : Pend),
    (∀ poison d, let i := Instr.poolData h false poison d
      current s i h →
      let u := digest false h.src i s
      findPend u h.tag = some p →
      let marks := (List.range (d.length / 32)).map (fun k => poison.testBit k)
      (∀ r g n, p.kind = .demand r g n → exec i s = .next (returnCredits i h
        (landRead r g (slice d (gLocal g - gLocal g / 32 * 32) n) marks (dropPend p.tag u))))
      ∧ (∀ no k off j g, p.kind = .gather no k off → gatherOf u no = some (j, g) → exec i s = .next (returnCredits i h
        (closeFunc no (landGatherRow no k off (d.take (g.rowBytes - off)) marks (dropPend p.tag u))))))
    ∧ (∀ st, let i := Instr.poolAck h st
      current s i h →
      let u := digest false h.src i s
      findPend u h.tag = some p →
      ((∃ c, p.kind = .write c) ∨ (∃ t r, p.kind = .rowUpdate t r) ∨ (∃ t r, p.kind = .mig t r) →
        exec i s = .next (returnCredits i h (dropPend p.tag u)))
      ∧ (∀ src tag, p.kind = .fwd src tag → exec i s =
        .next (returnCredits i h (ackTo { mkHdr u 0 tag with src := src } st (dropPend p.tag u)))))
    ∧ (∀ reason epoch, let i := Instr.poolErr h reason epoch
      current s i h →
      let u := digest false h.src i s
      (reason = 1 → epochOf u < epoch → exec i s = .next (returnCredits i h (enterQuarantine u)))
      ∧ (¬ (reason = 1 ∧ epochOf u < epoch) → findPend u h.tag = some p →
        (∀ r g n, p.kind = .demand r g n → exec i s = .next (returnCredits i h (
          if reason = 2 then badRead r (replyOf u r).base (replyOf u r).data.length (dropReads r u)
          else remoteReadFail r (replyOf u r).base (replyOf u r).data.length u)))
        ∧ (∀ no k off, p.kind = .gather no k off → exec i s =
          .next (returnCredits i h (closeFunc no (dropGatherRow no k false (dropPend p.tag u)))))
        ∧ (∀ c, p.kind = .write c → exec i s = .next (returnCredits i h (refuseWrite p.tag reason u)))))
    ∧ (∀ home slot, let i := Instr.poolFwd h home slot
      current s i h →
      let u := digest false h.src i s
      findPend u h.tag = some p →
      home ≠ pkgNo u → isMember u home = true →
      let again := fun t (tb : Table) row off n =>
        let a := remoteRowAddr tb t (if slot = noSlot then tb.firstHome row else home) home row slot + off
        let v : State := { u with fab := { u.fab with
          pend := u.fab.pend.map (fun x => if x.tag = p.tag then { x with dst := home } else x) } }
        (sendPacket (.poolRead (mkHdr v home p.tag) a n) v).2 = true →
        exec i s = .next (returnCredits i h (sendPacket (.poolRead (mkHdr v home p.tag) a n) v).1)
      (∀ no k off j g t tb, p.kind = .gather no k off → gatherOf u no = some (j, g) → g.table = some t →
        table u t = some tb →
        again t tb (g.uniq.getD k 0) off (sectorCount 0 (Nat.min 4096 (g.rowBytes - off))))
      ∧ ∀ r g n t tb o row, p.kind = .demand r g n → remoteTableAt u (gPkg g) (gLocal g) = some (t, tb, o) →
        (rowParts tb (gLocal g - o) (gLocal g) n).length ≤ 1 →
        rowAtIndex tb (gPkg g) (o / rowStride tb.payload) = some row →
        again t tb row (o % rowStride tb.payload / 32 * 32) (sectorCount (gLocal g) n))
    ∧ (findPend s h.tag = some p →
      let t := p.time + s.pool.gthCfg.timeoutUs * 1000
      (∀ r g n, p.kind = .demand r g n →
        let u := reachTime t s
        exec (.remoteReadTimeout h.tag) s =
          .next (remoteReadFail r (replyOf u r).base (replyOf u r).data.length u))
      ∧ (∀ no k off, p.kind = .gather no k off → exec (.remoteReadTimeout h.tag) s =
        .next (closeFunc no (dropGatherRow no k false (dropPend h.tag (reachTime t s))))))

/-- For every state, header h, row and table of this package, and every message of the migration protocol with header h,
current by R397, u being the state with it in its digest; the credits of its port go back, and a message that reads
or stages waits for a channel or coupling under retrain. A slot request where a slot is free or the row comes back
to its default home, and the table has a region here, reserves the slot, keeps a shadow without an image and is
granted; otherwise it is refused. A refusal ends the reservation at the old home, counted in EMB_MIG_REFUSE_CNT, and
the contributions staged since then are acknowledged. A row copy with room in the staging area fills the shadow that
its sender's request of its step made, with its poison marks, and is acknowledged; without room it waits, counted. A
directory change is staged for its step, and acknowledged. A forwarded contribution for a shadow of its step, with
room, is staged and counted with its sequence number, and acknowledged. A grant of this step for a row being
reserved commits the row's pending update, stamps LAST_MIG, makes the migration COPYING with the slot and as many
sequence numbers as contributions staged, stages the directory change, and sends the copy with its poison marks,
then the change to every other member, then the contributions, whose answers go to their senders. -/
def Obligations.RowsMigrate : Prop :=
  ∀ (s : State) (h : Hdr) (row t : Nat) (tb : Table),
    (
      let i := Instr.slotRequest h row t
      current s i h →
      let u := digest false h.src i s
      table u t = some tb →
      let back := tb.defaultHome row == pkgNo u
      (∀ x rg, (if back then some noSlot else freeSlot tb) = some x → tb.region = some rg →
        let sh : Shadow := { row := row, source := h.src, start := h.step, slot := x, image := none, marks := [] }
        let v := setTable t { tb with
          shadows := tb.shadows.filter (fun z => z.row != row) ++ [sh]
          usedSlots := if back then tb.usedSlots else setInsert x tb.usedSlots
          gone := tb.gone.filter (fun e => e.1 != x) } u
        exec i s = .next (returnCredits i h (sendPlain (.slotGrant (replyHdr v h) row t x) v)))
      ∧ ((back = false ∧ freeSlot tb = none) ∨ tb.region = none →
        exec i s = .next (returnCredits i h (sendPlain (.slotRefusal (replyHdr u h) row t) u))))
    ∧ (
      let i := Instr.slotRefusal h row t
      current s i h →
      let u := digest false h.src i s
      (findPend u h.tag).isSome = true → table u t = some tb →
        exec i s = .next (returnCredits i h (ackOwed t row (bump Cnt.embMigRefuse 0 1 (setTable t
          { tb with migs := tb.migs.filter (fun m => m.row != row || m.st != .reserving) } (dropPend h.tag u))))))
    ∧ (∀ image poison, let i := Instr.rowCopy h row t image poison
      current s i h →
      let b := arrived i h s
      table b t = some tb →
      let v := touchHomes ((rowStore b tb row).getD 0) image.length b
      let marks := (List.range (cdiv image.length 32)).map (fun k => poison.testBit k)
      (stageFits v (rowDie v tb row) (cdiv image.length 32) = true →
        takesEffectOrWaits i h s (ackTo h 0 (setTable t { tb with
          shadows := tb.shadows.map (fun x => if x.row = row ∧ x.source = h.src ∧ x.start = h.step then { x with image := some image, marks := marks } else x) } v)))
      ∧ (stageFits v (rowDie v tb row) (cdiv image.length 32) = false → takesEffectOrWaits i h s
        (bump Cnt.ttStageFull 0 1 { v with pool := { v.pool with full := v.pool.full ++ [i] } })))
    ∧ (∀ home slot, let i := Instr.directoryChange h row t home slot
      current s i h →
      let u := digest false h.src i s
      let c : DirChange := { step := h.step, origin := h.src, row := row, home := home, slot := slot }
      table u t = some tb →
        exec i s = .next (returnCredits i h (ackTo h 0 (setTable t { tb with dirNext := tb.dirNext ++ [c] } u))))
    ∧ (∀ origin seq d, let i := Instr.forwardedContribution h row t origin seq d
      current s i h →
      let b := arrived i h s
      let c : Contrib := { step := h.step, origin := origin, table := t, row := row, seq := seq, elems := words32 d, owed := none }
      0 < seq → table b t = some tb → row < tb.rows → (words32 d).length = tb.width →
      tb.shadows.any (fun x => x.row == row && x.start == h.step) = true →
      let v := touchHomes ((rowStore b tb row).getD 0) 1 b
      stageFits v (rowDie b tb row) (cdiv (4 * (words32 d).length) 32) = true →
        takesEffectOrWaits i h s (ackTo h 0
          (bump Cnt.embContrib 0 1 { v with pool := { v.pool with contribs := v.pool.contribs ++ [c] } })))
    ∧ (∀ slot, let i := Instr.slotGrant h row t slot
      current s i h →
      let b := arrived i h s
      ∀ p m a, findPend b h.tag = some p → table b t = some tb →
        tb.migs.find? (fun m => m.row == row && m.st == .reserving && m.start == p.step) = some m →
        commitAddr (dropPend h.tag b) tb row = some a → p.step = b.step →
        let v := commitRow t row (dropPend h.tag b)
        let r := homeRead false a (rowStride tb.payload)
          (commitWrite (a + embBytes tb.payload + 24) (toLE 8 m.start) v)
        let w := r.2.2
        ∀ tb', table w t = some tb' →
        let mine := rowContribs w t row m.start
        let c : DirChange := { step := m.start, origin := pkgNo w, row := row, home := h.src, slot := slot }
        let x := setTable t { tb' with
          migs := tb'.migs.map (fun y =>
            if y.row = row then { y with st := .copying, newSlot := slot, seqNo := mine.length } else y)
          dirNext := tb'.dirNext ++ [c] } w
        let y := (sendReq h.src (.mig t row) (fun g => .rowCopy g row t r.1 (bitmap r.2.1)) x).1
        ∀ j, y.job = some j →
        let z := (j.members.filter (fun q => q != pkgNo y)).foldl
          (fun s q => (sendReq q (.mig t row) (fun g => .directoryChange g row t h.src slot) s).1) y
        takesEffectOrWaits i h s (forwardStaged t row h.src mine { z with pool := { z.pool with
          contribs := z.pool.contribs.map (fun c => if c.table = t ∧ c.row = row then { c with owed := none } else c) } }))

/-- For every state, table t and row that awaits its commit, n being the step committed and u the state without the
row's contributions of that step, as the row's accesses from its die find it; it has its effect when none of them
meets a channel or coupling under retrain. With contributions and the row stored here, the row is read and written
with their FP32 sum in order. A row free of poison whose LAST_STEP is before n, and whose new values are all finite,
is written and counted in EMB_UPD_ROW_CNT; one that holds n or later is left alone, counted in EMB_DUP_COMMIT_CNT
with its event; one whose new value is not finite is left alone, counted in EMB_UPD_NONFINITE_CNT with its event. -/
def Obligations.RowsCommitted : Prop :=
  ∀ (s : State) (t row : Nat) (tb : Table) (c : Contrib) (cs : List Contrib) (a : Nat), table s t = some tb →
    tb.committing.contains row = true →
    let n := s.pool.commitStep
    let v := setTable t { tb with committing := tb.committing.filter (fun r => r != row) } (rowBegun (rowDie s tb row) s)
    let u : State := { v with pool := { v.pool with
      contribs := s.pool.contribs.filter (fun c => !(c.table == t && c.row == row && c.step == n)) } }
    rowContribs s t row n = c :: cs → commitAddr u tb row = some a →
    let x := homeRead false a (rowStride tb.payload) u
    let last := lastStep (rowHeader tb.payload x.1)
    let sum := cs.foldl (fun x d => List.zipWith add32 x d.elems) c.elems
    x.2.1.any id = false →
    (last ≠ max64 → n ≤ last → takesEffect (.embRowCommit t row) s
      (raise Ev.embDupCommit (srcOf 11 t) [] (bump Cnt.embDupCommit 0 1 x.2.2)))
    ∧ ((last = max64 ∨ last < n) →
      (updatedRow tb (hyperAt tb n) (jobId x.2.2) t row n sum x.1 = none → takesEffect (.embRowCommit t row) s
        (raise Ev.embNonfinite (srcOf 11 t) [] (bump Cnt.embUpdNonfinite 0 1 x.2.2)))
      ∧ ∀ new, updatedRow tb (hyperAt tb n) (jobId x.2.2) t row n sum x.1 = some new →
        takesEffect (.embRowCommit t row) s (bump Cnt.embUpdRow 0 1 (commitWrite a new x.2.2)))

/-- For every state, source and slot c that performs the command, p being its payload and t its table number. CREATE
that passes R230 makes the table with its region and raises EV_EMB_TABLE; DESTROY of a table unbinds it, removes its
regions and itself and raises EV_EMB_TABLE. WRITE_ROWS and READ_ROWS of rows homed here first write pending updates;
a row that is not names its position with ST_BAD_PARAM and nothing changes. SET_HYPER with values in range applies
from the later of its step and the first open one. MIGRATE of a row homed here to another member is queued. DIR_READ
and INFO answer from the state. GTH_CONFIG in range takes effect at the next job and GTH_INFO answers what was set. -/
def Obligations.TableCommands : Prop :=
  ∀ (s : State) (src : CmdSrc) (c : Slot),
    let p := c.payload
    let t := field p 0 16
    (performs s src 0x0600 c → createOk p = true → table s t = none →
      waysFit s (waysFor (jobMib s).1 (jobMib s).2 (dirEntriesAll s + field p 160 32)) = true →
      ∀ id u, tableRegion p s = some (id, u) → exec (.cmdEmbTableCreate src) s = .next (recorded src c (okWith [])
        (raise Ev.embTable (srcOf 11 t) [] (reserveWays (setTable t (freshTable p id) u)))))
    ∧ (performs s src 0x0600 c → createOk p = false →
      exec (.cmdEmbTableCreate src) s = .next (recorded src c (failWith St.badParam 1) s))
    ∧ (∀ tb, table s t = some tb →
      (performs s src 0x0600 c → createOk p = true →
        exec (.cmdEmbTableCreate src) s = .next (recorded src c (failWith St.inUse 2) s))
      ∧ (performs s src 0x0601 c → field p 16 16 = 0 →
        let drop := fun (r : Option Nat) (s : State) => match r with
          | some id => destroyRegion id s
          | none => s
        let u := tb.heirs.foldl (fun s h => drop h.region s) (drop tb.region (unbind t s))
        exec (.cmdEmbTableDestroy src) s = .next (recorded src c (okWith []) (raise Ev.embTable (srcOf 11 t) []
          (reserveWays { u with pool := { u.pool with tables := mapDel u.pool.tables t } }))))
      ∧ (
        let w := 8 + rowStride tb.payload
        let n := field p 32 32
        (performs s src 0x0602 c → field p 16 16 = 0 → p.length ≤ 524288 →
          (firstForeign s tb p w n = none → takesEffect (.cmdEmbWriteRows src) s (recorded src c (okWith [])
            ((List.range n).foldl (fun s k => match rowAddr s tb (entryRow p w k) with
              | some a => homeWrite a (slice p (8 + w * k + 8) (w - 8)) s
              | none => s) (commitTable t (rowBegun 0 s)))))
          ∧ ∀ k, firstForeign s tb p w n = some k →
            takesEffect (.cmdEmbWriteRows src) s (recorded src c (badEntry k) (rowBegun 0 s)))
        ∧ (performs s src 0x0603 c → field p 16 16 = 0 → n * w ≤ 524288 →
          (firstForeign s tb p 8 n = none →
            let x := (List.range n).foldl (fun acc k => rowEntry tb acc (entryRow p 8 k))
              ([], commitTable t (rowBegun 0 s))
            takesEffect (.cmdEmbReadRows src) s (recorded src c (okWith x.1) x.2))
          ∧ ∀ k, firstForeign s tb p 8 n = some k →
            takesEffect (.cmdEmbReadRows src) s (recorded src c (badEntry k) (rowBegun 0 s))))
      ∧ (performs s src 0x0604 c → field p 16 48 = 0 → finite32 p 64 true = true → finite32 p 96 true = true →
        finite32 p 128 false = true →
        let word := fun lo => BitVec.ofNat 32 (field p lo 32)
        let e : Nat × HyperSet := (Nat.max (field p 160 64) (if s.job.isSome then s.step else 0), { lr := word 64, wd := word 96, gs := word 128 })
        exec (.cmdEmbSetHyper src) s = .next (recorded src c (okWith [])
          (setTable t { tb with hyperNext := tb.hyperNext ++ [e] } s)))
      ∧ (performs s src 0x0605 c → field p 28 36 = 0 → tb.migEnable = true → field p 64 64 < tb.rows →
        tb.home (field p 64 64) = pkgNo s → field p 16 12 ≠ pkgNo s → isMember s (field p 16 12) = true →
        exec (.cmdEmbMigrate src) s = .next (recorded src c (okWith [])
          (setTable t { tb with queued := tb.queued ++ [(field p 64 64, field p 16 12)] } s)))
      ∧ (performs s src 0x0606 c → field p 16 16 = 0 → 1 ≤ field p 64 32 → field p 64 32 ≤ 32768 →
        exec (.cmdEmbDirRead src) s = .next (recorded src c
          (okWith (((tb.dir.drop (field p 32 32)).take (field p 64 32)).flatMap (fun e =>
            pack 16 [(0, 40, e.row), (40, 12, e.home), (64, 32, e.slot)]))) s))
      ∧ (performs s src 0x0607 c → field p 16 16 = 0 →
        let hy := hyperAt tb (if s.job.isSome then s.step else 0)
        let b := splice (splice (splice tb.payload 24 (toLE 4 hy.lr.toNat)) 40 (toLE 4 hy.wd.toNat)) 44
          (toLE 4 hy.gs.toNat)
        exec (.cmdEmbInfo src) s = .next (recorded src c (okWith (padTo 576 b ++ pack 24 [
          (0, 32, rowStride tb.payload),
          (32, 32, if tb.homes.contains (pkgNo s) then tb.migSlots - tb.usedSlots.length else 0),
          (64, 64, localRows tb.payload tb.homes (pkgNo s)), (128, 32, tb.dir.length), (160, 1, bit tb.bind.isSome),
          (161, 1, bit (tb.bind == some true))])) s)))
    ∧ (performs s src 0x0500 c →
      (∀ g, gthCfgOf p = some g → exec (.cmdGthConfig src) s = .next (recorded src c (okWith [])
        { s with pool := { s.pool with gthCfgNext := g } }))
      ∧ (gthCfgOf p = none → exec (.cmdGthConfig src) s = .next (recorded src c (failWith St.badParam 0) s)))
    ∧ (performs s src 0x0501 c → let g := s.pool.gthCfgNext
      exec (.cmdGthInfo src) s = .next (recorded src c (okWith (pack 8 [(0, 8, g.hotReads), (8, 8, g.replicaMib),
        (16, 16, g.spillMib), (32, 16, g.timeoutUs)])) s))

/-- For every context x and array a of a logical core that the device has, and every state. An MMA of a task free to
issue reads its descriptor, poison consumed being counted: on an array whose queue holds eight it waits to issue;
one that meets a reason of R274 is counted as an instruction and a bad one, its context keeps the reason and
EV_MX_BAD_INSTR is raised; any other is queued with its descriptor, formats and number, and its tiles execute at
once where the queue was empty. The instruction at the head whose sampled tiles have settled computes its rows,
writes accumulators and OUT, is counted and leaves the queue; waiting contexts go on. Until they settle nothing
changes. MX_WAIT waits while an MMA of its own context is queued. TENSOR_SET with a valid image makes a new entry
and clears the tensor's counters, with an all-zero image it empties the entry, and a bad one is refused with its
check; TENSOR_INFO answers. -/
def Obligations.MatrixInstructions : Prop :=
  ∀ (lc x a : Nat) (s : State), lc < nLc s → x < 4 → a < 2 →
    (∀ desc faults t, (ctx s lc x).task = some t → (ctx s lc x).wait = .none → (ctx s lc x).suspending = false →
      let r := coreRead lc desc 128 s
      let d := r.1
      let u := consumePoison lc r.2.1 r.2.2
      let e := engKey lc (mmArray d)
      let g := engine u e
      let fmts := mmFmts u d
      let reason := mmReason u lc d fmts
      (8 ≤ g.queue.length → exec (.mma lc x desc faults) s =
        .next (setCtx lc x { ctx u lc x with wait := .issue (.mma lc x desc faults) } u))
      ∧ (g.queue.length < 8 → reason ≠ 0 →
        let n := 2 * lc + mmArray d
        let v := setCtx lc x { ctx u lc x with mxBad := reason } u
        exec (.mma lc x desc faults) s = .next (raise Ev.mxBadInstr (srcOf 4 (4 * lc + x))
          (pack 8 [(0, 8, reason), (8, 1, mmArray d)]) (bump Cnt.mxBadInstr n 1 (bump Cnt.mxInstr n 1 v))))
      ∧ (g.queue.length < 8 → reason = 0 →
        let i : EngInst :=
          { no := u.eng.nextNo
            x := x
            task := t
            desc := d
            fmts := fmts
            fexp := mmFexp u d fmts
            mark := u.mem.written.length
            accMark := u.eng.accWritten.length
            faults := faults }
        let w := setEngine e { g with queue := g.queue ++ [i] } u
        let v : State := { w with eng := { w.eng with nextNo := w.eng.nextNo + 1 } }
        (g.queue = [] → exec (.mma lc x desc faults) s = .next (runTiles e (mmTiles d fmts) faults v))
        ∧ (g.queue ≠ [] → exec (.mma lc x desc faults) s = .next v)))
    ∧ (∀ i rest busy stallA stallB wait, let e := engKey lc a
      (engine s e).queue = i :: rest →
      (tilesSettled s e = false → exec (.mmaRetire lc a busy stallA stallB wait) s = .next s)
      ∧ (tilesSettled s e = true →
        let fa := mmA lc i s
        let fb := mmB lc i fa.2
        let g := engine fb.2 e
        let rows := mmRows g i fa.1 fb.1
        let u := setEngine e { writeAcc g i rows with queue := rest } fb.2
        let v : State := { u with eng := { u.eng with
          accWritten := (e, mmAccRow i.desc, mmM i.desc, i.x) :: u.eng.accWritten } }
        exec (.mmaRetire lc a busy stallA stallB wait) s = .next (finishEnding lc (wakeArray lc a (mmStart e
          (countMma lc a busy stallA stallB wait i (sumNat ((rows.flatMap id).map (fun x => x.made)))
            (sumNat ((rows.flatMap id).map (fun x => x.over'))) (writeOut lc i rows v)))))))
    ∧ ((ctx s lc x).task ≠ none → (ctx s lc x).wait = .none → (ctx s lc x).suspending = false →
      (queuedFor s (engKey lc a) x = true → exec (.mxWait lc x a) s =
        .next (setCtx lc x { ctx s lc x with wait := .array a } s))
      ∧ (queuedFor s (engKey lc a) x = false → exec (.mxWait lc x a) s = .next s))
    ∧ ∀ src c, let p := c.payload
      let tid := field p 0 12
      let b := slice p 8 64
      let clear := fun (s : State) => { s with ctr := s.ctr.filter (fun e => !([Cnt.mxConv, Cnt.mxSat, Cnt.mxUfl, Cnt.mxNonfinite, Cnt.mxEfReset].any (fun id => e.1 == ctrKey id tid))) }
      (performs s src 0x0700 c → tid ≠ 4095 → field p 12 52 = 0 → leNat b = 0 → exec (.cmdMxTensorSet src) s =
        .next (recorded src c (okWith []) (clear { s with eng := { s.eng with tensors := mapDel s.eng.tensors tid } })))
      ∧ (performs s src 0x0700 c → leNat b ≠ 0 →
        (tensorBad s p = 0 → exec (.cmdMxTensorSet src) s = .next (recorded src c (okWith [])
          (clear { s with eng := { s.eng with tensors := mapSet s.eng.tensors tid (newTensor b) } })))
        ∧ (tensorBad s p ≠ 0 → exec (.cmdMxTensorSet src) s =
          .next (recorded src c (failWith St.badParam (tensorBad s p)) s)))
      ∧ (performs s src 0x0701 c → tid ≠ 4095 → field p 12 52 = 0 →
        let t := mapGetD s.eng.tensors tid emptyTensor
        exec (.cmdMxTensorInfo src) s = .next (recorded src c (okWith (tensorImage t ++ Sys2Proof.Config.tensorInfoTail
          (tensorCounters.map (fun id => ctrGet s id tid)) t.lastConv t.lastSats)) s))

/-- For every context x of a logical core that the device has, every state and every vector instruction of a task free
to issue: with another context holding the engine, or eight instructions queued, it waits to issue. Otherwise its
descriptor is read: one that meets a reason of R309 is counted as an instruction and a bad one, its context keeps
the reason and EV_VE_BAD_INSTR is raised; any other whose OP is the instruction's is queued with descriptor, formats
and number, its context holds the engine, and its tiles execute at once where the queue was empty. The instruction
at the head, its sampled tiles settled and no MMA awaited, takes its effect, leaves the queue and is counted; the
engine is free of its holder when nothing is left. Until then nothing changes. VE_WAIT waits while an instruction of
its own context is queued. -/
def Obligations.VectorInstructions : Prop :=
  ∀ (lc x : Nat) (s : State), lc < nLc s → x < 4 →
    let e := engKey lc 2
    let g := engine s e
    (∀ op desc faults i t, ((op = 0 ∧ i = .elem lc x desc faults) ∨ (op = 1 ∧ i = .perm lc x desc faults)
        ∨ (op = 2 ∧ faults = [] ∧ i = .move lc x desc)) →
      (ctx s lc x).task = some t → (ctx s lc x).wait = .none → (ctx s lc x).suspending = false →
      (((∃ y, g.holder = some y ∧ y ≠ x) ∨ 8 ≤ g.queue.length) →
        exec i s = .next (setCtx lc x { ctx s lc x with wait := .issue i } s))
      ∧ ((g.holder = none ∨ g.holder = some x) → g.queue.length < 8 →
        let r := coreRead lc desc 256 s
        let d := r.1
        let fmts := veFmts s d
        let reason := veReason s lc d fmts
        let u := consumePoison lc r.2.1 r.2.2
        (veOp d = op ∨ 2 < veOp d) →
        (reason ≠ 0 → exec i s = .next (raise Ev.veBadInstr (srcOf 4 (4 * lc + x))
          (pack 8 [(0, 8, reason), (8, 16, 4 * lc + x)]) (bump Cnt.veBadInstr lc 1 (bump Cnt.veInstr lc 1
            (setCtx lc x { ctx u lc x with veBad := reason } u)))))
        ∧ (reason = 0 →
          let q : EngInst :=
            { no := u.eng.nextNo
              x := x
              task := t
              desc := d
              fmts := fmts
              fexp := 0
              mark := u.mem.written.length
              accMark := u.eng.accWritten.length
              faults := faults }
          let w := setEngine e { g with queue := g.queue ++ [q], holder := some x } u
          let v : State := { w with eng := { w.eng with nextNo := w.eng.nextNo + 1 } }
          (g.queue = [] → exec i s = .next (runTiles e (veTiles d) faults v))
          ∧ (g.queue ≠ [] → exec i s = .next v))))
    ∧ (∀ q rest busy drain wait, g.queue = q :: rest →
      (tilesSettled s e = false ∨ waitsForMma s lc q = true → exec (.veRetire lc busy drain wait) s = .next s)
      ∧ (tilesSettled s e = true → waitsForMma s lc q = false →
        let u := if veOp q.desc = 2 then moveS lc q s else passS lc q s
        let h := engine u e
        let v := setEngine e { h with queue := rest, holder := if rest = [] then none else h.holder } u
        let w := bump Cnt.veBusyCclk lc busy (bump Cnt.veDrainCclk lc drain (bump Cnt.veInstr lc 1 v))
        exec (.veRetire lc busy drain wait) s = .next (finishEnding lc (wakeVector lc (veStart lc
          (bump Cnt.chkRetireWaitCclk lc wait w))))))
    ∧ ((ctx s lc x).task ≠ none → (ctx s lc x).wait = .none → (ctx s lc x).suspending = false →
      (queuedFor s e x = true → exec (.veWait lc x) s = .next (setCtx lc x { ctx s lc x with wait := .vector } s))
      ∧ (queuedFor s e x = false → exec (.veWait lc x) s = .next s))

/-- For every context x of a logical core that the device has, line l and state, the context's task being free to issue.
One that meets a reason of R328 changes no line: its context has status 2 in SIG_LAST, whose VALUE is free, and the
reason in SIG_LAST_BAD, and it is counted with its event. Otherwise: SIG_SET and SIG_CLR set and clear the core's
contribution and nothing else of the line; SIG_ARRIVE with room counts one arrival and writes the target generation
to its destination register, and without room stalls, counted; SIG_WAIT counts, and completes at once where the line
meets the value, the core's non-pooled prefetch lines being emptied, or waits with its deadline; SIG_READ writes the
line's value or generation to its destination register. -/
def Obligations.SignalInstructions : Prop :=
  ∀ (lc x l : Nat) (s : State) (t : Task), lc < nLc s → x < 4 → (ctx s lc x).task = some t →
    (ctx s lc x).wait = .none → (ctx s lc x).suspending = false →
    let g := sigLine s l
    let c := ctx s lc x
    let why := sigReason s lc l t.cls
    let done := fun (v : Nat) (dest : Option Nat) (u : State) =>
      setCtx lc x { c with
        sigLast := packLast 0 l v
        regs := match dest with
          | some r => mapSet c.regs r v
          | none => c.regs } u
    (∀ op i, ((op = .set ∧ i = .sigSet lc x l) ∨ (op = .clr ∧ i = .sigClr lc x l)
        ∨ (∃ r, op = .arrive ∧ i = .sigArrive lc x l r) ∨ (∃ v o, op = .wait v ∧ i = .sigWait lc x l v o)
        ∨ (∃ r, op = .read ∧ i = .sigRead lc x l r)) → why op ≠ 0 →
      let v := freeVal 65536 s
      exec i s = .next (raise Ev.sigBadInstr (srcOf 4 (4 * lc + x))
        (pack 8 [(0, 8, why op), (8, 8, l), (16, 16, 4 * lc + x)]) (bump Cnt.sigBadInstr lc 1
          (setCtx lc x { ctx v.2 lc x with sigLast := packLast 2 l v.1, sigBad := why op } v.2))))
    ∧ (why .set = 0 → exec (.sigSet lc x l) s = .next (done (lastValue g) none (setLine l
        { g with contrib := if g.contrib.testBit lc then g.contrib else g.contrib + 2 ^ lc } s)))
    ∧ (why .clr = 0 → exec (.sigClr lc x l) s = .next (done (lastValue g) none (setLine l
        { g with contrib := if g.contrib.testBit lc then g.contrib - 2 ^ lc else g.contrib } s)))
    ∧ (∀ r, why .arrive = 0 →
      let n := mapGetD g.counts lc 0
      let k := sgExpect g.cfg lc
      (n < 2 * k → exec (.sigArrive lc x l r) s = .next (done ((g.gen + 1 + n / k) % 65536) (some r)
        (setLine l { g with counts := mapSet g.counts lc (n + 1) } s)))
      ∧ (2 * k ≤ n → exec (.sigArrive lc x l r) s =
        .next (bump Cnt.sigArriveStall lc 1 (setCtx lc x { c with wait := .arrive l r s.now } s))))
    ∧ (∀ value timeout, why (.wait value) = 0 →
      (lineMeets g value = true → exec (.sigWait lc x l value timeout) s =
        .next (emptyNonPooled lc (done (lastValue g) none (bump Cnt.sigWait lc 1 s))))
      ∧ (lineMeets g value = false →
        let deadline := if timeout = 0 then none else some (s.now + timeout)
        exec (.sigWait lc x l value timeout) s =
          .next (setCtx lc x { c with wait := .sig l value s.now deadline } (bump Cnt.sigWait lc 1 s))))
    ∧ (∀ r, why .read = 0 → exec (.sigRead lc x l r) s = .next (done (lastValue g) (some r) s))

/-- For every context x of a logical core that the device has, every BARRIER line l and state, the context's task being
free to issue and the instruction good: SIG_WAIT with value g completes at once exactly when (G - g) mod 2^16 is
less than 2^15, and otherwise its context waits; a waiting context meets its line exactly in that case. SIG_READ
writes G to its destination register. -/
def Obligations.BarrierWaitsAndReads : Prop :=
  ∀ (lc x l : Nat) (s : State) (t : Task), lc < nLc s → x < 4 → (ctx s lc x).task = some t →
    (ctx s lc x).wait = .none → (ctx s lc x).suspending = false → field (sigLine s l).cfg 8 2 = 2 →
    (∀ g timeout, g < 65536 → sigReason s lc l t.cls (.wait g) = 0 →
      ∃ u, exec (.sigWait lc x l g timeout) s = .next u
        ∧ ((ctx u lc x).wait = .none ↔ ((((sigLine s l).gen : Int) - g) % 65536 < 32768))
        ∧ ((ctx u lc x).wait ≠ .none → ∃ t0 fin, (ctx u lc x).wait = .sig l g t0 fin))
    ∧ (∀ v g t0 fin, g < 65536 → field (sigLine v l).cfg 8 2 = 2 → (ctx v lc x).wait = .sig l g t0 fin →
      (waitMet v lc x = true ↔ ((((sigLine v l).gen : Int) - g) % 65536 < 32768)))
    ∧ (∀ r, sigReason s lc l t.cls .read = 0 →
      ∃ u, exec (.sigRead lc x l r) s = .next u ∧ mapGet (ctx u lc x).regs r = some (sigLine s l).gen)

/-- For every state. SIG_VALUE_REGISTER forms each line in ascending number, a job-scope line through the tree, and a
package-scope line from its participants, a BARRIER that is complete beginning its next generation, counted; then
waits are judged. A report from a child of this epoch and step is kept and the line combined again; a value from the
parent is applied and goes on; waits are judged. A message of an older epoch or step is dropped, counted. The
credits of a message's port go back. A stalled arrival with room again is registered and its context goes on. At a
wait's deadline the lines are registered too; one that is still not met ends with status 1, counted with its event.
A core that a fence has stopped keeps its waits. SIG_CONFIG that passes R326 sets the line's next configuration and
raises its event; one that fails names its check and changes nothing; SIG_INFO answers. -/
def Obligations.SignalLinesMove : Prop :=
  ∀ (s : State),
    (
      let form := fun (s : State) (l : Nat) =>
        let g := sigLine s l
        let v := pkgLineValue s g
        let u := setLine l { g with value := v } s
        if sgJob g.cfg then combineLine l s
        else if v ∧ sgMode g.cfg = 2 then bump Cnt.sigGen l 1 (setLine l { g with
            value := v
            gen := (g.gen + 1) % 65536
            counts := mapVals (fun c k => k - sgExpect g.cfg c) g.counts } u)
        else u
      exec .sigValueRegister s = .next (judgeWaits ((List.range 31).foldl form s)))
    ∧ (∀ h l value, let g := sigLine s l
      (current s (.sigUp h l value) h → sgMode g.cfg ≠ 0 → sgJob g.cfg = true → exec (.sigUp h l value) s =
        .next (returnCredits (.sigUp h l value) h
          (judgeWaits (combineLine l (setLine l { g with children := mapSet g.children h.src value } s)))))
      ∧ (addressed s (.sigUp h l value) h → (h.epoch < epochOf s → exec (.sigUp h l value) s =
          .next (returnCredits (.sigUp h l value) h (bump Cnt.sigStaleEpochDrop 0 1 s)))
        ∧ (epochOf s ≤ h.epoch → h.step < stepOf s → exec (.sigUp h l value) s =
          .next (returnCredits (.sigUp h l value) h (bump Cnt.sigStaleStepDrop 0 1 s)))))
    ∧ (∀ h l value, let g := sigLine s l
      current s (.sigDown h l value) h → sgMode g.cfg ≠ 0 → sgJob g.cfg = true →
      let u := if sgMode g.cfg = 2 then completeGen l s else setLine l { g with value := value == 1 } s
      exec (.sigDown h l value) s = .next (returnCredits (.sigDown h l value) h (judgeWaits (broadcastSig l value u))))
    ∧ (∀ lc x l r since, lc < nLc s → x < 4 → (ctx s lc x).wait = .arrive l r since → underCopy s lc = false →
      mapGetD (sigLine s l).counts lc 0 < 2 * sgExpect (sigLine s l).cfg lc →
      let u := bump Cnt.sigWaitNs lc (s.now - since) s
      let v := registerArrival lc x l r (setCtx lc x { ctx s lc x with wait := .none } u)
      exec (.sigArriveRetry lc x) s = .next (if coreStopped s lc then bump Cnt.sigWake lc 1 v else v))
    ∧ (∀ lc x l value since time, lc < nLc s → x < 4 → (ctx s lc x).wait = .sig l value since (some time) →
      underCopy s lc = false →
      let u := registerLines (reachTime time s)
      ((ctx u lc x).wait = .none → exec (.sigWaitTimeout lc x) s = .next u)
      ∧ ((ctx u lc x).wait = .sig l value since (some time) →
        let v := bump Cnt.sigWaitNs lc (u.now - since) u
        let w := setCtx lc x { ctx u lc x with wait := .none, sigLast := packLast 1 l (lastValue (sigLine u l)) } v
        let y := raise Ev.sigTimeout (srcOf 4 (4 * lc + x)) [] (bump Cnt.sigWaitTimeout lc 1 w)
        exec (.sigWaitTimeout lc x) s = .next (if coreStopped u lc then bump Cnt.sigWake lc 1 y else y)))
    ∧ ∀ src c,
      (performs s src 0x0A00 c →
        let b := sigConfigBad s c.payload
        let l := field c.payload 0 5
        (b = 0 → exec (.cmdSigConfig src) s = .next (recorded src c (okWith []) (raise Ev.sigConfig 0 (pay64 l)
          (setLine l { sigLine s l with next := some (slice c.payload 0 40) } s))))
        ∧ (b ≠ 0 → exec (.cmdSigConfig src) s = .next (recorded src c (failWith St.badParam b) s)))
      ∧ (performs s src 0x0A01 c → exec (.cmdSigInfo src) s =
        .next (recorded src c (okWith (sigInfoBytes s)) s))

/-- For every requester r that the device has and every state. An access of a fenced core is discarded at its port and
counted. An access to this package that a retraining channel, a coupling on its way, or an earlier access of the
same unit, class and die that waits, holds back, waits behind those that wait. Otherwise, with the address that R478
aims at, u being the state after what the codes found: a read that R349 does not allow answers zero bytes with every
sector marked and is counted; one of a region without a table answers the bytes and marks of its home, or of the
core's prefetch lines, counts marks consumed, and changes no byte. A write that is not allowed changes nothing but
its count; one to the bridge window only raises PKG_MTR_BRIDGE_WR_CNT; one to scratchpad or to a region that is not
pooled changes exactly its own bytes, those of failed channels excepted; one by a program to a pooled region is
staged, unless the package sits out; one to another package goes out in pieces of whole sectors. A read of another
package's memory that is out of range or whose package is no member fails. A unit reads and writes bytes of its own
core's operand cache alone. -/
def Obligations.MemoryReadsAndWrites : Prop :=
  ∀ (r : Requester) (g : Nat) (s : State), requesterIn s r = true →
    let b := aimed s g
    let a := gLocal b
    let own := fun (i : Instr) n =>
      gPkg g = pkgNo s ∧ (accessBlocked s (requesterDie s r) (gLocal g) n = true ∨ behindWaiting s i = true)
    let fence := (requesterLc r).bind (mapGet s.chk.movedFrom)
    let counted := fun (u : State) => match requesterLc r with
      | some lc => raise Ev.memBadAddr (srcOf 3 lc) [] (bump Cnt.memBadAddr lc 1 u)
      | none => u
    let consumed := fun k (u : State) => match r with
      | .core lc (.ctx _) | .core lc .vector =>
        if k = 0 then u
        else raiseAll Ev.memPoisonConsume (List.replicate k (srcOf 3 lc)) (bump Cnt.memPoisonConsume lc k u)
      | _ => u
    let bytes := fun (u : State) (y : Nat) => cellByte u.mem.cells y
    (∀ n found, let i := Instr.memoryReadRequest r g n found
      let u := applyFindings (findingsOf r b n found) s
      let refused : State := setReply r
        { base := b, data := zeros n, poison := List.replicate (sectorCount b n) true, bad := true, pending := 0 } (counted u)
      (∀ k, fence = some k → exec i s = .next (bump Cnt.fncDiscard k 1 s))
      ∧ (fence = none → g < 2 ^ 54 →
        (own i n → exec i s = .next { s with mem := { s.mem with waiting := s.mem.waiting ++ [i] } })
        ∧ (¬ own i n → gPkg b = pkgNo s → b < 2 ^ 54 →
          (accessOk u r false a n = false → exec i s = .next refused)
          ∧ (accessOk u r false a n = true → a < bridgeBase → (∀ e, regionAt u a = some e → e.2.table = none) →
            let x := match requesterLc r with
              | some lc => demandRead lc a n u
              | none => homeRead false a n u
            let m := if scratchBase ≤ a then maskHeld ((a - scratchBase) % scratchBytes) x.1 x.2.2 else (x.1, x.2.2)
            let w := setReply r { base := b, data := m.1, poison := x.2.1, bad := false, pending := 0 }
              (consumed (countIf id x.2.1) m.2)
            exec i s = .next w ∧ ∀ y, bytes w y = bytes s y)
          ∧ (∀ e t tb, accessOk u r false a n = true → regionAt u a = some e → e.2.table = some t → table u t = some tb →
            exec i s = .next (readTable r b n t e.2.base tb u))
          ∧ (accessOk u r false a n = true → bridgeBase ≤ a → (∀ e, regionAt u a = some e → e.2.table = none) →
            ∃ w, exec i s = .next w
            ∧ mapGet w.mem.replies (requesterKey r) = some
              { base := b
                data := winRead u.win (a - bridgeBase) n
                poison := List.replicate (sectorCount a n) false
                bad := false
                pending := 0 }
            ∧ ∀ y, bytes w y = bytes s y))
        ∧ (¬ own i n → gPkg b ≠ pkgNo s → b < 2 ^ 54 →
          (2 ^ 41 < a + n → exec i s = .next refused)
          ∧ (a + n ≤ 2 ^ 41 → isMember u (gPkg b) = false → ∃ w, exec i s = .next w
            ∧ mapGet w.mem.replies (requesterKey r) = some
              { base := b
                data := zeros n
                poison := List.replicate (sectorCount b n) true
                bad := false
                pending := 0 }
            ∧ ∀ y, bytes w y = bytes s y)
          ∧ (a + n ≤ 2 ^ 41 → isMember u (gPkg b) = true → ∃ w, exec i s = .next w ∧ ∀ y, bytes w y = bytes s y)))
      ∧ (fence = none → 2 ^ 54 ≤ g →
        let v := applyFindings (findingsOf r g n found) s
        let c := g - 2 ^ 54
        (∀ lc, opReacher r = some lc → inOpCache c n = true → n ≠ 0 →
          let x := opRead v lc c n
          exec i s = .next (setReply r { base := g, data := x.1, poison := x.2, bad := false, pending := 0 }
            (consumed (countIf id x.2) v)))
        ∧ ((opReacher r = none ∨ inOpCache c n = false ∨ n = 0) → exec i s = .next (setReply r
          { base := g, data := zeros n, poison := List.replicate (sectorCount g n) true, bad := true, pending := 0 }
          (counted v)))))
    ∧ (∀ data, let i := Instr.memoryWriteRequest r g data
      (∀ k, fence = some k → exec i s = .next (bump Cnt.fncDiscard k 1 s))
      ∧ (fence = none → g < 2 ^ 54 →
        (own i data.length → exec i s = .next { s with mem := { s.mem with waiting := s.mem.waiting ++ [i] } })
        ∧ (¬ own i data.length → gPkg b = pkgNo s → b < 2 ^ 54 →
          let v := match requesterLc r with
            | some lc =>
              let v := snoopWrite lc a data.length s
              if scratchBase ≤ a then noteWrite 0 a data.length 0 v else v
            | none => s
          (accessOk s r true a data.length = false → exec i s = .next (counted s))
          ∧ (accessOk s r true a data.length = true → bridgeBase ≤ a →
            exec i s = .next (bump Cnt.pkgMtrBridgeWr 0 1 s))
          ∧ (accessOk s r true a data.length = true → a < bridgeBase →
            (∀ e, regionAt s a = some e → e.2.pooled = true → r = .stationmaster) →
            exec i s = .next (homeWrite a data v)
            ∧ ∀ y, bytes (homeWrite a data v) y =
              if a ≤ y ∧ y < a + data.length ∧ sectorFailed s (y / 32) = false then data.getD (y - a) 0 else bytes s y)
          ∧ (∀ e lc, accessOk s r true a data.length = true → a < bridgeBase → regionAt s a = some e →
            e.2.pooled = true → requesterLc r = some lc →
            ((∃ j, s.job = some j ∧ j.sittingOut = true) → exec i s = .next s)
            ∧ ((∀ j, s.job = some j → j.sittingOut = false) →
              let w := wholeSectors a data v
              let t := (poolPieces w.1 w.2.1.length).foldl
                (fun s e => stageHere e.1 false (slice w.2.1 (e.1 - w.1) e.2) [] s) w.2.2
              exec i s = .next t ∧ ∀ y, bytes t y = bytes s y)))
        ∧ (¬ own i data.length → gPkg b ≠ pkgNo s → b < 2 ^ 54 →
          ((2 ^ 41 < a + data.length ∨ data = []) → exec i s = .next (counted s))
          ∧ (a + data.length ≤ 2 ^ 41 → data ≠ [] →
            ((∃ j, s.job = some j ∧ j.sittingOut = true) → exec i s = .next s)
            ∧ ((∀ j, s.job = some j → j.sittingOut = false) →
              let w := wholeSectors a data s
              let t := (poolPieces w.1 w.2.1.length).foldl (fun s e => (sendReq (gPkg b) (.write (requesterLc r))
                (fun h => .poolStore h e.1 (slice w.2.1 (e.1 - w.1) e.2)) s).1) w.2.2
              exec i s = .next t ∧ ∀ y, bytes t y = bytes s y))))
      ∧ (fence = none → 2 ^ 54 ≤ g →
        let c := g - 2 ^ 54
        (∀ lc, opReacher r = some lc → inOpCache c data.length = true → data ≠ [] →
          exec i s = .next (opWrite lc c data { s with mem := { s.mem with
            written := (lc + 1, c, data.length, 0) :: s.mem.written } }))
        ∧ ((opReacher r = none ∨ inOpCache c data.length = false ∨ data = []) → exec i s = .next (counted s))))

/-- For every state. A pending line that is idle for 2 us goes to the depot; a prefetch fill arrives with its bytes and
marks; a scrub of a channel in service takes its findings, in its regions and in its frames outside them. A channel
in service begins to retrain, counted with its event; when that completes, it is up and what waited is tried again;
10 ms after its start it has failed, its pending and dirty lines and the writes that waited are discarded, it is
counted, raises EV_MEM_CH_FAIL and enters the soft fault map, and what waited is tried again. A temperature report
steps its stack. ALLOC that passes R377 makes a region of zero bytes free of poison; FREE of a region that nothing
names destroys it; WRITE changes exactly its bytes, those of failed channels excepted, READ changes none and answers
bytes and marks; a fill, WRITE and READ wait for a channel or coupling under retrain. REGIONS, STATUS and MARGIN
answer; CONFIG in range sets the thermal parameters now and the rest for the next job; RETRAIN of an up channel
begins it, and of a failed one is only counted. A failing field answers ST_BAD_PARAM and changes nothing. -/
def Obligations.MemoryEventsAndCommands : Prop :=
  ∀ s : State,
    (∀ l rest, takeFirst (fun x : WcbLine => x.line == l.line) s.mem.wcb = some (l, rest) →
      (∀ p, chanAt s (l.line * 64) = some p → chanState s p = .up) →
      exec (.wcbIdleFlush l.line) s = .next (flushLine l (reachTime (l.last + 2000) s)))
    ∧ (∀ lc g, lc < nLc s → (stagingOf s lc).any (fun l => l.granule == g && !l.ready) = true →
      let r := homeRead true (g * 256) 256 (rowBegun (lcDie s lc) s)
      takesEffect (.prefetchFill lc g) s (setStaging lc ((stagingOf r.2.2 lc).map (fun l =>
        if l.granule = g then { l with ready := true, data := r.1, poison := r.2.1 } else l)) r.2.2))
    ∧ (∀ p found, p < nChans s → chanIn s p = true → chanState s p = .up →
      exec (.patrolScrub p found) s = .next (found.foldl (fun s f => match chanAt s (findingAddr f) with
        | some q => if q = p then applyFinding f s else s
        | none => match f with
          | .onDie _ => bump Cnt.memOdecc p 1 s
          | .correctable _ => bump Cnt.memCe p 1 s
          | .uncorrectable _ => raise Ev.memUe (srcOf 6 p) [] (bump Cnt.memUe p 1 s)
          | _ => s) s))
    ∧ (∀ p, p < nChans s → chanIn s p = true → chanState s p = .up → exec (.channelRetrainStart p) s =
      .next (raise Ev.memRetrain (srcOf 6 p) [] (bump Cnt.memRetrain p 1 { s with mem := { s.mem with
        chans := mapSet s.mem.chans p (.retraining s.now) } })))
    ∧ (∀ p since, p < nChans s → chanState s p = .retraining since →
      (
        let u : State := { s with mem := { s.mem with
          held := mapDel s.mem.held p
          chans := mapSet s.mem.chans p .up } }
        exec (.channelRetrainDone p) s = .next (finishAll (u.mem.waiting.foldl (fun s i =>
          if poolAccess i then rejudge s i else runAccess i s) { u with mem := { u.mem with waiting := [] } })))
      ∧ (
        let u := reachTime (since + 10000000) s
        let mineW := u.mem.wcb.filter (fun l => chanAt u (l.line * 64) == some p)
        let mineD := (depotLines u (p / 256)).filter (fun l => chanAt u (l.line * 128) == some p && l.dirty)
        let k := mineW.length + mineD.length + mapGetD u.mem.held p 0
        let v := setDepot (p / 256) ((depotLines u (p / 256)).filter (fun l => chanAt u (l.line * 128) != some p))
          { u with mem := { u.mem with
            wcb := u.mem.wcb.filter (fun l => chanAt u (l.line * 64) != some p)
            held := mapDel u.mem.held p } }
        let w := setChan p .failed (if k = 0 then v else bump Cnt.memChFailDrop p k v)
        let x := addSoft (softEntry 6 (p / 256) (p / 128) (p % 128) 0 false false w) w
        exec (.channelRetrainTimeout p) s = .next (finishAll (retryWaiting
          (raise Ev.memChFail (srcOf 6 p) [] (bump Cnt.memChFail 0 1 x))))))
    ∧ (∀ j temp, j < nStacks s → diesRun s = true →
      let u := telemetry 0x0002 j temp s
      let c := stackState s j
      let d := stackAt u.mem.cfg c temp
      let v := { u with mem := { u.mem with stk := mapSet u.mem.stk j d } }
      exec (.stackTempReport j temp) s =
        .next (if c.step = 0 ∧ 0 < d.step then raise Ev.memThrottle (srcOf 5 j) [] v else v))
    ∧ ∀ src c,
      let p := c.payload
      let a := field p 0 64
      let n := field p 64 32
      let id := field p 0 12
      let bytes := fun (u : State) (y : Nat) => cellByte u.mem.cells y
      let bad := failWith St.badParam 0
      (performs s src 0x0B00 c →
        let q := allocAsk p
        (allocFieldsOk s p = false → exec (.cmdMemAlloc src) s = .next (recorded src c (failWith St.badParam 1) s))
        ∧ (allocFieldsOk s p = true → (q.spread = true ∨ (dieSet s q.die).isSome = true) → s.mem.regions.length < 4096 →
          (createRegion q s = none → exec (.cmdMemAlloc src) s = .next (recorded src c (failWith St.noSpace 4) s))
          ∧ ∀ k r t, createRegion q s = some (k, r, t) →
            exec (.cmdMemAlloc src) s = .next (recorded src c (okWith (pack 24 [(0, 12, k), (12, 3, r.die),
              (15, 1, bit r.spread), (16, 1, bit r.far), (64, 64, r.base), (128, 64, r.size)])) t)
            ∧ mapGet t.mem.regions k = some r ∧ field p 0 64 ≤ r.size
            ∧ ∀ y, bytes t y = if r.base ≤ y ∧ y < r.base + r.size then 0 else bytes s y))
      ∧ (performs s src 0x0B01 c →
        (mapGet s.mem.regions id = none → exec (.cmdMemFree src) s = .next (recorded src c bad s))
        ∧ ∀ r, mapGet s.mem.regions id = some r → field p 12 4 = 0 → r.device = false →
          (regionNamed s r = true → exec (.cmdMemFree src) s = .next (recorded src c (failWith St.inUse 0) s))
          ∧ (regionNamed s r = false → exec (.cmdMemFree src) s =
            .next (recorded src c (okWith []) (destroyRegion id s))))
      ∧ (performs s src 0x0B02 c →
        let b := rowBegun 0 s
        (rangeOk s a n = none → takesEffect (.cmdMemWrite src) s (recorded src c bad b))
        ∧ ∀ r, rangeOk s a n = some r →
          (r.table.isSome = true → takesEffect (.cmdMemWrite src) s (recorded src c bad b))
          ∧ (r.table = none →
            let t := homeWrite a (slice p 12 n) b
            takesEffect (.cmdMemWrite src) s (recorded src c (okWith []) t)
            ∧ ∀ y, bytes t y = if a ≤ y ∧ y < a + n ∧ sectorFailed s (y / 32) = false then (slice p 12 n).getD (y - a) 0
                else bytes s y))
      ∧ (performs s src 0x0B03 c →
        let b := rowBegun 0 s
        (rangeOk s a n = none → takesEffect (.cmdMemRead src) s (recorded src c bad b))
        ∧ ∀ r, rangeOk s a n = some r →
          let u := match r.table with
            | some t => commitTable t b
            | none => b
          let x := homeRead false a n u
          (∀ e ∈ u.chk.guestRegions, mapGet u.mem.regions e ≠ some r) →
          takesEffect (.cmdMemRead src) s
            (recorded src c (okWith (x.1 ++ toLE (cdiv x.2.1.length 8) (bitmap x.2.1))) x.2.2)
          ∧ ∀ y, bytes x.2.2 y = bytes u y)
      ∧ (performs s src 0x0B04 c →
        let first := field p 0 12
        let count := field p 16 16
        (field p 12 4 = 0 → 1 ≤ count → first + count ≤ 4096 → exec (.cmdMemRegions src) s =
          .next (recorded src c (okWith ((List.range count).flatMap (fun i => regionEntry s (first + i)))) s))
        ∧ ((field p 12 4 ≠ 0 ∨ count = 0 ∨ 4096 < first + count) →
          exec (.cmdMemRegions src) s = .next (recorded src c bad s)))
      ∧ (performs s src 0x0B05 c →
        (memConfigOk p = false → exec (.cmdMemConfig src) s = .next (recorded src c bad s))
        ∧ (memConfigOk p = true →
          let new : MemCfg :=
            { thermalMode := field p 0 1
              tThr := field p 8 8
              pfDepth := field p 16 7
              scrubHours := field p 32 8
              retrainErrs := field p 40 8 }
          let u := { s with mem := { s.mem with
            cfg := { s.mem.cfg with thermalMode := new.thermalMode, tThr := new.tThr }
            cfgNext := new } }
          exec (.cmdMemConfig src) s = .next (recorded src c (okWith [])
            (u.mem.stk.foldl (fun v e => setStackTemp e.1 e.2.temp v) u))))
      ∧ (performs s src 0x0B06 c →
        (namedChan s p = none → exec (.cmdMemRetrain src) s = .next (recorded src c bad s))
        ∧ ∀ k, namedChan s p = some k →
          (retraining s k = true → exec (.cmdMemRetrain src) s = .next (recorded src c (failWith St.inUse 0) s))
          ∧ (chanState s k = .failed → exec (.cmdMemRetrain src) s = .next (recorded src c (okWith [])
            (bump Cnt.memRetrain k 1 (raise Ev.memRetrain (srcOf 6 k) [] s))))
          ∧ (chanState s k = .up → exec (.cmdMemRetrain src) s = .next (recorded src c (okWith [])
            (raise Ev.memRetrain (srcOf 6 k) [] (bump Cnt.memRetrain k 1 { s with mem := { s.mem with
              chans := mapSet s.mem.chans k (.retraining s.now) } })))))
      ∧ (∀ passes, performs s src 0x0B07 c →
        let m := 2 * field p 17 7 + 1
        (namedChan s p = none → exec (.cmdMemMargin src passes) s = .next (recorded src c bad s))
        ∧ ∀ k, namedChan s p = some k → 1 ≤ field p 17 7 → field p 17 7 ≤ 64 → field p 24 8 = 0 →
          retraining s k = false → exec (.cmdMemMargin src passes) s = .next (recorded src c
            (okWith (toLE (cdiv m 8) (bitmap ((List.range m).map (fun i => passes.getD i false))))) s))
      ∧ (performs s src 0x0B08 c → exec (.cmdMemStatus src) s = .next (recorded src c
        (okWith (pack 8 [(0, 1, bit s.brg.spreadOk), (1, 1, s.mem.cfg.thermalMode)]
          ++ (List.range 16).flatMap (stackEntry s)
          ++ toLE 256 (bitmap ((List.range 2048).map (fun k =>
              k < nChans s && (chanState s k == .failed || s.mem.badChans.contains k)))))) s))

/-- For every port q that the code populates and every state, p being its port. In UP: a good codeword delivers the
frame with the expected FSEQ once, its acknowledgement going with a control slot, any other frame being only
acknowledged; a corrected one is counted besides; an uncorrectable one is counted and refused by a control slot that
names its FSEQ, and the 1,000th within 1 s begins a retrain; a control slot frees acknowledged frames, puts those
from a negative acknowledgement on the link again, counted, adds credits and sends what may go; 20 us without an
acknowledgement does the same for all that is unacknowledged; a lane lost begins a retrain, counted with its event.
In TRAINING or RETRAINING: 6 good lanes send HELLO; lanes and a matching HELLO enter UP, where a port that retrained
counts the lanes it lost and resends the frames that waited, and one that trained offers its credits (the model's
number, assumption log 71); a HELLO that does not match disables the port with REASON 2; 2 s of training or the 100
ms window of a retrain end in DOWN with REASON 3 or 4, the latter counted with its event. LINK_STATE in a job
changes the map; a bad header is counted and dropped; a future epoch that does not come in 1 ms is dropped, counted,
and quarantines. TOPO_SET, STATUS and RETRAIN do what R412 to R415 say or answer why not. -/
def Obligations.LinkLayerAndPorts : Prop :=
  ∀ (q : Nat) (s : State),
    let p := port s q
    let retrain := fun (u : State) => handToPair q (raise Ev.lnkRetrain (srcOf 7 q) [] (bump Cnt.lnkRetrain q 1
      (setPort q { port u q with st := .retraining, since := u.now, matched := false, trained := none } u)))
    let deliver := fun (f : Frame) (u : State) => pumpPort q (
      if f.fseq = p.rxSeq then bump Cnt.lnkRxBytes q f.data.length
        (setPort q { port u q with rxSeq := (p.rxSeq + 1) % 4096, owes := true } u)
      else setPort q { port u q with owes := true } u)
    let again := fun (l : List TxFrame) (u : State) =>
      if l = [] then u
      else bump Cnt.lnkReplay q l.length { u with fab := { u.fab with
        tx := u.fab.tx ++ l.map (fun f => .codeword q (port u q).lanes (frameControl f) f) } }
    let goUp := fun (l : Nat) (u : State) =>
      let lost := if (port u q).st = .retraining then
        (List.range 8).filter (fun i => (port u q).lanes.testBit i && !l.testBit i) else []
      let v := enterPort q .up 0 u
      let w := setPort q { port v q with lanes := l } v
      let x := if lost = [] then w
        else raiseAll Ev.lnkLaneLoss (lost.map (fun _ => srcOf 7 q)) (bump Cnt.lnkLaneLoss q lost.length w)
      pumpPort q (if (port u q).st = .retraining then again (port u q).retry x
        else setPort q { port x q with owes := true, credOut := (List.range 6).map Config.linkBuffer } x)
    let disable := fun (u : State) =>
      let v := if p.st = .retraining then raise Ev.lnkDown (srcOf 7 q) [] (bump Cnt.lnkDown q 1 u) else u
      rerouteAll q (enterPort q .disabled 2 (raise Ev.lnkMismatch (srcOf 7 q) [] (bump Cnt.lnkMismatch q 1 v)))
    (q < nPorts s → p.st = .up →
      (∀ f, exec (.linkCodewordReceive q .clean f) s = .next (deliver f s)
        ∧ exec (.linkCodewordReceive q .corrected f) s = .next (deliver f (bump Cnt.lnkFecCorr q 1 s))
        ∧ (
          let l := s.now :: p.badTimes.filter (fun t => s.now < t + 1000000000)
          let u := bump Cnt.lnkFecUncorr q 1
            (setPort q { p with owes := true, nakOut := some f.fseq, badTimes := l } s)
          exec (.linkCodewordReceive q .uncorrectable f) s =
            .next (if 1000 ≤ l.length then retrain u else pumpPort q u)))
      ∧ (∀ sl : LlcSlot,
        let retry := match sl.ack with
          | some a => if p.retry.any (fun f => f.fseq == a) then (p.retry.dropWhile (fun f => f.fseq != a)).drop 1
              else p.retry
          | none => p.retry
        let back := match sl.nak with
          | some a => retry.dropWhile (fun f => f.fseq != a)
          | none => []
        let u := setPort q { p with
          retry := retry
          credits := (List.range 6).map (fun v => p.credits.getD v 0 + sl.credits.getD v 0)
          ackFrom := if sl.ack.isSome || sl.nak.isSome then s.now else p.ackFrom } s
        exec (.linkLayerControlSlot q sl) s = .next (pumpPort q (again back u)))
      ∧ (p.retry ≠ [] → let u := reachTime (p.ackFrom + 20000) s
        exec (.linkAckTimeout q) s = .next (again p.retry (setPort q { p with ackFrom := u.now } u)))
      ∧ ∀ lanes, (lanes % 256 &&& p.lanes ≠ p.lanes → exec (.portLaneFault q lanes) s = .next (retrain s))
        ∧ (lanes % 256 &&& p.lanes = p.lanes → exec (.portLaneFault q lanes) s = .next s))
    ∧ (q < nPorts s → (p.st = .training ∨ p.st = .retraining) →
      (∀ lanes, let l := goodLanes s q lanes
        (6 ≤ laneCount l →
          let u := sendHello q (setPort q { p with
            trained := some l
            lanes := if p.st = .training then l else p.lanes } s)
          exec (.portTrainingDone q lanes) s = .next (if p.matched then goUp l u else u))
        ∧ (laneCount l < 6 → exec (.portTrainingDone q lanes) s = .next (if p.st = .training then
            rerouteAll q (enterPort q .down 3 (setPort q { p with lanes := l } s))
          else setPort q { p with trained := none } s)))
      ∧ (∀ h coords code dim plus portB nbrPort,
        let u := setPort q { p with nbrPkg := h.src, nbrPort := nbrPort } s
        let good := coords = (List.range 4).map (coordOf h.src) ∧ expectedNbr s q = some h.src
          ∧ code = codeByte s.fuse.code ∧ dim = (portFace s q).1 ∧ plus ≠ (portFace s q).2.1 ∧ portB = (portFace s q).2.2
        let i := Instr.hello h q coords code dim plus portB nbrPort
        (good → p.trained = none → exec i s = .next (setPort q { port u q with matched := true } u))
        ∧ (∀ l, good → p.trained = some l → exec i s = .next (goUp l (setPort q { port u q with matched := true } u)))
        ∧ (¬ good → exec i s = .next (disable u)))
      ∧ (
        let why := if p.trained.isSome then 4 else 3
        (p.st = .training → exec (.portHelloTimeout q) s =
          .next (rerouteAll q (enterPort q .down why (reachTime (p.since + 2000000000) s))))
        ∧ (p.st = .retraining → let u := reachTime (p.since + 100000000) s
          exec (.portRetrainTimeout q) s = .next (rerouteAll q (enterPort q .down why
            (raise Ev.lnkDown (srcOf 7 q) [] (bump Cnt.lnkDown q 1 u)))))))
    ∧ (∀ h pkg dim plus portB st, let i := Instr.linkState h pkg dim plus portB st
      addressed s i h → s.job.isSome = true →
      ∃ t, exec i s = .next (returnCredits i h t)
        ∧ t = { s with fab := { s.fab with downMap := t.fab.downMap } }
        ∧ ∀ n : PortName, t.fab.downMap.contains n =
          if n = { pkg := pkg, dim := dim, plus := plus, portB := portB } then (st == 0 || st == 4)
          else s.fab.downMap.contains n)
    ∧ (∀ raw, exec (.badLinkPacket raw) s = .next (bump Cnt.lnkBadPkt 0 1 s))
    ∧ (∀ t i h rest, s.fab.heldEpoch = (t, i) :: rest → hdrOf i = some h →
      exec (.futureEpochTimeout h.tag) s = .next (enterQuarantine (bump Cnt.lnkFutureEpochDrop 0 1
        (reachTime (t + 1000000) { s with fab := { s.fab with heldEpoch := rest } }))))
    ∧ ∀ src c,
      let b := c.payload
      (performs s src 0x0C00 c →
        (topoOk s b = false → exec (.cmdLnkTopoSet src) s = .next (recorded src c (failWith St.badParam 0) s))
        ∧ (topoOk s b = true → s.pool.tables ≠ [] →
          exec (.cmdLnkTopoSet src) s = .next (recorded src c (failWith St.inUse 0) s))
        ∧ (topoOk s b = true → s.pool.tables = [] →
          let t : Topo :=
            { coords := (List.range 4).map (fun i => field b (3 * i) 3)
              lens := (List.range 4).map (fun i => field b (16 + 3 * i) 3 + 1)
              wraps := (List.range 4).map (fun i => flag b (28 + i)) }
          let u := { s with flash := { s.flash with topo := some t } }
          exec (.cmdLnkTopoSet src) s =
            .next (recorded src c (okWith []) ((List.range (nPorts u)).foldl recheckPort u))))
      ∧ (performs s src 0x0C01 c → exec (.cmdLnkStatus src) s = .next (recorded src c
        (okWith (topoBytes s ++ (List.range (nPorts s)).flatMap (fun k => pack 8 [(0, 3, portCode (port s k).st),
          (3, 5, (port s k).reason), (8, 8, (port s k).lanes), (16, 12, (port s k).nbrPkg),
          (28, 4, (port s k).nbrPort)]))) s))
      ∧ (performs s src 0x0C02 c → field b 0 4 = q →
        ((nPorts s ≤ q ∨ field b 4 28 ≠ 0 ∨ (p.st = .disabled ∧ p.reason = 1)) →
          exec (.cmdLnkRetrain src) s = .next (recorded src c (failWith St.badParam 0) s))
        ∧ (q < nPorts s → field b 4 28 = 0 →
          ((p.st = .training ∨ p.st = .retraining) →
            exec (.cmdLnkRetrain src) s = .next (recorded src c (failWith St.inUse 0) s))
          ∧ (p.st = .up → exec (.cmdLnkRetrain src) s = .next (recorded src c (okWith []) (retrain s)))
          ∧ (p.st = .down → exec (.cmdLnkRetrain src) s = .next (recorded src c (okWith []) (startTraining q s)))
          ∧ (p.st = .disabled → p.reason ≠ 1 → (expectedNbr s q).isSome = true →
            exec (.cmdLnkRetrain src) s = .next (recorded src c (okWith []) (startTraining q s)))))

/-- For every state. A REDUCE_SCATTER whose descriptor passes R400 starts once its reads can be made, cuts its rows into
units, adds its own and sends the others; one that does not is counted in RD_BAD_DESC_CNT with its event and
completes; a package that sits out, or has forfeited, sends nothing. RD_CONTRIB is added row by row, or refused, and
acknowledged with what became of it; RD_ACK, or ACK_TIMEOUT_US without one, counted with its event, makes it
acknowledged; at the close time every row of the table's shard closes. A GNORM forms the package partial and sends
it to the root, which keeps it in ascending package order, adds up when every member without SITTING_OUT has sent,
or at the cut-off minus GN_LEAD_NS, counts the members left out and sends GN_RESULT down the tree; the result goes
on and, unless CLIP is settled, sets CLIP and completes the tasks. RD_CONFIG in range holds from the next job start;
RD_BIND binds with its buffers or unbinds; RD_DIGEST_READ answers a kept step. -/
def Obligations.ReductionAndNorm : Prop :=
  ∀ s : State,
    let finish := fun (k : Coll) (u : State) =>
      completeTask k.task { u with fab := { u.fab with colls := u.fab.colls.filter (fun x => x.no != k.no) } }
    let started := fun (k : Coll) (u : State) => { u with fab := { u.fab with
      colls := u.fab.colls.map (fun x => if x.no = k.no then { x with started := true } else x) } }
    let bad := fun (u : State) => raise Ev.rdBadDesc 0 [] (bump Cnt.rdBadDesc 0 1 u)
    (∀ d k, d < nDies s → s.fab.colls.find? (fun c => c.die == d && cdKind c.desc != 2 && !c.started) = some k →
      let b := rowBegun d s
      let i := Instr.reduceScatter d
      ((sittingOut s = true ∨ s.chk.forfeited = true) → takesEffect i s b)
      ∧ (sittingOut s = false → s.chk.forfeited = false →
        (rsDescOk s k.desc = false → takesEffect i s (finish k (bad b)))
        ∧ ∀ tb, table s (cdTable k.desc) = some tb → rsDescOk s k.desc = true →
          let us := cutUnits tb (if cdFmt k.desc = 13 then 4 else 8) (cdCount k.desc) (cdFirst k.desc)
            (cdFirst k.desc + cdCount k.desc - 1)
          takesEffect i s (checkColls (us.foldl (sendUnit k) (started k b)))))
    ∧ (∀ h row t nrows fmt data, let i := Instr.rdContrib h row t nrows fmt data
      current s i h →
      let u := digest false h.src i s
      let r := addUnit h.src t row nrows fmt h.step data u
      exec i s = .next (returnCredits i h
        (checkColls (sendPlain (.rdAck (replyHdr r.2 h) row t r.1.status r.1.late) r.2)))
      ∧ ∀ tb, table u t = some tb →
        let rows := (List.range nrows).map (fun k => row + k)
        let elems := rows.map (fun r => unitRow fmt data (r - row))
        let odd := elems.any (fun l => l.any nonfinite32)
        let home := fun (r : Nat) => r < tb.rows && tb.defaultHome r == pkgNo u
        let late := rows.any (rowClosed (rdBuf tb h.step))
        let b := (rows.zip elems).foldl (fun b e => addRow (activeMembers u) h.src u.now b e.1 e.2) (rdBuf tb h.step)
        let v := bump Cnt.rdContribIn 0 1 (setTable t { tb with bufs := mapSet tb.bufs h.step b } u)
        let w := if odd then bump Cnt.rdNonfiniteAdd 0 1 v else v
        ((tb.bind = none ∨ rows.all home = false ∨ fmtAgrees u t fmt = false) →
          r = ({ status := 2, late := false }, bump Cnt.rdRefused 0 1 u))
        ∧ (tb.bind.isSome = true → rows.all home = true → fmtAgrees u t fmt = true →
          (odd = true → u.fab.rdCfg.nonfiniteAdd = false → r = ({ status := 1, late := false },
            raise Ev.rdNonfinite (srcOf 11 t) [] (bump Cnt.rdNonfinite 0 1 u)))
          ∧ ((odd = false ∨ u.fab.rdCfg.nonfiniteAdd = true) →
            r = ({ status := 0, late := late }, if late then bump Cnt.rdLateAdd 0 1 w else w))))
    ∧ (∀ tag p n, findPend s tag = some p → p.kind = .contrib n →
      let gone := fun (u : State) =>
        let v := dropPend tag u
        checkColls { v with fab := { v.fab with
          colls := v.fab.colls.map (fun c => { c with unacked := c.unacked.filter (fun x => x != tag) }) } }
      (∀ h row t st late, let i := Instr.rdAck h row t st late
        current s i h → h.tag = tag → findPend (digest false h.src i s) tag = some p →
        exec i s = .next (returnCredits i h (gone (digest false h.src i s))))
      ∧ (
        let u := reachTime (p.time + s.fab.rdCfg.ackUs * 1000) s
        exec (.rdAckTimeout tag) s =
          .next (gone (raise Ev.rdAckTimeout (srcOf 13 p.dst) [] (bump Cnt.rdAckTimeout 0 1 u)))))
    ∧ (∀ t tb j, table s t = some tb → s.job = some j → tb.bind.isSome = true →
      let u := reachTime (j.nominal - j.lead - shardLead s t) s
      exec (.shardCloseTime t) s = .next (checkColls (setTable t { tb with
        bufs := mapSet tb.bufs u.step { rdBuf tb u.step with closedAll := true } } u)))
    ∧ (∀ d k j, d < nDies s → s.job = some j →
      s.fab.colls.find? (fun c => c.die == d && cdKind c.desc == 2 && !c.started) = some k →
      (gnDescOk k.desc = false → exec (.gnorm d) s = .next (finish k (bad s)))
      ∧ (gnDescOk k.desc = true → s.fab.gnApplied = true → exec (.gnorm d) s = .next (finish k s))
      ∧ (gnDescOk k.desc = true → s.fab.gnApplied = false → s.fab.gnResult = none → j.master ≠ pkgNo s →
        s.now + j.lead < j.nominal →
        let u := started k s
        let own := (List.range (nLc u)).foldl (fun a lc => add64 a (gnSum u lc)) 0
        let p := u.fab.gnParts.foldl (fun a p => (add64 a.1 p.1, a.2 || p.2)) (own, u.eng.gnBad != [])
        let v := sendPlain (.gnPartial (mkHdr u j.master 0) p.1 p.2) u
        v.fab.gnResult = none → exec (.gnorm d) s = .next v))
    ∧ (∀ j, s.job = some j →
      let close := fun (u : State) =>
        let r := u.fab.gnRoot.foldl (fun (a : W64 × Bool) e => (add64 a.1 e.2.1, a.2 || e.2.2)) (0, false)
        let missing := countIf (fun p => (mapGet u.fab.gnRoot p).isNone) j.members
        let v := { u with fab := { u.fab with gnClosed := true } }
        gnResultTake r.1 u.fab.gnRoot.length r.2 (if missing = 0 then v else bump Cnt.rdGnExcluded 0 missing v)
      (∀ h x odd, let i := Instr.gnPartial h x odd
        current s i h → j.master = pkgNo s → s.fab.gnClosed = false →
        let u := { s with fab := { s.fab with gnRoot := mapSet s.fab.gnRoot h.src (x, odd) } }
        exec i s = .next (returnCredits i h (
          if j.members.all (fun m => j.sitting.contains m || (mapGet u.fab.gnRoot m).isSome) then close u else u)))
      ∧ (j.master = pkgNo s → s.fab.gnClosed = false → s.fab.gnRoot ≠ [] →
        exec .gnRootClose s = .next (close (reachTime (j.nominal - j.lead - gnLead s) s)))
      ∧ (∀ h total count odd, let i := Instr.gnResult h total count odd
        current s i h →
        let u := (treeChildren s j).foldl (fun s c => sendPlain (.gnResult (mkHdr s c 0) total count odd) s) s
        exec i s = .next (returnCredits i h (if u.fab.gnApplied then u else applyGn total odd u))))
    ∧ (∀ (total : W64) (odd : Bool) k l, gnColls s = k :: l →
      let norm := cdClip k.desc
      let n := val32 norm
      let w := if isZero n ∨ !isFin (val64 total) ∨ odd then one32
        else if ltVal n (val64 (sqrt64 total)) then round32 (val64 (div64 (round64 n) (sqrt64 total))) else one32
      let u := { s with
        fab := { s.fab with gnApplied := true }
        pool := { s.pool with tables := mapVals (fun _ (t : Table) =>
          if t.bind = some true then { t with clip := w } else t) s.pool.tables } }
      let v := if !isZero n ∧ (!isFin (val64 total) ∨ odd) then raise Ev.rdGnNonfinite 0 [] u else u
      let x := if ltVal (val32 w) (val32 one32) then bump Cnt.rdClip 0 1 v else v
      applyGn total odd s = (k :: l).foldl (fun s c => finish c s) x)
    ∧ ∀ src c,
      let b := c.payload
      let t := field b 0 8
      (performs s src 0x0C03 c →
        let us := field b 16 16
        (field b 1 15 = 0 → field b 32 32 = 0 → 10 ≤ us → us ≤ 10000 →
          exec (.cmdRdConfig src) s = .next (recorded src c (okWith [])
            { s with fab := { s.fab with rdCfgNext := { nonfiniteAdd := flag b 0, ackUs := us } } }))
        ∧ ((field b 1 15 ≠ 0 ∨ field b 32 32 ≠ 0 ∨ us < 10 ∨ 10000 < us) →
          exec (.cmdRdConfig src) s = .next (recorded src c (failWith St.badParam 0) s)))
      ∧ (performs s src 0x0C04 c →
        (table s t = none → exec (.cmdRdBind src) s = .next (recorded src c (failWith St.badParam 1) s))
        ∧ ∀ tb, table s t = some tb →
          ((field b 10 54 ≠ 0 ∨ tb.width ≠ 256 ∨ tb.place ≠ 1 ∨ tb.migEnable = true) →
            exec (.cmdRdBind src) s = .next (recorded src c (failWith St.badParam 1) s))
          ∧ (field b 10 54 = 0 → tb.width = 256 → tb.place = 1 → tb.migEnable = false →
            (flag b 9 = true → let u := tb.rdRegions.foldl (fun s id => destroyRegion id s) s
              exec (.cmdRdBind src) s = .next (recorded src c (okWith [])
                (setTable t { tb with bind := none, rdRegions := [], bufs := [], clip := 0x3F800000 } u)))
            ∧ (flag b 9 = false → (tb.bind.isSome = true ∨ 64 ≤ boundTables s) →
              exec (.cmdRdBind src) s = .next (recorded src c (failWith St.inUse 2) s))
            ∧ (flag b 9 = false → tb.bind = none → boundTables s < 64 →
              let ask := rdAlloc (localRows tb.payload tb.homes (pkgNo s) * 1056) s
              (ask = none → exec (.cmdRdBind src) s = .next (recorded src c (failWith St.noSpace 3) s))
              ∧ ∀ ids u, ask = some (ids, u) → exec (.cmdRdBind src) s = .next (recorded src c (okWith [])
                (setTable t { tb with bind := some (flag b 8), rdRegions := ids, bufs := [], clip := 0x3F800000 } u)))))
      ∧ (performs s src 0x0C05 c →
        let step := field b 0 64
        let first := field b 64 12
        let n := field b 80 16
        (field b 76 4 = 0 → 1 ≤ n → n ≤ 4096 → digestKept s step = true →
          exec (.cmdRdDigestRead src) s = .next (recorded src c (okWith ((List.range n).flatMap (fun k =>
            match if first + k < 4096 then mapGet s.fab.digests (step * 4096 + (first + k)) else none with
            | some d => if d.sentCnt = 0 ∧ d.recvCnt = 0 then [] else digestEntry (first + k) d
            | none => []))) s))
        ∧ ((field b 76 4 ≠ 0 ∨ n = 0 ∨ 4096 < n ∨ digestKept s step = false) →
          exec (.cmdRdDigestRead src) s = .next (recorded src c (failWith St.badParam 0) s)))

/-- For every state whose BARs the host reaches, and every mailbox n below 64. A window write lands while the mailbox is
CLOSED or IDLE and is else dropped and counted; opening, closing, aborting and posting move the mailbox as the table
of R434 says, withdrawn commands and ignored writes counted; the command that R445 puts first is taken up and
checked by steps 1 to 9 in order, the first that fails deciding; a posting time-out completes with ST_TIMEOUT. A
completion with Bus Master Enable set brings the checkpoint up to date, writes response, record bytes 8 to 63, bytes
0 to 7, frees the mailbox, is counted, and sends its interrupt; with it clear it is held. A shedding window moves
SHED_LEVEL. Register writes act by offset, a wrong key and a read-only offset being dropped and counted;
PKG_EVT_STATUS clears where 1 is written, but for a bit that was set in the same cycle; a device reset enters
BRINGUP and keeps fuses, meter and time; a Function Level Reset or D3hot entry closes every mailbox, counts what is
discarded and touches nothing else; Bus Master Enable and unmasking release what was held. -/
def Obligations.MailboxesServe : Prop :=
  ∀ (n : Nat) (s : State), n < 64 →
    let m := mailbox s n
    let ignored := bump Cnt.mbxPostIgnored n 1 s
    let hardware := fun (st : Nat) (u : State) => completeMbx n (setMailbox n { mailbox u n with
      phase := .executing
      slot := some { postedSlot (mailbox u n) with done := some (plain st) } } u)
    (reachable s = true →
      (∀ o data, o + data.length ≤ 1048576 →
        ((m.phase = .closed ∨ m.phase = .idle) → exec (.mbxWindowWrite n o data) s =
          .next (setMailbox n { m with window := splice m.window o data } s))
        ∧ ((m.phase = .posted ∨ m.phase = .executing) → exec (.mbxWindowWrite n o data) s =
          .next (bump Cnt.mbxWinWrDrop n 1 s)))
      ∧ (∀ irqEn,
        (m.phase = .closed → exec (.mbxOpen n irqEn) s = .next (setMailbox n (
          if retValid m && s.host.busMaster then { m with phase := .idle, irqEn := irqEn }
          else { m with irqEn := irqEn, lastStatus := St.badParam }) s))
        ∧ (m.phase ≠ .closed → exec (.mbxOpen n irqEn) s =
          .next (if m.closing then s else setMailbox n { m with irqEn := irqEn } s))
        ∧ (m.phase = .closed → exec (.mbxClose n irqEn) s = .next (setMailbox n { m with irqEn := irqEn } s))
        ∧ (m.phase = .idle → exec (.mbxClose n irqEn) s =
          .next (setMailbox n { m with irqEn := irqEn, phase := .closed } s))
        ∧ (m.phase = .posted → exec (.mbxClose n irqEn) s =
          .next (bump Cnt.mbxAbort n 1 (setMailbox n { m with irqEn := irqEn, phase := .closed } s)))
        ∧ (m.phase = .executing → exec (.mbxClose n irqEn) s =
          .next (setMailbox n { m with irqEn := irqEn, closing := true } s)))
      ∧ (m.phase = .posted → exec (.mbxAbort n) s = .next (bump Cnt.mbxAbort n 1 (hardware St.aborted s)))
      ∧ (m.phase ≠ .posted → exec (.mbxAbort n) s = .next ignored)
      ∧ (∀ v, let u := setMailbox n { m with phase := .posted, postValue := v, postTime := s.now } s
        (m.phase = .idle → exec (.mbxPost n v) s = .next (if s.sm.state = .failed then hardware St.smFailed u else u))
        ∧ (m.phase ≠ .idle → exec (.mbxPost n v) s = .next ignored))
      ∧ (∀ o v, v < 2 ^ 32 → let dropped := exec (.registerWrite 0 o 4 v) s = .next (bump Cnt.mbxBarWrDrop 0 1 s)
        (o = 0x1008 → (v / 256 % 256 ≠ 0xA5 → dropped)
          ∧ (v / 256 % 256 = 0xA5 → v % 2 = 1 → exec (.registerWrite 0 o 4 v) s = exec (.devReset (v / 2 % 2 == 1)) s))
        ∧ (o = 0x1010 → exec (.registerWrite 0 o 4 v) s = exec (.pkgEvtStatusWrite (BitVec.ofNat 32 v)) s)
        ∧ (o = 0x1014 → exec (.registerWrite 0 o 4 v) s =
          .next { s with host := { s.host with evtMask := BitVec.ofNat 32 v } })
        ∧ (o = 0x10000 + 64 * n + 0x10 → exec (.registerWrite 0 o 4 v) s = exec (.mbxPost n v) s)
        ∧ (o = 0x10000 + 64 * n + 0x08 → (m.phase ≠ .closed → dropped)
          ∧ (m.phase = .closed → exec (.registerWrite 0 o 4 v) s = .next (setMailbox n { m with retSize := v } s)))
        ∧ (o = 0x10000 + 64 * n + 0x0C → v.testBit 2 = false → exec (.registerWrite 0 o 4 v) s =
          if v.testBit 0 then exec (.mbxOpen n (v.testBit 1)) s else exec (.mbxClose n (v.testBit 1)) s)
        ∧ (o < 0x1008 → o % 4 = 0 → dropped)
        ∧ exec (.registerWrite 4 o 4 v) s = .next (bump Cnt.mbxBarWrDrop 0 1 s)
        ∧ (o + 4 ≤ 1048576 →
          exec (.registerWrite 2 (1048576 * n + o) 4 v) s = exec (.mbxWindowWrite n o (toLE 4 v)) s))
      ∧ (∀ v, ∃ t, exec (.pkgEvtStatusWrite v) s = .next t
        ∧ (∀ i, i < 32 → t.host.evtStatus.toNat.testBit i = (s.host.evtStatus.toNat.testBit i
          && (!v.toNat.testBit i || s.host.evtSet.any (fun e => e.1 == i && e.2 == s.now))))
        ∧ t = { s with host := { s.host with evtStatus := t.host.evtStatus } })
      ∧ (∀ full, ∃ t, exec (.devReset full) s = .next t ∧ t.dev = .bringup ∧ t.brg.requested = bit full
        ∧ t.fuse = s.fuse ∧ t.meter = s.meter ∧ t.now = s.now ∧ t.job = none ∧ t.mem = State.reset.mem
        ∧ softKept s.flash.softMap t.flash.softMap ∧ t.sm.state = .running ∧ ∀ k, (mailbox t k).phase = .closed)
      ∧ (
        let u := { s with host := { s.host with
            evtStatus := 0
            evtMask := 0xF
            evtSet := []
            mbx := mapVals (fun _ m => { closedMailbox with window := m.window }) s.host.mbx
            orphans := s.host.orphans ++ unfinished s
            busMaster := false
            funcMask := false
            msixTable := []
            msixPending := [] } }
        let k := countIf (fun e => e.2.phase == .posted || e.2.phase == .executing) s.host.mbx
        let t := if k = 0 then u else raise Ev.mbxFlr 0 (pay64 k) (bump Cnt.mbxFlrDiscard 0 k u)
        exec .functionLevelReset s = .next t ∧ exec .d3hotEntry s = .next t)
      ∧ exec .busMasterEnableSet s = .next ((mapKeys s.host.mbx).foldl
        (fun s k => if (mailbox s k).held then completeMbx k s else s) { s with host := { s.host with busMaster := true } })
      ∧ exec .busMasterEnableClear s = .next { s with host := { s.host with busMaster := false } }
      ∧ exec .msixFunctionUnmask s = .next (s.host.msixPending.foldl (fun s v => msix v s)
        { s with host := { s.host with funcMask := false, msixPending := [] } }))
    ∧ (smServes s = true → nextTakeUp s = some n →
      let c := postedSlot m
      (validate c (some m.postValue) (m.retSize - 64) s = none → exec (.mbxTakeUp n) s =
        .next (setMailbox n { m with phase := .executing, slot := some c } s))
      ∧ ∀ st k, validate c (some m.postValue) (m.retSize - 64) s = some (st, k) →
        let u := setMailbox n { m with phase := .executing, slot := some { c with done := some (failStep st k) } } s
        exec (.mbxTakeUp n) s =
          .next (if st = St.badSig then raise Ev.mbxBadSig (srcOf 9 n) [] (bump Cnt.mbxBadSig 0 1 u) else u))
    ∧ (∀ (c : Slot) (v : Option Nat) (room : Nat),
      (headerOk c.header v = false → validate c v room s = some (St.badHeader, 1))
      ∧ (headerOk c.header v = true → crcOk c.header c.payload = false → validate c v room s = some (St.badCrc, 2))
      ∧ (headerOk c.header v = true → crcOk c.header c.payload = true →
        (cmdInfo c.opcode = none → validate c v room s = some (St.badOpcode, 3))
        ∧ ∀ i, cmdInfo c.opcode = some i →
          let long := cmdLen s c.opcode (c.payload.take (c.payload.length - trailerLen c.header)) + trailerLen c.header
          (c.payload.length ≠ long → validate c v room s = some (St.badLength, 4))
          ∧ (c.payload.length = long → (flag c.header 17 ≠ i.signed ∨ (i.signed = true ∧ trailerOk s c.header c.payload = false)) →
            validate c v room s = some (St.badSig, 5))
          ∧ (c.payload.length = long → flag c.header 17 = i.signed →
            (i.signed = true → trailerOk s c.header c.payload = true) →
            (accepts i.accept s.dev = false → validate c v room s = some (St.badState, 6))
            ∧ (accepts i.accept s.dev = true → masterOk s i = false → validate c v room s = some (St.notMaster, 7)))))
    ∧ (∀ t, m.phase = .posted → field m.window 96 32 = t → t ≠ 0 →
      exec (.mbxPostTimeout n) s = .next (hardware St.timeout (reachTime (m.postTime + t * 1000000) s)))
    ∧ (∀ c r, m.phase = .executing → m.slot = some c → c.done = some r →
      ((s.host.busMaster && reachable s) = false → exec (.mbxCompletion n) s = .next (setMailbox n { m with held := true } s))
      ∧ ((s.host.busMaster && reachable s) = true →
        let b := recordBytes c r s.now
        let outs := (if r.resp.isEmpty then [] else [HostOut.write (m.retBase + 64) r.resp])
          ++ [.write (m.retBase + 8) (b.drop 8), .write m.retBase (b.take 8)]
        let w := newCheckpoint s
        let u := setMailbox n { m with
          phase := if m.closing then .closed else .idle
          closing := false
          held := false
          slot := none
          lastSeq := field c.header 32 32
          lastStatus := r.status + 65536 * (r.dstep + 256 * r.dcheck) } { w with host := { w.host with out := s.host.out ++ outs } }
        let v := noteIdle (countCompletion n c r u)
        exec (.mbxCompletion n) s = .next (afterCompletion c r (if m.irqEn then msix n v else v))))
    ∧ (∀ k, smServes s = true →
      let level := if 95 < k then 3 else if 85 < k then 2 else if 70 < k then 1 else 0
      (s.sm.shed < level → exec (.shedWindow k) s =
        .next (raise Ev.mbxShed 0 [] { s with sm := { s.sm with shed := level, below := 0 } }))
      ∧ (level ≤ s.sm.shed → 60 ≤ k → exec (.shedWindow k) s = .next { s with sm := { s.sm with below := 0 } })
      ∧ (k < 60 → exec (.shedWindow k) s = .next { s with sm := (
        if 9 ≤ s.sm.below then { s.sm with shed := s.sm.shed - 1, below := 0 }
        else { s.sm with below := s.sm.below + 1 }) }))

/-- For every state. A command packet on the sideband, when that serves and executes none, is counted and either
executes beside the mailboxes or is answered with the first check that it fails. In any state but OFF the five MCTP
control messages are answered from the state and change no more than the endpoint ID, any other as unsupported. In
STANDBY, and in any other state but OFF while the stationmaster runs: the PLDM base and monitoring messages are
answered from the state, any other is answered as unsupported, a sensor that does not exist as failed. A PLDM update
opens where R450 allows it and the flash is free (busy otherwise), takes aligned data within its image, completes by
the checks of R560, activates the slot last completed, or is cancelled. CMD_MBX_NOP answers its payload;
CMD_MBX_INFO answers version, sizes, open mailboxes, SHED_LEVEL and the commands in flight. -/
def Obligations.SidebandAnswers : Prop :=
  ∀ s : State,
    let say := fun (a : SideMsg) (u : State) => { u with host := { u.host with sideOut := u.host.sideOut ++ [a] } }
    (∀ packet, sideServes s = true → s.host.side = none →
      let c : Slot :=
        { header := slice packet 0 64
          payload := slice packet 64 (Nat.min (field (slice packet 0 64) 64 32) 1048512)
          opcode := field (slice packet 0 64) 0 16
          postTime := s.now
          waits := false
          stale := false
          done := none }
      let u := bump Cnt.mbxMctpCmd 0 1 s
      (sideValidate c u = none → exec (.mctpCommand packet) s =
        .next { u with host := { u.host with side := some c } })
      ∧ ∀ st k, sideValidate c u = some (st, k) →
        let v := answerSide c (failStep st k) u
        exec (.mctpCommand packet) s =
          .next (if st = St.badSig then raise Ev.mbxBadSig 0 [] (bump Cnt.mbxBadSig 0 1 v) else v))
    ∧ (s.dev ≠ .off →
      (∀ e, exec (.mctpControl (.setEndpointId e)) s =
        .next (say (.mctp .done [(e : Int)]) { s with host := { s.host with eid := e } }))
      ∧ exec (.mctpControl .getEndpointId) s = .next (say (.mctp .done [(s.host.eid : Int)]) s)
      ∧ (∃ v : Int, exec (.mctpControl .getEndpointUuid) s = .next (say (.mctp .done [v]) s))
      ∧ (∃ v : Int, exec (.mctpControl .getVersionSupport) s = .next (say (.mctp .done [v]) s))
      ∧ exec (.mctpControl .getMessageTypes) s = .next (say (.mctp .done [1, 0x7F]) s)
      ∧ (∀ k, exec (.mctpControl (.other k)) s = .next (say (.mctp .unsupported []) s)))
    ∧ ((s.dev = .standby ∨ (s.dev ≠ .off ∧ s.sm.state = .running)) →
      (∃ v : Int, exec (.pldmMessage .getTid) s = .next (say (.pldm .done [v]) s))
      ∧ (∃ v : Int, exec (.pldmMessage .getPldmVersion) s = .next (say (.pldm .done [v]) s))
      ∧ exec (.pldmMessage .getPldmTypes) s = .next (say (.pldm .done [0, 2, 5]) s)
      ∧ (∃ v : Int, exec (.pldmMessage .getPldmCommands) s = .next (say (.pldm .done [v]) s))
      ∧ exec (.pldmMessage .getStateSensor) s = .next (say (.pldm .done [(devCode s.dev : Int)]) s)
      ∧ (∀ k, exec (.pldmMessage (.other k)) s = .next (say (.pldm .unsupported []) s))
      ∧ exec (.pldmMessage (.getSensor 0x0100 0)) s = .next (say (.pldm .done [(s.pkg.vinMv : Int)]) s)
      ∧ exec (.pldmMessage (.getSensor 0x0101 0)) s = .next (say (.pldm .done [(s.pkg.iinMa : Int)]) s)
      ∧ exec (.pldmMessage (.getSensor 0x0102 0)) s = .next (say (.pldm .done [(s.pkg.p10Mw : Int)]) s)
      ∧ (∀ d, d < nDies s → exec (.pldmMessage (.getSensor 0x0103 d)) s = .next (say (.pldm .done [(dieClock s d).temp]) s)
        ∧ exec (.pldmMessage (.getSensor 0x0104 d)) s = .next (say (.pldm .done [((dieClock s d).cclk : Int)]) s))
      ∧ (∀ id inst, (id < 0x0100 ∨ 0x0104 < id ∨ (id < 0x0103 ∧ inst ≠ 0) ∨ (0x0103 ≤ id ∧ nDies s ≤ inst)) →
        exec (.pldmMessage (.getSensor id inst)) s = .next (say (.pldm .failed []) s))
      ∧ (∀ k, let i := Instr.pldmFirmwareUpdate (.requestUpdate k)
        (pldmFwAllowed s = false → exec i s = .next (say (.pldm .failed []) s))
        ∧ (pldmFwAllowed s = true → flashBusy s = true → exec i s = .next (say (.pldm .busy []) s))
        ∧ (pldmFwAllowed s = true → flashBusy s = false →
          ((k < 320 ∨ 67108864 < k ∨ k % 64 ≠ 0) → exec i s = .next (say (.pldm .failed []) s))
          ∧ (320 ≤ k → k ≤ 67108864 → k % 64 = 0 → exec i s = .next (say (.pldm .done [])
            { (setBootHdr (markSlot (inactive s) false true) (setFwSlot (inactive s) { factory := false, units := [] } s))
              with fw := some { imageBytes := k, pldm := true } }))))
      ∧ (∀ f, s.fw = some f → f.pldm = true →
        (∀ o d, (o % 64 = 0 → d.length % 64 = 0 → o + d.length ≤ f.imageBytes →
            let b := inactive s
            exec (.pldmFirmwareUpdate (.data o d)) s = .next (say (.pldm .done []) (setFwSlot b { fwSlot s b with
              units := fwUnits (d.length / 64) (o / 64) d (fwSlot s b).units } s)))
          ∧ ((o % 64 ≠ 0 ∨ d.length % 64 ≠ 0 ∨ f.imageBytes < o + d.length) →
            exec (.pldmFirmwareUpdate (.data o d)) s = .next (say (.pldm .failed []) s)))
        ∧ (
          let r := fwCommitS f.imageBytes s
          (r.2 = none → exec (.pldmFirmwareUpdate .complete) s = .next (say (.pldm .done []) r.1))
          ∧ ∀ k, r.2 = some k → exec (.pldmFirmwareUpdate .complete) s = .next (say (.pldm .failed [(k : Int)]) r.1))
        ∧ exec (.pldmFirmwareUpdate .cancel) s = .next (say (.pldm .done [])
          (setBootHdr (markSlot (inactive s) false false) { s with fw := none })))
      ∧ (s.fw = none →
        (∀ b, lastValid s = some b →
          exec (.pldmFirmwareUpdate .activate) s = .next (say (.pldm .done []) (fwActivateS b s)))
        ∧ (lastValid s = none → exec (.pldmFirmwareUpdate .activate) s = .next (say (.pldm .failed []) s))))
    ∧ ∀ src c,
      (performs s src 0x0100 c → exec (.cmdMbxNop src) s = .next (recorded src c (okWith c.payload) s))
      ∧ (performs s src 0x0101 c → exec (.cmdMbxInfo src) s = .next (recorded src c (okWith (pack 32 [
        (0, 64, fwVersion s), (64, 32, 1048512), (96, 32, 2097152),
        (128, 64, bitmapOf 64 ((List.range 64).filter (fun k => (mailbox s k).phase != .closed))),
        (192, 2, s.sm.shed), (200, 8, (inFlight s).length)])) s))

/-- For every state. What a fenced core sends is discarded and counted (R471). An execution by the core that R460 chose
is counted and joins its capsule: two equal results settle the tile and are counted in CHK_AGREE_CNT; two unequal
ones raise EV_CHK_DISAGREE and call a third; a third that equals one of them settles it; else two fresh ones are
called, which settle it when equal and leave it unsettled when not. A retest that agrees with the standing result
charges a transient, with its entry, count and event, which fences at 2 in 86,400 or 3 in 2,592,000 history seconds;
one that does not fences at once. Fencing enters the soft fault map, is counted with its event, stops the logical
cores served and moves each to the lowest siding of its die, else as a guest where that is allowed, else the package
fails. A siding's copy, a spare's rebuild, a flush of the unit history, which drops the oldest entries where the
area of R42 is full (the model's choice, assumption log 58), and a field test end as R469, R472, R480, R483 and R484
say. The commands of R485 answer, or set what they name for the next job, or answer ST_BAD_PARAM and change nothing. -/
def Obligations.ChecksFenceAndTest : Prop :=
  ∀ s : State,
    (∀ cap die k v c u, die < nDies s → k < 10 → s.chk.capsules.find? (fun c => c.id == cap) = some c →
      c.next = some u → u.die = die → u.k = k →
      let i := Instr.checkExecutionDone cap die k v
      let d := { c with execs := c.execs ++ [{ unit := u, value := v }] }
      let off := { d with next := none }
      let lc := c.eng / 3
      let t := bump Cnt.chkExec (unitIndex u) 1 s
      ((physCore s (10 * die + k)).role = .fenced → exec i s = .next (bump Cnt.fncDiscard (10 * die + k) 1 s))
      ∧ ((physCore s (10 * die + k)).role ≠ .fenced → (∀ a, c.execs.map (fun e => e.value) = [a] →
        (v = a → exec i s = .next (settle d a (bump Cnt.chkAgree lc 1 t)))
        ∧ (v ≠ a → exec i s = .next (callNext off (raise Ev.chkDisagree (srcOf 3 lc) [] t))))
      ∧ (∀ a b, c.execs.map (fun e => e.value) = [a, b] →
        let w := bump Cnt.chkThird lc 1 t
        (v = a → exec i s = .next (settle d a w))
        ∧ (v ≠ a → v = b → exec i s = .next (settle d b w))
        ∧ (v ≠ a → v ≠ b → (nextUnit w off).isSome = true → exec i s = .next (callNext off (bump Cnt.chkFresh lc 1 w))))
      ∧ (∀ a b x, c.execs.map (fun e => e.value) = [a, b, x] → exec i s = .next (callNext off t))
      ∧ (∀ a b x p, c.execs.map (fun e => e.value) = [a, b, x, p] →
        (v = p → exec i s = .next (settle d p t))
        ∧ (v ≠ p → exec i s = .next (leaveUnsettled d (putCapsule off t))))))
    ∧ (∀ u cap v c, u.die < nDies s → u.k < 10 →
      s.chk.capsules.find? (fun c => c.id == cap && c.retests.contains u) = some c →
      let i := Instr.retestDone u cap v
      let t := bump Cnt.chkExec (unitIndex u) 1 (putCapsule { c with retests := c.retests.erase u } s)
      let fenced := (physCore s (10 * u.die + u.k)).role = .fenced
      (fenced → exec i s = .next (bump Cnt.fncDiscard (10 * u.die + u.k) 1 s))
      ∧ (¬ fenced → c.standing ≠ some v → exec i s = .next (fenceCore u (addHistory 2 u 0 t)))
      ∧ (¬ fenced → c.standing = some v →
        let w := raise Ev.fncTransient (srcOf 2 (10 * u.die + u.k)) []
          (bump Cnt.fncTransient (unitIndex u) 1 (addHistory 1 u 0 t))
        exec i s = .next (
          if 2 ≤ chargesWithin w 86400 (entryOf u) ∨ 3 ≤ chargesWithin w 2592000 (entryOf u) then
            fenceCore u (addHistory 5 u 0 w)
          else w)))
    ∧ (∀ u : PhysUnit, let key := 10 * u.die + u.k
      (((physCore s key).role = .fenced ∨ (physCore s key).role = .fusedBad) → fenceCore u s = s)
      ∧ ((physCore s key).role ≠ .fenced → (physCore s key).role ≠ .fusedBad →
        let t := raise Ev.fncFence (srcOf 2 key) [] (bump Cnt.fncFence 0 1
          (addSoft (softEntry 1 u.die u.k 0 0 false false s) s))
        let served := sortNat (servedBy (physCore s key))
        let w := if served = [] then t else served.foldl (fun s lc => stopCore lc s) (forfeit t)
        let y := setCore key { bareCore with role := .fenced, fenceUnit := engNo u.eng } w
        let x := dropCapsules u.die u.k { y with chk := { y.chk with
          movedFrom := served.foldl (fun m lc => mapSet m lc key) y.chk.movedFrom } }
        fenceCore u s = served.foldl (fun s lc => moveCore u.die lc s) x))
    ∧ (∀ die lc,
      (∀ key p, lowestSiding s die = some (key, p) → moveCore die lc s = bump Cnt.fncSidingUse 0 1
        (setCore key { p with role := .serving, lc := some lc, copying := setInsert lc p.copying } s))
      ∧ (lowestSiding s die = none → (s.chk.spares.sliceOk = false ∨ chooseHost s die = none) →
        moveCore die lc s = if s.chk.failed then s
          else raise Ev.fncPkgFailed 0 [] { s with chk := { s.chk with failed := true } })
      ∧ (∀ key p, lowestSiding s die = none → s.chk.spares.sliceOk = true → chooseHost s die = some (key, p) →
        moveCore die lc s = guestRegion die (setCore key { p with
          role := .hosting
          guests := p.guests ++ [lc]
          copying := setInsert lc p.copying
          active := if p.active.isSome then p.active else p.lc } s)))
    ∧ (∀ lc poisoned, lc < nLc s → underCopy s lc = true → s.chk.forfeited = false →
      exec (.sidingCopyDone lc poisoned) s = .next (poisoned.foldl (fun s a => poisonCore lc a s) { s with chk := { s.chk with
        movedFrom := mapDel s.chk.movedFrom lc
        cores := mapVals (fun _ (p : PhysCore) => { p with copying := p.copying.filter (fun c => c != lc) }) s.chk.cores } }))
    ∧ (∀ dead x p, s.chk.substs.find? (fun x => x.dead == dead && !x.rebuilt) = some x → x.spare = some p →
      let u := setSubst dead { x with rebuilt := true } s
      (p ≠ pkgNo s → exec (.spareRebuildDone dead) s = .next u)
      ∧ (p = pkgNo s → exec (.spareRebuildDone dead) s = .next (
        (u.pool.tables.flatMap (fun e => (e.2.heirs.filter (fun h => h.dead == dead)).filterMap (fun h => h.region))).foldl
          fillRegion u)))
    ∧ (
        let all := s.flash.hist ++ s.chk.fresh
        exec .historyFlush s = .next { s with
          flash := { s.flash with hist := all.drop (all.length - historyRoom s) }
          chk := { s.chk with fresh := [] } })
    ∧ (s.dev = .ready → s.job = none → s.chk.autoField = true → s.chk.autoDone = false → s.chk.field = none →
      commandRuns s = false →
      let u := reachTime (s.chk.readySince + s.chk.idleS * 1000000000) s
      exec .autoFieldTestStart s = .next { u with chk := { u.chk with
        autoDone := true
        field := some { since := u.now, seconds := 20, byCommand := false, stopped := false } } })
    ∧ (∀ f tiles charged, s.chk.field = some f →
      let t := if f.stopped then s else reachTime (f.since + f.seconds * 1000000000) s
      let units := charged.filter (fun e => e.1.die < nDies t && e.1.k < 10)
      let u := units.foldl (fun s e => chargeUnit 3 e.1 e.2 (bump Cnt.chkExec (unitIndex e.1) 1 s))
        (bump Cnt.chkFieldTile 0 tiles { t with chk := { t.chk with field := none } })
      let w := raise Ev.chkFieldDone 0 [] u
      exec (.fieldTestEnd tiles charged) s = .next (if f.byCommand then answerWaiting 0x0D02 (okWith (pack 8
        [(0, 32, sat 0xFFFFFFFF tiles), (32, 16, sat 0xFFFF units.length), (48, 1, bit f.stopped)])) w else w))
    ∧ ∀ src c,
      let p := c.payload
      let bad := failWith St.badParam 0
      (performs s src 0x0D00 c →
        let rate := field p 0 9
        let idle := field p 16 8
        let off := 256 < rate ∨ field p 10 6 ≠ 0 ∨ field p 24 40 ≠ 0 ∨ (idle ≠ 0 ∧ idle < 10)
        (off → exec (.cmdChkConfig src) s = .next (recorded src c bad s))
        ∧ (¬ off → exec (.cmdChkConfig src) s = .next (recorded src c (okWith []) { s with chk := { s.chk with
          rateNext := if rate = 0 then 64 else rate
          autoField := flag p 9
          idleS := if idle = 0 then 60 else idle } })))
      ∧ (performs s src 0x0D01 c → exec (.cmdChkStatus src) s = .next (recorded src c (okWith (pack 16
        [(0, 9, s.chk.rateNext), (9, 1, bit s.chk.autoField), (16, 8, s.chk.idleS), (64, 1, bit s.chk.field.isSome)])) s))
      ∧ (performs s src 0x0D02 c →
        let n := field p 0 8
        let off := field p 8 56 ≠ 0 ∨ 120 < n ∨ (n ≠ 0 ∧ n < 5)
        (off → exec (.cmdChkFieldTest src) s = .next (recorded src c bad s))
        ∧ (¬ off → s.chk.field.isSome = true →
          exec (.cmdChkFieldTest src) s = .next (recorded src c (failWith St.inUse 0) s))
        ∧ (¬ off → s.chk.field = none →
          let f : FieldTest :=
            { since := s.now
              seconds := if n = 0 then 20 else n
              byCommand := true
              stopped := false }
          exec (.cmdChkFieldTest src) s = .next (leftWaiting src c { s with chk := { s.chk with field := some f } })))
      ∧ (performs s src 0x0D03 c → exec (.cmdFncStatus src) s =
        .next (recorded src c (okWith ((List.range (10 * nDies s)).flatMap (coreEntry s))) s))
      ∧ (performs s src 0x0D04 c →
        let n := field p 32 16
        ((n = 0 ∨ 16384 < n ∨ field p 48 16 ≠ 0) → exec (.cmdFncHistoryRead src) s = .next (recorded src c bad s))
        ∧ (1 ≤ n → n ≤ 16384 → field p 48 16 = 0 → exec (.cmdFncHistoryRead src) s = .next (recorded src c
          (okWith ((((s.flash.hist ++ s.chk.fresh).filter (fun e => histSeconds s ≤ e.secs + 2592000)).drop
            (field p 0 32)).take n |>.flatMap historyBytes)) s)))
      ∧ (performs s src 0x0D05 c →
        let n := field p 8 4
        let left := field p 0 4
        let spares := (List.range n).map (fun i => (field p ((8 + 520 * i) * 8) 12, slice p (16 + 520 * i) 512))
        let pkgs := spares.map (fun e => e.1)
        let off := field p 6 2 ≠ 0 ∨ field p 12 52 ≠ 0 ∨ (setUnion [] pkgs).length ≠ pkgs.length
          ∨ (List.range n).any (fun i => field p ((8 + 520 * i) * 8 + 12) 52 != 0) = true
        ((8 < left ∨ 8 < n) → exec (.cmdFncSparesSet src) s = .next (recorded src c bad s))
        ∧ (left ≤ 8 → n ≤ 8 → off → exec (.cmdFncSparesSet src) s = .next (recorded src c bad s))
        ∧ (left ≤ 8 → n ≤ 8 → ¬ off →
          let cfg : SparesCfg :=
            { deadLeft := if left = 0 then 2 else left
              sliceOk := flag p 4
              mirror := flag p 5
              spares := spares }
          exec (.cmdFncSparesSet src) s =
            .next (recorded src c (okWith []) { s with chk := { s.chk with sparesNext := cfg } })))

/-- For every state. In BRINGUP, phases 1 to 3 take what their tests found and the next begins; phase 0 starts the
firmware, chooses the mode (AUTO: QUICK where R495 allows it, else FULL with EV_BRG_QUICK_DENIED) and trains the
ports, or stays where no firmware runs. A row, a way, a core or a channel found bad enters the soft fault map once,
is counted, and a core or a channel raises its event; a die that is missing and a coupling that fails are kept for
the decision. The decision of phase 4, with no port in TRAINING and no CMD_BRG_ALLOW_DEGRADED executing, takes the
merged map, records a full pass, ends in phase 5 and makes the device READY with its logical cores, or LIMITED with
LIMITED_WHY. A deferred reset happens at its time in the mode asked for. START checked by R509 sets the mode of the
reset to come; ALLOW_DEGRADED in range is kept in flash and, in LIMITED for want of cores alone, may make the device
READY; STATUS and FAULT_MAP_READ answer. -/
def Obligations.BringupProceeds : Prop :=
  ∀ s : State,
    let note := fun (e : FaultEntry) (u : State) => addSoft e { u with brg := { u.brg with found := u.brg.found ++ [e] } }
    (∀ found, s.dev = .bringup →
      (1 ≤ s.brg.phase → s.brg.phase < 4 → s.sm.state = .running →
        let u := found.foldl (applyFound s.brg.phase) s
        exec (.brgPhaseComplete found) s = .next { u with brg := { u.brg with phase := u.brg.phase + 1 } })
      ∧ (s.brg.phase = 0 →
        let u := if s.boot.started then s else bootFirmware s
        (u.boot.started = false → exec (.brgPhaseComplete found) s = .next u)
        ∧ (u.boot.started = true →
          let v := found.foldl (applyFound 0) u
          let mode := if v.brg.requested = 0 then (if quickOk v then 2 else 1) else v.brg.requested
          let w := { v with brg := { v.brg with mode := mode } }
          let x := trainAll (if v.brg.requested = 0 ∧ mode = 1 then raise Ev.brgQuickDenied 0 [] w else w)
          exec (.brgPhaseComplete found) s = .next { x with brg := { x.brg with phase := 1 } })))
    ∧ (∀ d k bank row, d < nDies s → k < 10 →
      let row' := note (softEntry 2 d k bank row true true s) s
      applyFound 1 s (.coreRow d k bank row true) = bump Cnt.brgSramRepair d 1 row'
      ∧ (applyFound 1 s (.coreRow d k bank row false) =
        findCore d k (note (softEntry 2 d k bank row true false s) s))
      ∧ (coreBad s d k = true → findCore d k s = s)
      ∧ (coreBad s d k = false → findCore d k s = raise Ev.brgCoreBad (srcOf 2 (10 * d + k)) []
        (bump Cnt.brgCoreBad 0 1 (note (softEntry 1 d k 0 0 true false s) s)))
      ∧ (∀ e, applyFound 2 s (.coreMinority { die := d, k := k, eng := e } false) = findCore d k s)
      ∧ (∀ n, applyFound n s (.dieMissing d) = { s with brg := { s.brg with diesBad := setInsert d s.brg.diesBad } })
      ∧ (∀ n c, hasCoupling s c = true → applyFound n s (.couplingBad c) =
        { s with brg := { s.brg with couplingsBad := setInsert c s.brg.couplingsBad } }))
    ∧ (∀ p, p < nChans s →
      (chanBad s p = true → findChan p s = s ∧ ∀ row, applyFound 3 s (.stackRow p row) = s)
      ∧ (chanBad s p = false →
        let u := note (softEntry 6 (p / 256) (p / 128) (p % 128) 0 true false s) s
        findChan p s = raise Ev.brgChFail (srcOf 6 p) [] (bump Cnt.brgChFail 0 1
          { u with brg := { u.brg with fullDirty := true } })
        ∧ ∀ row, let v := { s with brg := { s.brg with fullDirty := true } }
          (sparesUsed s p < 32 → applyFound 3 s (.stackRow p row) = bump Cnt.brgStackRowRepair p 1
            (note (softEntry 5 (p / 256) (p / 128) (p % 128) row true true v) v))
          ∧ (32 ≤ sparesUsed s p → applyFound 3 s (.stackRow p row) = findChan p
            (note (softEntry 5 (p / 256) (p / 128) (p % 128) row true false v) v)))
      ∧ (s.brg.mode = 2 → applyFound 3 s (.channelNominal p) = s ∧ applyFound 3 s (.channelMarginal p) = s))
    ∧ (s.dev = .bringup → s.brg.phase = 4 → s.sm.state = .running →
      (List.range (nPorts s)).any (fun q => (port s q).st == .training) = false → anyExecuting 0x0E02 s = false →
      let u := recordFull (reconcile (countRejects s))
      let v := { u with brg := { u.brg with
        phase := 5
        elapsedMs := some ((u.now - u.brg.startTime) / 1000000) } }
      let w := if v.brg.spreadOk then v else raise Ev.memNearfar 0 [] v
      (∀ m degraded, limitedWhy w = 0 → coresPerDie w = some (m, degraded) →
        exec .brgDecide s = .next (setDevHw .ready (becomeReady m degraded w)))
      ∧ (limitedWhy w ≠ 0 → exec .brgDecide s = .next (setDevHw .limited
        (raise Ev.brgLimited 0 (pay64 (limitedWhy w)) { w with brg := { w.brg with limitedWhy := limitedWhy w } }))))
    ∧ (∀ t mode, s.brg.resetAt = some (t, mode) →
      exec .deferredReset s = .next (startBringup true mode (reachTime t s)))
    ∧ ∀ src c,
      let p := c.payload
      (performs s src 0x0E00 c →
        let mode := field p 0 2
        ((2 < mode ∨ field p 2 62 ≠ 0) → exec (.cmdBrgStart src) s = .next (recorded src c (failWith St.badParam 1) s))
        ∧ (mode = 2 → field p 2 62 = 0 → quickOk s = false →
          exec (.cmdBrgStart src) s = .next (recorded src c (failWith St.badParam 2) s))
        ∧ (mode ≤ 2 → field p 2 62 = 0 → (mode = 2 → quickOk s = true) →
          exec (.cmdBrgStart src) s = .next (recorded src c (okWith []) (deferOrphan src mode { s with
            flash := { s.flash with brg := { s.flash.brg with startMode := mode } } }))))
      ∧ (performs s src 0x0E01 c → let b := s.flash.brg
        exec (.cmdBrgStatus src) s = .next (recorded src c (okWith (pack 32 [(0, 3, s.brg.phase),
          (3, 1, bit ((List.range (nPorts s)).any (fun q => (port s q).st == .training))), (4, 2, s.brg.mode),
          (6, 1, bit (quickOk s)), (7, 1, bit s.brg.spreadOk), (8, 1, bit s.brg.degraded), (9, 1, bit b.allow),
          (10, 3, b.minLc), (16, 4, s.brg.m), (24, 6, s.brg.limitedWhy), (30, 1, bit b.memEvent),
          (32, 32, sat 0xFFFFFFFF (s.brg.elapsedMs.getD ((s.now - s.brg.startTime) / 1000000))),
          (64, 64, b.lastFullPass.getD (2 ^ 64 - 1)), (128, 64, histSeconds s), (192, 32, sat 0xFFFFFFFF b.total)])) s))
      ∧ (performs s src 0x0E02 c →
        let allow := flag p 0
        let n := field p 1 3
        let u := { s with flash := { s.flash with brg := { s.flash.brg with allow := allow, minLc := n } } }
        let off := field p 4 60 ≠ 0 ∨ (allow = true ∧ n = 0) ∨ (allow = false ∧ n ≠ 0)
        (s.dev ≠ .limited → (off → exec (.cmdBrgAllowDegraded src) s = .next (recorded src c (failWith St.badParam 0) s))
          ∧ (¬ off → exec (.cmdBrgAllowDegraded src) s = .next (recorded src c (okWith []) u)))
        ∧ (s.dev = .limited → heldBack src s = true → exec (.cmdBrgAllowDegraded src) s = .next s)
        ∧ (s.dev = .limited → heldBack src s = false → ¬ off →
          (∀ m degraded, s.brg.limitedWhy = 1 → coresPerDie u = some (m, degraded) →
            exec (.cmdBrgAllowDegraded src) s =
              .next (recorded src c (okWith []) (setDev .ready (becomeReady m degraded u))))
          ∧ ((s.brg.limitedWhy ≠ 1 ∨ coresPerDie u = none) →
            exec (.cmdBrgAllowDegraded src) s = .next (recorded src c (okWith []) u))))
      ∧ (performs s src 0x0E03 c →
        let n := field p 32 16
        ((n = 0 ∨ 32768 < n ∨ field p 48 16 ≠ 0) →
          exec (.cmdBrgFaultMapRead src) s = .next (recorded src c (failWith St.badParam 0) s))
        ∧ (1 ≤ n → n ≤ 32768 → field p 48 16 = 0 → exec (.cmdBrgFaultMapRead src) s = .next (recorded src c
          (okWith (((faultMap s).drop (field p 0 32)).take n |>.flatMap faultBytes)) s)))

/-- For every state with the stationmaster running. The oldest queued record enters the ring with the next sequence
number, behind an anchor where it needs one, after what R521 removes for it, counted; where no room can be made it
is dropped, counted, and its number taken; a frozen ring takes its number and counts it, or holds one of severity
FATAL, up to 16. A token comes at its time. A spill batch writes what the spill lacks, in order, and counts its
bytes. A freeze ends at its timeout or by command, held records being admitted and EV_EVR_UNFROZEN raised. The
summary is rewritten between two generations. READ, HIST_READ, COUNTERS_READ and PHASE_READ answer and change
nothing; FREEZE begins or prolongs a freeze; CLEAR removes what SCOPE names, is recorded in the ring and in the
clear log, and is refused when that holds 1,024; CONFIG sets one rate or one range. A field out of range answers
ST_BAD_PARAM. -/
def Obligations.RecorderRecords : Prop :=
  ∀ s : State, s.sm.state = .running →
    (∀ r rest, s.evr.queue = r :: rest → r.seq = 0 →
      let u := { s with evr := { s.evr with queue := rest } }
      let anchor := needsAnchor s.evr.ring r.time
      let need := recLen r + if anchor then 16 else 0
      let room := makeRoom r.sev need s.evr.ring.length s.evr.ring []
      (s.evr.freeze = none → ringBytes room.1 + need ≤ ringCap → ∃ t, exec .eventAdmit s = .next t
        ∧ t.evr.queue = rest ∧ t.evr.ring.getLast? = some { r with seq := t.evr.newestSeq }
        ∧ t.evr.newestSeq = s.evr.nextSeq + bit anchor ∧ t.evr.nextSeq = s.evr.nextSeq + bit anchor + 1
        ∧ t = { s with evr := t.evr, ctr := t.ctr, host := t.host })
      ∧ (s.evr.freeze = none → ringCap < ringBytes room.1 + need → exec .eventAdmit s =
        .next (bump Cnt.evrDropFull 0 1 { u with evr := { u.evr with nextSeq := s.evr.nextSeq + 1 } }))
      ∧ (∀ f, s.evr.freeze = some f →
        let v := { u with evr := { u.evr with nextSeq := s.evr.nextSeq + 1 } }
        exec .eventAdmit s = .next (
          if r.sev = 4 ∧ s.evr.fatalHold.length < 16 then
            { v with evr := { v.evr with fatalHold := s.evr.fatalHold ++ [{ r with seq := s.evr.nextSeq }] } }
          else bump Cnt.evrFrozen 0 1 v)))
    ∧ (∀ code t, (bucketOf s code).next = some t → let u := reachTime t s
      exec (.tokenRefill code) s =
        .next { u with evr := { u.evr with buckets := mapSet u.evr.buckets code (bucketDue u code) } })
    ∧ (
      let u := if 262144 ≤ ringBytes (unspilled s) then s else reachTime (s.evr.lastSpill + 10000000000) s
      let rs := sortBy (fun a b => a.seq ≤ b.seq) (unspilled u)
      let v := { u with
        flash := { u.flash with spill := rs.foldl spillRec u.flash.spill }
        evr := { u.evr with
          lastSpill := u.now
          spilledTo := rs.foldl (fun m r => if m < r.seq then r.seq else m) u.evr.spilledTo } }
      exec .spillBatch s = .next (if rs.isEmpty then v else bump Cnt.evrSpillBytes 0 (ringBytes rs) v))
    ∧ (
      let finish := fun (f : Freeze) (w : State) =>
        let u := drainQueue w
        let v := u.evr.fatalHold.foldl (fun s r => admitRec r s) { u with evr := { u.evr with
          freeze := none
          fatalHold := [] } }
        raiseDirect Ev.evrUnfrozen 0 (pay64 (ctrGet v Cnt.evrFrozen 0 - f.startCount)) v
      (∀ f, s.evr.freeze = some f → exec .freezeTimeout s = .next (finish f (reachTime f.expires s)))
      ∧ ∀ src c, performs s src 0x0F02 c →
        (s.evr.freeze = none → exec (.cmdEvrUnfreeze src) s = .next (recorded src c (okWith []) s))
        ∧ ∀ f, s.evr.freeze = some f → exec (.cmdEvrUnfreeze src) s = .next (recorded src c (okWith []) (finish f s)))
    ∧ (
      let u := { s with evr := { s.evr with summaryGen := s.evr.summaryGen + 2, summary := summaryBytes s } }
      exec .summaryRefresh s = .next (pkgEvt 3 u))
    ∧ ∀ src c,
      let p := c.payload
      let bad := failWith St.badParam 0
      (performs s src 0x0F00 c →
        let off := field p 0 2 = 3 ∨ field p 2 62 ≠ 0 ∨ field p 128 32 < 64 ∨ 524288 < field p 128 32
        (off → exec (.cmdEvrRead src) s = .next (recorded src c bad s))
        ∧ (¬ off →
          let rs := if field p 0 2 = 0 then sortBy (fun a b => a.seq ≤ b.seq) s.evr.ring
            else if field p 0 2 = 1 then s.flash.spill.flatten else s.flash.clearLog
          let oldest := match rs with
            | r :: _ => r.seq
            | [] => s.evr.nextSeq
          exec (.cmdEvrRead src) s = .next (recorded src c (okWith (toLE 8 s.evr.nextSeq ++ toLE 8 oldest
            ++ takeRecords (field p 64 64) (field p 128 32 - 16) rs)) s)))
      ∧ (performs s src 0x0F01 c →
        let secs := if field p 0 16 = 0 then 60 else field p 0 16
        (600 < field p 0 16 → exec (.cmdEvrFreeze src) s = .next (recorded src c bad s))
        ∧ (field p 0 16 ≤ 600 →
          (∀ f, s.evr.freeze = some f → exec (.cmdEvrFreeze src) s = .next (recorded src c (okWith []) { s with evr := { s.evr with
            freeze := some { expires := s.now + secs * 1000000000, startCount := f.startCount } } }))
          ∧ (s.evr.freeze = none → let u := raiseDirect Ev.evrFrozen 0 [] s
            exec (.cmdEvrFreeze src) s = .next (recorded src c (okWith []) { u with evr := { u.evr with
              freeze := some { expires := u.now + secs * 1000000000, startCount := ctrGet u Cnt.evrFrozen 0 } } }))))
      ∧ (performs s src 0x0F03 c →
        let scope := field p 0 2
        ((scope = 0 ∨ field p 2 6 ≠ 0) → exec (.cmdEvrClear src) s = .next (recorded src c bad s))
        ∧ (scope ≠ 0 → field p 2 6 = 0 → 1024 ≤ s.flash.clearLog.length →
          exec (.cmdEvrClear src) s = .next (recorded src c (failWith St.noSpace 0) s))
        ∧ (scope ≠ 0 → field p 2 6 = 0 → s.flash.clearLog.length < 1024 →
          ∃ t, exec (.cmdEvrClear src) s = .next (recorded src c (okWith []) t)
            ∧ (∃ e : Rec, t.flash.clearLog = s.flash.clearLog ++ [e] ∧ e.code = Ev.evrCleared ∧ e.time = s.now)
            ∧ (scope % 2 = 1 → t.flash.spill = [])
            ∧ (2 ≤ scope → t.evr.stats = (countRaising Ev.evrCleared 0 { s with evr := { s.evr with stats := [] } }).evr.stats
              ∧ t.evr.hists = [])
            ∧ (scope = 2 → t.flash.spill = s.flash.spill) ∧ (scope = 1 → t.evr.hists = s.evr.hists)))
      ∧ (performs s src 0x0F04 c →
        let kind := field p 0 2
        let first := field p 16 16
        let n := field p 32 16
        let off := 2 ≤ kind ∨ field p 2 14 ≠ 0 ∨ n = 0 ∨ 4096 < n
        (off → exec (.cmdEvrHistRead src) s = .next (recorded src c bad s))
        ∧ (¬ off → exec (.cmdEvrHistRead src) s = .next (recorded src c (okWith (
          if kind = 0 then (((s.evr.stats.drop first).take n).map (statBytes s)).flatten
          else ((((sensorList s).drop first).take n).map (fun e => histBytes e.1 e.2 (histOf s e.1 e.2))).flatten)) s)))
      ∧ (performs s src 0x0F05 c →
        let id := field p 16 16
        let inst := field p 32 16
        let lo := toSigned 32 (field p 64 32)
        let hi := toSigned 32 (field p 96 32)
        (field p 1 15 ≠ 0 → exec (.cmdEvrConfig src) s = .next (recorded src c bad s))
        ∧ (field p 1 15 = 0 → field p 0 1 = 0 → evKnown id = true → id ≠ Ev.evrTime → id ≠ Ev.evrCleared →
          field p 32 16 ≤ 1000 → field p 48 16 ≤ 1024 → field p 64 64 = 0 →
          exec (.cmdEvrConfig src) s = .next (recorded src c (okWith [])
            (setRate id (if field p 32 16 = 0 then 16 else field p 32 16)
              (if field p 48 16 = 0 then 64 else field p 48 16) s)))
        ∧ (field p 1 15 = 0 → field p 0 1 = 1 → (sensorRange id).isSome = true → field p 48 16 = 0 →
          inst < sensorInsts s id → inst ≠ 0xFFFF → lo < hi → (hi - lo) % 32 = 0 →
          exec (.cmdEvrConfig src) s = .next (recorded src c (okWith []) (setRange id inst lo hi s))))
      ∧ (performs s src 0x0F06 c →
        let n := field p 0 8
        let rs := (List.range n).map (fun i => (field p (64 + 64 * i) 16, field p (80 + 64 * i) 16,
          field p (96 + 64 * i) 16, field p (112 + 64 * i) 16))
        let off := n = 0 ∨ 64 < n ∨ field p 8 56 ≠ 0
          ∨ rs.any (fun r => r.2.2.1 == 0 || 4096 < r.2.2.1 || r.2.2.2 != 0) = true
          ∨ 65536 < sumNat (rs.map (fun r => r.2.2.1))
        (off → exec (.cmdEvrCountersRead src) s = .next (recorded src c bad s))
        ∧ (¬ off → exec (.cmdEvrCountersRead src) s = .next (recorded src c (okWith (toLE 8 s.now ++ toLE 8 s.now
          ++ (rs.map (fun r =>
            ((List.range r.2.2.1).map (fun k => toLE 8 (ctrGet s r.1 (r.2.1 + k)))).flatten)).flatten)) s)))
      ∧ (performs s src 0x0F07 c →
        let n := field p 64 16
        ((n = 0 ∨ 4096 < n) → exec (.cmdEvrPhaseRead src) s = .next (recorded src c bad s))
        ∧ (1 ≤ n → n ≤ 4096 → exec (.cmdEvrPhaseRead src) s = .next (recorded src c
          (okWith (((s.evr.phases.filter (fun e => field p 0 64 ≤ e.step)).take n).map phaseBytes).flatten) s)))

/-- For every state. While VAUX powers the meter: a sample adds its energy (power times 4 us, whole millijoules, none
where current flows out or the self-check failed) to ENERGY and to the open account, starts a pulse at each multiple
of 360,000 mJ, enters the interval, and one out of range after one in range is audited; a pulse ends; a commit keeps
the registers; the timer reports at the next multiple of 1,000 ms; a seal change is audited, counted where it opens,
and reported; the port answers each command by R547, a CHALLENGE, ACCOUNT_OPEN and ACCOUNT_CLOSE reporting,
PARAM_LOAD only whole, unsealed, signed and with room. Each audit entry takes the next number and chains the hash;
each report takes the next number, is signed and goes to the bridge. Without power nothing changes. REPORT_READ and
AUDIT_READ answer; ATTEST is counted and answers the signed record; ENROLL changes the record and both copies as
R562 and R563 allow; OPEN, DATA, COMMIT and ACTIVATE update the inactive slot by the checks of R560. -/
def Obligations.MeterAndIdentity : Prop :=
  ∀ s : State,
    let m := s.meter
    let put : Meter → Host.Outcome State Fault Refusal := fun t => .next { s with meter := t }
    let say := fun (st : Nat) (b : List Byte) (t : Meter) => { t with portOut := t.portOut ++ [(st, b)] }
    let told := fun (t : Meter) => say 0 t.lastReport t
    let zero := toLE 8 m.regs.energy
    (∀ (t : Meter) kind data,
      let n := t.regs.auditSeq + 1
      (audit kind data t).regs.auditSeq = n
      ∧ (audit kind data t).regs.auditHead =
        (sha512 (t.regs.auditHead ++ auditHeadBytes n t.regs.ms kind data)).take 16
      ∧ (audit kind data t).audit = auditInsert t.audit
        { seq := n, ms := t.regs.ms, kind := kind, data := (padTo 24 data).take 24, chain := (audit kind data t).regs.auditHead }
      ∧ (audit kind data t).regs.energy = t.regs.energy ∧ (audit kind data t).bridge = t.bridge)
    ∧ (∀ (t : Meter) acc final,
      let body := reportBody t (t.regs.reportSeq + 1) acc final
      (report acc final t).lastReport = body ++ edSign t.secret body
      ∧ (report acc final t).regs = { t.regs with reportSeq := t.regs.reportSeq + 1 }
      ∧ (report acc final t).bridge = t.bridge ++ [((report acc final t).lastReport, t.auditOut)]
      ∧ (report acc final t).intN = 0 ∧ (report acc final t).challenge = none
      ∧ (report acc final t).audit = t.audit ∧ (report acc final t).portOut = t.portOut)
    ∧ (m.powered = true →
      (∀ mv ma, let mj := (m.frac + 4 * (mv * ma.toNat)) / 1000000000
        ∃ t, exec (.meterSample mv ma) s = put t
          ∧ t.regs.energy = (if m.selfFail then m.regs.energy else m.regs.energy + mj)
          ∧ (m.selfFail = false → t.frac = (m.frac + 4 * (mv * ma.toNat)) % 1000000000
            ∧ t.pulseLow = (m.pulseLow || (m.regs.energy + mj) / 360000 != m.regs.energy / 360000)
            ∧ t.regs.account.map (fun a => a.energy) = m.regs.account.map (fun a => a.energy + mj))
          ∧ t.intN = m.intN + 1 ∧ t.intSumV = m.intSumV + mv ∧ t.intSumI = m.intSumI + ma
          ∧ (
            let out := mv < 11000 || 13200 < mv || 400000 < ma
            t.overNow = out ∧ t.overrange = (m.overrange || out)
            ∧ t.regs.auditSeq = m.regs.auditSeq + bit (out && !m.overNow)))
      ∧ exec .meterPulseEnd s = put { m with pulseLow := false }
      ∧ exec .meterCommit s = put { m with nv := m.regs }
      ∧ (∃ t, exec .meterReportTimer s = put t ∧ t.regs.ms % 1000 = 0 ∧ m.regs.ms ≤ t.regs.ms
        ∧ t.regs.ms ≤ m.regs.ms + 1000 ∧ t.regs.reportSeq = m.regs.reportSeq + 1 ∧ t.regs.energy = m.regs.energy)
      ∧ (m.sealOpen = true → exec .sealChange s = put (reportNow (audit 2 zero { m with sealOpen := false })))
      ∧ (m.sealOpen = false → exec .sealChange s = put (reportNow (audit 1 zero { m with
        sealOpen := true
        regs := { m.regs with sealEvents := m.regs.sealEvents + 1 } })))
      ∧ exec .readReport s = put (told m)
      ∧ (∀ b, (b.length = 16 → exec (.challenge b) s = put (say 0 [] (reportNow { m with challenge := some b })))
        ∧ (b.length ≠ 16 → exec (.challenge b) s = put (say 1 [] m)))
      ∧ (∀ n, (∀ e, m.audit.find? (fun e => e.seq == n) = some e → exec (.readAudit n) s = put (say 0 (auditBytes e) m))
        ∧ (m.audit.find? (fun e => e.seq == n) = none → exec (.readAudit n) s = put (say 1 [] m)))
      ∧ (∀ a, m.regs.account = some a →
        let t := report (some a) true (audit 5 (accountData m a) m)
        exec .accountClose s = put (told { t with regs := { t.regs with account := none } }))
      ∧ (m.regs.account = none → exec .accountClose s = put (say 1 [] m)
        ∧ ∀ id, let a : Account := { id := id, energy := 0, startMs := m.regs.ms, pMax := 0 }
          let t := { m with regs := { m.regs with account := some a, accountSeq := m.regs.accountSeq + 1 } }
          exec (.accountOpen id) s = put (told (reportNow (audit 4 (accountData t a) t))))
      ∧ (∀ a0 id, m.regs.account = some a0 → ∃ t, exec (.accountOpen id) s = put t
        ∧ t.regs.account = some { id := id, energy := 0, startMs := m.regs.ms, pMax := 0 }
        ∧ t.regs.reportSeq = m.regs.reportSeq + 2 ∧ t.regs.auditSeq = m.regs.auditSeq + 2)
      ∧ exec .readId s = put (say 0 (toLE 4 m.fwId ++ padTo 64 m.romDigest ++ toLE 4 m.param.version ++ paramDigest m
        ++ edPublic m.secret ++ toLE 8 m.serial.toNat) m)
      ∧ (∀ b,
        ((b = [] ∨ b.length % 256 ≠ 0) → exec (.paramLoad b) s = put (say 1 [] m))
        ∧ (b ≠ [] → b.length % 256 = 0 →
          (m.sealOpen = false → exec (.paramLoad b) s = put (say 2 [] m))
          ∧ (m.sealOpen = true → paramSigned m.metrologyKey b = false → exec (.paramLoad b) s = put (say 3 [] m))
          ∧ (m.sealOpen = true → paramSigned m.metrologyKey b = true → auditFull m = true →
            exec (.paramLoad b) s = put (say 4 [] m))
          ∧ (m.sealOpen = true → paramSigned m.metrologyKey b = true → auditFull m = false →
            ∃ t, exec (.paramLoad b) s = put t ∧ t.param.bytes = b ∧ t.param.factory = false
              ∧ t.regs.auditSeq = m.regs.auditSeq + 1 ∧ t.regs.energy = m.regs.energy ∧ t.portOut = m.portOut ++ [(0, [])])))
      ∧ (∀ byte, (byte = 0 ∨ 7 < byte) → exec (.meterBadCommand byte) s = put (say 1 [] m)))
    ∧ (m.powered = false → ∀ i, i ∈ [Instr.meterPulseEnd, .meterCommit, .meterReportTimer, .sealChange, .readReport,
      .accountClose, .readId] → exec i s = .next s)
    ∧ ∀ src c,
      let p := c.payload
      let bad := failWith St.badParam 0
      (performs s src 0x1000 c →
        let n := field p 0 8
        ((n = 0 ∨ 64 < n) → exec (.cmdMtrReportRead src) s = .next (recorded src c bad s))
        ∧ (1 ≤ n → n ≤ 64 → exec (.cmdMtrReportRead src) s = .next (recorded src c (okWith
          (((List.range (Nat.min n s.win.filled)).map (fun k => slotBytes s.win ((s.win.newest + 64 - k) % 64))).flatten)) s)))
      ∧ (performs s src 0x1001 c →
        let n := field p 64 16
        let es := (s.win.audit.map (fun e => e.2)).filter (fun e => field p 0 64 ≤ e.seq)
        ((n = 0 ∨ 256 < n) → exec (.cmdMtrAuditRead src) s = .next (recorded src c bad s))
        ∧ (1 ≤ n → n ≤ 256 → exec (.cmdMtrAuditRead src) s = .next (recorded src c
          (okWith ((((sortBy (fun a b => a.seq ≤ b.seq) es).take n).map auditBytes).flatten)) s)))
      ∧ (performs s src 0x1010 c → exec (.cmdPkgAttest src) s =
        .next (recorded src c (okWith (attestation p s)) (bump Cnt.pkgAttest 0 1 s)))
      ∧ (performs s src 0x1011 c →
        (enrolChange p s = none → exec (.cmdPkgOwnerEnroll src) s = .next (recorded src c bad s))
        ∧ ∀ e, enrolChange p s = some e → let f := { e with updateNo := (enrol s).updateNo + 1 }
          exec (.cmdPkgOwnerEnroll src) s = .next (recorded src c (okWith []) (raise Ev.pkgOwnerEnroll 0
            (pack 8 [(0, 8, field p 0 8), (8, 8, field p 8 4)]) (bump Cnt.pkgEnroll 0 1
              { s with flash := { s.flash with enrol1 := f, enrol2 := f } }))))
      ∧ (performs s src 0x1012 c →
        let n := field p 0 32
        let off := n < 320 ∨ 67108864 < n ∨ n % 64 ≠ 0
        (off → exec (.cmdPkgFwOpen src) s = .next (recorded src c bad s))
        ∧ (¬ off → exec (.cmdPkgFwOpen src) s = .next (recorded src c (okWith [])
          { (setBootHdr (markSlot (inactive s) false true) (setFwSlot (inactive s) { factory := false, units := [] } s))
            with fw := some { imageBytes := n, pldm := false } })))
      ∧ (performs s src 0x1013 c →
        let o := field p 0 32
        let n := field p 32 32
        (s.fw = none → exec (.cmdPkgFwData src) s = .next (recorded src c bad s))
        ∧ ∀ f, s.fw = some f →
          ((f.pldm = true ∨ o % 64 ≠ 0 ∨ n % 64 ≠ 0 ∨ n < 64 ∨ 524288 < n ∨ f.imageBytes < o + n) →
            exec (.cmdPkgFwData src) s = .next (recorded src c bad s))
          ∧ (f.pldm = false → o % 64 = 0 → n % 64 = 0 → 64 ≤ n → n ≤ 524288 → o + n ≤ f.imageBytes →
            exec (.cmdPkgFwData src) s = .next (recorded src c (okWith []) (fwDataS o (slice p 8 n) s))))
      ∧ (performs s src 0x1014 c →
        (s.fw = none → exec (.cmdPkgFwCommit src) s = .next (recorded src c (failWith St.badParam 1) s))
        ∧ ∀ f, s.fw = some f → f.pldm = false →
          let b := inactive s
          let v := imageCheck s (fwSlot s b) (some f.imageBytes)
          let u := setBootHdr (markSlot b v.isNone false) { s with fw := none }
          (v = none → exec (.cmdPkgFwCommit src) s = .next (recorded src c (okWith []) (raise Ev.pkgFwCommit 0 []
            (bump Cnt.pkgFwCommit 0 1 { u with flash := { u.flash with lastCommitB := b } }))))
          ∧ ∀ k, v = some k → exec (.cmdPkgFwCommit src) s = .next (recorded src c (failWith St.badParam k)
            (raise Ev.pkgFwReject 0 (pay64 k) (bump Cnt.pkgFwReject 0 1 u))))
      ∧ (performs s src 0x1015 c →
        ((field p 1 31 ≠ 0 ∨ lastValid s = none) → exec (.cmdPkgFwActivate src) s = .next (recorded src c bad s))
        ∧ ∀ b, field p 1 31 = 0 → lastValid s = some b →
          let u := raise Ev.pkgFwActivate 0 [] (setBootHdr (fun h => { h with activeB := b }) s)
          exec (.cmdPkgFwActivate src) s =
            .next (recorded src c (okWith []) (if flag p 0 then deferOrphan src 0 u else u)))

/-- For every state. VAUX that comes starts STANDBY and the meter with its entry and report; VAUX that goes ends in OFF,
the meter audited and committed, the bridge window lost. VIN below 10.6 V or a fall of PKG_PWRGD holds running dies
in reset with EV_PKG_VIN_LOSS latched; VIN out of range is counted with its event; PKG_RST_N low holds them;
PKG_PWRGD or PKG_RST_N high releases dies in STANDBY that nothing holds into BRINGUP. PCIE_PERST_N and PCIE_REFCLK
lost close the mailboxes, the latter counted; LREFCLK lost holds the dies, latched. A temperature steps the die,
raises EV_PKG_THROTTLE on leaving step 0 and at 125 degrees trips; the power control's ceiling, PKG_THROTTLE_N and a
finished change move CCLK to the lowest of three ceilings. A JTAG instruction acts where its condition holds, else
BYPASS is in force, counted; the private debug instructions of a part whose DBG_LOCK is intact are refused.
POWER_LIMIT in range sets PL and TJ_THR; the status commands answer. Held dies keep fuses, meter and soft fault map. -/
def Obligations.PackagePinsAndPower : Prop :=
  ∀ s : State,
    let pins := fun (p : Package) => { s with pkg := p }
    let hold := fun (u : State) => if diesRun s then holdReset (latch Ev.pkgVinLoss [] u) else u
    (∀ u : State, u.dev ≠ .off → u.dev ≠ .standby → (holdReset u).dev = .standby ∧ (holdReset u).fuse = u.fuse
      ∧ (holdReset u).meter = u.meter ∧ softKept u.flash.softMap (holdReset u).flash.softMap
      ∧ (holdReset u).mem = State.reset.mem ∧ (holdReset u).job = none ∧ (holdReset u).now = u.now
      ∧ ∀ n, (mailbox (holdReset u) n).phase = .closed)
    ∧ (s.pkg.vaux = false → ∀ ok, exec (.vauxApplied ok) s = .next { s with
        dev := .standby
        stateSeq := 0
        pkg := { s.pkg with vaux := true, thermtrip := false, jtag := .idcode }
        meter := meterPowerUp ok s.meter })
    ∧ (s.pkg.vaux = true → ∃ t, exec .vauxLoss s = .next t ∧ t.dev = .off ∧ t.pkg.vaux = false ∧ t.win = resetWindow
      ∧ t.meter.powered = false ∧ t.meter.nv = t.meter.regs ∧ t.meter.regs.energy = s.meter.regs.energy
      ∧ t.meter.regs.auditSeq = s.meter.regs.auditSeq + 1 ∧ t.fuse = s.fuse)
    ∧ exec .vinLoss s = .next (hold (pins { s.pkg with vin := false, vinRange := false }))
    ∧ exec .pkgPwrgdFall s = .next (hold (pins { s.pkg with pwrgd := false }))
    ∧ (s.pkg.vinRange = true → let u := pins { s.pkg with vinRange := false }
      exec .vinRangeExit s = .next (if diesRun s then raise Ev.pkgVinRange 0 [] (bump Cnt.pkgVinRange 0 1 u) else u))
    ∧ exec .pkgRstNFall s = .next (holdReset (pins { s.pkg with rstN := false }))
    ∧ (s.pkg.pwrgd = false →
      let u := pins { s.pkg with pwrgd := true, vin := true, vinRange := true, lrefclk := true }
      exec .pkgPwrgdRise s = .next (
        if s.dev = .standby ∧ s.pkg.vaux = true ∧ s.pkg.rstN = true ∧ s.pkg.thermtrip = false then startBringup false 0 u
        else u))
    ∧ (s.pkg.rstN = false →
      let trip := s.pkg.thermtrip && s.pkg.dies.any (fun e => 760 < e.2.temp)
      let u := pins { s.pkg with rstN := true, thermtrip := trip, lrefclk := true }
      exec .pkgRstNRise s = .next (
        if s.dev = .standby ∧ s.pkg.vaux = true ∧ s.pkg.pwrgd = true ∧ trip = false then startBringup false 0 u else u))
    ∧ (
      let u := pins { s.pkg with perstN := false }
      exec .pciePerstNFall s = .next (if diesRun s then closeMailboxes u else u))
    ∧ exec .pciePerstNRise s = .next (pins { s.pkg with perstN := true })
    ∧ (s.pkg.refclk = true → let u := pins { s.pkg with refclk := false }
      exec .pcieRefclkLoss s = .next (
        if diesRun s then raise Ev.pkgRefclkLoss 0 [] (bump Cnt.pkgRefclkLoss 0 1 (closeMailboxes u)) else u))
    ∧ exec .pcieRefclkReturn s = .next (pins { s.pkg with refclk := true })
    ∧ (
      let u := pins { s.pkg with lrefclk := false }
      exec .lrefclkLoss s = .next (if diesRun s then holdReset (latch Ev.pkgLrefclkLoss [] u) else u))
    ∧ (∀ d temp, d < nDies s → diesRun s = true →
      let c := dieClock s d
      let t := telemetry 0x0104 d c.cclk (telemetry 0x0103 d temp s)
      let k := nextStep t.pkg.tjThr c.step temp
      let u := setDie d { c with temp := temp, step := k } (fillDies t)
      let v := if c.step = 0 ∧ 0 < k then raise Ev.pkgThrottle (srcOf 1 d) [] u else u
      exec (.dieTempReport d temp) s = .next (
        if 1000 ≤ temp then
          holdReset (latch Ev.pkgThermtrip (pay64 d) { v with pkg := { v.pkg with thermtrip := true } })
        else retarget v))
    ∧ (∀ (thr cur : Nat) (temp : Int), cur ≤ 3 → let k := nextStep thr cur temp
      k ≤ 3 ∧ (temp < 8 * thr - 16 → k = 0) ∧ (8 * thr + 48 ≤ temp → k = 3) ∧ (cur = 0 → 8 * thr ≤ temp → 1 ≤ k)
      ∧ (∀ j, j < cur → 8 * thr + 24 * j - 16 ≤ temp → j + 1 ≤ k))
    ∧ (∀ (vin iin p10 mhz : Nat), diesRun s = true →
      let t := telemetry 0x0102 0 p10 (telemetry 0x0101 0 iin (telemetry 0x0100 0 vin s))
      exec (.powerCeilingUpdate vin iin p10 mhz) s = .next (retarget (fillDies { t with pkg := { t.pkg with
        vinMv := vin
        iinMa := iin
        p10Mw := p10
        pwrCeil := Nat.max 350 (Nat.min 700 (mhz / 25 * 25))
        vinRange := s.pkg.vinRange || (11000 ≤ vin && vin ≤ 13200) } })))
    ∧ (diesRun s = true → exec .pkgThrottleNFall s = .next (retarget (fillDies (pins { s.pkg with throttleN := false })))
      ∧ exec .pkgThrottleNRise s = .next (retarget (fillDies (pins { s.pkg with throttleN := true }))))
    ∧ (diesRun s = false → exec .pkgThrottleNFall s = .next (pins { s.pkg with throttleN := false })
      ∧ exec .pkgThrottleNRise s = .next (pins { s.pkg with throttleN := true }))
    ∧ (∀ d, d < nDies s → (dieClock s d).changing = true →
      ∃ t, exec (.cclkChangeDone d) s = .next t
        ∧ (dieClock t d).changing = false ∧ (dieClock t d).cclk ≤ 700
        ∧ (dieClock t d).cclk ≤ thermalMhz (dieClock s d).step ∧ (dieClock t d).cclk ≤ s.pkg.pwrCeil
        ∧ (s.pkg.throttleN = false → (dieClock t d).cclk ≤ 350)
        ∧ t = { s with pkg := { s.pkg with dies := t.pkg.dies } })
    ∧ (s.dev ≠ .off → s.fuse.dbgLockBlown = false → exec (.jtagInstruction .privateDebug) s = .refused .privateDebug)
    ∧ (s.dev ≠ .off → ∀ i, (i = .privateDebug → s.fuse.dbgLockBlown = true) →
      (jtagActs s i = true → exec (.jtagInstruction i) s = .next (pins { s.pkg with jtag := i }))
      ∧ (jtagActs s i = false → let u := pins { s.pkg with jtag := .bypass }
        exec (.jtagInstruction i) s = .next (if i = .other then u else bump Cnt.pkgJtagBlock 0 1 u)))
    ∧ ∀ src c,
      let p := c.payload
      (performs s src 0x1100 c → exec (.cmdPkgPowerStatus src) s = .next (recorded src c (okWith (pack 24
        [(0, 32, s.pkg.vinMv), (32, 32, s.pkg.iinMa), (64, 32, s.pkg.p10Mw), (96, 16, s.pkg.plW), (112, 8, s.pkg.tjThr),
          (128, 16, s.pkg.pwrCeil), (144, 1, bit !s.pkg.throttleN)])) s))
      ∧ (performs s src 0x1101 c →
        let pl := field p 0 16
        let tj := field p 16 8
        let off := field p 24 40 ≠ 0 ∨ (pl ≠ 0 ∧ (pl < codeMinW s.fuse.code ∨ codeMaxW s.fuse.code < pl))
          ∨ (tj ≠ 0 ∧ (tj < 85 ∨ 100 < tj))
        (off → exec (.cmdPkgPowerLimit src) s = .next (recorded src c (failWith St.badParam 0) s))
        ∧ (¬ off → exec (.cmdPkgPowerLimit src) s = .next (recorded src c (okWith []) (raise Ev.pkgPwrLimit 0 [] (pins { s.pkg with
          plW := if pl = 0 then s.pkg.plW else pl
          tjThr := if tj = 0 then s.pkg.tjThr else tj })))))
      ∧ (performs s src 0x1102 c → exec (.cmdPkgThermalStatus src) s = .next (recorded src c (okWith
        (((List.range (nDies s)).map (fun d => pack 8 [(0, 16, ofSigned 16 (dieClock s d).temp),
          (16, 2, (dieClock s d).step), (24, 16, (dieClock s d).cclk), (40, 2, cclkCause s (dieClock s d))])).flatten)) s))

end Statements
end

