-- ==== Sys2Proof/Laws/Maps.lean ====
section
/-! SUPPORT. Laws of finite maps: reading after setting, and what holds of every value. -/

namespace Sys2Proof.Machine

/-- A map reads at a key what was set there. -/
@[simp] theorem mapGet_mapSet_same {α : Type} (m : AMap α) (k : Nat) (v : α) : mapGet (mapSet m k v) k = some v := by
  induction m with
  | nil => simp [mapSet, mapGet]
  | cons e m ih =>
    obtain ⟨k', v'⟩ := e
    simp only [mapSet]
    split
    · simp [mapGet]
    · split
      · simp [mapGet]
      · next h => simp [mapGet, ih, Ne.symm h]

/-- Setting one key leaves every other as it was. -/
theorem mapGet_mapSet_other {α : Type} (m : AMap α) {k j : Nat} (v : α) (h : j ≠ k) : mapGet (mapSet m k v) j = mapGet m j := by
  induction m with
  | nil => simp [mapSet, mapGet, Ne.symm h]
  | cons e m ih =>
    obtain ⟨k', v'⟩ := e
    simp only [mapSet]
    split
    · simp [mapGet, Ne.symm h]
    · split
      · next hk => subst hk; simp [mapGet, Ne.symm h]
      · simp only [mapGet, ih]

@[simp] theorem mapGetD_mapSet_same {α : Type} (m : AMap α) (k : Nat) (v d : α) : mapGetD (mapSet m k v) k d = v := by
  simp [mapGetD]

theorem mapGetD_mapSet_other {α : Type} (m : AMap α) {k j : Nat} (v d : α) (h : j ≠ k) :
    mapGetD (mapSet m k v) j d = mapGetD m j d := by
  simp [mapGetD, mapGet_mapSet_other m v h]

/-- A key deleted is absent. -/
@[simp] theorem mapGet_mapDel_same {α : Type} (m : AMap α) (k : Nat) : mapGet (mapDel m k) k = none := by
  induction m with
  | nil => simp [mapDel, mapGet]
  | cons e m ih =>
    obtain ⟨k', v'⟩ := e
    simp only [mapDel, List.filter_cons] at *
    split
    · next h =>
      have hk : k' ≠ k := by simpa using h
      simpa [mapGet, hk] using ih
    · exact ih

/-- Deleting one key leaves every other as it was. -/
theorem mapGet_mapDel_other {α : Type} (m : AMap α) {k j : Nat} (h : j ≠ k) : mapGet (mapDel m k) j = mapGet m j := by
  induction m with
  | nil => simp [mapDel]
  | cons e m ih =>
    obtain ⟨k', v'⟩ := e
    simp only [mapDel, List.filter_cons] at *
    split
    · simp only [mapGet, ih]
    · next hk =>
      have hk : k' = k := by simpa using hk
      simpa [mapGet, hk, Ne.symm h] using ih

theorem mapSet_mem {α : Type} {m : AMap α} {k : Nat} {v : α} {e : Nat × α} (h : e ∈ mapSet m k v) : e = (k, v) ∨ e ∈ m := by
  induction m with
  | nil => simpa [mapSet] using h
  | cons x m ih =>
    obtain ⟨k', v'⟩ := x
    simp only [mapSet] at h
    split at h
    · simpa using h
    · split at h
      · rcases List.mem_cons.1 h with h | h
        · exact .inl h
        · exact .inr (List.mem_cons_of_mem _ h)
      · rcases List.mem_cons.1 h with h | h
        · exact .inr (h ▸ List.mem_cons_self ..)
        · exact (ih h).imp id (List.mem_cons_of_mem _)

/-- A property of every value of a map holds after a value that has it is set. -/
theorem mapSet_all {α : Type} {p : Nat × α → Bool} {m : AMap α} {k : Nat} {v : α} (h : m.all p = true) (hv : p (k, v) = true) :
    (mapSet m k v).all p = true := by
  induction m with
  | nil => simp [mapSet, hv]
  | cons e m ih =>
    obtain ⟨k', v'⟩ := e
    simp only [List.all_cons, Bool.and_eq_true] at h
    simp only [mapSet]
    split
    · simp [hv, h]
    · split
      · simp [hv, h]
      · simp [ih h.2, h]

theorem mapGet_all {α : Type} {p : α → Bool} {m : AMap α} {k : Nat} {v : α} (h : m.all (fun e => p e.2) = true)
    (g : mapGet m k = some v) : p v = true := by
  induction m with
  | nil => simp [mapGet] at g
  | cons e m ih =>
    obtain ⟨k', v'⟩ := e
    simp only [List.all_cons, Bool.and_eq_true] at h
    simp only [mapGet] at g
    split at g
    · simp only [Option.some.injEq] at g
      exact g ▸ h.1
    · exact ih h.2 g

theorem mapGetD_all {α : Type} {p : α → Bool} {m : AMap α} {k : Nat} {d : α} (h : m.all (fun e => p e.2) = true)
    (hd : p d = true) : p (mapGetD m k d) = true := by
  unfold mapGetD
  split
  · exact mapGet_all h (by assumption)
  · exact hd

end Sys2Proof.Machine
end

