-- ==== Sys2Proof/Laws/Memory.lean ====
section
/-! SUPPORT. Laws of memory contents: every operation keeps the canonical form, a read after a write gives what was
written, and a write leaves every other byte alone. -/

namespace Sys2Proof.Machine

/-- The canonical form, said of pairs of cells. -/
theorem cellsWf_iff (l : List Host.Cell) :
    cellsWf l = true ↔ l.Pairwise (fun c d => c.1 < d.1) ∧ ∀ c ∈ l, c.2 ≠ 0 := by
  induction l with
  | nil => simp [cellsWf]
  | cons c l ih =>
    cases l with
    | nil => simp [cellsWf]
    | cons d l =>
      simp only [cellsWf, Bool.and_eq_true, ih, decide_eq_true_eq, bne_iff_ne, ne_eq, List.pairwise_cons, List.mem_cons,
        forall_eq_or_imp]
      constructor
      · rintro ⟨⟨h1, h2⟩, ⟨h3, h4⟩, h5, h6⟩
        exact ⟨⟨⟨h2, fun e he => Nat.lt_trans h2 (h3 e he)⟩, h3, h4⟩, h1, h5, h6⟩
      · rintro ⟨⟨⟨h2, _⟩, h3, h4⟩, h1, h5, h6⟩
        exact ⟨⟨h1, h2⟩, ⟨h3, h4⟩, h5, h6⟩

theorem dataCells_mem {a : Nat} {b : List Byte} {c : Host.Cell} (h : c ∈ dataCells a b) :
    a ≤ c.1 ∧ c.1 < a + b.length ∧ c.2 ≠ 0 := by
  induction b generalizing a with
  | nil => simp [dataCells] at h
  | cons x b ih =>
    simp only [dataCells] at h
    split at h
    · have g := ih h
      simp only [List.length_cons]
      exact ⟨by omega, by omega, g.2.2⟩
    · rcases List.mem_cons.1 h with rfl | h
      · simp only [List.length_cons]
        exact ⟨Nat.le_refl _, by omega, by assumption⟩
      · have g := ih h
        simp only [List.length_cons]
        exact ⟨by omega, by omega, g.2.2⟩

theorem dataCells_pairwise (a : Nat) (b : List Byte) : (dataCells a b).Pairwise (fun c d => c.1 < d.1) := by
  induction b generalizing a with
  | nil => simp [dataCells]
  | cons x b ih =>
    simp only [dataCells]
    split
    · exact ih _
    · refine List.pairwise_cons.2 ⟨fun c hc => ?_, ih _⟩
      have := (dataCells_mem hc).1
      show a < c.1
      omega

/-- A write keeps the canonical form. -/
theorem cellsWrite_wf {l : List Host.Cell} (a : Nat) (d : List Byte) (h : cellsWf l = true) : cellsWf (cellsWrite l a d) = true := by
  rw [cellsWf_iff] at *
  obtain ⟨hp, hn⟩ := h
  refine ⟨?_, ?_⟩
  · unfold cellsWrite
    rw [List.pairwise_append, List.pairwise_append]
    refine ⟨⟨hp.filter _, dataCells_pairwise _ _, ?_⟩, hp.filter _, ?_⟩
    · intro c hc e he
      have h1 := (List.mem_filter.1 hc).2
      have h2 := (dataCells_mem he).1
      simp only [decide_eq_true_eq] at h1
      omega
    · intro c hc e he
      have h2 := (List.mem_filter.1 he).2
      simp only [decide_eq_true_eq] at h2
      rcases List.mem_append.1 hc with hc | hc
      · have h1 := (List.mem_filter.1 hc).2
        simp only [decide_eq_true_eq] at h1
        omega
      · have h1 := (dataCells_mem hc).2.1
        omega
  · intro c hc
    unfold cellsWrite at hc
    rcases List.mem_append.1 hc with hc | hc
    · rcases List.mem_append.1 hc with hc | hc
      · exact hn c (List.mem_filter.1 hc).1
      · exact (dataCells_mem hc).2.2
    · exact hn c (List.mem_filter.1 hc).1

/-- Clearing keeps the canonical form. -/
theorem cellsClear_wf {l : List Host.Cell} (a n : Nat) (h : cellsWf l = true) : cellsWf (cellsClear l a n) = true := by
  rw [cellsWf_iff] at *
  obtain ⟨hp, hn⟩ := h
  unfold cellsClear
  refine ⟨?_, ?_⟩
  · rw [List.pairwise_append]
    refine ⟨hp.filter _, hp.filter _, ?_⟩
    intro c hc e he
    have h1 := (List.mem_filter.1 hc).2
    have h2 := (List.mem_filter.1 he).2
    simp only [decide_eq_true_eq] at h1 h2
    omega
  · intro c hc
    rcases List.mem_append.1 hc with hc | hc
    · exact hn c (List.mem_filter.1 hc).1
    · exact hn c (List.mem_filter.1 hc).1

/-- The byte that a write's cells hold. -/
theorem dataCells_find (a : Nat) (b : List Byte) (x : Nat) :
    cellByte (dataCells a b) x = if a ≤ x ∧ x < a + b.length then b.getD (x - a) 0 else 0 := by
  induction b generalizing a with
  | nil => simp [dataCells, cellByte]
  | cons y b ih =>
    simp only [dataCells]
    by_cases hx : a = x
    · subst hx
      have hl : ¬ (a + 1 ≤ a) := by omega
      split
      · next h0 => rw [ih]; simp [h0]
      · simp [cellByte]
    · have e : x - a = (x - (a + 1)) + 1 ∨ x < a := by omega
      have key : cellByte (dataCells (a + 1) b) x = if a ≤ x ∧ x < a + (y :: b).length then (y :: b).getD (x - a) 0 else 0 := by
        rw [ih]
        simp only [List.length_cons]
        by_cases h1 : a + 1 ≤ x ∧ x < a + 1 + b.length
        · rw [if_pos h1, if_pos (by omega)]
          rcases e with e | e
          · rw [e]; simp
          · omega
        · rw [if_neg h1, if_neg (by omega)]
      split
      · exact key
      · rw [← key]
        simp [cellByte, hx]

theorem find_append_none {l m : List Host.Cell} {x : Nat} (h : ∀ c ∈ l, c.1 ≠ x) :
    (l ++ m).find? (fun c => c.1 == x) = m.find? (fun c => c.1 == x) := by
  rw [List.find?_append, List.find?_eq_none.2 (by simpa using h)]
  rfl

theorem find_filter {l : List Host.Cell} {x : Nat} {p : Host.Cell → Bool} (h : ∀ c : Host.Cell, c.1 = x → p c = true) :
    (l.filter p).find? (fun c => c.1 == x) = l.find? (fun c => c.1 == x) := by
  induction l with
  | nil => rfl
  | cons c l ih =>
    by_cases hc : c.1 = x
    · simp [h c hc, hc]
    · by_cases hp : p c = true <;> simp [hp, hc, ih]

/-- A byte after a write: what was written there, or what stood there. -/
theorem cellByte_write (l : List Host.Cell) (a : Nat) (d : List Byte) (x : Nat) :
    cellByte (cellsWrite l a d) x = if a ≤ x ∧ x < a + d.length then d.getD (x - a) 0 else cellByte l x := by
  have hf : ∀ c ∈ l.filter (fun c => c.1 < a), c.1 < a := fun c hc => by simpa using (List.mem_filter.1 hc).2
  have hg : ∀ c ∈ l.filter (fun c => a + d.length ≤ c.1), a + d.length ≤ c.1 := fun c hc => by
    simpa using (List.mem_filter.1 hc).2
  unfold cellsWrite
  by_cases h1 : x < a
  · rw [if_neg (by omega)]
    unfold cellByte
    rw [List.append_assoc, List.find?_append, find_filter (by intro c hc; simp [hc, h1])]
    cases hfind : l.find? (fun c => c.1 == x) with
    | some c => rfl
    | none =>
      rw [List.find?_eq_none.2]
      · rfl
      · intro c hc
        rcases List.mem_append.1 hc with hc | hc
        · have := (dataCells_mem hc).1
          simp only [beq_iff_eq]; omega
        · have := hg c hc
          simp only [beq_iff_eq]; omega
  · by_cases h2 : x < a + d.length
    · rw [if_pos ⟨by omega, h2⟩, List.append_assoc]
      have e := dataCells_find a d x
      rw [if_pos ⟨by omega, h2⟩] at e
      rw [← e]
      unfold cellByte
      rw [find_append_none (fun c hc => by have := hf c hc; omega), List.find?_append]
      cases hfind : (dataCells a d).find? (fun c => c.1 == x) with
      | some c => rfl
      | none =>
        rw [List.find?_eq_none.2]
        · rfl
        · intro c hc
          have := hg c hc
          simp only [beq_iff_eq]; omega
    · rw [if_neg (by omega)]
      unfold cellByte
      rw [List.append_assoc, find_append_none (fun c hc => by have := hf c hc; omega),
        find_append_none (fun c hc => by have := (dataCells_mem hc).2.1; omega),
        find_filter (by intro c hc; simp only [hc, decide_eq_true_eq]; omega)]

/-- A byte after a range is cleared. -/
theorem cellByte_clear (l : List Host.Cell) (a n x : Nat) :
    cellByte (cellsClear l a n) x = if a ≤ x ∧ x < a + n then 0 else cellByte l x := by
  have e : cellsClear l a n = cellsWrite l a (List.replicate n 0) := by
    have z : ∀ k b, dataCells b (List.replicate k (0 : Byte)) = [] := by
      intro k
      induction k with
      | zero => intro b; rfl
      | succ k ih =>
        intro b
        rw [List.replicate_succ, dataCells, if_pos rfl]
        exact ih _
    rw [cellsClear, cellsWrite, z, List.append_nil, List.length_replicate]
  rw [e, cellByte_write]
  simp only [List.length_replicate]
  by_cases h : a ≤ x ∧ x < a + n
  · rw [if_pos h, if_pos h]
    simp [List.getD_eq_getElem?_getD]
  · rw [if_neg h, if_neg h]

end Sys2Proof.Machine
end

