-- ==== Sys2Proof/Laws/Regions.lean ====
section
/-! SUPPORT. A region that the allocator places is apart from every other (R350, R352). -/

namespace Sys2Proof.Machine

theorem Region.apart_symm {a b : Region} (h : a.apart b) : b.apart a := Or.symm h

/-- A region apart from every other joins them. -/
theorem regionsApart_set {m : AMap Region} {k : Nat} {r : Region} (h : regionsApart m) (hr : ∀ e ∈ m, r.apart e.2) :
    regionsApart (mapSet m k r) := by
  unfold regionsApart at *
  induction m with
  | nil => simp [mapSet]
  | cons x m ih =>
    obtain ⟨k', v'⟩ := x
    simp only [List.map_cons, List.pairwise_cons] at h
    simp only [mapSet]
    have hm : ∀ e ∈ m, r.apart e.2 := fun e he => hr e (List.mem_cons_of_mem _ he)
    split
    · simp only [List.map_cons, List.pairwise_cons]
      refine ⟨?_, h⟩
      intro b hb
      rcases List.mem_cons.1 hb with hb | hb
      · exact hb ▸ hr (k', v') (List.mem_cons_self ..)
      · obtain ⟨e, he, rfl⟩ := List.mem_map.1 hb
        exact hm e he
    · split
      · simp only [List.map_cons, List.pairwise_cons]
        refine ⟨?_, h.2⟩
        intro b hb
        obtain ⟨e, he, rfl⟩ := List.mem_map.1 hb
        exact hm e he
      · simp only [List.map_cons, List.pairwise_cons]
        refine ⟨?_, ih h.2 hm⟩
        intro b hb
        obtain ⟨e, he, rfl⟩ := List.mem_map.1 hb
        rcases mapSet_mem he with rfl | he
        · exact Region.apart_symm (hr (k', v') (List.mem_cons_self ..))
        · exact h.1 _ (List.mem_map.2 ⟨e, he, rfl⟩)

theorem regionsApart_del {m : AMap Region} {k : Nat} (h : regionsApart m) : regionsApart (mapDel m k) := by
  unfold regionsApart mapDel at *
  exact h.sublist (List.Sublist.map _ List.filter_sublist)

theorem lowestFree_sound {used : List (Nat × Nat)} {len limit f : Nat} (h : lowestFree used len limit = some f) :
    ∀ u ∈ used, u.1 + u.2 ≤ f ∨ f + len ≤ u.1 := by
  unfold lowestFree at h
  have g := List.find?_some h
  simp only [Bool.and_eq_true, List.all_eq_true, Bool.or_eq_true, decide_eq_true_eq] at g
  exact g.2

/-- What freeBase answers is apart from every region. -/
theorem freeBase_sound {s : State} {unit k b : Nat} (hu : 0 < unit) (h : freeBase s unit (k * unit) = some b) (e : Nat × Region)
    (he : e ∈ s.mem.regions) : b + k * unit ≤ e.2.base ∨ e.2.base + e.2.size ≤ b := by
  unfold freeBase at h
  obtain ⟨f, hf, rfl⟩ := Option.map_eq_some_iff.1 h
  have g := lowestFree_sound hf (e.2.base / unit, cdiv (e.2.base % unit + e.2.size) unit) (List.mem_map.2 ⟨e, he, rfl⟩)
  rw [Nat.mul_div_cancel _ hu] at g
  have hb := Nat.div_add_mod e.2.base unit
  rcases g with g | g
  · right
    have h1 : e.2.base % unit + e.2.size ≤ cdiv (e.2.base % unit + e.2.size) unit * unit := by
      unfold cdiv
      have := Nat.div_add_mod (e.2.base % unit + e.2.size + unit - 1) unit
      have := Nat.mod_lt (e.2.base % unit + e.2.size + unit - 1) hu
      rw [Nat.mul_comm]
      omega
    have h2 := Nat.mul_le_mul_right unit g
    rw [Nat.add_mul, Nat.mul_comm (e.2.base / unit)] at h2
    dsimp only at *
    omega
  · left
    have h2 := Nat.mul_le_mul_right unit g
    rw [Nat.add_mul, Nat.mul_comm (e.2.base / unit)] at h2
    dsimp only at *
    omega

theorem unitBytes_pos (n : Nat) : 0 < unitBytes n := by unfold unitBytes; positivity

theorem fitIn_sound {s : State} {c n size : Nat} {fit : Nat × Nat × Nat} (h : fitIn s c n size = some fit) (e : Nat × Region)
    (he : e ∈ s.mem.regions) : fit.2.2 + fit.2.1 * unitBytes n ≤ e.2.base ∨ e.2.base + e.2.size ≤ fit.2.2 := by
  unfold fitIn at h
  dsimp only at h
  split at h
  · simp only [Option.some.injEq] at h
    subst h
    exact freeBase_sound (unitBytes_pos n) (by assumption) e he
  · simp at h

theorem placeOnDie_sound {s : State} {q : RegionAsk} {d : Nat} {far : Bool} {r : Region} (h : placeOnDie s q d far = some r)
    (e : Nat × Region) (he : e ∈ s.mem.regions) : r.apart e.2 := by
  unfold placeOnDie at h
  split at h
  · simp at h
  · obtain ⟨fit, hf, rfl⟩ := Option.map_eq_some_iff.1 h
    exact fitIn_sound hf e he

theorem placeRegion_sound {s : State} {q : RegionAsk} {r : Region} (h : placeRegion s q = some r)
    (e : Nat × Region) (he : e ∈ s.mem.regions) : r.apart e.2 := by
  unfold placeRegion at h
  dsimp only at h
  split at h
  · obtain ⟨fit, hf, rfl⟩ := Option.map_eq_some_iff.1 h
    exact fitIn_sound hf e he
  · split at h
    · split at h
      · next g =>
        simp only [Option.some.injEq] at h
        exact h ▸ placeOnDie_sound g e he
      · split at h
        · exact placeOnDie_sound h e he
        · simp at h
    · exact placeOnDie_sound h e he

end Sys2Proof.Machine
end

