-- ==== Sys2Proof/Laws/Keeps.lean ====
section
/-! SUPPORT. What no command changes, as one relation between a state and the next: fuses, the queue, the meter's key and
ENERGY, the soft fault map and the clear log as far as written, time, memory in canonical form, regions apart. -/

namespace Sys2Proof.Machine

/-- `t` keeps of `s` what no command changes. -/
structure Keeps (s t : State) : Prop where
  fuse : t.fuse = s.fuse
  pending : t.pending = s.pending
  now : s.now ≤ t.now
  secret : t.meter.secret = s.meter.secret
  energy : meterSettled s.meter s.pkg.vaux → meterSettled t.meter t.pkg.vaux ∧ s.meter.regs.energy ≤ t.meter.regs.energy
  soft : softKept s.flash.softMap t.flash.softMap
  clears : s.flash.clearLog <+: t.flash.clearLog
  mem : s.mem.wf = true → t.mem.wf = true
  apart : regionsApart s.mem.regions → regionsApart t.mem.regions

theorem sameItem_refl (e : FaultEntry) : sameItem e e = true := by simp [sameItem]

theorem sameItem_trans {a b c : FaultEntry} (h : sameItem a b = true) (g : sameItem b c = true) : sameItem a c = true := by
  simp only [sameItem, Bool.and_eq_true, beq_iff_eq] at *
  obtain ⟨⟨⟨⟨h1, h2⟩, h3⟩, h4⟩, h5⟩ := h
  obtain ⟨⟨⟨⟨g1, g2⟩, g3⟩, g4⟩, g5⟩ := g
  exact ⟨⟨⟨⟨h1.trans g1, h2.trans g2⟩, h3.trans g3⟩, h4.trans g4⟩, h5.trans g5⟩

theorem softKept_refl (a : List FaultEntry) : softKept a a := fun e h => ⟨e, h, sameItem_refl e⟩

theorem softKept_trans {a b c : List FaultEntry} (h : softKept a b) (g : softKept b c) : softKept a c := by
  intro e he
  obtain ⟨f, hf, ef⟩ := h e he
  obtain ⟨x, hx, fx⟩ := g f hf
  exact ⟨x, hx, sameItem_trans ef fx⟩

theorem Keeps.refl (s : State) : Keeps s s :=
  ⟨rfl, rfl, Nat.le_refl _, rfl, fun h => ⟨h, Nat.le_refl _⟩, softKept_refl _, List.prefix_refl _, id, id⟩

theorem Keeps.trans {a b c : State} (h : Keeps a b) (g : Keeps b c) : Keeps a c :=
  ⟨g.fuse.trans h.fuse, g.pending.trans h.pending, Nat.le_trans h.now g.now, g.secret.trans h.secret,
    fun w => ⟨(g.energy (h.energy w).1).1, Nat.le_trans (h.energy w).2 (g.energy (h.energy w).1).2⟩,
    softKept_trans h.soft g.soft, h.clears.trans g.clears, fun w => g.mem (h.mem w), fun w => g.apart (h.apart w)⟩

/-- A record update that leaves alone what is kept. -/
theorem Keeps.set {r s : State} {n dev sq st ct fl cp m po fa jo ds si en ch sm ho ev me wi pk bo br fw fr}
    (h : Keeps r s) (hn : n = s.now) (hf : fl.softMap = s.flash.softMap) (hl : fl.clearLog = s.flash.clearLog)
    (hc : m.cells = s.mem.cells) (hoc : m.opCache = s.mem.opCache) (hr : m.regions = s.mem.regions)
    (hs : me = s.meter) (hv : pk.vaux = s.pkg.vaux) :
    Keeps r (State.mk n dev sq st ct s.fuse fl cp m po fa jo ds si en ch sm ho ev me wi pk bo br fw s.pending fr) := by
  subst hn hs
  refine ⟨h.fuse, h.pending, h.now, h.secret, ?_, ?_, ?_, ?_, ?_⟩
  · simpa only [hv] using h.energy
  · simpa only [hf] using h.soft
  · simpa only [hl] using h.clears
  · intro w
    have g := h.mem w
    simp only [Mem.wf] at g ⊢
    rw [hc, hoc]
    exact g
  · simpa only [hr] using h.apart

/-- A fold of steps that each keep it. -/
theorem Keeps.foldl {α : Type} {r s : State} {f : State → α → State} {l : List α} (h : Keeps r s)
    (hf : ∀ t a, Keeps r t → Keeps r (f t a)) : Keeps r (l.foldl f s) := by
  induction l generalizing s with
  | nil => exact h
  | cons a l ih => exact ih (hf s a h)

theorem Keeps.foldl2 {α β : Type} {r : State} {p : β × State} {f : β × State → α → β × State} {l : List α} (h : Keeps r p.2)
    (hf : ∀ t a, Keeps r t.2 → Keeps r (f t a).2) : Keeps r (l.foldl f p).2 := by
  induction l generalizing p with
  | nil => exact h
  | cons a l ih => exact ih (hf p a h)

theorem Keeps.foldl1 {α β : Type} {r : State} {p : State × β} {f : State × β → α → State × β} {l : List α} (h : Keeps r p.1)
    (hf : ∀ t a, Keeps r t.1 → Keeps r (f t a).1) : Keeps r (l.foldl f p).1 := by
  induction l generalizing p with
  | nil => exact h
  | cons a l ih => exact ih (hf p a h)

theorem Keeps.foldl22 {α β γ : Type} {r : State} {p : β × γ × State} {f : β × γ × State → α → β × γ × State} {l : List α} (h : Keeps r p.2.2)
    (hf : ∀ t a, Keeps r t.2.2 → Keeps r (f t a).2.2) : Keeps r (l.foldl f p).2.2 := by
  induction l generalizing p with
  | nil => exact h
  | cons a l ih => exact ih (hf p a h)

theorem Keeps.setFlash {r s : State} {fl : Flash} (h : Keeps r s) (hf : softKept s.flash.softMap fl.softMap)
    (hl : s.flash.clearLog <+: fl.clearLog) : Keeps r { s with flash := fl } :=
  ⟨h.fuse, h.pending, h.now, h.secret, h.energy, softKept_trans h.soft hf, h.clears.trans hl, h.mem, h.apart⟩

theorem Keeps.setNow {r s : State} {n : Nat} (h : Keeps r s) (hn : s.now ≤ n) : Keeps r { s with now := n } :=
  ⟨h.fuse, h.pending, Nat.le_trans h.now hn, h.secret, h.energy, h.soft, h.clears, h.mem, h.apart⟩

theorem Keeps.setMem {r s : State} {m : Mem} (h : Keeps r s) (hm : s.mem.wf = true → m.wf = true)
    (ha : regionsApart s.mem.regions → regionsApart m.regions) : Keeps r { s with mem := m } :=
  ⟨h.fuse, h.pending, h.now, h.secret, h.energy, h.soft, h.clears, fun w => hm (h.mem w), fun w => ha (h.apart w)⟩

theorem Keeps.setMeter {r s : State} {m : Meter} (h : Keeps r s) (hs : m.secret = s.meter.secret)
    (he : meterSettled s.meter s.pkg.vaux → meterSettled m s.pkg.vaux ∧ s.meter.regs.energy ≤ m.regs.energy) :
    Keeps r { s with meter := m } :=
  ⟨h.fuse, h.pending, h.now, hs.trans h.secret,
    fun w => ⟨(he (h.energy w).1).1, Nat.le_trans (h.energy w).2 (he (h.energy w).1).2⟩, h.soft, h.clears, h.mem, h.apart⟩

theorem createRegion_keeps {z : State} {q : RegionAsk} {s t : State} {id : Nat} {r : Region} (hz : Keeps z s)
    (h : createRegion q s = some (id, r, t)) : Keeps z t := by
  unfold createRegion at h
  split at h
  · next hp =>
    simp only [Option.some.injEq, Prod.mk.injEq] at h
    obtain ⟨rfl, rfl, rfl⟩ := h
    refine hz.setMem ?_ ?_
    · intro w
      simp only [Mem.wf, Bool.and_eq_true] at w ⊢
      exact ⟨cellsClear_wf _ _ w.1, w.2⟩
    · intro w
      exact regionsApart_set w (fun e he => placeRegion_sound hp e he)
  · simp at h

/-- What a powered meter keeps through each of its operations: power, key and ENERGY, which never falls. -/
structure MeterKeeps (a b : Meter) : Prop where
  powered : b.powered = a.powered
  secret : b.secret = a.secret
  energy : a.regs.energy ≤ b.regs.energy

theorem meterPowerUp_energy (ok : Bool) (m : Meter) : (meterPowerUp ok m).powered = true ∧ (meterPowerUp ok m).secret = m.secret
    ∧ (meterPowerUp ok m).regs.energy = m.nv.energy := by
  unfold meterPowerUp
  dsimp only
  split <;> simp [reportNow, report, audit]

theorem meterPowerDown_energy (m : Meter) : (meterPowerDown m).powered = false ∧ (meterPowerDown m).secret = m.secret
    ∧ (meterPowerDown m).regs.energy = m.regs.energy ∧ (meterPowerDown m).nv.energy = m.regs.energy := by
  simp [meterPowerDown, audit]

/-- A reset lists no less in the flash. -/
theorem resetFlash_keeps (b : Bool) (s : State) :
    softKept s.flash.softMap (resetFlash b s).softMap ∧ (resetFlash b s).clearLog = s.flash.clearLog := by
  unfold resetFlash
  dsimp only
  have h : ∀ l : List FaultEntry, softKept l (l.map (fun e => { e with soft := true, found := false, passed := false })) :=
    fun l e he => ⟨_, List.mem_map_of_mem he, by simp [sameItem]⟩
  split <;> split <;> first | exact ⟨h _, rfl⟩ | exact ⟨softKept_refl _, rfl⟩

/-- The state that performing a command gives. -/
def performedState : Performed → State
  | .done t _ => t
  | .wait t => t

end Sys2Proof.Machine
end

