-- ==== Sys2Proof/Laws/KeepsHost.lean ====
section
/-! SUPPORT. What no command changes is kept by the operations over counters, events, the host's registers, the recorder, resets and power: one lemma per
function, which the proofs over every command cite instead of unfolding it. -/

namespace Sys2Proof.Machine

set_option linter.unusedTactic false
set_option linter.unreachableTactic false

theorem bump_keeps {z : State} (id inst n : Nat) (s : State) (hz : Keeps z s) :
    Keeps z (bump id inst n s) := by
  unfold bump
  with_reducible repeat' first | assumption | rfl | split | apply Keeps.set

theorem clearCtrs_keeps {z : State} (p : Nat → Bool) (s : State) (hz : Keeps z s) :
    Keeps z (clearCtrs p s) := by
  unfold clearCtrs
  with_reducible repeat' first | assumption | rfl | split | intro _ | dsimp only | apply Keeps.set

theorem freeVal_keeps {z : State} (n : Nat) (s : State) (hz : Keeps z s) :
    Keeps z (freeVal n s).2 := by
  unfold freeVal
  with_reducible repeat' first | assumption | rfl | split | apply Keeps.set

theorem msix_keeps {z : State} (v : Nat) (s : State) (hz : Keeps z s) :
    Keeps z (msix v s) := by
  unfold msix
  with_reducible repeat' first | assumption | rfl | split | apply Keeps.set

theorem pkgEvt_keeps {z : State} (i : Nat) (s : State) (hz : Keeps z s) :
    Keeps z (pkgEvt i s) := by
  unfold pkgEvt
  with_reducible repeat' first | assumption | rfl | split | apply msix_keeps | dsimp only | apply Keeps.set

theorem stateChanged_keeps {z : State} (s : State) (hz : Keeps z s) :
    Keeps z (stateChanged s) := by
  unfold stateChanged
  with_reducible repeat' first | assumption | rfl | split | apply pkgEvt_keeps | apply Keeps.set

theorem staleAll_keeps {z : State} (s : State) (hz : Keeps z s) :
    Keeps z (staleAll s) := by
  unfold staleAll
  with_reducible repeat' first | assumption | rfl | split | intro _ | apply Keeps.set

theorem setDev_keeps {z : State} (d : DevState) (s : State) (hz : Keeps z s) :
    Keeps z (setDev d s) := by
  unfold setDev
  with_reducible repeat' first | assumption | rfl | split | apply stateChanged_keeps | apply Keeps.set

theorem setDevHw_keeps {z : State} (d : DevState) (s : State) (hz : Keeps z s) :
    Keeps z (setDevHw d s) := by
  unfold setDevHw
  with_reducible repeat' first
    | assumption | rfl | split | apply setDev_keeps | apply staleAll_keeps | apply Keeps.set

theorem setSm_keeps {z : State} (d : SmState) (s : State) (hz : Keeps z s) :
    Keeps z (setSm d s) := by
  unfold setSm
  with_reducible repeat' first | assumption | rfl | split | apply stateChanged_keeps | apply Keeps.set

theorem countRaising_keeps {z : State} (code src : Nat) (s : State) (hz : Keeps z s) :
    Keeps z (countRaising code src s) := by
  unfold countRaising
  with_reducible repeat' first | assumption | rfl | split | apply bump_keeps | dsimp only | apply Keeps.set

theorem enqueue_keeps {z : State} (code src time : Nat) (payload : List Byte) (s : State) (hz : Keeps z s) :
    Keeps z (enqueue code src time payload s) := by
  unfold enqueue
  with_reducible repeat' first | assumption | rfl | split | apply bump_keeps | dsimp only | apply Keeps.set

theorem noteMemEvent_keeps {z : State} (code : Nat) (s : State) (hz : Keeps z s) :
    Keeps z (noteMemEvent code s) := by
  unfold noteMemEvent
  with_reducible repeat' first | assumption | rfl | split | apply Keeps.set

theorem raise_keeps {z : State} (code src : Nat) (payload : List Byte) (s : State) (hz : Keeps z s) :
    Keeps z (raise code src payload s) := by
  unfold raise
  with_reducible repeat' first
    | assumption | rfl | split | apply noteMemEvent_keeps | apply enqueue_keeps | apply countRaising_keeps
    | apply Keeps.set

theorem raiseAt_keeps {z : State} (code src time : Nat) (payload : List Byte) (s : State) (hz : Keeps z s) :
    Keeps z (raiseAt code src time payload s) := by
  unfold raiseAt
  with_reducible repeat' first
    | assumption | rfl | split | apply enqueue_keeps | apply countRaising_keeps | apply Keeps.set

theorem raiseAll_keeps {z : State} (code : Nat) (srcs : List Nat) (s : State) (hz : Keeps z s) :
    Keeps z (raiseAll code srcs s) := by
  unfold raiseAll
  with_reducible repeat' first
    | assumption | rfl | split | apply raise_keeps | apply Keeps.foldl | intro _ | apply Keeps.set

theorem setCplPhase_keeps {z : State} (c : Nat) (p : CplPhase) (s : State) (hz : Keeps z s) :
    Keeps z (setCplPhase c p s) := by
  unfold setCplPhase
  with_reducible repeat' first | assumption | rfl | split | apply Keeps.set

theorem setMailbox_keeps {z : State} (n : Nat) (m : Mailbox) (s : State) (hz : Keeps z s) :
    Keeps z (setMailbox n m s) := by
  unfold setMailbox
  with_reducible repeat' first | assumption | rfl | split | apply Keeps.set

theorem noteIdle_keeps {z : State} (s : State) (hz : Keeps z s) :
    Keeps z (noteIdle s) := by
  unfold noteIdle
  with_reducible repeat' first | assumption | rfl | split | apply Keeps.set

theorem answerSide_keeps {z : State} (c : Slot) (r : Completion) (s : State) (hz : Keeps z s) :
    Keeps z (answerSide c r s) := by
  unfold answerSide
  with_reducible repeat' first | assumption | rfl | split | apply noteIdle_keeps | apply Keeps.set

theorem putSlot_keeps {z : State} (src : CmdSrc) (c : Slot) (s : State) (hz : Keeps z s) :
    Keeps z (putSlot src c s) := by
  unfold putSlot
  with_reducible repeat' first
    | assumption | rfl | split | apply setMailbox_keeps | apply answerSide_keeps | apply Keeps.set

theorem performCmd_keeps {z : State} (op : Nat) (src : CmdSrc) (f : Slot → State → Performed) (s : State)
    (hz : Keeps z s) (hf : ∀ x0 x1, Keeps z x1 → Keeps z (performedState (f x0 x1))) :
    Keeps z (performCmd op src f s) := by
  unfold performCmd
  split
  · exact hz
  · next c _ =>
    split
    · split
      · exact putSlot_keeps _ _ _ hz
      · have g := hf c s hz
        split
        · next h => rw [h] at g; exact putSlot_keeps _ _ _ g
        · next h => rw [h] at g; exact putSlot_keeps _ _ _ g
    · exact hz

theorem performNow_keeps {z : State} (op : Nat) (src : CmdSrc) (f : List Byte → State → State × Completion) (s : State)
    (hz : Keeps z s) (hf : ∀ x0 x1, Keeps z x1 → Keeps z (f x0 x1).1) :
    Keeps z (performNow op src f s) := by
  unfold performNow
  exact performCmd_keeps _ _ _ _ hz (fun c t ht => hf c.payload t ht)

theorem performQuery_keeps {z : State} (op : Nat) (src : CmdSrc) (f : List Byte → State → Completion) (s : State)
    (hz : Keeps z s) :
    Keeps z (performQuery op src f s) := by
  unfold performQuery
  with_reducible repeat' first | assumption | rfl | split | apply performNow_keeps | intro _ | apply Keeps.set

theorem answerWaiting_keeps {z : State} (op : Nat) (r : Completion) (s : State) (hz : Keeps z s) :
    Keeps z (answerWaiting op r s) := by
  unfold answerWaiting
  with_reducible repeat' first | assumption | rfl | split | intro _ | dsimp only | apply Keeps.set

theorem hostTime_keeps {z : State} (dt : Nat) (s : State) (hz : Keeps z s) :
    Keeps z (hostTime dt s) := by
  unfold hostTime
  with_reducible repeat' first
    | assumption | rfl | split | apply bump_keeps | apply Keeps.foldl | intro _ | dsimp only | apply Keeps.set

theorem stackTime_keeps {z : State} (dt : Nat) (s : State) (hz : Keeps z s) :
    Keeps z (stackTime dt s) := by
  unfold stackTime
  with_reducible repeat' first
    | assumption | rfl | split | apply bump_keeps | apply Keeps.foldl | intro _ | dsimp only | apply Keeps.set

theorem addCclk_keeps {z : State} (id lc k dt : Nat) (s : State) (hz : Keeps z s) :
    Keeps z (addCclk id lc k dt s) := by
  unfold addCclk
  with_reducible repeat' first | assumption | rfl | split | apply bump_keeps | dsimp only | apply Keeps.set

theorem coreTime_keeps {z : State} (dt : Nat) (s : State) (lc : Nat) (hz : Keeps z s) :
    Keeps z (coreTime dt s lc) := by
  unfold coreTime
  with_reducible repeat' first | assumption | rfl | split | apply addCclk_keeps | dsimp only | apply Keeps.set

theorem advance_keeps {z : State} (dt : Nat) (s : State) (hz : Keeps z s) :
    Keeps z (advance dt s) := by
  unfold advance
  split
  · exact hz
  · dsimp only
    refine Keeps.setNow ?_ (Nat.le_add_right _ _)
    split
    · exact Keeps.foldl (stackTime_keeps _ _ (hostTime_keeps _ _ hz)) (fun t a ht => coreTime_keeps _ _ _ ht)
    · exact hz

theorem reachTime_keeps {z : State} (t : Nat) (s : State) (hz : Keeps z s) :
    Keeps z (reachTime t s) := by
  unfold reachTime
  with_reducible repeat' first | assumption | rfl | split | apply advance_keeps | apply Keeps.set

theorem addSoft_keeps {z : State} (e : FaultEntry) (s : State) (hz : Keeps z s) :
    Keeps z (addSoft e s) := by
  unfold addSoft
  refine hz.setFlash ?_ (List.prefix_refl _)
  dsimp only
  split
  · intro x hx
    refine ⟨_, List.mem_map_of_mem hx, ?_⟩
    split
    · simp [sameItem]
    · exact sameItem_refl x
  · intro x hx
    exact ⟨x, List.mem_append_left _ hx, sameItem_refl x⟩

theorem putRec_keeps {z : State} (r : Rec) (s : State) (hz : Keeps z s) :
    Keeps z (putRec r s) := by
  unfold putRec
  with_reducible repeat' first | assumption | rfl | split | apply bump_keeps | dsimp only | apply Keeps.set

theorem countLost_keeps {z : State} (gone : List Rec) (s : State) (hz : Keeps z s) :
    Keeps z (countLost gone s) := by
  unfold countLost
  with_reducible repeat' first | assumption | rfl | split | apply bump_keeps | dsimp only

theorem countRemoved_keeps {z : State} (gone : List Rec) (s : State) (hz : Keeps z s) :
    Keeps z (countRemoved gone s) := by
  unfold countRemoved
  with_reducible repeat' first | assumption | rfl | split | apply countLost_keeps | apply bump_keeps

theorem admitRec_keeps {z : State} (r : Rec) (s : State) (hz : Keeps z s) :
    Keeps z (admitRec r s) := by
  unfold admitRec
  with_reducible repeat' first
    | assumption | rfl | split | apply bump_keeps | apply countRemoved_keeps | apply putRec_keeps
    | apply pkgEvt_keeps | dsimp only | apply Keeps.set

theorem frozenRec_keeps {z : State} (r : Rec) (s : State) (hz : Keeps z s) :
    Keeps z (frozenRec r s) := by
  unfold frozenRec
  with_reducible repeat' first | assumption | rfl | split | apply bump_keeps | dsimp only | apply Keeps.set

theorem takeEvent_keeps {z : State} (s : State) (hz : Keeps z s) :
    Keeps z (takeEvent s) := by
  unfold takeEvent
  with_reducible repeat' first
    | assumption | rfl | split | apply frozenRec_keeps | apply admitRec_keeps | dsimp only | apply Keeps.set

theorem drainQueue_keeps {z : State} (s : State) (hz : Keeps z s) :
    Keeps z (drainQueue s) := by
  unfold drainQueue
  exact Keeps.foldl hz (fun _ _ h => takeEvent_keeps _ h)

theorem raiseDirect_keeps {z : State} (code src : Nat) (payload : List Byte) (s : State) (hz : Keeps z s) :
    Keeps z (raiseDirect code src payload s) := by
  unfold raiseDirect
  with_reducible repeat' first
    | assumption | rfl | split | apply raise_keeps | apply admitRec_keeps | apply drainQueue_keeps | dsimp only
    | apply Keeps.set

theorem endFreeze_keeps {z : State} (s : State) (hz : Keeps z s) :
    Keeps z (endFreeze s) := by
  unfold endFreeze
  with_reducible repeat' first
    | assumption | rfl | split | apply admitRec_keeps | apply raiseDirect_keeps | apply drainQueue_keeps
    | apply Keeps.foldl | intro _ | dsimp only | apply Keeps.set

theorem eventAdmitS_keeps {z : State} (s : State) (hz : Keeps z s) :
    Keeps z (eventAdmitS s) := by
  unfold eventAdmitS
  with_reducible repeat' first | assumption | rfl | split | apply takeEvent_keeps

theorem tokenRefillS_keeps {z : State} (code : Nat) (s : State) (hz : Keeps z s) :
    Keeps z (tokenRefillS code s) := by
  unfold tokenRefillS
  with_reducible repeat' first | assumption | rfl | split | apply reachTime_keeps | dsimp only | apply Keeps.set

theorem spillBatchS_keeps {z : State} (s : State) (hz : Keeps z s) :
    Keeps z (spillBatchS s) := by
  unfold spillBatchS
  have g := reachTime_keeps (s.evr.lastSpill + 10000000000) s hz
  generalize reachTime (s.evr.lastSpill + 10000000000) s = u at g ⊢
  split
  · exact hz
  · dsimp only
    have g2 : Keeps z (if 262144 ≤ ringBytes (unspilled s) then s else u) := by split <;> assumption
    generalize (if 262144 ≤ ringBytes (unspilled s) then s else u) = w at g2 ⊢
    repeat' first
    | with_reducible assumption | with_reducible rfl | split | with_reducible apply bump_keeps
    | with_reducible apply Keeps.set

theorem freezeTimeoutS_keeps {z : State} (s : State) (hz : Keeps z s) :
    Keeps z (freezeTimeoutS s) := by
  unfold freezeTimeoutS
  with_reducible repeat' first
    | assumption | rfl | split | apply endFreeze_keeps | apply reachTime_keeps | apply Keeps.set

theorem sample_keeps {z : State} (id inst : Nat) (x : Int) (s : State) (hz : Keeps z s) :
    Keeps z (sample id inst x s) := by
  unfold sample
  with_reducible repeat' first | assumption | rfl | split | apply Keeps.set

theorem telemetry_keeps {z : State} (id inst : Nat) (x : Int) (s : State) (hz : Keeps z s) :
    Keeps z (telemetry id inst x s) := by
  unfold telemetry
  with_reducible repeat' first | assumption | rfl | split | apply sample_keeps | dsimp only | apply Keeps.set

theorem summaryRefreshS_keeps {z : State} (s : State) (hz : Keeps z s) :
    Keeps z (summaryRefreshS s) := by
  unfold summaryRefreshS
  with_reducible repeat' first | assumption | rfl | split | apply pkgEvt_keeps | apply Keeps.set

theorem evrFreeze_keeps {z : State} (p : List Byte) (s : State) (hz : Keeps z s) :
    Keeps z (evrFreeze p s).1 := by
  unfold evrFreeze
  with_reducible repeat' first | assumption | rfl | split | apply raiseDirect_keeps | dsimp only | apply Keeps.set

theorem evrUnfreeze_keeps {z : State} (v1 : List Byte) (s : State) (hz : Keeps z s) :
    Keeps z (evrUnfreeze v1 s).1 := by
  unfold evrUnfreeze
  with_reducible repeat' first | assumption | rfl | split | apply endFreeze_keeps | apply Keeps.set

theorem recordNonce_keeps {z : State} (slot nonce : Nat) (s : State) (hz : Keeps z s) :
    Keeps z (recordNonce slot nonce s) := by
  unfold recordNonce
  with_reducible repeat' first | assumption | rfl | split | intro _ | dsimp only | apply Keeps.set

theorem evrClear_keeps {z : State} (p : List Byte) (s : State) (hz : Keeps z s) :
    Keeps z (evrClear p s).1 := by
  unfold evrClear
  dsimp only
  split
  · exact hz
  · split
    · exact hz
    · dsimp only
      refine Keeps.setFlash (s := admitRec _ _) ?_ (softKept_refl _) (List.prefix_append _ _)
      refine admitRec_keeps _ _ (drainQueue_keeps _ (countRaising_keeps _ _ _ (recordNonce_keeps _ _ _ ?_)))
      repeat' first
    | with_reducible assumption | with_reducible rfl | split | with_reducible apply clearCtrs_keeps
    | with_reducible apply countLost_keeps
    | with_reducible apply Keeps.set

theorem setRate_keeps {z : State} (code rate burst : Nat) (s : State) (hz : Keeps z s) :
    Keeps z (setRate code rate burst s) := by
  unfold setRate
  with_reducible repeat' first | assumption | rfl | split | dsimp only | apply Keeps.set

theorem setRange_keeps {z : State} (id inst : Nat) (lo hi : Int) (s : State) (hz : Keeps z s) :
    Keeps z (setRange id inst lo hi s) := by
  unfold setRange
  with_reducible repeat' first | assumption | rfl | split | dsimp only | apply Keeps.set

theorem evrConfig_keeps {z : State} (p : List Byte) (s : State) (hz : Keeps z s) :
    Keeps z (evrConfig p s).1 := by
  unfold evrConfig
  with_reducible repeat' first
    | assumption | rfl | split | apply setRate_keeps | apply setRange_keeps | apply Keeps.foldl | intro _
    | dsimp only | apply Keeps.set

theorem addPhase_keeps {z : State} (e : PhaseEntry) (s : State) (hz : Keeps z s) :
    Keeps z (addPhase e s) := by
  unfold addPhase
  with_reducible repeat' first | assumption | rfl | split | dsimp only | apply Keeps.set

theorem countDiscards_keeps {z : State} (n : Nat) (s : State) (hz : Keeps z s) :
    Keeps z (countDiscards n s) := by
  unfold countDiscards
  with_reducible repeat' first | assumption | rfl | split | apply raise_keeps | apply bump_keeps | apply Keeps.set

theorem closeMailboxes_keeps {z : State} (s : State) (hz : Keeps z s) :
    Keeps z (closeMailboxes s) := by
  unfold closeMailboxes
  with_reducible repeat' first
    | assumption | rfl | split | apply countDiscards_keeps | intro _ | dsimp only | apply Keeps.set

theorem hostReset_keeps {z : State} (s : State) (hz : Keeps z s) :
    Keeps z (hostReset s) := by
  unfold hostReset
  with_reducible repeat' first | assumption | rfl | split | apply closeMailboxes_keeps | apply Keeps.set

theorem resetDies_keeps {z : State} (pcie bringup : Bool) (s : State) (hz : Keeps z s) :
    Keeps z (resetDies pcie bringup s) := by
  unfold resetDies
  obtain ⟨h1, h2⟩ := resetFlash_keeps bringup s
  exact ⟨hz.fuse, hz.pending, hz.now, hz.secret, hz.energy, softKept_trans hz.soft h1, h2 ▸ hz.clears,
    fun _ => rfl, fun _ => List.Pairwise.nil⟩

theorem recordLatched_keeps {z : State} (s : State) (hz : Keeps z s) :
    Keeps z (recordLatched s) := by
  unfold recordLatched
  with_reducible repeat' first
    | assumption | rfl | split | apply raiseAt_keeps | apply Keeps.foldl | intro _ | apply Keeps.set

theorem startBringup_keeps {z : State} (pcie : Bool) (mode : Nat) (s : State) (hz : Keeps z s) :
    Keeps z (startBringup pcie mode s) := by
  unfold startBringup
  with_reducible repeat' first
    | assumption | rfl | split | apply resetDies_keeps | apply countDiscards_keeps | apply setDev_keeps
    | apply recordLatched_keeps | dsimp only | apply Keeps.set

theorem deviceReset_keeps {z : State} (mode : Nat) (s : State) (hz : Keeps z s) :
    Keeps z (deviceReset mode s) := by
  unfold deviceReset
  with_reducible repeat' first | assumption | rfl | split | apply startBringup_keeps | apply Keeps.set

theorem holdReset_keeps {z : State} (s : State) (hz : Keeps z s) :
    Keeps z (holdReset s) := by
  unfold holdReset
  with_reducible repeat' first
    | assumption | rfl | split | apply resetDies_keeps | apply setDev_keeps | dsimp only | apply Keeps.set

theorem latch_keeps {z : State} (code : Nat) (payload : List Byte) (s : State) (hz : Keeps z s) :
    Keeps z (latch code payload s) := by
  unfold latch
  with_reducible repeat' first | assumption | rfl | split | apply Keeps.set

theorem tryRelease_keeps {z : State} (s : State) (hz : Keeps z s) :
    Keeps z (tryRelease s) := by
  unfold tryRelease
  with_reducible repeat' first | assumption | rfl | split | apply startBringup_keeps | apply Keeps.set

theorem vinHold_keeps {z : State} (s : State) (hz : Keeps z s) :
    Keeps z (vinHold s) := by
  unfold vinHold
  with_reducible repeat' first
    | assumption | rfl | split | apply holdReset_keeps | apply latch_keeps | apply Keeps.set

theorem vinLossS_keeps {z : State} (s : State) (hz : Keeps z s) :
    Keeps z (vinLossS s) := by
  unfold vinLossS
  with_reducible repeat' first | assumption | rfl | split | apply vinHold_keeps | apply Keeps.set

theorem vinRangeExitS_keeps {z : State} (s : State) (hz : Keeps z s) :
    Keeps z (vinRangeExitS s) := by
  unfold vinRangeExitS
  with_reducible repeat' first
    | assumption | rfl | split | apply raise_keeps | apply bump_keeps | dsimp only | apply Keeps.set

theorem pwrgdFallS_keeps {z : State} (s : State) (hz : Keeps z s) :
    Keeps z (pwrgdFallS s) := by
  unfold pwrgdFallS
  with_reducible repeat' first | assumption | rfl | split | apply vinHold_keeps | apply Keeps.set

theorem pwrgdRiseS_keeps {z : State} (s : State) (hz : Keeps z s) :
    Keeps z (pwrgdRiseS s) := by
  unfold pwrgdRiseS
  with_reducible repeat' first | assumption | rfl | split | apply tryRelease_keeps | apply Keeps.set

theorem rstFallS_keeps {z : State} (s : State) (hz : Keeps z s) :
    Keeps z (rstFallS s) := by
  unfold rstFallS
  with_reducible repeat' first | assumption | rfl | split | apply holdReset_keeps | apply Keeps.set

theorem rstRiseS_keeps {z : State} (s : State) (hz : Keeps z s) :
    Keeps z (rstRiseS s) := by
  unfold rstRiseS
  with_reducible repeat' first | assumption | rfl | split | apply tryRelease_keeps | dsimp only | apply Keeps.set

theorem perstFallS_keeps {z : State} (s : State) (hz : Keeps z s) :
    Keeps z (perstFallS s) := by
  unfold perstFallS
  with_reducible repeat' first | assumption | rfl | split | apply closeMailboxes_keeps | dsimp only | apply Keeps.set

theorem refclkLossS_keeps {z : State} (s : State) (hz : Keeps z s) :
    Keeps z (refclkLossS s) := by
  unfold refclkLossS
  with_reducible repeat' first
    | assumption | rfl | split | apply raise_keeps | apply bump_keeps | apply closeMailboxes_keeps | dsimp only
    | apply Keeps.set

theorem lrefclkLossS_keeps {z : State} (s : State) (hz : Keeps z s) :
    Keeps z (lrefclkLossS s) := by
  unfold lrefclkLossS
  with_reducible repeat' first
    | assumption | rfl | split | apply holdReset_keeps | apply latch_keeps | dsimp only | apply Keeps.set

theorem setDie_keeps {z : State} (d : Nat) (c : DieClock) (s : State) (hz : Keeps z s) :
    Keeps z (setDie d c s) := by
  unfold setDie
  with_reducible repeat' first | assumption | rfl | split | apply Keeps.set

theorem retarget_keeps {z : State} (s : State) (hz : Keeps z s) :
    Keeps z (retarget s) := by
  unfold retarget
  with_reducible repeat' first | assumption | rfl | split | intro _ | dsimp only | apply Keeps.set

theorem fillDies_keeps {z : State} (s : State) (hz : Keeps z s) :
    Keeps z (fillDies s) := by
  unfold fillDies
  with_reducible repeat' first
    | assumption | rfl | split | apply setDie_keeps | apply Keeps.foldl | intro _ | apply Keeps.set

theorem dieTempReportS_keeps {z : State} (d : Nat) (temp : Int) (s : State) (hz : Keeps z s) :
    Keeps z (dieTempReportS d temp s) := by
  unfold dieTempReportS
  with_reducible repeat' first
    | assumption | rfl | split | apply telemetry_keeps | apply setDie_keeps | apply fillDies_keeps
    | apply raise_keeps | apply holdReset_keeps | apply latch_keeps | apply retarget_keeps | dsimp only
    | apply Keeps.set

theorem powerCeilingUpdateS_keeps {z : State} (vin iin p10 mhz : Nat) (s : State) (hz : Keeps z s) :
    Keeps z (powerCeilingUpdateS vin iin p10 mhz s) := by
  unfold powerCeilingUpdateS
  with_reducible repeat' first
    | assumption | rfl | split | apply telemetry_keeps | apply retarget_keeps | apply fillDies_keeps | dsimp only
    | apply Keeps.set

theorem throttleS_keeps {z : State} (high : Bool) (s : State) (hz : Keeps z s) :
    Keeps z (throttleS high s) := by
  unfold throttleS
  with_reducible repeat' first
    | assumption | rfl | split | apply retarget_keeps | apply fillDies_keeps | dsimp only | apply Keeps.set

theorem cclkChangeDoneS_keeps {z : State} (d : Nat) (s : State) (hz : Keeps z s) :
    Keeps z (cclkChangeDoneS d s) := by
  unfold cclkChangeDoneS
  with_reducible repeat' first | assumption | rfl | split | apply setDie_keeps | dsimp only | apply Keeps.set

theorem jtagS_keeps {z : State} (i : JtagInstr) (s : State) (hz : Keeps z s) :
    Keeps z (jtagS i s) := by
  unfold jtagS
  with_reducible repeat' first | assumption | rfl | split | apply bump_keeps | dsimp only | apply Keeps.set

theorem powerLimit_keeps {z : State} (p : List Byte) (s : State) (hz : Keeps z s) :
    Keeps z (powerLimit p s).1 := by
  unfold powerLimit
  with_reducible repeat' first | assumption | rfl | split | apply raise_keeps | dsimp only | apply Keeps.set

end Sys2Proof.Machine
end

