-- ==== Sys2Proof/Laws/KeepsMemory.lean ====
section
/-! SUPPORT. What no command changes is kept by the operations over memory, links, the pool, the meter and memory accesses: one lemma per
function, which the proofs over every command cite instead of unfolding it. -/

namespace Sys2Proof.Machine

set_option linter.unusedTactic false
set_option linter.unreachableTactic false

theorem markPoison_keeps {z : State} (sec : Nat) (s : State) (hz : Keeps z s) :
    Keeps z (markPoison sec s) := by
  unfold markPoison
  with_reducible repeat' first | assumption | rfl | split | apply Keeps.set

theorem clearPoison_keeps {z : State} (sec : Nat) (s : State) (hz : Keeps z s) :
    Keeps z (clearPoison sec s) := by
  unfold clearPoison
  with_reducible repeat' first | assumption | rfl | split | intro _ | apply Keeps.set

theorem putBytes_keeps {z : State} (a : Nat) (data : List Byte) (s : State) (hz : Keeps z s) :
    Keeps z (putBytes a data s) := by
  unfold putBytes
  refine hz.setMem ?_ id
  intro w
  simp only [Mem.wf, Bool.and_eq_true] at w ⊢
  exact ⟨cellsWrite_wf _ _ w.1, w.2⟩

theorem touch_keeps {z : State} (a n : Nat) (s : State) (hz : Keeps z s) :
    Keeps z (touch a n s) := by
  unfold touch
  with_reducible repeat' first | assumption | rfl | split | apply Keeps.set

theorem touchRoute_keeps {z : State} (src dst : Nat) (s : State) (hz : Keeps z s) :
    Keeps z (touchRoute src dst s) := by
  unfold touchRoute
  with_reducible repeat' first | assumption | rfl | split | apply Keeps.set

theorem touchHomes_keeps {z : State} (a n : Nat) (s : State) (hz : Keeps z s) :
    Keeps z (touchHomes a n s) := by
  unfold touchHomes
  with_reducible repeat' first
    | assumption | rfl | split | apply touchRoute_keeps | apply Keeps.foldl | intro _ | apply Keeps.set

theorem runVia_keeps {z : State} (die : Nat) (f : State → State) (s : State) (hf : ∀ t, Keeps z t → Keeps z (f t))
    (hz : Keeps z s) :
    Keeps z (runVia die f s) := by
  unfold runVia
  with_reducible repeat' first | assumption | rfl | split | apply hf | apply Keeps.set

theorem rowDone_keeps {z : State} (s t : State) (hz : Keeps z t) :
    Keeps z (rowDone s t) := by
  unfold rowDone
  with_reducible repeat' first | assumption | rfl | split | apply Keeps.set

theorem whenOpen_keeps {z : State} (die : Nat) (f : State → State) (s : State) (hf : ∀ t, Keeps z t → Keeps z (f t))
    (hz : Keeps z s) :
    Keeps z (whenOpen die f s) := by
  unfold whenOpen
  with_reducible repeat' first
    | assumption | rfl | split | apply hf | apply runVia_keeps | apply rowDone_keeps | dsimp only | apply Keeps.set

theorem orHold_keeps {z : State} (die : Nat) (i : Instr) (f : State → State) (s : State)
    (hf : ∀ t, Keeps z t → Keeps z (f t)) (hz : Keeps z s) :
    Keeps z (orHold die i f s) := by
  unfold orHold
  with_reducible repeat' first
    | assumption | rfl | split | apply hf | apply runVia_keeps | apply rowDone_keeps | dsimp only | apply Keeps.set

theorem setDepot_keeps {z : State} (d : Nat) (l : List DepotLine) (s : State) (hz : Keeps z s) :
    Keeps z (setDepot d l s) := by
  unfold setDepot
  with_reducible repeat' first | assumption | rfl | split | apply Keeps.set

theorem depotRead_keeps {z : State} (d line need hint : Nat) (pf : Bool) (s : State) (hz : Keeps z s) :
    Keeps z (depotRead d line need hint pf s) := by
  unfold depotRead
  with_reducible repeat' first
    | assumption | rfl | split | apply bump_keeps | apply setDepot_keeps | intro _ | dsimp only | apply Keeps.set

theorem depotWrite_keeps {z : State} (d line secs : Nat) (s : State) (hz : Keeps z s) :
    Keeps z (depotWrite d line secs s) := by
  unfold depotWrite
  with_reducible repeat' first
    | assumption | rfl | split | apply setDepot_keeps | intro _ | dsimp only | apply Keeps.set

theorem landSector_keeps {z : State} (sec : Nat) (whole : Bool) (s : State) (hz : Keeps z s) :
    Keeps z (landSector sec whole s) := by
  unfold landSector
  with_reducible repeat' first
    | assumption | rfl | split | apply depotWrite_keeps | apply clearPoison_keeps | apply bump_keeps | dsimp only
    | apply Keeps.set

theorem flushSector_keeps {z : State} (sec m : Nat) (s : State) (hz : Keeps z s) :
    Keeps z (flushSector sec m s) := by
  unfold flushSector
  with_reducible repeat' first | assumption | rfl | split | apply depotWrite_keeps | apply Keeps.set

theorem flushLine_keeps {z : State} (l : WcbLine) (s : State) (hz : Keeps z s) :
    Keeps z (flushLine l s) := by
  unfold flushLine
  with_reducible repeat' first
    | assumption | rfl | split | apply flushSector_keeps | intro _ | dsimp only | apply Keeps.set

theorem settleReads_keeps {z : State} (a n : Nat) (s : State) (hz : Keeps z s) :
    Keeps z (settleReads a n s) := by
  unfold settleReads
  with_reducible repeat' first
    | assumption | rfl | split | apply flushLine_keeps | apply bump_keeps | apply Keeps.foldl | intro _ | dsimp only
    | apply Keeps.set

theorem countMerges_keeps {z : State} (a n : Nat) (s : State) (hz : Keeps z s) :
    Keeps z (countMerges a n s) := by
  unfold countMerges
  with_reducible repeat' first
    | assumption | rfl | split | apply bump_keeps | apply Keeps.foldl | intro _ | apply Keeps.set

theorem wcbWrite_keeps {z : State} (a : Nat) (data : List Byte) (s : State) (hz : Keeps z s) :
    Keeps z (wcbWrite a data s) := by
  unfold wcbWrite
  with_reducible repeat' first
    | assumption | rfl | split | apply putBytes_keeps | apply countMerges_keeps | apply bump_keeps
    | apply flushLine_keeps | intro _ | dsimp only | apply Keeps.set

theorem depotReads_keeps {z : State} (pf : Bool) (a n : Nat) (s : State) (hz : Keeps z s) :
    Keeps z (depotReads pf a n s) := by
  unfold depotReads
  with_reducible repeat' first
    | assumption | rfl | split | apply depotRead_keeps | apply Keeps.foldl | intro _ | apply Keeps.set

theorem homeRead_keeps {z : State} (pf : Bool) (a n : Nat) (s : State) (hz : Keeps z s) :
    Keeps z (homeRead pf a n s).2.2 := by
  unfold homeRead
  with_reducible repeat' first
    | assumption | rfl | split | apply depotReads_keeps | apply settleReads_keeps | apply touch_keeps
    | apply bump_keeps | apply Keeps.foldl | intro _ | dsimp only | apply Keeps.set

theorem sectorWrite_keeps {z : State} (lo : Nat) (piece : List Byte) (s : State) (hz : Keeps z s) :
    Keeps z (sectorWrite lo piece s) := by
  unfold sectorWrite
  with_reducible repeat' first
    | assumption | rfl | split | apply flushLine_keeps | apply landSector_keeps | apply putBytes_keeps
    | apply wcbWrite_keeps | apply Keeps.foldl | intro _ | dsimp only | apply Keeps.set

theorem meetChannel_keeps {z : State} (s : State) (p : Nat) (hz : Keeps z s) :
    Keeps z (meetChannel s p) := by
  unfold meetChannel
  with_reducible repeat' first | assumption | rfl | split | apply bump_keeps | intro _ | apply Keeps.set

theorem countChanDrops_keeps {z : State} (a n : Nat) (s : State) (hz : Keeps z s) :
    Keeps z (countChanDrops a n s) := by
  unfold countChanDrops
  with_reducible repeat' first
    | assumption | rfl | split | apply meetChannel_keeps | apply Keeps.foldl | intro _ | apply Keeps.set

theorem lineWrite_keeps {z : State} (a : Nat) (data : List Byte) (line : Nat) (s : State) (hz : Keeps z s) :
    Keeps z (lineWrite a data line s) := by
  unfold lineWrite
  with_reducible repeat' first
    | assumption | rfl | split | apply wcbWrite_keeps | apply sectorWrite_keeps | intro _ | dsimp only
    | apply Keeps.set

theorem homeWrite_keeps {z : State} (a : Nat) (data : List Byte) (s : State) (hz : Keeps z s) :
    Keeps z (homeWrite a data s) := by
  unfold homeWrite
  with_reducible repeat' first
    | assumption | rfl | split | apply lineWrite_keeps | apply countChanDrops_keeps | apply touch_keeps
    | apply Keeps.foldl | intro _ | apply Keeps.set

theorem homeCopy_keeps {z : State} (a : Nat) (data : List Byte) (marks : List Bool) (s : State) (hz : Keeps z s) :
    Keeps z (homeCopy a data marks s) := by
  unfold homeCopy
  with_reducible repeat' first
    | assumption | rfl | split | apply homeWrite_keeps | apply markPoison_keeps | apply Keeps.foldl | intro _
    | dsimp only | apply Keeps.set

theorem opWrite_keeps {z : State} (lc a : Nat) (data : List Byte) (s : State) (hz : Keeps z s) :
    Keeps z (opWrite lc a data s) := by
  unfold opWrite
  dsimp only
  have g : Keeps z { s with mem := { s.mem with
      opCache := mapSet s.mem.opCache lc (cellsWrite (mapGetD s.mem.opCache lc []) a data)
      opPoison := mapSet s.mem.opPoison lc ((opPoison s lc).filter
      (fun x => !(a ≤ x * 32 && x * 32 + 32 ≤ a + data.length))) } } := by
    refine Keeps.setMem hz ?_ id
    intro w
    simp only [Mem.wf, Bool.and_eq_true] at w ⊢
    exact ⟨w.1, mapSet_all w.2 (cellsWrite_wf _ _ (mapGetD_all w.2 rfl))⟩
  split
  · exact g
  · exact bump_keeps _ _ _ _ g

theorem noteWrite_keeps {z : State} (key a n who : Nat) (s : State) (hz : Keeps z s) :
    Keeps z (noteWrite key a n who s) := by
  unfold noteWrite
  with_reducible repeat' first | assumption | rfl | split | apply Keeps.set

theorem poisonSram_keeps {z : State} (p : SramPlace) (s : State) (hz : Keeps z s) :
    Keeps z (poisonSram p s) := by
  unfold poisonSram
  with_reducible repeat' first | assumption | rfl | split | intro _ | dsimp only | apply Keeps.set

theorem applyFinding_keeps {z : State} (f : EccFinding) (s : State) (hz : Keeps z s) :
    Keeps z (applyFinding f s) := by
  unfold applyFinding
  with_reducible repeat' first
    | assumption | rfl | split | apply bump_keeps | apply raise_keeps | apply markPoison_keeps
    | apply poisonSram_keeps | dsimp only | apply Keeps.set

theorem applyFindings_keeps {z : State} (l : List EccFinding) (s : State) (hz : Keeps z s) :
    Keeps z (applyFindings l s) := by
  unfold applyFindings
  with_reducible repeat' first
    | assumption | rfl | split | apply applyFinding_keeps | apply Keeps.foldl | intro _ | apply Keeps.set

theorem setStaging_keeps {z : State} (lc : Nat) (l : List PfLine) (s : State) (hz : Keeps z s) :
    Keeps z (setStaging lc l s) := by
  unfold setStaging
  with_reducible repeat' first | assumption | rfl | split | apply Keeps.set

theorem emptyStaging_keeps {z : State} (lc : Nat) (p : PfLine → Bool) (s : State) (hz : Keeps z s) :
    Keeps z (emptyStaging lc p s) := by
  unfold emptyStaging
  with_reducible repeat' first
    | assumption | rfl | split | apply setStaging_keeps | apply bump_keeps | intro _ | dsimp only | apply Keeps.set

theorem flushStaging_keeps {z : State} (lc : Nat) (s : State) (hz : Keeps z s) :
    Keeps z (flushStaging lc s) := by
  unfold flushStaging
  with_reducible repeat' first
    | assumption | rfl | split | apply bump_keeps | apply emptyStaging_keeps | intro _ | apply Keeps.set

theorem flushAllStaging_keeps {z : State} (s : State) (hz : Keeps z s) :
    Keeps z (flushAllStaging s) := by
  unfold flushAllStaging
  with_reducible repeat' first
    | assumption | rfl | split | apply flushStaging_keeps | apply Keeps.foldl | intro _ | apply Keeps.set

theorem emptyNonPooled_keeps {z : State} (lc : Nat) (s : State) (hz : Keeps z s) :
    Keeps z (emptyNonPooled lc s) := by
  unfold emptyNonPooled
  with_reducible repeat' first | assumption | rfl | split | apply emptyStaging_keeps | intro _ | apply Keeps.set

theorem snoopWrite_keeps {z : State} (lc a n : Nat) (s : State) (hz : Keeps z s) :
    Keeps z (snoopWrite lc a n s) := by
  unfold snoopWrite
  with_reducible repeat' first
    | assumption | rfl | split | apply bump_keeps | apply emptyStaging_keeps | intro _ | dsimp only | apply Keeps.set

theorem setTrackers_keeps {z : State} (lc : Nat) (l : List Tracker) (s : State) (hz : Keeps z s) :
    Keeps z (setTrackers lc l s) := by
  unfold setTrackers
  with_reducible repeat' first | assumption | rfl | split | apply Keeps.set

theorem issuePrefetch_keeps {z : State} (lc id : Nat) (g : Int) (s : State) (hz : Keeps z s) :
    Keeps z (issuePrefetch lc id g s) := by
  unfold issuePrefetch
  with_reducible repeat' first
    | assumption | rfl | split | apply bump_keeps | apply setStaging_keeps | intro _ | dsimp only | apply Keeps.set

theorem fetchAgain_keeps {z : State} (lc id : Nat) (g : Int) (s : State) (hz : Keeps z s) :
    Keeps z (fetchAgain lc id g s) := by
  unfold fetchAgain
  with_reducible repeat' first | assumption | rfl | split | apply issuePrefetch_keeps | apply Keeps.set

theorem trainGranule_keeps {z : State} (lc id g : Nat) (s : State) (hz : Keeps z s) :
    Keeps z (trainGranule lc id g s) := by
  unfold trainGranule
  with_reducible repeat' first
    | assumption | rfl | split | apply setTrackers_keeps | apply issuePrefetch_keeps | apply fetchAgain_keeps
    | apply Keeps.foldl | intro _ | dsimp only | apply Keeps.set

theorem trainRead_keeps {z : State} (lc a n : Nat) (s : State) (hz : Keeps z s) :
    Keeps z (trainRead lc a n s) := by
  unfold trainRead
  with_reducible repeat' first
    | assumption | rfl | split | apply trainGranule_keeps | apply Keeps.foldl | intro _ | apply Keeps.set

theorem fillStaging_keeps {z : State} (lc g : Nat) (s : State) (hz : Keeps z s) :
    Keeps z (fillStaging lc g s) := by
  unfold fillStaging
  with_reducible repeat' first
    | assumption | rfl | split | apply homeRead_keeps | apply setStaging_keeps | intro _ | dsimp only
    | apply Keeps.set

theorem meetStaging_keeps {z : State} (lc g : Nat) (s : State) (hz : Keeps z s) :
    Keeps z (meetStaging lc g s).2 := by
  unfold meetStaging
  with_reducible repeat' first
    | assumption | rfl | split | apply fillStaging_keeps | apply bump_keeps | apply setStaging_keeps | intro _
    | dsimp only | apply Keeps.set

theorem demandGranule_keeps {z : State} (lc a n g : Nat) (s : State) (hz : Keeps z s) :
    Keeps z (demandGranule lc a n g s).2.2 := by
  unfold demandGranule
  dsimp only
  have g := meetStaging_keeps lc g s hz
  split
  · next h => rw [h] at g; exact g
  · next h => rw [h] at g; exact homeRead_keeps _ _ _ _ g

theorem demandRead_keeps {z : State} (lc a n : Nat) (s : State) (hz : Keeps z s) :
    Keeps z (demandRead lc a n s).2.2 := by
  unfold demandRead
  with_reducible repeat' first
    | assumption | rfl | split | apply demandGranule_keeps | apply trainRead_keeps | apply Keeps.foldl22
    | apply Keeps.foldl2 | apply Keeps.foldl1 | apply Keeps.foldl | intro _ | dsimp only | apply Keeps.set

theorem destroyRegion_keeps {z : State} (id : Nat) (s : State) (hz : Keeps z s) :
    Keeps z (destroyRegion id s) := by
  unfold destroyRegion
  split
  · exact hz
  · dsimp only
    refine Keeps.setMem ?_ ?_ ?_
    · exact Keeps.foldl hz (fun t a ht => emptyStaging_keeps _ _ _ ht)
    · intro w
      simp only [Mem.wf, Bool.and_eq_true] at w ⊢
      exact ⟨cellsClear_wf _ _ w.1, w.2⟩
    · exact fun w => regionsApart_del w

theorem digest_keeps {z : State} (sent : Bool) (peer : Nat) (i : Instr) (s : State) (hz : Keeps z s) :
    Keeps z (digest sent peer i s) := by
  unfold digest
  with_reducible repeat' first | assumption | rfl | split | dsimp only | apply Keeps.set

theorem freshTag_keeps {z : State} (s : State) (hz : Keeps z s) :
    Keeps z (freshTag s).2 := by
  unfold freshTag
  with_reducible repeat' first | assumption | rfl | split | apply Keeps.set

theorem setPort_keeps {z : State} (q : Nat) (p : Port) (s : State) (hz : Keeps z s) :
    Keeps z (setPort q p s) := by
  unfold setPort
  with_reducible repeat' first | assumption | rfl | split | apply Keeps.set

theorem transmit_keeps {z : State} (q n0 : Nat) (i : Instr) (s : State) (hz : Keeps z s) :
    Keeps z (transmit q n0 i s) := by
  unfold transmit
  with_reducible repeat' first
    | assumption | rfl | split | apply bump_keeps | apply setPort_keeps | dsimp only | apply Keeps.set

theorem sendPackets_keeps {z : State} (q n0 : Nat) (s : State) (hz : Keeps z s) :
    Keeps z (sendPackets q n0 s) := by
  unfold sendPackets
  with_reducible repeat' first
    | assumption | rfl | split | apply transmit_keeps | apply Keeps.foldl | intro _ | apply Keeps.set

theorem sendControl_keeps {z : State} (q : Nat) (s : State) (hz : Keeps z s) :
    Keeps z (sendControl q s) := by
  unfold sendControl
  with_reducible repeat' first | assumption | rfl | split | apply setPort_keeps | dsimp only | apply Keeps.set

theorem putFrames_keeps {z : State} (q : Nat) (l : List TxFrame) (s : State) (hz : Keeps z s) :
    Keeps z (putFrames q l s) := by
  unfold putFrames
  with_reducible repeat' first | assumption | rfl | split | intro _ | apply Keeps.set

theorem pumpPort_keeps {z : State} (q : Nat) (s : State) (hz : Keeps z s) :
    Keeps z (pumpPort q s) := by
  unfold pumpPort
  with_reducible repeat' first
    | assumption | rfl | split | apply setPort_keeps | apply sendPackets_keeps | apply sendControl_keeps
    | apply putFrames_keeps | dsimp only | apply Keeps.set

theorem resend_keeps {z : State} (q : Nat) (l : List TxFrame) (s : State) (hz : Keeps z s) :
    Keeps z (resend q l s) := by
  unfold resend
  with_reducible repeat' first | assumption | rfl | split | apply bump_keeps | apply putFrames_keeps | apply Keeps.set

theorem unroutable_keeps {z : State} (i : Instr) (s : State) (hz : Keeps z s) :
    Keeps z (unroutable i s) := by
  unfold unroutable
  with_reducible repeat' first
    | assumption | rfl | split | apply raise_keeps | apply bump_keeps | dsimp only | apply Keeps.set

theorem queueAt_keeps {z : State} (q : Nat) (i : Instr) (s : State) (hz : Keeps z s) :
    Keeps z (queueAt q i s) := by
  unfold queueAt
  with_reducible repeat' first
    | assumption | rfl | split | apply pumpPort_keeps | apply setPort_keeps | dsimp only | apply Keeps.set

theorem routeFrom_keeps {z : State} (o : Nat) (i : Instr) (s : State) (hz : Keeps z s) :
    Keeps z (routeFrom o i s).1 := by
  unfold routeFrom
  with_reducible repeat' first
    | assumption | rfl | split | apply unroutable_keeps | apply queueAt_keeps | intro _ | dsimp only
    | apply Keeps.set

theorem routePacket_keeps {z : State} (i : Instr) (s : State) (hz : Keeps z s) :
    Keeps z (routePacket i s).1 := by
  unfold routePacket
  with_reducible repeat' first | assumption | rfl | split | apply routeFrom_keeps | apply Keeps.set

theorem sendPacket_keeps {z : State} (i : Instr) (s : State) (hz : Keeps z s) :
    Keeps z (sendPacket i s).1 := by
  unfold sendPacket
  with_reducible repeat' first
    | assumption | rfl | split | apply routePacket_keeps | apply digest_keeps | dsimp only | apply Keeps.set

theorem sendPlain_keeps {z : State} (i : Instr) (s : State) (hz : Keeps z s) :
    Keeps z (sendPlain i s) := by
  unfold sendPlain
  with_reducible repeat' first | assumption | rfl | split | apply sendPacket_keeps | dsimp only | apply Keeps.set

theorem toMembers_keeps {z : State} (f : Hdr → Instr) (s : State) (hz : Keeps z s) :
    Keeps z (toMembers f s) := by
  unfold toMembers
  with_reducible repeat' first
    | assumption | rfl | split | apply sendPlain_keeps | apply Keeps.foldl | intro _ | apply Keeps.set

theorem sendLinkState_keeps {z : State} (q : Nat) (s : State) (hz : Keeps z s) :
    Keeps z (sendLinkState q s) := by
  unfold sendLinkState
  with_reducible repeat' first
    | assumption | rfl | split | apply toMembers_keeps | intro _ | dsimp only | apply Keeps.set

theorem emptyPort_keeps {z : State} (q : Nat) (s : State) (hz : Keeps z s) :
    Keeps z (emptyPort q s) := by
  unfold emptyPort
  with_reducible repeat' first
    | assumption | rfl | split | apply setPort_keeps | apply bump_keeps | intro _ | dsimp only | apply Keeps.set

theorem enterPort_keeps {z : State} (q : Nat) (st : PortSt) (reason : Nat) (s : State) (hz : Keeps z s) :
    Keeps z (enterPort q st reason s) := by
  unfold enterPort
  with_reducible repeat' first
    | assumption | rfl | split | apply setPort_keeps | apply sendLinkState_keeps | dsimp only | apply Keeps.set

theorem handToPair_keeps {z : State} (q : Nat) (s : State) (hz : Keeps z s) :
    Keeps z (handToPair q s) := by
  unfold handToPair
  with_reducible repeat' first
    | assumption | rfl | split | apply emptyPort_keeps | apply pumpPort_keeps | apply setPort_keeps | intro _
    | dsimp only | apply Keeps.set

theorem startRetrain_keeps {z : State} (q : Nat) (s : State) (hz : Keeps z s) :
    Keeps z (startRetrain q s) := by
  unfold startRetrain
  with_reducible repeat' first
    | assumption | rfl | split | apply setPort_keeps | apply handToPair_keeps | apply raise_keeps | apply bump_keeps
    | dsimp only | apply Keeps.set

theorem startTraining_keeps {z : State} (q : Nat) (s : State) (hz : Keeps z s) :
    Keeps z (startTraining q s) := by
  unfold startTraining
  with_reducible repeat' first
    | assumption | rfl | split | apply setPort_keeps | apply sendLinkState_keeps | dsimp only | apply Keeps.set

theorem trainAll_keeps {z : State} (s : State) (hz : Keeps z s) :
    Keeps z (trainAll s) := by
  unfold trainAll
  with_reducible repeat' first
    | assumption | rfl | split | apply startTraining_keeps | apply setPort_keeps | apply Keeps.foldl | intro _
    | apply Keeps.set

theorem sendHello_keeps {z : State} (q : Nat) (s : State) (hz : Keeps z s) :
    Keeps z (sendHello q s) := by
  unfold sendHello
  with_reducible repeat' first | assumption | rfl | split | dsimp only | apply Keeps.set

theorem returnCredits_keeps {z : State} (i : Instr) (h : Hdr) (s : State) (hz : Keeps z s) :
    Keeps z (returnCredits i h s) := by
  unfold returnCredits
  with_reducible repeat' first
    | assumption | rfl | split | apply pumpPort_keeps | apply setPort_keeps | dsimp only | apply Keeps.set

theorem setTable_keeps {z : State} (t : Nat) (tb : Table) (s : State) (hz : Keeps z s) :
    Keeps z (setTable t tb s) := by
  unfold setTable
  with_reducible repeat' first | assumption | rfl | split | apply Keeps.set

theorem addPend_keeps {z : State} (p : Pend) (s : State) (hz : Keeps z s) :
    Keeps z (addPend p s) := by
  unfold addPend
  with_reducible repeat' first | assumption | rfl | split | apply Keeps.set

theorem dropPend_keeps {z : State} (tag : Nat) (s : State) (hz : Keeps z s) :
    Keeps z (dropPend tag s) := by
  unfold dropPend
  with_reducible repeat' first | assumption | rfl | split | intro _ | apply Keeps.set

theorem ackTo_keeps {z : State} (h : Hdr) (status : Nat) (s : State) (hz : Keeps z s) :
    Keeps z (ackTo h status s) := by
  unfold ackTo
  with_reducible repeat' first
    | assumption | rfl | split | apply dropPend_keeps | apply sendPlain_keeps | apply Keeps.set

theorem badAccessOf_keeps {z : State} (lc : Nat) (s : State) (hz : Keeps z s) :
    Keeps z (badAccessOf lc s) := by
  unfold badAccessOf
  with_reducible repeat' first | assumption | rfl | split | apply raise_keeps | apply bump_keeps | apply Keeps.set

theorem refuseWrite_keeps {z : State} (tag reason : Nat) (s : State) (hz : Keeps z s) :
    Keeps z (refuseWrite tag reason s) := by
  unfold refuseWrite
  with_reducible repeat' first
    | assumption | rfl | split | apply dropPend_keeps | apply badAccessOf_keeps | apply bump_keeps | dsimp only
    | apply Keeps.set

theorem errTo_keeps {z : State} (h : Hdr) (reason : Nat) (s : State) (hz : Keeps z s) :
    Keeps z (errTo h reason s) := by
  unfold errTo
  with_reducible repeat' first
    | assumption | rfl | split | apply refuseWrite_keeps | apply sendPlain_keeps | apply Keeps.set

theorem holdWrite_keeps {z : State} (i : Instr) (s : State) (hz : Keeps z s) :
    Keeps z (holdWrite i s) := by
  unfold holdWrite
  with_reducible repeat' first | assumption | rfl | split | apply bump_keeps | apply Keeps.set

theorem stageWrite_keeps {z : State} (i : Instr) (h : Hdr) (addr : Nat) (accum : Bool) (data : List Byte)
    (marks : List Bool) (s : State) (hz : Keeps z s) :
    Keeps z (stageWrite i h addr accum data marks s) := by
  unfold stageWrite
  with_reducible repeat' first
    | assumption | rfl | split | apply errTo_keeps | apply ackTo_keeps | apply raise_keeps | apply bump_keeps
    | apply touchHomes_keeps | apply holdWrite_keeps | intro _ | dsimp only | apply Keeps.set

theorem trackAccess_keeps {z : State} (t row src : Nat) (s : State) (hz : Keeps z s) :
    Keeps z (trackAccess t row src s) := by
  unfold trackAccess
  with_reducible repeat' first
    | assumption | rfl | split | apply setTable_keeps | intro _ | dsimp only | apply Keeps.set

theorem commitWrite_keeps {z : State} (a : Nat) (data : List Byte) (s : State) (hz : Keeps z s) :
    Keeps z (commitWrite a data s) := by
  unfold commitWrite
  with_reducible repeat' first | assumption | rfl | split | apply homeWrite_keeps | dsimp only | apply Keeps.set

theorem updateRow_keeps {z : State} (t row n addr : Nat) (sum : List W32) (tb : Table) (s : State) (hz : Keeps z s) :
    Keeps z (updateRow t row n addr sum tb s) := by
  unfold updateRow
  with_reducible repeat' first
    | assumption | rfl | split | apply homeRead_keeps | apply raise_keeps | apply bump_keeps
    | apply commitWrite_keeps | dsimp only | apply Keeps.set

theorem commitRow_keeps {z : State} (t row : Nat) (s : State) (hz : Keeps z s) :
    Keeps z (commitRow t row s) := by
  unfold commitRow
  with_reducible repeat' first
    | assumption | rfl | split | apply setTable_keeps | apply updateRow_keeps | intro _ | dsimp only
    | apply Keeps.set

theorem commitTable_keeps {z : State} (t : Nat) (s : State) (hz : Keeps z s) :
    Keeps z (commitTable t s) := by
  unfold commitTable
  with_reducible repeat' first
    | assumption | rfl | split | apply commitRow_keeps | apply Keeps.foldl | intro _ | apply Keeps.set

theorem commitAllRows_keeps {z : State} (s : State) (hz : Keeps z s) :
    Keeps z (commitAllRows s) := by
  unfold commitAllRows
  with_reducible repeat' first
    | assumption | rfl | split | apply commitTable_keeps | apply Keeps.foldl | intro _ | apply Keeps.set

theorem awaitRows_keeps {z : State} (t : Nat) (rows : List Nat) (s : State) (hz : Keeps z s) :
    Keeps z (awaitRows t rows s) := by
  unfold awaitRows
  with_reducible repeat' first
    | assumption | rfl | split | apply commitRow_keeps | apply bump_keeps | apply Keeps.foldl | intro _ | dsimp only
    | apply Keeps.set

theorem misroute_keeps {z : State} (t : Nat) (s : State) (hz : Keeps z s) :
    Keeps z (misroute t s) := by
  unfold misroute
  with_reducible repeat' first | assumption | rfl | split | apply raise_keeps | apply bump_keeps | apply Keeps.set

theorem countRead_keeps {z : State} (k : Nat) (s : State) (hz : Keeps z s) :
    Keeps z (countRead k s).1 := by
  unfold countRead
  with_reducible repeat' first | assumption | rfl | split | dsimp only | apply Keeps.set

theorem countReads_keeps {z : State} (t : Nat) (rows : List Nat) (s : State) (hz : Keeps z s) :
    Keeps z (countReads t rows s).1 := by
  unfold countReads
  with_reducible repeat' first
    | assumption | rfl | split | apply countRead_keeps | apply Keeps.foldl1 | apply Keeps.foldl | intro _
    | dsimp only | apply Keeps.set

theorem poolData_keeps {z : State} (a n : Nat) (c : State × Bool) (hz : Keeps z c.1) :
    Keeps z (poolData a n c).2 := homeRead_keeps _ _ _ _ hz

theorem poolReadAt_keeps {z : State} (src a n : Nat) (s : State) (hz : Keeps z s) :
    Keeps z (poolReadAt src a n s).2 := by
  unfold poolReadAt
  with_reducible repeat' first
    | exact hz | exact poolData_keeps _ _ _ (countRead_keeps _ _ hz) | exact bump_keeps _ _ _ _ hz
    | exact misroute_keeps _ _ hz | split | dsimp only
  refine poolData_keeps _ _ _ (countReads_keeps _ _ _ (Keeps.foldl (awaitRows_keeps _ _ _ hz) ?_))
  exact fun t row ht => trackAccess_keeps _ _ _ _ ht

theorem servePoolRead_keeps {z : State} (h : Hdr) (addr nsect : Nat) (s : State) (hz : Keeps z s) :
    Keeps z (servePoolRead h addr nsect s) := by
  unfold servePoolRead
  have g := poolReadAt_keeps h.src addr (nsect * 32) s hz
  split
  · next e => rw [e] at g; exact sendPlain_keeps _ _ g
  · next e => rw [e] at g; exact sendPlain_keeps _ _ g
  · next e => rw [e] at g; exact errTo_keeps _ _ _ g

theorem sendReq_keeps {z : State} (dst : Nat) (kind : PendKind) (f : Hdr → Instr) (s : State) (hz : Keeps z s) :
    Keeps z (sendReq dst kind f s).1 := by
  unfold sendReq
  with_reducible repeat' first
    | assumption | rfl | split | apply freshTag_keeps | apply sendPacket_keeps | apply addPend_keeps | dsimp only
    | apply Keeps.set

theorem sendForward_keeps {z : State} (t row target n origin seq : Nat) (kind : PendKind) (elems : List W32)
    (s : State) (hz : Keeps z s) :
    Keeps z (sendForward t row target n origin seq kind elems s).1 := by
  unfold sendForward
  with_reducible repeat' first | assumption | rfl | split | apply sendReq_keeps | intro _ | apply Keeps.set

theorem relayContrib_keeps {z : State} (t row target : Nat) (h : Hdr) (origin : Nat) (elems : List W32) (s : State)
    (hz : Keeps z s) :
    Keeps z (relayContrib t row target h origin elems s) := by
  unfold relayContrib
  with_reducible repeat' first
    | assumption | rfl | split | apply sendForward_keeps | apply errTo_keeps | dsimp only | apply Keeps.set

theorem setSeq_keeps {z : State} (t row n : Nat) (s : State) (hz : Keeps z s) :
    Keeps z (setSeq t row n s) := by
  unfold setSeq
  with_reducible repeat' first | assumption | rfl | split | apply setTable_keeps | intro _ | apply Keeps.set

theorem pushContrib_keeps {z : State} (c : Contrib) (s : State) (hz : Keeps z s) :
    Keeps z (pushContrib c s) := by
  unfold pushContrib
  with_reducible repeat' first | assumption | rfl | split | apply bump_keeps | apply Keeps.set

theorem stageContrib_keeps {z : State} (t row : Nat) (h : Hdr) (origin : Nat) (elems : List W32) (tb : Table)
    (s : State) (hz : Keeps z s) :
    Keeps z (stageContrib t row h origin elems tb s) := by
  unfold stageContrib
  with_reducible repeat' first
    | assumption | rfl | split | apply trackAccess_keeps | apply ackTo_keeps | apply pushContrib_keeps
    | apply setSeq_keeps | apply bump_keeps | apply sendForward_keeps | intro _ | dsimp only | apply Keeps.set

theorem dropRowUpdate_keeps {z : State} (t : Nat) (h : Hdr) (s : State) (hz : Keeps z s) :
    Keeps z (dropRowUpdate t h s) := by
  unfold dropRowUpdate
  with_reducible repeat' first
    | assumption | rfl | split | apply ackTo_keeps | apply raise_keeps | apply bump_keeps | apply Keeps.set

theorem whenFits_keeps {z : State} (i : Instr) (tb : Table) (row : Nat) (elems : List W32) (f : State → State)
    (s : State) (hf : ∀ t, Keeps z t → Keeps z (f t)) (hz : Keeps z s) :
    Keeps z (whenFits i tb row elems f s) := by
  unfold whenFits
  with_reducible repeat' first
    | assumption | rfl | split | apply hf | apply touchHomes_keeps | apply holdWrite_keeps | dsimp only
    | apply Keeps.set

theorem applyRowUpdate_keeps {z : State} (i : Instr) (h : Hdr) (origin row t : Nat) (relayed : Bool)
    (elems : List W32) (s : State) (hz : Keeps z s) :
    Keeps z (applyRowUpdate i h origin row t relayed elems s) := by
  unfold applyRowUpdate
  with_reducible repeat' first
    | assumption | rfl | split | apply errTo_keeps | apply dropRowUpdate_keeps | apply whenFits_keeps
    | apply stageContrib_keeps | apply relayContrib_keeps | apply misroute_keeps | apply Keeps.set

theorem recvRowUpdate_keeps {z : State} (h : Hdr) (row t part parts : Nat) (data : List Byte) (s : State)
    (hz : Keeps z s) :
    Keeps z (recvRowUpdate h row t part parts data s) := by
  unfold recvRowUpdate
  with_reducible repeat' first
    | assumption | rfl | split | apply applyRowUpdate_keeps | intro _ | dsimp only | apply Keeps.set

theorem stageForShadow_keeps {z : State} (i : Instr) (h : Hdr) (row t origin seq : Nat) (elems : List W32)
    (s : State) (hz : Keeps z s) :
    Keeps z (stageForShadow i h row t origin seq elems s) := by
  unfold stageForShadow
  with_reducible repeat' first
    | assumption | rfl | split | apply errTo_keeps | apply dropRowUpdate_keeps | apply whenFits_keeps
    | apply ackTo_keeps | apply pushContrib_keeps | intro _ | dsimp only | apply Keeps.set

theorem recvForwarded_keeps {z : State} (i : Instr) (h : Hdr) (row t origin seq : Nat) (data : List Byte)
    (s : State) (hz : Keeps z s) :
    Keeps z (recvForwarded i h row t origin seq data s) := by
  unfold recvForwarded
  with_reducible repeat' first
    | assumption | rfl | split | apply applyRowUpdate_keeps | apply stageForShadow_keeps | apply Keeps.set

theorem ackOwed_keeps {z : State} (t row : Nat) (s : State) (hz : Keeps z s) :
    Keeps z (ackOwed t row s) := by
  unfold ackOwed
  with_reducible repeat' first
    | assumption | rfl | split | apply ackTo_keeps | apply Keeps.foldl | intro _ | dsimp only | apply Keeps.set

theorem refuseMig_keeps {z : State} (t row : Nat) (s : State) (hz : Keeps z s) :
    Keeps z (refuseMig t row s) := by
  unfold refuseMig
  with_reducible repeat' first
    | assumption | rfl | split | apply ackOwed_keeps | apply bump_keeps | apply setTable_keeps | intro _ | dsimp only
    | apply Keeps.set

theorem startMig_keeps {z : State} (t row target n : Nat) (s : State) (hz : Keeps z s) :
    Keeps z (startMig t row target n s) := by
  unfold startMig
  with_reducible repeat' first
    | assumption | rfl | split | apply bump_keeps | apply setTable_keeps | apply refuseMig_keeps
    | apply sendReq_keeps | intro _ | dsimp only | apply Keeps.set

theorem migDeparture_keeps {z : State} (t n : Nat) (s : State) (hz : Keeps z s) :
    Keeps z (migDeparture t n s) := by
  unfold migDeparture
  with_reducible repeat' first
    | assumption | rfl | split | apply setTable_keeps | apply startMig_keeps | apply Keeps.foldl | intro _
    | dsimp only | apply Keeps.set

theorem recvSlotRequest_keeps {z : State} (h : Hdr) (row t : Nat) (s : State) (hz : Keeps z s) :
    Keeps z (recvSlotRequest h row t s) := by
  unfold recvSlotRequest
  with_reducible repeat' first
    | assumption | rfl | split | apply errTo_keeps | apply setTable_keeps | apply sendPlain_keeps | intro _
    | dsimp only | apply Keeps.set

theorem recvSlotRefusal_keeps {z : State} (h : Hdr) (row t : Nat) (s : State) (hz : Keeps z s) :
    Keeps z (recvSlotRefusal h row t s) := by
  unfold recvSlotRefusal
  with_reducible repeat' first
    | assumption | rfl | split | apply refuseMig_keeps | apply dropPend_keeps | apply Keeps.set

theorem takeMigImage_keeps {z : State} (tb : Table) (a n : Nat) (s : State) (hz : Keeps z s) :
    Keeps z (takeMigImage tb a n s).2.2 := by
  unfold takeMigImage
  with_reducible repeat' first
    | assumption | rfl | split | apply homeRead_keeps | apply commitWrite_keeps | apply Keeps.set

theorem forwardStaged_keeps {z : State} (t row target : Nat) (l : List Contrib) (s : State) (hz : Keeps z s) :
    Keeps z (forwardStaged t row target l s) := by
  unfold forwardStaged
  with_reducible repeat' first
    | assumption | rfl | split | apply sendForward_keeps | apply bump_keeps | apply ackTo_keeps | apply Keeps.foldl
    | intro _ | dsimp only | apply Keeps.set

theorem clearOwed_keeps {z : State} (t row : Nat) (s : State) (hz : Keeps z s) :
    Keeps z (clearOwed t row s) := by
  unfold clearOwed
  with_reducible repeat' first | assumption | rfl | split | intro _ | dsimp only | apply Keeps.set

theorem grantMig_keeps {z : State} (t a slot target : Nat) (m : Migration) (tb : Table) (s : State) (hz : Keeps z s) :
    Keeps z (grantMig t a slot target m tb s) := by
  unfold grantMig
  with_reducible repeat' first
    | assumption | rfl | split | apply commitRow_keeps | apply takeMigImage_keeps | apply setTable_keeps
    | apply sendReq_keeps | apply forwardStaged_keeps | apply clearOwed_keeps | apply Keeps.foldl | intro _
    | dsimp only | apply Keeps.set

theorem recvSlotGrant_keeps {z : State} (h : Hdr) (row t slot : Nat) (s : State) (hz : Keeps z s) :
    Keeps z (recvSlotGrant h row t slot s) := by
  unfold recvSlotGrant
  with_reducible repeat' first
    | assumption | rfl | split | apply dropPend_keeps | apply grantMig_keeps | intro _ | dsimp only | apply Keeps.set

theorem recvRowCopy_keeps {z : State} (i : Instr) (h : Hdr) (row t : Nat) (image : List Byte) (poison : Nat)
    (s : State) (hz : Keeps z s) :
    Keeps z (recvRowCopy i h row t image poison s) := by
  unfold recvRowCopy
  with_reducible repeat' first
    | assumption | rfl | split | apply errTo_keeps | apply touchHomes_keeps | apply ackTo_keeps
    | apply setTable_keeps | apply holdWrite_keeps | intro _ | dsimp only | apply Keeps.set

theorem recvDirChange_keeps {z : State} (h : Hdr) (row t home slot : Nat) (s : State) (hz : Keeps z s) :
    Keeps z (recvDirChange h row t home slot s) := by
  unfold recvDirChange
  with_reducible repeat' first
    | assumption | rfl | split | apply errTo_keeps | apply ackTo_keeps | apply setTable_keeps | dsimp only
    | apply Keeps.set

theorem landShadow_keeps {z : State} (t : Nat) (tb : Table) (sh : Shadow) (s : State) (hz : Keeps z s) :
    Keeps z (landShadow t tb sh s) := by
  unfold landShadow
  with_reducible repeat' first
    | assumption | rfl | split | apply markPoison_keeps | apply commitWrite_keeps | apply setTable_keeps
    | apply Keeps.foldl | intro _ | dsimp only | apply Keeps.set

theorem relayLater_keeps {z : State} (t n : Nat) (s : State) (m : Migration) (hz : Keeps z s) :
    Keeps z (relayLater t n s m) := by
  unfold relayLater
  with_reducible repeat' first
    | assumption | rfl | split | apply sendForward_keeps | apply Keeps.foldl | intro _ | dsimp only | apply Keeps.set

theorem countMigs_keeps {z : State} (t n : Nat) (lost : Bool) (left dead : List Nat) (tb : Table) (s : State)
    (hz : Keeps z s) :
    Keeps z (countMigs t n lost left dead tb s) := by
  unfold countMigs
  with_reducible repeat' first
    | assumption | rfl | split | apply bump_keeps | apply raiseAll_keeps | intro _ | dsimp only | apply Keeps.set

theorem migCommit_keeps {z : State} (t n : Nat) (left dead : List Nat) (s : State) (hz : Keeps z s) :
    Keeps z (migCommit t n left dead s) := by
  unfold migCommit
  with_reducible repeat' first
    | assumption | rfl | split | apply setTable_keeps | apply countMigs_keeps | apply ackOwed_keeps
    | apply landShadow_keeps | apply relayLater_keeps | apply Keeps.foldl | intro _ | dsimp only | apply Keeps.set

theorem commitStore_keeps {z : State} (e : Staged) (s : State) (hz : Keeps z s) :
    Keeps z (commitStore e s) := by
  unfold commitStore
  with_reducible repeat' first
    | assumption | rfl | split | apply commitWrite_keeps | apply markPoison_keeps | dsimp only | apply Keeps.set

theorem commitAccum_keeps {z : State} (e : Staged) (s : State) (hz : Keeps z s) :
    Keeps z (commitAccum e s) := by
  unfold commitAccum
  with_reducible repeat' first
    | assumption | rfl | split | apply bump_keeps | apply commitWrite_keeps | dsimp only | apply Keeps.set

theorem commitStep_keeps {z : State} (n : Nat) (left : List Nat) (s : State) (hz : Keeps z s) :
    Keeps z (commitStep n left s) := by
  unfold commitStep
  with_reducible repeat' first
    | assumption | rfl | split | apply commitAllRows_keeps | apply bump_keeps | apply commitStore_keeps
    | apply commitAccum_keeps | apply setTable_keeps | apply Keeps.foldl | intro _ | dsimp only | apply Keeps.set

theorem writebackDone_keeps {z : State} (d : Nat) (s : State) (hz : Keeps z s) :
    Keeps z (writebackDone d s) := by
  unfold writebackDone
  with_reducible repeat' first | assumption | rfl | split | apply Keeps.set

theorem onMeter_keeps {z : State} (f : Meter → Meter) (s : State) (hz : Keeps z s) (hf : ∀ m, MeterKeeps m (f m)) :
    Keeps z (onMeter f s) := by
  unfold onMeter
  split
  · next hp =>
    have g := hf s.meter
    refine hz.setMeter g.secret ?_
    rintro ⟨h1, _⟩
    refine ⟨⟨g.powered.trans h1, ?_⟩, g.energy⟩
    intro h
    rw [h1, h] at hp
    exact absurd hp (by decide)
  · exact hz

theorem vauxAppliedS_keeps {z : State} (romOk : Bool) (s : State) (hz : Keeps z s) :
    Keeps z (vauxAppliedS romOk s) := by
  unfold vauxAppliedS
  obtain ⟨h1, h2, h3⟩ := meterPowerUp_energy romOk s.meter
  split
  · exact hz
  · next hv =>
    refine ⟨hz.fuse, hz.pending, hz.now, h2.trans hz.secret, ?_, hz.soft, hz.clears, hz.mem, hz.apart⟩
    intro w
    obtain ⟨⟨_, g2⟩, g3⟩ := hz.energy w
    refine ⟨⟨h1, fun h => Bool.noConfusion h⟩, ?_⟩
    show _ ≤ (meterPowerUp romOk s.meter).regs.energy
    rw [h3]
    exact Nat.le_trans g3 (g2 (by simpa using hv))

theorem vauxLossS_keeps {z : State} (s : State) (hz : Keeps z s) :
    Keeps z (vauxLossS s) := by
  unfold vauxLossS
  split
  · exact hz
  · dsimp only
    have g := holdReset_keeps s hz
    generalize holdReset s = u at g ⊢
    obtain ⟨h1, h2, h3, h4⟩ := meterPowerDown_energy u.meter
    refine ⟨g.fuse, g.pending, g.now, h2.trans g.secret, ?_, g.soft, g.clears, g.mem, g.apart⟩
    intro w
    refine ⟨⟨h1, fun _ => ?_⟩, ?_⟩
    · show (meterPowerDown u.meter).regs.energy ≤ (meterPowerDown u.meter).nv.energy
      rw [h3, h4]
    · show _ ≤ (meterPowerDown u.meter).regs.energy
      rw [h3]
      exact (g.energy w).2

theorem bridgeWriteS_keeps {z : State} (s : State) (hz : Keeps z s) :
    Keeps z (bridgeWriteS s) := by
  unfold bridgeWriteS
  with_reducible repeat' first | assumption | rfl | split | apply bump_keeps | apply Keeps.set

theorem storeReport_keeps {z : State} (bytes : List Byte) (entries : List AuditEntry) (ok : Bool) (s : State)
    (hz : Keeps z s) :
    Keeps z (storeReport bytes entries ok s) := by
  unfold storeReport
  with_reducible repeat' first | assumption | rfl | split | apply Keeps.foldl | intro _ | dsimp only | apply Keeps.set

theorem reportEvents_keeps {z : State} (bytes : List Byte) (s : State) (hz : Keeps z s) :
    Keeps z (reportEvents bytes s) := by
  unfold reportEvents
  with_reducible repeat' first | assumption | rfl | split | apply raise_keeps | dsimp only | apply Keeps.set

theorem reportRxS_keeps {z : State} (damaged : Option (List Byte)) (s : State) (hz : Keeps z s) :
    Keeps z (reportRxS damaged s) := by
  unfold reportRxS
  split
  · exact hz
  · next sent entries rest hb =>
    have hm : Keeps z { s with meter := { s.meter with bridge := rest } } :=
      hz.setMeter rfl (fun w => ⟨w, Nat.le_refl _⟩)
    dsimp only
    have hg := fun b ok => storeReport_keeps b entries ok _ hm
    generalize hw : storeReport = st at hg ⊢
    repeat' first
    | with_reducible assumption | with_reducible rfl | exact hg _ _ | split | with_reducible apply pkgEvt_keeps
    | with_reducible apply reportEvents_keeps | with_reducible apply raise_keeps | with_reducible apply bump_keeps

theorem staleS_keeps {z : State} (s : State) (hz : Keeps z s) :
    Keeps z (staleS s) := by
  unfold staleS
  with_reducible repeat' first
    | assumption | rfl | split | apply reachTime_keeps | apply raise_keeps | apply bump_keeps | dsimp only
    | apply Keeps.set

theorem countBad_keeps {z : State} (r : Requester) (s : State) (hz : Keeps z s) :
    Keeps z (countBad r s) := by
  unfold countBad
  with_reducible repeat' first | assumption | rfl | split | apply badAccessOf_keeps | apply Keeps.set

theorem countConsumed_keeps {z : State} (r : Requester) (n : Nat) (s : State) (hz : Keeps z s) :
    Keeps z (countConsumed r n s) := by
  unfold countConsumed
  with_reducible repeat' first | assumption | rfl | split | apply raiseAll_keeps | apply bump_keeps | apply Keeps.set

theorem setReply_keeps {z : State} (r : Requester) (p : ReadReply) (s : State) (hz : Keeps z s) :
    Keeps z (setReply r p s) := by
  unfold setReply
  with_reducible repeat' first | assumption | rfl | split | apply Keeps.set

theorem dropReads_keeps {z : State} (r : Requester) (s : State) (hz : Keeps z s) :
    Keeps z (dropReads r s) := by
  unfold dropReads
  with_reducible repeat' first | assumption | rfl | split | intro _ | dsimp only | apply Keeps.set

theorem badRead_keeps {z : State} (r : Requester) (g n : Nat) (s : State) (hz : Keeps z s) :
    Keeps z (badRead r g n s) := by
  unfold badRead
  with_reducible repeat' first
    | assumption | rfl | split | apply setReply_keeps | apply countBad_keeps | apply Keeps.set

theorem holdAccess_keeps {z : State} (i : Instr) (s : State) (hz : Keeps z s) :
    Keeps z (holdAccess i s) := by
  unfold holdAccess
  with_reducible repeat' first | assumption | rfl | split | apply Keeps.set

theorem remoteReadFail_keeps {z : State} (r : Requester) (g n : Nat) (s : State) (hz : Keeps z s) :
    Keeps z (remoteReadFail r g n s) := by
  unfold remoteReadFail
  with_reducible repeat' first
    | assumption | rfl | split | apply bump_keeps | apply setReply_keeps | apply countConsumed_keeps
    | apply dropReads_keeps | dsimp only | apply Keeps.set

theorem failRead_keeps {z : State} (r : Requester) (s : State) (hz : Keeps z s) :
    Keeps z (failRead r s) := by
  unfold failRead
  with_reducible repeat' first | assumption | rfl | split | apply remoteReadFail_keeps | apply Keeps.set

theorem openRead_keeps {z : State} (r : Requester) (g n parts : Nat) (s : State) (hz : Keeps z s) :
    Keeps z (openRead r g n parts s) := by
  unfold openRead
  with_reducible repeat' first | assumption | rfl | split | apply setReply_keeps | apply Keeps.set

theorem sendPoolRead_keeps {z : State} (r : Requester) (pkg a n : Nat) (s : State) (hz : Keeps z s) :
    Keeps z (sendPoolRead r pkg a n s).1 := by
  unfold sendPoolRead
  with_reducible repeat' first
    | assumption | rfl | split | apply sendReq_keeps | intro _ | dsimp only | apply Keeps.set

theorem sendPiece_keeps {z : State} (r : Requester) (pkg g n : Nat) (s : State) (e : Nat × Nat) (hz : Keeps z s) :
    Keeps z (sendPiece r pkg g n s e) := by
  unfold sendPiece
  with_reducible repeat' first
    | assumption | rfl | split | apply sendPoolRead_keeps | apply remoteReadFail_keeps | dsimp only | apply Keeps.set

theorem readRemote_keeps {z : State} (r : Requester) (g n : Nat) (s : State) (hz : Keeps z s) :
    Keeps z (readRemote r g n s) := by
  unfold readRemote
  with_reducible repeat' first
    | assumption | rfl | split | apply badRead_keeps | apply remoteReadFail_keeps | apply setReply_keeps
    | apply countConsumed_keeps | apply bump_keeps | apply sendPiece_keeps | apply openRead_keeps | apply Keeps.foldl
    | dsimp only | apply Keeps.set

theorem landRead_keeps {z : State} (r : Requester) (g : Nat) (b : List Byte) (marks : List Bool) (s : State)
    (hz : Keeps z s) :
    Keeps z (landRead r g b marks s) := by
  unfold landRead
  with_reducible repeat' first
    | assumption | rfl | split | apply setReply_keeps | apply countConsumed_keeps | dsimp only | apply Keeps.set

theorem readAgain_keeps {z : State} (kind : PendKind) (t row off n home slot : Nat) (tb : Table) (s : State)
    (hz : Keeps z s) :
    Keeps z (readAgain kind t row off n home slot tb s).1 := by
  unfold readAgain
  with_reducible repeat' first
    | assumption | rfl | split | apply sendReq_keeps | intro _ | dsimp only | apply Keeps.set

theorem readRowPart_keeps {z : State} (r : Requester) (g n t base : Nat) (tb : Table) (s : State) (e : Nat × Nat)
    (hz : Keeps z s) : Keeps z (readRowPart r g n t base tb s e) := by
  unfold readRowPart
  split
  · exact hz
  · have k := poolReadAt_keeps (pkgNo s) e.1 e.2 s hz
    dsimp only
    split
    · next h => rw [h] at k; exact landRead_keeps _ _ _ _ _ k
    · next h =>
      rw [h] at k
      split
      · exact readAgain_keeps _ _ _ _ _ _ _ _ _ k
      · exact remoteReadFail_keeps _ _ _ _ (readAgain_keeps _ _ _ _ _ _ _ _ _ k)
    · next h => rw [h] at k; exact badRead_keeps _ _ _ _ k

theorem readTable_keeps {z : State} (r : Requester) (g n t base : Nat) (tb : Table) (s : State) (hz : Keeps z s) :
    Keeps z (readTable r g n t base tb s) := by
  unfold readTable
  with_reducible repeat' first
    | assumption | rfl | split | apply awaitRows_keeps | apply readRowPart_keeps | apply openRead_keeps
    | apply Keeps.foldl | intro _ | dsimp only | apply Keeps.set

theorem freeBytes_keeps {z : State} (a0 : Nat) (a1 : State) (hz : Keeps z a1) :
    Keeps z (freeBytes a0 a1).2 := by
  induction a0 generalizing a1 with
  | zero => exact hz
  | succ n ih =>
    unfold freeBytes
    dsimp only
    exact ih _ (freeVal_keeps _ _ hz)

theorem maskHeld_keeps {z : State} (a : Nat) (b : List Byte) (s : State) (hz : Keeps z s) :
    Keeps z (maskHeld a b s).2 := by
  unfold maskHeld
  with_reducible repeat' first | assumption | rfl | split | apply freeBytes_keeps | dsimp only | apply Keeps.set

theorem readPlain_keeps {z : State} (r : Requester) (a n : Nat) (s : State) (hz : Keeps z s) :
    Keeps z (readPlain r a n s).2.2 := by
  unfold readPlain
  with_reducible repeat' first
    | assumption | rfl | split | apply demandRead_keeps | apply homeRead_keeps | apply maskHeld_keeps | dsimp only
    | apply Keeps.set

theorem readHere_keeps {z : State} (r : Requester) (g n : Nat) (s : State) (hz : Keeps z s) :
    Keeps z (readHere r g n s) := by
  unfold readHere
  split
  · exact readTable_keeps _ _ _ _ _ _ _ hz
  · exact setReply_keeps _ _ _ (countConsumed_keeps _ _ _ (readPlain_keeps _ _ _ _ hz))

theorem readOp_keeps {z : State} (r : Requester) (g n : Nat) (s : State) (hz : Keeps z s) :
    Keeps z (readOp r g n s) := by
  unfold readOp
  with_reducible repeat' first
    | assumption | rfl | split | apply setReply_keeps | apply countConsumed_keeps | apply badRead_keeps | dsimp only
    | apply Keeps.set

theorem doRead_keeps {z : State} (r : Requester) (g n : Nat) (found : List EccFinding) (s : State) (hz : Keeps z s) :
    Keeps z (doRead r g n found s) := by
  unfold doRead
  extract_lets g' s'
  have hs : Keeps z s' := applyFindings_keeps _ _ hz
  with_reducible repeat' first
    | exact readOp_keeps _ _ _ _ hs | exact readRemote_keeps _ _ _ _ hs | exact readHere_keeps _ _ _ _ hs
    | exact badRead_keeps _ _ _ _ hs | split

theorem wholeSectors_keeps {z : State} (a : Nat) (data : List Byte) (s : State) (hz : Keeps z s) :
    Keeps z (wholeSectors a data s).2.2 := by
  unfold wholeSectors
  with_reducible repeat' first | assumption | rfl | split | apply freeBytes_keeps | dsimp only | apply Keeps.set

theorem stageHere_keeps {z : State} (a : Nat) (accum : Bool) (data : List Byte) (marks : List Bool) (s : State)
    (hz : Keeps z s) :
    Keeps z (stageHere a accum data marks s) := by
  unfold stageHere
  with_reducible repeat' first
    | assumption | rfl | split | apply freshTag_keeps | apply addPend_keeps | apply stageWrite_keeps | dsimp only
    | apply Keeps.set

theorem stageThere_keeps {z : State} (lc : Option Nat) (pkg a : Nat) (accum : Bool) (data : List Byte) (s : State)
    (hz : Keeps z s) :
    Keeps z (stageThere lc pkg a accum data s) := by
  unfold stageThere
  with_reducible repeat' first
    | assumption | rfl | split | apply sendReq_keeps | apply Keeps.foldl | intro _ | dsimp only | apply Keeps.set

theorem writeHere_keeps {z : State} (r : Requester) (a : Nat) (data : List Byte) (s : State) (hz : Keeps z s) :
    Keeps z (writeHere r a data s) := by
  unfold writeHere
  with_reducible repeat' first
    | assumption | rfl | split | apply snoopWrite_keeps | apply noteWrite_keeps | apply wholeSectors_keeps
    | apply stageHere_keeps | apply homeWrite_keeps | apply Keeps.foldl | intro _ | dsimp only | apply Keeps.set

theorem writeOp_keeps {z : State} (r : Requester) (g : Nat) (data : List Byte) (s : State) (hz : Keeps z s) :
    Keeps z (writeOp r g data s) := by
  unfold writeOp
  with_reducible repeat' first
    | assumption | rfl | split | apply opWrite_keeps | apply noteWrite_keeps | apply countBad_keeps | apply Keeps.set

theorem writeThere_keeps {z : State} (r : Requester) (g : Nat) (data : List Byte) (s : State) (hz : Keeps z s) :
    Keeps z (writeThere r g data s) := by
  unfold writeThere
  with_reducible repeat' first
    | assumption | rfl | split | apply countBad_keeps | apply wholeSectors_keeps | apply stageThere_keeps
    | dsimp only | apply Keeps.set

theorem doWrite_keeps {z : State} (r : Requester) (g : Nat) (data : List Byte) (s : State) (hz : Keeps z s) :
    Keeps z (doWrite r g data s) := by
  unfold doWrite
  with_reducible repeat' first
    | assumption | rfl | split | apply writeOp_keeps | apply writeThere_keeps | apply countBad_keeps
    | apply bump_keeps | apply writeHere_keeps | dsimp only | apply Keeps.set

theorem dropWaiting_keeps {z : State} (s : State) (hz : Keeps z s) :
    Keeps z (dropWaiting s) := by
  unfold dropWaiting
  with_reducible repeat' first | assumption | rfl | split | intro _ | apply Keeps.set

theorem runAccess_keeps {z : State} (i : Instr) (s : State) (hz : Keeps z s) :
    Keeps z (runAccess i s) := by
  unfold runAccess
  with_reducible repeat' first
    | assumption | rfl | split | apply holdAccess_keeps | apply doRead_keeps | apply doWrite_keeps | apply Keeps.set

theorem atPort_keeps {z : State} (r : Requester) (i : Instr) (s : State) (hz : Keeps z s) :
    Keeps z (atPort r i s) := by
  unfold atPort
  with_reducible repeat' first | assumption | rfl | split | apply bump_keeps | apply runAccess_keeps | apply Keeps.set

theorem wcbIdleS_keeps {z : State} (line : Nat) (s : State) (hz : Keeps z s) :
    Keeps z (wcbIdleS line s) := by
  unfold wcbIdleS
  with_reducible repeat' first
    | assumption | rfl | split | apply reachTime_keeps | apply flushLine_keeps | intro _ | dsimp only
    | apply Keeps.set

theorem freeFrameFinding_keeps {z : State} (p : Nat) (s : State) (f : EccFinding) (hz : Keeps z s) :
    Keeps z (freeFrameFinding p s f) := by
  unfold freeFrameFinding
  with_reducible repeat' first | assumption | rfl | split | apply bump_keeps | apply raise_keeps | apply Keeps.set

theorem scrubS_keeps {z : State} (p : Nat) (found : List EccFinding) (s : State) (hz : Keeps z s) :
    Keeps z (scrubS p found s) := by
  unfold scrubS
  with_reducible repeat' first
    | assumption | rfl | split | apply applyFinding_keeps | apply freeFrameFinding_keeps | apply Keeps.foldl
    | intro _ | apply Keeps.set

theorem setChan_keeps {z : State} (p : Nat) (c : ChanState) (s : State) (hz : Keeps z s) :
    Keeps z (setChan p c s) := by
  unfold setChan
  with_reducible repeat' first | assumption | rfl | split | apply Keeps.set

theorem startChanRetrain_keeps {z : State} (p : Nat) (s : State) (hz : Keeps z s) :
    Keeps z (startChanRetrain p s) := by
  unfold startChanRetrain
  with_reducible repeat' first
    | assumption | rfl | split | apply raise_keeps | apply bump_keeps | apply setChan_keeps | apply Keeps.set

theorem chanRetrainS_keeps {z : State} (p : Nat) (s : State) (hz : Keeps z s) :
    Keeps z (chanRetrainS p s) := by
  unfold chanRetrainS
  with_reducible repeat' first | assumption | rfl | split | apply startChanRetrain_keeps | apply Keeps.set

theorem setStackTemp_keeps {z : State} (j : Nat) (temp : Int) (s : State) (hz : Keeps z s) :
    Keeps z (setStackTemp j temp s) := by
  unfold setStackTemp
  with_reducible repeat' first | assumption | rfl | split | apply raise_keeps | dsimp only | apply Keeps.set

theorem stackTempS_keeps {z : State} (j : Nat) (temp : Int) (s : State) (hz : Keeps z s) :
    Keeps z (stackTempS j temp s) := by
  unfold stackTempS
  with_reducible repeat' first
    | assumption | rfl | split | apply setStackTemp_keeps | apply telemetry_keeps | apply Keeps.set

end Sys2Proof.Machine
end

