-- ==== Sys2Proof/Laws/KeepsCores.lean ====
section
/-! SUPPORT. What no command changes is kept by the operations over tasks, tensors, tiles and arrays: one lemma per
function, which the proofs over every command cite instead of unfolding it. -/

namespace Sys2Proof.Machine

set_option linter.unusedTactic false
set_option linter.unreachableTactic false

theorem countConv_keeps {z : State} (tid : Nat) (half : Bool) (n : Nat) (r : ConvRow) (s : State) (hz : Keeps z s) :
    Keeps z (countConv tid half n r s) := by
  unfold countConv
  with_reducible repeat' first | assumption | rfl | split | apply bump_keeps | dsimp only | apply Keeps.set

theorem promoteOne_keeps {z : State} (abandoned : Bool) (s : State) (tid : Nat) (hz : Keeps z s) :
    Keeps z (promoteOne abandoned s tid) := by
  unfold promoteOne
  with_reducible repeat' first
    | assumption | rfl | split | apply raise_keeps | apply bump_keeps | dsimp only | apply Keeps.set

theorem promoteAll_keeps {z : State} (abandoned : Bool) (s : State) (hz : Keeps z s) :
    Keeps z (promoteAll abandoned s) := by
  unfold promoteAll
  with_reducible repeat' first
    | assumption | rfl | split | apply promoteOne_keeps | apply Keeps.foldl | apply Keeps.set

theorem tensorsAtStart_keeps {z : State} (s : State) (hz : Keeps z s) :
    Keeps z (tensorsAtStart s) := by
  unfold tensorsAtStart
  with_reducible repeat' first | assumption | rfl | split | intro _ | dsimp only | apply Keeps.set

theorem setDisp_keeps {z : State} (lc : Nat) (d : Disp) (s : State) (hz : Keeps z s) :
    Keeps z (setDisp lc d s) := by
  unfold setDisp
  with_reducible repeat' first | assumption | rfl | split | apply Keeps.set

theorem setCtx_keeps {z : State} (lc x : Nat) (c : Ctx) (s : State) (hz : Keeps z s) :
    Keeps z (setCtx lc x c s) := by
  unfold setCtx
  with_reducible repeat' first | assumption | rfl | split | apply Keeps.set

theorem pushReady_keeps {z : State} (lc : Nat) (t : Task) (s : State) (hz : Keeps z s) :
    Keeps z (pushReady lc t s) := by
  unfold pushReady
  with_reducible repeat' first | assumption | rfl | split | apply setDisp_keeps | dsimp only | apply Keeps.set

theorem pushTail_keeps {z : State} (lc : Nat) (t : Task) (s : State) (hz : Keeps z s) :
    Keeps z (pushTail lc t s) := by
  unfold pushTail
  with_reducible repeat' first
    | assumption | rfl | split | apply setDisp_keeps | intro _ | dsimp only | apply Keeps.set

theorem setTaskState_keeps {z : State} (lc idx : Nat) (st : TaskState) (s : State) (hz : Keeps z s) :
    Keeps z (setTaskState lc idx st s) := by
  unfold setTaskState
  with_reducible repeat' first | assumption | rfl | split | apply setDisp_keeps | dsimp only | apply Keeps.set

theorem makeReady_keeps {z : State} (lc idx : Nat) (s : State) (hz : Keeps z s) :
    Keeps z (makeReady lc idx s) := by
  unfold makeReady
  with_reducible repeat' first
    | assumption | rfl | split | apply pushReady_keeps | apply setTaskState_keeps | apply Keeps.set

theorem noteReadied_keeps {z : State} (cls n : Nat) (s : State) (hz : Keeps z s) :
    Keeps z (noteReadied cls n s) := by
  unfold noteReadied
  with_reducible repeat' first | assumption | rfl | split | intro _ | apply Keeps.set

theorem noteDone_keeps {z : State} (cls : Nat) (s : State) (hz : Keeps z s) :
    Keeps z (noteDone cls s) := by
  unfold noteDone
  with_reducible repeat' first | assumption | rfl | split | intro _ | apply Keeps.set

theorem holdNotice_keeps {z : State} (n : Notice) (s : State) (hz : Keeps z s) :
    Keeps z (holdNotice n s) := by
  unfold holdNotice
  with_reducible repeat' first
    | assumption | rfl | split | apply setDisp_keeps | apply bump_keeps | dsimp only | apply Keeps.set

theorem armCore_keeps {z : State} (g : Graph) (classes : List Nat) (s : State) (lc : Nat) (hz : Keeps z s) :
    Keeps z (armCore g classes s lc) := by
  unfold armCore
  with_reducible repeat' first
    | assumption | rfl | split | apply setDisp_keeps | apply noteReadied_keeps | apply makeReady_keeps
    | apply holdNotice_keeps | apply Keeps.foldl | intro _ | dsimp only | apply Keeps.set

theorem armAll_keeps {z : State} (classes : List Nat) (s : State) (hz : Keeps z s) :
    Keeps z (armAll classes s) := by
  unfold armAll
  with_reducible repeat' first | assumption | rfl | split | apply armCore_keeps | apply Keeps.foldl | apply Keeps.set

theorem sendNotice_keeps {z : State} (src : Nat) (e : Nat × Nat) (s : State) (hz : Keeps z s) :
    Keeps z (sendNotice src e s) := by
  unfold sendNotice
  with_reducible repeat' first | assumption | rfl | split | dsimp only | apply Keeps.set

theorem afterOnce_keeps {z : State} (s : State) (hz : Keeps z s) :
    Keeps z (afterOnce s) := by
  unfold afterOnce
  with_reducible repeat' first | assumption | rfl | split | apply armAll_keeps | dsimp only | apply Keeps.set

theorem completeTask_keeps {z : State} (t : Task) (s : State) (hz : Keeps z s) :
    Keeps z (completeTask t s) := by
  unfold completeTask
  with_reducible repeat' first
    | assumption | rfl | split | apply setDisp_keeps | apply noteDone_keeps | apply bump_keeps
    | apply sendNotice_keeps | apply setTaskState_keeps | apply afterOnce_keeps | apply Keeps.foldl | intro _
    | dsimp only | apply Keeps.set

theorem applyNotice_keeps {z : State} (n : Notice) (s : State) (hz : Keeps z s) :
    Keeps z (applyNotice n s) := by
  unfold applyNotice
  with_reducible repeat' first
    | assumption | rfl | split | apply setDisp_keeps | apply makeReady_keeps | dsimp only | apply Keeps.set

theorem recvNotice_keeps {z : State} (n : Notice) (s : State) (hz : Keeps z s) :
    Keeps z (recvNotice n s) := by
  unfold recvNotice
  with_reducible repeat' first
    | assumption | rfl | split | apply bump_keeps | apply holdNotice_keeps | apply applyNotice_keeps | dsimp only
    | apply Keeps.set

theorem completionNoticeS_keeps {z : State} (src lc : Nat) (s : State) (hz : Keeps z s) :
    Keeps z (completionNoticeS src lc s) := by
  unfold completionNoticeS
  with_reducible repeat' first | assumption | rfl | split | apply recvNotice_keeps | intro _ | apply Keeps.set

theorem noticeHeldS_keeps {z : State} (lc : Nat) (s : State) (hz : Keeps z s) :
    Keeps z (noticeHeldS lc s) := by
  unfold noticeHeldS
  with_reducible repeat' first
    | assumption | rfl | split | apply applyNotice_keeps | apply setDisp_keeps | dsimp only | apply Keeps.set

theorem setDeque_keeps {z : State} (lc i : Nat) (l : List Task) (s : State) (hz : Keeps z s) :
    Keeps z (setDeque lc i l s) := by
  unfold setDeque
  with_reducible repeat' first | assumption | rfl | split | intro _ | dsimp only | apply Keeps.set

theorem startColl_keeps {z : State} (t : Task) (s : State) (hz : Keeps z s) :
    Keeps z (startColl t s) := by
  unfold startColl
  with_reducible repeat' first | assumption | rfl | split | dsimp only | apply Keeps.set

theorem startCore_keeps {z : State} (lc x : Nat) (t : Task) (s : State) (hz : Keeps z s) :
    Keeps z (startCore lc x t s) := by
  unfold startCore
  with_reducible repeat' first
    | assumption | rfl | split | apply setCtx_keeps | apply setDisp_keeps | apply setTaskState_keeps
    | apply emptyNonPooled_keeps | intro _ | dsimp only | apply Keeps.set

theorem performSpawn_keeps {z : State} (lc : Nat) (t : Task) (template target joinTask arg : Nat) (s : State)
    (hz : Keeps z s) :
    Keeps z (performSpawn lc t template target joinTask arg s) := by
  unfold performSpawn
  with_reducible repeat' first
    | assumption | rfl | split | apply noteReadied_keeps | apply bump_keeps | apply pushReady_keeps
    | apply setDisp_keeps | intro _ | dsimp only | apply Keeps.set

theorem trySpawn_keeps {z : State} (lc x template target joinTask arg : Nat) (t : Task) (s : State) (hz : Keeps z s) :
    Keeps z (trySpawn lc x template target joinTask arg t s) := by
  unfold trySpawn
  with_reducible repeat' first
    | assumption | rfl | split | apply raise_keeps | apply bump_keeps | apply performSpawn_keeps
    | apply setDisp_keeps | apply setCtx_keeps | dsimp only | apply Keeps.set

theorem spawnS_keeps {z : State} (lc x template target joinTask arg : Nat) (s : State) (hz : Keeps z s) :
    Keeps z (spawnS lc x template target joinTask arg s) := by
  unfold spawnS
  with_reducible repeat' first | assumption | rfl | split | apply trySpawn_keeps | dsimp only | apply Keeps.set

theorem spawnResumeS_keeps {z : State} (lc : Nat) (s : State) (hz : Keeps z s) :
    Keeps z (spawnResumeS lc s) := by
  unfold spawnResumeS
  with_reducible repeat' first
    | assumption | rfl | split | apply setDisp_keeps | apply setCtx_keeps | apply raise_keeps | apply bump_keeps
    | apply performSpawn_keeps | dsimp only | apply Keeps.set

theorem dropStalls_keeps {z : State} (lc x : Nat) (s : State) (hz : Keeps z s) :
    Keeps z (dropStalls lc x s) := by
  unfold dropStalls
  with_reducible repeat' first | assumption | rfl | split | intro _ | apply Keeps.set

theorem beginSuspend_keeps {z : State} (lc x : Nat) (yielding : Bool) (s : State) (hz : Keeps z s) :
    Keeps z (beginSuspend lc x yielding s) := by
  unfold beginSuspend
  with_reducible repeat' first
    | assumption | rfl | split | apply dropStalls_keeps | apply setCtx_keeps | apply bump_keeps | dsimp only
    | apply Keeps.set

theorem spawnTimeoutS_keeps {z : State} (lc x : Nat) (s : State) (hz : Keeps z s) :
    Keeps z (spawnTimeoutS lc x s) := by
  unfold spawnTimeoutS
  with_reducible repeat' first
    | assumption | rfl | split | apply reachTime_keeps | apply beginSuspend_keeps | dsimp only | apply Keeps.set

theorem closeWait_keeps {z : State} (lc x : Nat) (s : State) (hz : Keeps z s) :
    Keeps z (closeWait lc x s) := by
  unfold closeWait
  with_reducible repeat' first | assumption | rfl | split | apply bump_keeps | apply Keeps.set

theorem clearWait_keeps {z : State} (lc x : Nat) (s : State) (hz : Keeps z s) :
    Keeps z (clearWait lc x s) := by
  unfold clearWait
  with_reducible repeat' first | assumption | rfl | split | apply bump_keeps | apply closeWait_keeps | apply Keeps.set

theorem saveTask_keeps {z : State} (lc x : Nat) (s : State) (hz : Keeps z s) :
    Keeps z (saveTask lc x s) := by
  unfold saveTask
  with_reducible repeat' first
    | assumption | rfl | split | apply clearWait_keeps | apply setDisp_keeps | apply pushTail_keeps
    | apply setCtx_keeps | dsimp only | apply Keeps.set

theorem scrambleOne_keeps {z : State} (e : Nat × Nat × Nat × Nat) (s : State) (hz : Keeps z s) :
    Keeps z (scrambleOne e s) := by
  unfold scrambleOne
  dsimp only
  have g := freeBytes_keeps e.2.2.1 s hz
  split
  · exact putBytes_keeps _ _ _ g
  · refine Keeps.setMem g ?_ id
    intro w
    simp only [Mem.wf, Bool.and_eq_true] at w ⊢
    exact ⟨w.1, mapSet_all w.2 (cellsWrite_wf _ _ (mapGetD_all w.2 rfl))⟩

theorem scrambleWritten_keeps {z : State} (s : State) (hz : Keeps z s) :
    Keeps z (scrambleWritten s) := by
  unfold scrambleWritten
  with_reducible repeat' first
    | assumption | rfl | split | apply scrambleOne_keeps | apply Keeps.foldl | intro _ | apply Keeps.set

theorem abandonDispatch_keeps {z : State} (s : State) (hz : Keeps z s) :
    Keeps z (abandonDispatch s) := by
  unfold abandonDispatch
  with_reducible repeat' first
    | assumption | rfl | split | apply bump_keeps | apply closeWait_keeps | apply raise_keeps | apply Keeps.foldl
    | intro _ | dsimp only | apply Keeps.set

theorem coreRead_keeps {z : State} (lc a n : Nat) (s : State) (hz : Keeps z s) :
    Keeps z (coreRead lc a n s).2.2 := by
  unfold coreRead
  with_reducible repeat' first
    | assumption | rfl | split | apply homeRead_keeps | apply maskHeld_keeps | apply freeBytes_keeps | intro _
    | dsimp only | apply Keeps.set

theorem coreWrite_keeps {z : State} (who lc a : Nat) (data : List Byte) (s : State) (hz : Keeps z s) :
    Keeps z (coreWrite who lc a data s) := by
  unfold coreWrite
  with_reducible repeat' first
    | assumption | rfl | split | apply homeWrite_keeps | apply noteWrite_keeps | apply snoopWrite_keeps
    | apply opWrite_keeps | dsimp only | apply Keeps.set

theorem coreCopy_keeps {z : State} (who lc a : Nat) (data : List Byte) (marks : List Bool) (s : State)
    (hz : Keeps z s) :
    Keeps z (coreCopy who lc a data marks s) := by
  unfold coreCopy
  with_reducible repeat' first
    | assumption | rfl | split | apply coreWrite_keeps | apply markPoison_keeps | apply Keeps.foldl | intro _
    | dsimp only | apply Keeps.set

theorem consumePoison_keeps {z : State} (lc : Nat) (marks : List Bool) (s : State) (hz : Keeps z s) :
    Keeps z (consumePoison lc marks s) := by
  unfold consumePoison
  with_reducible repeat' first | assumption | rfl | split | apply countConsumed_keeps | apply Keeps.set

theorem smear_keeps {z : State} (lc a mark who : Nat) (b : List Byte) (s : State) (hz : Keeps z s) :
    Keeps z (smear lc a mark who b s).2 := by
  unfold smear
  with_reducible repeat' first
    | assumption | rfl | split | apply freeBytes_keeps | intro _ | dsimp only | apply Keeps.set

theorem operandRead_keeps {z : State} (lc a n mark who : Nat) (s : State) (hz : Keeps z s) :
    Keeps z (operandRead lc a n mark who s).2 := by
  unfold operandRead
  with_reducible repeat' first
    | assumption | rfl | split | apply coreRead_keeps | apply smear_keeps | apply consumePoison_keeps | dsimp only
    | apply Keeps.set

theorem countFetched_keeps {z : State} (lc : Nat) (f : Fetched) (s : State) (hz : Keeps z s) :
    Keeps z (countFetched lc f s) := by
  unfold countFetched
  with_reducible repeat' first
    | assumption | rfl | split | apply raiseAll_keeps | apply bump_keeps | dsimp only | apply Keeps.set

theorem rowScales_keeps {z : State} (lc scaleAddr fmt r n mark who : Nat) (s : State) (hz : Keeps z s) :
    Keeps z (rowScales lc scaleAddr fmt r n mark who s).2 := by
  unfold rowScales
  with_reducible repeat' first | assumption | rfl | split | apply operandRead_keeps | dsimp only | apply Keeps.set

theorem fetchRow_keeps {z : State} (lc a scaleAddr fmt : Nat) (sexp : Int) (r n mark who : Nat) (s : State)
    (hz : Keeps z s) :
    Keeps z (fetchRow lc a scaleAddr fmt sexp r n mark who s).2 := by
  unfold fetchRow
  with_reducible repeat' first
    | assumption | rfl | split | apply operandRead_keeps | apply rowScales_keeps | apply countFetched_keeps
    | dsimp only | apply Keeps.set

theorem fetchRows_keeps {z : State} (lc a stride scaleAddr fmt : Nat) (sexp : Int) (rows n mark who : Nat)
    (s : State) (hz : Keeps z s) :
    Keeps z (fetchRows lc a stride scaleAddr fmt sexp rows n mark who s).2 := by
  unfold fetchRows
  with_reducible repeat' first
    | assumption | rfl | split | apply fetchRow_keeps | apply Keeps.foldl22 | apply Keeps.foldl2 | apply Keeps.foldl1
    | apply Keeps.foldl | intro _ | dsimp only | apply Keeps.set

theorem readResids_keeps {z : State} (tid : Nat) (t : Tensor) (half e0 n : Nat) (s : State) (hz : Keeps z s) :
    Keeps z (readResids tid t half e0 n s).2 := by
  unfold readResids
  with_reducible repeat' first
    | assumption | rfl | split | apply coreRead_keeps | apply raiseAll_keeps | apply bump_keeps | intro _
    | dsimp only | apply Keeps.set

theorem writeResids_keeps {z : State} (who tid : Nat) (t : Tensor) (half e0 : Nat) (rs : List W32) (s : State)
    (hz : Keeps z s) :
    Keeps z (writeResids who tid t half e0 rs s) := by
  unfold writeResids
  with_reducible repeat' first
    | assumption | rfl | split | apply raiseAll_keeps | apply bump_keeps | apply coreWrite_keeps | intro _
    | dsimp only | apply Keeps.set

theorem writeRow_keeps {z : State} (who lc a sa fmt tid : Nat) (half : Bool) (step e0 : Nat) (xs : List W32)
    (s : State) (hz : Keeps z s) :
    Keeps z (writeRow who lc a sa fmt tid half step e0 xs s) := by
  unfold writeRow
  with_reducible repeat' first
    | assumption | rfl | split | apply coreWrite_keeps | apply readResids_keeps | apply freeVal_keeps
    | apply countConv_keeps | apply writeResids_keeps | intro _ | dsimp only | apply Keeps.set

theorem clearTensorCounters_keeps {z : State} (tid : Nat) (s : State) (hz : Keeps z s) :
    Keeps z (clearTensorCounters tid s) := by
  unfold clearTensorCounters
  with_reducible repeat' first | assumption | rfl | split | intro _ | dsimp only | apply Keeps.set

theorem tensorSet_keeps {z : State} (p : List Byte) (s : State) (hz : Keeps z s) :
    Keeps z (tensorSet p s).1 := by
  unfold tensorSet
  with_reducible repeat' first
    | assumption | rfl | split | apply clearTensorCounters_keeps | dsimp only | apply Keeps.set

theorem raiseLate_keeps {z : State} (s : State) (hz : Keeps z s) :
    Keeps z (raiseLate s) := by
  unfold raiseLate
  with_reducible repeat' first
    | assumption | rfl | split | apply raise_keeps | apply bump_keeps | apply sendPlain_keeps | dsimp only
    | apply Keeps.set

theorem forfeit_keeps {z : State} (s : State) (hz : Keeps z s) :
    Keeps z (forfeit s) := by
  unfold forfeit
  with_reducible repeat' first | assumption | rfl | split | apply raiseLate_keeps | apply bump_keeps | apply Keeps.set

theorem addHistory_keeps {z : State} (kind : Nat) (u : PhysUnit) (addr : Nat) (s : State) (hz : Keeps z s) :
    Keeps z (addHistory kind u addr s) := by
  unfold addHistory
  with_reducible repeat' first | assumption | rfl | split | dsimp only | apply Keeps.set

theorem setEngine_keeps {z : State} (e : Nat) (g : Engine) (s : State) (hz : Keeps z s) :
    Keeps z (setEngine e g s) := by
  unfold setEngine
  with_reducible repeat' first | assumption | rfl | split | apply Keeps.set

theorem leaveUnsettled_keeps {z : State} (c : Capsule) (s : State) (hz : Keeps z s) :
    Keeps z (leaveUnsettled c s) := by
  unfold leaveUnsettled
  with_reducible repeat' first
    | assumption | rfl | split | apply raise_keeps | apply bump_keeps | apply forfeit_keeps | apply addHistory_keeps
    | apply Keeps.foldl | intro _ | dsimp only | apply Keeps.set

theorem newCapsule_keeps {z : State} (e tile : Nat) (u : PhysUnit) (v : TileValue) (s : State) (hz : Keeps z s) :
    Keeps z (newCapsule e tile u v s) := by
  unfold newCapsule
  with_reducible repeat' first | assumption | rfl | split | apply leaveUnsettled_keeps | dsimp only | apply Keeps.set

theorem runTile_keeps {z : State} (e : Nat) (faults : List TileFault) (s : State) (tile : Nat) (hz : Keeps z s) :
    Keeps z (runTile e faults s tile) := by
  unfold runTile
  with_reducible repeat' first
    | assumption | rfl | split | apply bump_keeps | apply newCapsule_keeps | intro _ | dsimp only | apply Keeps.set

theorem runTiles_keeps {z : State} (e n : Nat) (faults : List TileFault) (s : State) (hz : Keeps z s) :
    Keeps z (runTiles e n faults s) := by
  unfold runTiles
  with_reducible repeat' first | assumption | rfl | split | apply runTile_keeps | apply Keeps.foldl | apply Keeps.set

theorem takeNumber_keeps {z : State} (s : State) (hz : Keeps z s) :
    Keeps z (takeNumber s) := by
  unfold takeNumber
  with_reducible repeat' first | assumption | rfl | split | apply Keeps.set

theorem freeWait_keeps {z : State} (lc x : Nat) (s : State) (hz : Keeps z s) :
    Keeps z (freeWait lc x s) := by
  unfold freeWait
  with_reducible repeat' first | assumption | rfl | split | apply setCtx_keeps | apply Keeps.set

theorem endTask_keeps {z : State} (lc x : Nat) (s : State) (hz : Keeps z s) :
    Keeps z (endTask lc x s) := by
  unfold endTask
  with_reducible repeat' first
    | assumption | rfl | split | apply completeTask_keeps | apply setCtx_keeps | apply Keeps.set

theorem finishEnding_keeps {z : State} (lc : Nat) (s : State) (hz : Keeps z s) :
    Keeps z (finishEnding lc s) := by
  unfold finishEnding
  with_reducible repeat' first
    | assumption | rfl | split | apply endTask_keeps | apply Keeps.foldl | intro _ | apply Keeps.set

theorem finishAll_keeps {z : State} (s : State) (hz : Keeps z s) :
    Keeps z (finishAll s) := by
  unfold finishAll
  with_reducible repeat' first
    | assumption | rfl | split | apply finishEnding_keeps | apply Keeps.foldl | intro _ | apply Keeps.set

theorem atEnd_keeps {z : State} (lc x : Nat) (s : State) (hz : Keeps z s) :
    Keeps z (atEnd lc x s) := by
  unfold atEnd
  with_reducible repeat' first
    | assumption | rfl | split | apply finishEnding_keeps | apply setCtx_keeps | apply Keeps.set

theorem taskEndS_keeps {z : State} (lc x : Nat) (s : State) (hz : Keeps z s) :
    Keeps z (taskEndS lc x s) := by
  unfold taskEndS
  with_reducible repeat' first | assumption | rfl | split | apply atEnd_keeps | apply Keeps.set

theorem taskBadCodeS_keeps {z : State} (lc x : Nat) (s : State) (hz : Keeps z s) :
    Keeps z (taskBadCodeS lc x s) := by
  unfold taskBadCodeS
  with_reducible repeat' first
    | assumption | rfl | split | apply atEnd_keeps | apply raise_keeps | apply bump_keeps | dsimp only
    | apply Keeps.set

theorem suspensionDoneS_keeps {z : State} (lc x : Nat) (s : State) (hz : Keeps z s) :
    Keeps z (suspensionDoneS lc x s) := by
  unfold suspensionDoneS
  with_reducible repeat' first | assumption | rfl | split | apply saveTask_keeps | apply Keeps.set

theorem switchHost_keeps {z : State} (key : Nat) (p : PhysCore) (lc next : Nat) (s : State) (hz : Keeps z s) :
    Keeps z (switchHost key p lc next s) := by
  unfold switchHost
  with_reducible repeat' first
    | assumption | rfl | split | apply beginSuspend_keeps | apply raise_keeps | apply Keeps.foldl | intro _
    | dsimp only | apply Keeps.set

theorem expireQuantum_keeps {z : State} (lc x : Nat) (t : Task) (s : State) (hz : Keeps z s) :
    Keeps z (expireQuantum lc x t s) := by
  unfold expireQuantum
  with_reducible repeat' first
    | assumption | rfl | split | apply beginSuspend_keeps | apply setCtx_keeps | dsimp only | apply Keeps.set

theorem quantumS_keeps {z : State} (lc x : Nat) (s : State) (hz : Keeps z s) :
    Keeps z (quantumS lc x s) := by
  unfold quantumS
  with_reducible repeat' first
    | assumption | rfl | split | apply reachTime_keeps | apply switchHost_keeps | apply expireQuantum_keeps | intro _
    | dsimp only | apply Keeps.set

theorem freeGroup_keeps {z : State} (fmt : Nat) (g : Kept) (s : State) (hz : Keeps z s) :
    Keeps z (freeGroup fmt g s).2 := by
  unfold freeGroup
  with_reducible repeat' first
    | assumption | rfl | split | apply freeVal_keeps | apply Keeps.foldl2 | apply Keeps.foldl | intro _ | dsimp only
    | apply Keeps.set

theorem judgeGroups_keeps {z : State} (fmt : Nat) (gs : List Kept) (s : State) (hz : Keeps z s) :
    Keeps z (judgeGroups fmt gs s).2 := by
  unfold judgeGroups
  with_reducible repeat' first
    | assumption | rfl | split | apply freeGroup_keeps | apply Keeps.foldl2 | apply Keeps.foldl | intro _
    | dsimp only | apply Keeps.set

theorem countKept_keeps {z : State} (lc bad oor : Nat) (s : State) (hz : Keeps z s) :
    Keeps z (countKept lc bad oor s) := by
  unfold countKept
  with_reducible repeat' first
    | assumption | rfl | split | apply raiseAll_keeps | apply bump_keeps | dsimp only | apply Keeps.set

theorem fetchKept_keeps {z : State} (lc a meta' scaleAddr fmt : Nat) (sexp : Int) (r k mark who : Nat) (s : State)
    (hz : Keeps z s) :
    Keeps z (fetchKept lc a meta' scaleAddr fmt sexp r k mark who s).2 := by
  unfold fetchKept
  with_reducible repeat' first
    | assumption | rfl | split | apply operandRead_keeps | apply rowScales_keeps | apply judgeGroups_keeps
    | apply countKept_keeps | apply countFetched_keeps | intro _ | dsimp only | apply Keeps.set

theorem mmStart_keeps {z : State} (e : Nat) (s : State) (hz : Keeps z s) :
    Keeps z (mmStart e s) := by
  unfold mmStart
  with_reducible repeat' first | assumption | rfl | split | apply runTiles_keeps | apply Keeps.set

theorem mmBad_keeps {z : State} (lc x a reason : Nat) (s : State) (hz : Keeps z s) :
    Keeps z (mmBad lc x a reason s) := by
  unfold mmBad
  with_reducible repeat' first
    | assumption | rfl | split | apply setCtx_keeps | apply bump_keeps | apply raise_keeps | dsimp only
    | apply Keeps.set

theorem mmaIssue_keeps {z : State} (lc x desc : Nat) (faults : List TileFault) (t : Task) (s : State)
    (hz : Keeps z s) :
    Keeps z (mmaIssue lc x desc faults t s) := by
  unfold mmaIssue
  with_reducible repeat' first
    | assumption | rfl | split | apply coreRead_keeps | apply consumePoison_keeps | apply setCtx_keeps
    | apply mmBad_keeps | apply takeNumber_keeps | apply setEngine_keeps | apply mmStart_keeps | dsimp only
    | apply Keeps.set

theorem mmaS_keeps {z : State} (lc x desc : Nat) (faults : List TileFault) (s : State) (hz : Keeps z s) :
    Keeps z (mmaS lc x desc faults s) := by
  unfold mmaS
  with_reducible repeat' first | assumption | rfl | split | apply mmaIssue_keeps | dsimp only | apply Keeps.set

theorem mmA_keeps {z : State} (lc : Nat) (i : EngInst) (s : State) (hz : Keeps z s) :
    Keeps z (mmA lc i s).2 := by
  unfold mmA
  with_reducible repeat' first
    | assumption | rfl | split | apply fetchRows_keeps | intro _ | dsimp only | apply Keeps.set

theorem mmB_keeps {z : State} (lc : Nat) (i : EngInst) (s : State) (hz : Keeps z s) :
    Keeps z (mmB lc i s).2 := by
  unfold mmB
  with_reducible repeat' first
    | assumption | rfl | split | apply fetchKept_keeps | apply fetchRows_keeps | apply Keeps.foldl22
    | apply Keeps.foldl2 | apply Keeps.foldl1 | apply Keeps.foldl | intro _ | dsimp only | apply Keeps.set

theorem writeOut_keeps {z : State} (lc : Nat) (i : EngInst) (rows : List (List AccElem)) (s : State)
    (hz : Keeps z s) :
    Keeps z (writeOut lc i rows s) := by
  unfold writeOut
  with_reducible repeat' first
    | assumption | rfl | split | apply writeRow_keeps | apply Keeps.foldl | intro _ | dsimp only | apply Keeps.set

theorem countRetired_keeps {z : State} (n : Nat) (i : EngInst) (s : State) (hz : Keeps z s) :
    Keeps z (countRetired n i s) := by
  unfold countRetired
  with_reducible repeat' first | assumption | rfl | split | apply bump_keeps | dsimp only | apply Keeps.set

theorem countMma_keeps {z : State} (lc a busy stallA stallB wait : Nat) (i : EngInst) (made over' : Nat) (s : State)
    (hz : Keeps z s) :
    Keeps z (countMma lc a busy stallA stallB wait i made over' s) := by
  unfold countMma
  with_reducible repeat' first
    | assumption | rfl | split | apply countRetired_keeps | apply bump_keeps | apply raise_keeps | dsimp only
    | apply Keeps.set

theorem wakeArray_keeps {z : State} (lc a : Nat) (s : State) (hz : Keeps z s) :
    Keeps z (wakeArray lc a s) := by
  unfold wakeArray
  with_reducible repeat' first
    | assumption | rfl | split | apply freeWait_keeps | apply mmaS_keeps | apply Keeps.foldl | intro _ | dsimp only
    | apply Keeps.set

theorem mmaFinish_keeps {z : State} (lc a busy stallA stallB wait : Nat) (i : EngInst) (rest : List EngInst)
    (s : State) (hz : Keeps z s) :
    Keeps z (mmaFinish lc a busy stallA stallB wait i rest s) := by
  unfold mmaFinish
  with_reducible repeat' first
    | assumption | rfl | split | apply mmA_keeps | apply mmB_keeps | apply setEngine_keeps | apply countMma_keeps
    | apply writeOut_keeps | apply finishEnding_keeps | apply wakeArray_keeps | apply mmStart_keeps | intro _
    | dsimp only | apply Keeps.set

theorem mmaRetireS_keeps {z : State} (lc a busy stallA stallB wait : Nat) (s : State) (hz : Keeps z s) :
    Keeps z (mmaRetireS lc a busy stallA stallB wait s) := by
  unfold mmaRetireS
  with_reducible repeat' first | assumption | rfl | split | apply mmaFinish_keeps | apply Keeps.set

theorem mxWaitS_keeps {z : State} (lc x a : Nat) (s : State) (hz : Keeps z s) :
    Keeps z (mxWaitS lc x a s) := by
  unfold mxWaitS
  with_reducible repeat' first | assumption | rfl | split | apply setCtx_keeps | dsimp only | apply Keeps.set

end Sys2Proof.Machine
end

