-- ==== Sys2Proof/Laws/KeepsShunters.lean ====
section
/-! SUPPORT. What no command changes is kept by the operations over the hash accumulator, sampling, gather and scatter: one lemma per
function, which the proofs over every command cite instead of unfolding it. -/

namespace Sys2Proof.Machine

set_option linter.unusedTactic false
set_option linter.unreachableTactic false

theorem slotsDue_keeps {z : State} (s : State) (hz : Keeps z s) :
    Keeps z (slotsDue s) := by
  unfold slotsDue
  with_reducible repeat' first | assumption | rfl | split | intro _ | apply Keeps.set

theorem smpCase_keeps {z : State} (lc cnt ev : Nat) (s : State) (hz : Keeps z s) :
    Keeps z (smpCase lc cnt ev s) := by
  unfold smpCase
  with_reducible repeat' first | assumption | rfl | split | apply raise_keeps | apply bump_keeps | apply Keeps.set

theorem shunterRead_keeps {z : State} (via a n : Nat) (s : State) (hz : Keeps z s) :
    Keeps z (shunterRead via a n s).2.2 := by
  unfold shunterRead
  with_reducible repeat' first
    | assumption | rfl | split | apply demandRead_keeps | apply countBad_keeps | apply Keeps.foldl22
    | apply Keeps.foldl | intro _ | dsimp only | apply Keeps.set

theorem readEntries_keeps {z : State} (via base w i n : Nat) (s : State) (hz : Keeps z s) :
    Keeps z (readEntries via base w i n s).2 := by
  unfold readEntries
  with_reducible repeat' first
    | assumption | rfl | split | apply shunterRead_keeps | intro _ | dsimp only | apply Keeps.set

theorem failedRow_keeps {z : State} (lc : Nat) (s : State) (hz : Keeps z s) :
    Keeps z (failedRow lc s).2 := by
  unfold failedRow
  with_reducible repeat' first | assumption | rfl | split | apply smpCase_keeps | apply Keeps.set

theorem readRow_keeps {z : State} (h : SmpHow) (a : Adj) (v : Nat) (s : State) (hz : Keeps z s) :
    Keeps z (readRow h a v s).2 := by
  unfold readRow
  with_reducible repeat' first
    | assumption | rfl | split | apply failedRow_keeps | apply readEntries_keeps | apply smpCase_keeps | dsimp only
    | apply Keeps.set

theorem failedEdge_keeps {z : State} (lc cnt ev : Nat) (s : State) (hz : Keeps z s) :
    Keeps z (failedEdge lc cnt ev s).2 := by
  unfold failedEdge
  with_reducible repeat' first
    | assumption | rfl | split | apply freeVal_keeps | apply smpCase_keeps | dsimp only | apply Keeps.set

theorem eligible_keeps {z : State} (h : SmpHow) (a : Adj) (c w : Nat × Bool) (s : State) (hz : Keeps z s) :
    Keeps z (eligible h a c w s).2 := by
  unfold eligible
  with_reducible repeat' first
    | assumption | rfl | split | apply smpCase_keeps | apply failedEdge_keeps | dsimp only | apply Keeps.set

theorem scanEdges_keeps {z : State} (h : SmpHow) (a : Adj) (base lo hi : Nat) (s : State) (hz : Keeps z s) :
    Keeps z (scanEdges h a base lo hi s).2.2 := by
  unfold scanEdges
  with_reducible repeat' first
    | assumption | rfl | split | apply readEntries_keeps | apply eligible_keeps | apply Keeps.foldl22
    | apply Keeps.foldl2 | apply Keeps.foldl1 | apply Keeps.foldl | intro _ | dsimp only | apply Keeps.set

theorem scanRow_keeps {z : State} (h : SmpHow) (a : Adj) (v base d : Nat) (s : State) (hz : Keeps z s) :
    Keeps z (scanRow h a v base d s).2 := by
  unfold scanRow
  with_reducible repeat' first | assumption | rfl | split | apply scanEdges_keeps | dsimp only | apply Keeps.set

theorem drawn_keeps {z : State} (h : SmpHow) (a : Adj) (base pos : Nat) (s : State) (hz : Keeps z s) :
    Keeps z (drawn h a base pos s).2 := by
  unfold drawn
  with_reducible repeat' first
    | assumption | rfl | split | apply readEntries_keeps | apply smpCase_keeps | apply failedEdge_keeps | intro _
    | dsimp only | apply Keeps.set

theorem takeDraws_keeps {z : State} (h : SmpHow) (a : Adj) (base : Nat) (l : List (Nat × Nat)) (s : State)
    (hz : Keeps z s) :
    Keeps z (takeDraws h a base l s).2 := by
  unfold takeDraws
  with_reducible repeat' first
    | assumption | rfl | split | apply drawn_keeps | apply Keeps.foldl22 | apply Keeps.foldl2 | apply Keeps.foldl1
    | apply Keeps.foldl | intro _ | dsimp only | apply Keeps.set

theorem drawUniform_keeps {z : State} (h : SmpHow) (a : Adj) (v base d : Nat) (s : State) (hz : Keeps z s) :
    Keeps z (drawUniform h a v base d s).2 := by
  unfold drawUniform
  with_reducible repeat' first | assumption | rfl | split | apply takeDraws_keeps | intro _ | apply Keeps.set

theorem searchCumw_keeps {z : State} (via cumw base : Nat) (t : Val) (a0 a1 a2 : Nat) (a3 : State) (hz : Keeps z a3) :
    Keeps z (searchCumw via cumw base t a0 a1 a2 a3).2 := by
  induction a0 generalizing a1 a2 a3 with
  | zero => exact hz
  | succ n ih =>
    unfold searchCumw
    dsimp only
    have g := readEntries_keeps via cumw 8 (base + (a1 + a2) / 2) 1 a3 hz
    repeat' first | with_reducible assumption | split | exact ih _ _ _ g

theorem dropDraws_keeps {z : State} (h : SmpHow) (a : Adj) (base : Nat) (l : List (Option Nat)) (s : State)
    (hz : Keeps z s) :
    Keeps z (dropDraws h a base l s) := by
  unfold dropDraws
  with_reducible repeat' first
    | assumption | rfl | split | apply drawn_keeps | apply bump_keeps | apply raise_keeps | apply Keeps.foldl
    | intro _ | dsimp only | apply Keeps.set

theorem anyRow_keeps {z : State} (h : SmpHow) (s : State) (hz : Keeps z s) :
    Keeps z (anyRow h s).2 := by
  unfold anyRow
  with_reducible repeat' first
    | assumption | rfl | split | apply freeVal_keeps | apply Keeps.foldl2 | apply Keeps.foldl | intro _ | dsimp only
    | apply Keeps.set

theorem drawWeighted_keeps {z : State} (h : SmpHow) (a : Adj) (v base d : Nat) (s : State) (hz : Keeps z s) :
    Keeps z (drawWeighted h a v base d s).2 := by
  unfold drawWeighted
  with_reducible repeat' first
    | assumption | rfl | split | apply readEntries_keeps | apply dropDraws_keeps | apply anyRow_keeps
    | apply smpCase_keeps | apply searchCumw_keeps | apply takeDraws_keeps | apply Keeps.foldl22 | apply Keeps.foldl2
    | apply Keeps.foldl1 | apply Keeps.foldl | intro _ | dsimp only | apply Keeps.set

theorem sampleRow_keeps {z : State} (h : SmpHow) (a : Adj) (v base d : Nat) (s : State) (hz : Keeps z s) :
    Keeps z (sampleRow h a v base d s).2 := by
  unfold sampleRow
  with_reducible repeat' first
    | assumption | rfl | split | apply drawUniform_keeps | apply drawWeighted_keeps | apply scanRow_keeps
    | apply Keeps.set

theorem setSample_keeps {z : State} (j : SmpJob) (s : State) (hz : Keeps z s) :
    Keeps z (setSample j s) := by
  unfold setSample
  with_reducible repeat' first | assumption | rfl | split | apply Keeps.set

theorem truncate_keeps {z : State} (j : SmpJob) (s : State) (hz : Keeps z s) :
    Keeps z (truncate j s).2 := by
  unfold truncate
  with_reducible repeat' first | assumption | rfl | split | apply raise_keeps | apply Keeps.set

theorem readSeed_keeps {z : State} (via lc : Nat) (list : List Byte) (bound : Option Nat) (idx : Nat) (s : State)
    (hz : Keeps z s) :
    Keeps z (readSeed via lc list bound idx s).2.2 := by
  unfold readSeed
  with_reducible repeat' first
    | assumption | rfl | split | apply readEntries_keeps | apply smpCase_keeps | apply failedEdge_keeps | intro _
    | dsimp only | apply Keeps.set

theorem readSeeds_keeps {z : State} (via lc slot count m : Nat) (bound : Option Nat) (s : State) (hz : Keeps z s) :
    Keeps z (readSeeds via lc slot count m bound s).2.2 := by
  unfold readSeeds
  with_reducible repeat' first
    | assumption | rfl | split | apply smpCase_keeps | apply readSeed_keeps | apply Keeps.foldl22
    | apply Keeps.foldl2 | apply Keeps.foldl1 | apply Keeps.foldl | intro _ | dsimp only | apply Keeps.set

theorem hopZero_keeps {z : State} (j : SmpJob) (seeds : List (Option Nat)) (s : State) (hz : Keeps z s) :
    Keeps z (hopZero j seeds s).2 := by
  unfold hopZero
  with_reducible repeat' first
    | assumption | rfl | split | apply truncate_keeps | apply bump_keeps | intro _ | dsimp only | apply Keeps.set

theorem closeLayer_keeps {z : State} (j : SmpJob) (s : State) (hz : Keeps z s) :
    Keeps z (closeLayer j s).2 := by
  unfold closeLayer
  with_reducible repeat' first
    | assumption | rfl | split | apply truncate_keeps | apply bump_keeps | intro _ | dsimp only | apply Keeps.set

theorem writeTrain_keeps {z : State} (j : SmpJob) (s : State) (hz : Keeps z s) :
    Keeps z (writeTrain j s) := by
  unfold writeTrain
  with_reducible repeat' first
    | assumption | rfl | split | apply coreWrite_keeps | apply bump_keeps | apply completeTask_keeps
    | apply Keeps.foldl | intro _ | dsimp only | apply Keeps.set

theorem unspecify_keeps {z : State} (lc a n : Nat) (s : State) (hz : Keeps z s) :
    Keeps z (unspecify lc a n s) := by
  unfold unspecify
  with_reducible repeat' first
    | assumption | rfl | split | apply freeBytes_keeps | apply coreWrite_keeps | dsimp only | apply Keeps.set

theorem useWork_keeps {z : State} (j : SmpJob) (s : State) (hz : Keeps z s) :
    Keeps z (useWork j s) := by
  unfold useWork
  with_reducible repeat' first | assumption | rfl | split | apply unspecify_keeps | apply Keeps.set

theorem pushPiece_keeps {z : State} (key : Nat) (t : Task) (s : State) (hz : Keeps z s) :
    Keeps z (pushPiece key t s) := by
  unfold pushPiece
  with_reducible repeat' first
    | assumption | rfl | split | apply noteReadied_keeps | apply bump_keeps | apply setDisp_keeps
    | apply setDeque_keeps | dsimp only | apply Keeps.set

theorem runChunk_keeps {z : State} (via : Nat) (p : SmpPiece) (lo hi : Nat) (j : SmpJob) (s : State)
    (hz : Keeps z s) :
    Keeps z (runChunk via p lo hi j s).2 := by
  unfold runChunk
  with_reducible repeat' first
    | assumption | rfl | split | apply scanEdges_keeps | intro _ | dsimp only | apply Keeps.set

theorem giveChunk_keeps {z : State} (key : Nat) (p : SmpPiece) (lo hi : Nat) (j : SmpJob) (s : State)
    (hz : Keeps z s) :
    Keeps z (giveChunk key p lo hi j s).2 := by
  unfold giveChunk
  with_reducible repeat' first
    | assumption | rfl | split | apply pushPiece_keeps | apply bump_keeps | apply runChunk_keeps
    | apply emptyNonPooled_keeps | apply Keeps.set

theorem cutRow_keeps {z : State} (key i base d : Nat) (j : SmpJob) (s : State) (hz : Keeps z s) :
    Keeps z (cutRow key i base d j s).2 := by
  unfold cutRow
  with_reducible repeat' first
    | assumption | rfl | split | apply giveChunk_keeps | apply bump_keeps | apply Keeps.foldl22 | apply Keeps.foldl2
    | apply Keeps.foldl1 | apply Keeps.foldl | intro _ | dsimp only | apply Keeps.set

theorem runRow_keeps {z : State} (key i : Nat) (a : Adj) (j : SmpJob) (s : State) (hz : Keeps z s) :
    Keeps z (runRow key i a j s).2 := by
  unfold runRow
  with_reducible repeat' first
    | assumption | rfl | split | apply readRow_keeps | apply bump_keeps | apply anyRow_keeps | apply cutRow_keeps
    | apply sampleRow_keeps | intro _ | dsimp only | apply Keeps.set

theorem runBatch_keeps {z : State} (key : Nat) (p : SmpPiece) (j : SmpJob) (s : State) (hz : Keeps z s) :
    Keeps z (runBatch key p j s).2 := by
  unfold runBatch
  with_reducible repeat' first
    | assumption | rfl | split | apply runRow_keeps | apply Keeps.foldl22 | apply Keeps.foldl2 | apply Keeps.foldl1
    | apply Keeps.foldl | intro _ | dsimp only | apply Keeps.set

theorem giveBatch_keeps {z : State} (b : Nat) (j : SmpJob) (s : State) (hz : Keeps z s) :
    Keeps z (giveBatch b j s).2 := by
  unfold giveBatch
  with_reducible repeat' first
    | assumption | rfl | split | apply pushPiece_keeps | apply bump_keeps | apply runBatch_keeps
    | apply emptyNonPooled_keeps | dsimp only | apply Keeps.set

theorem cutLayer_keeps {z : State} (j : SmpJob) (s : State) (hz : Keeps z s) :
    Keeps z (cutLayer j s).2 := by
  unfold cutLayer
  with_reducible repeat' first
    | assumption | rfl | split | apply smpCase_keeps | apply giveBatch_keeps | apply Keeps.foldl22
    | apply Keeps.foldl2 | apply Keeps.foldl1 | apply Keeps.foldl | intro _ | dsimp only | apply Keeps.set

theorem driveSample_keeps {z : State} (a0 : Nat) (a1 : SmpJob) (a2 : State) (hz : Keeps z a2) :
    Keeps z (driveSample a0 a1 a2) := by
  induction a0 generalizing a1 a2 with
  | zero => exact setSample_keeps _ _ hz
  | succ n ih =>
    unfold driveSample
    dsimp only
    have g := closeLayer_keeps a1 a2 hz
    split
    · exact setSample_keeps _ _ hz
    · split
      · exact writeTrain_keeps _ _ hz
      · split
        · exact writeTrain_keeps _ _ g
        · exact ih _ _ (cutLayer_keeps _ _ g)

theorem beginSample_keeps {z : State} (key : Nat) (t : Task) (d : List Byte) (m : Nat) (s : State) (hz : Keeps z s) :
    Keeps z (beginSample key t d m s) := by
  unfold beginSample
  with_reducible repeat' first
    | assumption | rfl | split | apply unspecify_keeps | apply readSeeds_keeps | apply hopZero_keeps
    | apply cutLayer_keeps | apply useWork_keeps | apply driveSample_keeps | intro _ | dsimp only | apply Keeps.set

theorem badSample_keeps {z : State} (t : Task) (d : List Byte) (m : Nat) (s : State) (hz : Keeps z s) :
    Keeps z (badSample t d m s) := by
  unfold badSample
  with_reducible repeat' first
    | assumption | rfl | split | apply smpCase_keeps | apply coreWrite_keeps | apply completeTask_keeps
    | apply bump_keeps | dsimp only | apply Keeps.set

theorem badFunction_keeps {z : State} (t : Task) (s : State) (hz : Keeps z s) :
    Keeps z (badFunction t s) := by
  unfold badFunction
  with_reducible repeat' first
    | assumption | rfl | split | apply completeTask_keeps | apply smpCase_keeps | apply Keeps.set

theorem runFunction_keeps {z : State} (lc i func : Nat) (f : Task → List Byte → State → State) (s : State)
    (hf : ∀ x0 x1 t, Keeps z t → Keeps z (f x0 x1 t)) (hz : Keeps z s) :
    Keeps z (runFunction lc i func f s) := by
  unfold runFunction
  with_reducible repeat' first
    | assumption | rfl | split | apply hf | apply emptyNonPooled_keeps | apply setDeque_keeps
    | apply badFunction_keeps | dsimp only | apply Keeps.set

theorem sampleS_keeps {z : State} (lc i : Nat) (s : State) (hz : Keeps z s) :
    Keeps z (sampleS lc i s) := by
  unfold sampleS
  with_reducible repeat' first
    | assumption | rfl | split | apply runFunction_keeps | apply beginSample_keeps | apply badSample_keeps | intro _
    | dsimp only | apply Keeps.set

theorem runPiece_keeps {z : State} (key : Nat) (p : SmpPiece) (j : SmpJob) (s : State) (hz : Keeps z s) :
    Keeps z (runPiece key p j s).2 := by
  unfold runPiece
  with_reducible repeat' first
    | assumption | rfl | split | apply useWork_keeps | apply runChunk_keeps | apply runBatch_keeps | dsimp only
    | apply Keeps.set

theorem samplePieceS_keeps {z : State} (lc i : Nat) (s : State) (hz : Keeps z s) :
    Keeps z (samplePieceS lc i s) := by
  unfold samplePieceS
  with_reducible repeat' first
    | assumption | rfl | split | apply emptyNonPooled_keeps | apply setDeque_keeps | apply completeTask_keeps
    | apply runPiece_keeps | apply driveSample_keeps | intro _ | dsimp only | apply Keeps.set

theorem scanVictims_keeps {z : State} (lc i : Nat) (s : State) (hz : Keeps z s) :
    Keeps z (scanVictims lc i s) := by
  unfold scanVictims
  with_reducible repeat' first
    | assumption | rfl | split | apply bump_keeps | apply setDeque_keeps | intro _ | dsimp only | apply Keeps.set

theorem stealS_keeps {z : State} (lc i : Nat) (s : State) (hz : Keeps z s) :
    Keeps z (stealS lc i s) := by
  unfold stealS
  with_reducible repeat' first | assumption | rfl | split | apply scanVictims_keeps | apply Keeps.set

theorem stealRetryS_keeps {z : State} (lc i : Nat) (s : State) (hz : Keeps z s) :
    Keeps z (stealRetryS lc i s) := by
  unfold stealRetryS
  with_reducible repeat' first
    | assumption | rfl | split | apply reachTime_keeps | apply scanVictims_keeps | dsimp only | apply Keeps.set

theorem shunterSleepS_keeps {z : State} (lc i : Nat) (s : State) (hz : Keeps z s) :
    Keeps z (shunterSleepS lc i s) := by
  unfold shunterSleepS
  with_reducible repeat' first | assumption | rfl | split | apply reachTime_keeps | dsimp only | apply Keeps.set

theorem setAdj_keeps {z : State} (n : Nat) (v : Option (List Byte)) (s : State) (hz : Keeps z s) :
    Keeps z (setAdj n v s) := by
  unfold setAdj
  with_reducible repeat' first | assumption | rfl | split | apply Keeps.set

theorem adjSet_keeps {z : State} (p : List Byte) (s : State) (hz : Keeps z s) :
    Keeps z (adjSet p s).1 := by
  unfold adjSet
  with_reducible repeat' first | assumption | rfl | split | apply setAdj_keeps | dsimp only | apply Keeps.set

theorem adjClear_keeps {z : State} (p : List Byte) (s : State) (hz : Keeps z s) :
    Keeps z (adjClear p s).1 := by
  unfold adjClear
  with_reducible repeat' first | assumption | rfl | split | apply setAdj_keeps | apply Keeps.set

theorem seedsSet_keeps {z : State} (p : List Byte) (s : State) (hz : Keeps z s) :
    Keeps z (seedsSet p s).1 := by
  unfold seedsSet
  with_reducible repeat' first | assumption | rfl | split | dsimp only | apply Keeps.set

theorem probeRow_keeps {z : State} (h : SmpHow) (e v : Nat) (s : State) (hz : Keeps z s) :
    Keeps z (probeRow h e v s).2 := by
  unfold probeRow
  with_reducible repeat' first
    | assumption | rfl | split | apply smpCase_keeps | apply readRow_keeps | apply bump_keeps | apply anyRow_keeps
    | apply sampleRow_keeps | dsimp only | apply Keeps.set

theorem smpProbe_keeps {z : State} (p : List Byte) (s : State) (hz : Keeps z s) :
    Keeps z (smpProbe p s).1 := by
  unfold smpProbe
  with_reducible repeat' first
    | assumption | rfl | split | apply probeRow_keeps | intro _ | dsimp only | apply Keeps.set

theorem memFree_keeps {z : State} (p : List Byte) (s : State) (hz : Keeps z s) :
    Keeps z (memFree p s).1 := by
  unfold memFree
  with_reducible repeat' first | assumption | rfl | split | apply destroyRegion_keeps | dsimp only | apply Keeps.set

theorem setHacc_keeps {z : State} (lc : Nat) (h : Hacc) (s : State) (hz : Keeps z s) :
    Keeps z (setHacc lc h s) := by
  unfold setHacc
  with_reducible repeat' first | assumption | rfl | split | apply Keeps.set

theorem haccDrop_keeps {z : State} (lc : Nat) (s : State) (hz : Keeps z s) :
    Keeps z (haccDrop lc s) := by
  unfold haccDrop
  with_reducible repeat' first | assumption | rfl | split | apply raise_keeps | apply bump_keeps | apply Keeps.set

theorem haccEvict_keeps {z : State} (lc set' : Nat) (s : State) (hz : Keeps z s) :
    Keeps z (haccEvict lc set' s) := by
  unfold haccEvict
  with_reducible repeat' first
    | assumption | rfl | split | apply haccDrop_keeps | apply setHacc_keeps | apply bump_keeps | intro _ | dsimp only
    | apply Keeps.set

theorem haccInsert_keeps {z : State} (lc : Nat) (e : HaccEntry) (s : State) (hz : Keeps z s) :
    Keeps z (haccInsert lc e s) := by
  unfold haccInsert
  with_reducible repeat' first
    | assumption | rfl | split | apply haccEvict_keeps | apply setHacc_keeps | intro _ | dsimp only | apply Keeps.set

theorem haccTake_keeps {z : State} (lc : Nat) (s : State) (e : HaccEntry) (hz : Keeps z s) :
    Keeps z (haccTake lc s e) := by
  unfold haccTake
  with_reducible repeat' first
    | assumption | rfl | split | apply haccInsert_keeps | apply setHacc_keeps | intro _ | dsimp only
    | apply Keeps.set

theorem haccLate_keeps {z : State} (lc : Nat) (s : State) (hz : Keeps z s) :
    Keeps z (haccLate lc s) := by
  unfold haccLate
  with_reducible repeat' first
    | assumption | rfl | split | apply haccTake_keeps | apply setHacc_keeps | apply Keeps.foldl | intro _
    | dsimp only | apply Keeps.set

theorem haccAdd_keeps {z : State} (lc : Nat) (e : HaccEntry) (s : State) (hz : Keeps z s) :
    Keeps z (haccAdd lc e s) := by
  unfold haccAdd
  with_reducible repeat' first
    | assumption | rfl | split | apply haccDrop_keeps | apply bump_keeps | apply setHacc_keeps | apply haccTake_keeps
    | apply haccLate_keeps | dsimp only | apply Keeps.set

theorem haccRow_keeps {z : State} (lc key n : Nat) (s : State) (hz : Keeps z s) :
    Keeps z (haccRow lc key n s).2 := by
  unfold haccRow
  with_reducible repeat' first
    | assumption | rfl | split | apply haccLate_keeps | apply bump_keeps | dsimp only | apply Keeps.set

theorem haccFromVector_keeps {z : State} (lc key : Nat) (t : Task) (elems : List W32) (s : State) (hz : Keeps z s) :
    Keeps z (haccFromVector lc key t elems s) := by
  unfold haccFromVector
  with_reducible repeat' first
    | assumption | rfl | split | apply setHacc_keeps | apply haccAdd_keeps | dsimp only | apply Keeps.set

theorem haccCfgS_keeps {z : State} (lc width op : Nat) (s : State) (hz : Keeps z s) :
    Keeps z (haccCfgS lc width op s) := by
  unfold haccCfgS
  with_reducible repeat' first | assumption | rfl | split | apply setHacc_keeps | apply Keeps.set

theorem haccOpenS_keeps {z : State} (lc : Nat) (s : State) (hz : Keeps z s) :
    Keeps z (haccOpenS lc s) := by
  unfold haccOpenS
  with_reducible repeat' first
    | assumption | rfl | split | apply haccTake_keeps | apply setHacc_keeps | apply Keeps.foldl | dsimp only
    | apply Keeps.set

theorem readWords_keeps {z : State} (lc a w n : Nat) (s : State) (hz : Keeps z s) :
    Keeps z (readWords lc a w n s).2 := by
  unfold readWords
  with_reducible repeat' first | assumption | rfl | split | apply coreRead_keeps | dsimp only | apply Keeps.set

theorem setFunc_keeps {z : State} (j : FuncJob) (s : State) (hz : Keeps z s) :
    Keeps z (setFunc j s) := by
  unfold setFunc
  with_reducible repeat' first | assumption | rfl | split | apply Keeps.set

theorem setInput_keeps {z : State} (no : Nat) (inp : FuncInput) (s : State) (hz : Keeps z s) :
    Keeps z (setInput no inp s) := by
  unfold setInput
  with_reducible repeat' first | assumption | rfl | split | apply setFunc_keeps | apply Keeps.set

theorem endFunc_keeps {z : State} (j : FuncJob) (s : State) (hz : Keeps z s) :
    Keeps z (endFunc j s) := by
  unfold endFunc
  with_reducible repeat' first | assumption | rfl | split | apply completeTask_keeps | apply Keeps.set

theorem useArea_keeps {z : State} (f : FuncRun) (s : State) (hz : Keeps z s) :
    Keeps z (useArea f s) := by
  unfold useArea
  with_reducible repeat' first | assumption | rfl | split | apply unspecify_keeps | dsimp only | apply Keeps.set

theorem givePiece_keeps {z : State} (key no first n : Nat) (chunk : Option (Nat × Nat))
    (run : SmpPiece → State → State) (s : State) (hrun : ∀ x0 t, Keeps z t → Keeps z (run x0 t)) (hz : Keeps z s) :
    Keeps z (givePiece key no first n chunk run s) := by
  unfold givePiece
  with_reducible repeat' first
    | assumption | rfl | split | apply hrun | apply pushPiece_keeps | apply setFunc_keeps
    | apply emptyNonPooled_keeps | apply bump_keeps | dsimp only | apply Keeps.set

theorem poisonEvent_keeps {z : State} (lc row : Nat) (t : Option Nat) (s : State) (hz : Keeps z s) :
    Keeps z (poisonEvent lc row t s) := by
  unfold poisonEvent
  with_reducible repeat' first | assumption | rfl | split | apply raise_keeps | apply Keeps.set

theorem finishGather_keeps {z : State} (j : FuncJob) (g : GatherIn) (s : State) (hz : Keeps z s) :
    Keeps z (finishGather j g s) := by
  unfold finishGather
  with_reducible repeat' first
    | assumption | rfl | split | apply coreWrite_keeps | apply endFunc_keeps | apply bump_keeps | apply Keeps.foldl
    | intro _ | dsimp only | apply Keeps.set

theorem finishDrain_keeps {z : State} (j : FuncJob) (n : Nat) (more : Bool) (s : State) (hz : Keeps z s) :
    Keeps z (finishDrain j n more s) := by
  unfold finishDrain
  with_reducible repeat' first
    | assumption | rfl | split | apply coreWrite_keeps | apply bump_keeps | apply haccLate_keeps
    | apply endFunc_keeps | dsimp only | apply Keeps.set

theorem closeFunc_keeps {z : State} (no : Nat) (s : State) (hz : Keeps z s) :
    Keeps z (closeFunc no s) := by
  unfold closeFunc
  with_reducible repeat' first
    | assumption | rfl | split | apply finishGather_keeps | apply finishDrain_keeps | apply endFunc_keeps
    | apply Keeps.set

theorem dropGatherRow_keeps {z : State} (no u : Nat) (poison : Bool) (s : State) (hz : Keeps z s) :
    Keeps z (dropGatherRow no u poison s) := by
  unfold dropGatherRow
  with_reducible repeat' first
    | assumption | rfl | split | apply setInput_keeps | apply poisonEvent_keeps | apply bump_keeps
    | apply raise_keeps | dsimp only | apply Keeps.set

theorem landGatherRow_keeps {z : State} (no u off : Nat) (b : List Byte) (marks : List Bool) (s : State)
    (hz : Keeps z s) :
    Keeps z (landGatherRow no u off b marks s) := by
  unfold landGatherRow
  with_reducible repeat' first
    | assumption | rfl | split | apply dropGatherRow_keeps | apply coreWrite_keeps | dsimp only | apply Keeps.set

theorem noteRemote_keeps {z : State} (no u die : Nat) (s : State) (hz : Keeps z s) :
    Keeps z (noteRemote no u die s) := by
  unfold noteRemote
  with_reducible repeat' first | assumption | rfl | split | apply setInput_keeps | apply Keeps.set

theorem gatherForward_keeps {z : State} (f : FuncRun) (no : Nat) (g : GatherIn) (u home slot : Nat) (s : State)
    (hz : Keeps z s) :
    Keeps z (gatherForward f no g u home slot s) := by
  unfold gatherForward
  with_reducible repeat' first
    | assumption | rfl | split | apply dropGatherRow_keeps | apply readAgain_keeps | apply noteRemote_keeps
    | apply Keeps.foldl | intro _ | dsimp only | apply Keeps.set

theorem gatherLocal_keeps {z : State} (f : FuncRun) (no : Nat) (g : GatherIn) (u a : Nat) (s : State) (hz : Keeps z s) :
    Keeps z (gatherLocal f no g u a s) := by
  unfold gatherLocal
  dsimp only
  have k := bump_keeps Cnt.gthLocalRow f.lc 1 s hz
  generalize bump Cnt.gthLocalRow f.lc 1 s = w at k ⊢
  split
  · have k2 := poolReadAt_keeps (pkgNo w) a g.rowBytes w k
    split
    · next e => rw [e] at k2; exact landGatherRow_keeps _ _ _ _ _ _ k2
    · next e => rw [e] at k2; exact gatherForward_keeps _ _ _ _ _ _ _ k2
    · next e => rw [e] at k2; exact dropGatherRow_keeps _ _ _ _ k2
  · split
    · exact dropGatherRow_keeps _ _ _ _ (countBad_keeps _ _ k)
    · exact landGatherRow_keeps _ _ _ _ _ _ (homeRead_keeps _ _ _ _ k)

theorem gatherRemote_keeps {z : State} (f : FuncRun) (no : Nat) (g : GatherIn) (u pkg a : Nat) (s : State)
    (hz : Keeps z s) :
    Keeps z (gatherRemote f no g u pkg a s) := by
  unfold gatherRemote
  with_reducible repeat' first
    | assumption | rfl | split | apply landGatherRow_keeps | apply bump_keeps | apply sendReq_keeps
    | apply dropGatherRow_keeps | apply noteRemote_keeps | apply Keeps.foldl | intro _ | dsimp only | apply Keeps.set

theorem fetchGatherRow_keeps {z : State} (f : FuncRun) (no u : Nat) (s : State) (hz : Keeps z s) :
    Keeps z (fetchGatherRow f no u s) := by
  unfold fetchGatherRow
  split
  · exact hz
  · split
    · exact dropGatherRow_keeps _ _ _ _ hz
    · dsimp only
      split
      · exact gatherLocal_keeps _ _ _ _ _ _ hz
      · exact gatherRemote_keeps _ _ _ _ _ _ _ hz

theorem trainHead_keeps {z : State} (lc a : Nat) (s : State) (hz : Keeps z s) :
    Keeps z (trainHead lc a s).2 := by
  unfold trainHead
  with_reducible repeat' first | assumption | rfl | split | apply coreRead_keeps | dsimp only | apply Keeps.set

theorem gatherRequests_keeps {z : State} (f : FuncRun) (q : GatherAsk) (s : State) (hz : Keeps z s) :
    Keeps z (gatherRequests f q s).2 := by
  unfold gatherRequests
  with_reducible repeat' first | assumption | rfl | split | apply trainHead_keeps | dsimp only | apply Keeps.set

theorem requestOf_keeps {z : State} (q : GatherAsk) (bad : Bool) (v : Nat) (s : State) (hz : Keeps z s) :
    Keeps z (requestOf q bad v s).2 := by
  unfold requestOf
  with_reducible repeat' first | assumption | rfl | split | apply freeVal_keeps | dsimp only | apply Keeps.set

theorem readRequests_keeps {z : State} (lc : Nat) (q : GatherAsk) (s : State) (hz : Keeps z s) :
    Keeps z (readRequests lc q s).2 := by
  unfold readRequests
  with_reducible repeat' first
    | assumption | rfl | split | apply coreRead_keeps | apply requestOf_keeps | apply Keeps.foldl2
    | apply Keeps.foldl | intro _ | dsimp only | apply Keeps.set

theorem countRequests_keeps {z : State} (lc : Nat) (t : Option Nat) (l : List Request) (s : State) (hz : Keeps z s) :
    Keeps z (countRequests lc t l s) := by
  unfold countRequests
  with_reducible repeat' first
    | assumption | rfl | split | apply smpCase_keeps | apply poisonEvent_keeps | apply bump_keeps | apply Keeps.foldl
    | intro _ | apply Keeps.set

theorem badGather_keeps {z : State} (f : FuncRun) (s : State) (hz : Keeps z s) :
    Keeps z (badGather f s) := by
  unfold badGather
  with_reducible repeat' first
    | assumption | rfl | split | apply badFunction_keeps | apply coreWrite_keeps | dsimp only | apply Keeps.set

theorem countGather_keeps {z : State} (f : FuncRun) (q : GatherAsk) (reqs : List Request) (uniq : Nat) (s : State)
    (hz : Keeps z s) :
    Keeps z (countGather f q reqs uniq s) := by
  unfold countGather
  with_reducible repeat' first
    | assumption | rfl | split | apply bump_keeps | apply countRequests_keeps | dsimp only | apply Keeps.set

theorem readWaybill_keeps {z : State} (lc a : Nat) (s : State) (hz : Keeps z s) :
    Keeps z (readWaybill lc a s).2 := by
  unfold readWaybill
  with_reducible repeat' first
    | assumption | rfl | split | apply coreRead_keeps | apply readWords_keeps | dsimp only | apply Keeps.set

theorem ownPend_keeps {z : State} (kind : PendKind) (s : State) (hz : Keeps z s) :
    Keeps z (ownPend kind s).2 := by
  unfold ownPend
  with_reducible repeat' first
    | assumption | rfl | split | apply freshTag_keeps | apply addPend_keeps | dsimp only | apply Keeps.set

theorem sendRowUpdate_keeps {z : State} (t row home m : Nat) (elems : List W32) (s : State) (hz : Keeps z s) :
    Keeps z (sendRowUpdate t row home m elems s).1 := by
  unfold sendRowUpdate
  with_reducible repeat' first
    | assumption | rfl | split | apply ownPend_keeps | apply applyRowUpdate_keeps | apply sendReq_keeps
    | apply sendPacket_keeps | apply Keeps.foldl | intro _ | dsimp only | apply Keeps.set

theorem sendAccum_keeps {z : State} (lc via g m : Nat) (data : List Byte) (s : State) (hz : Keeps z s) :
    Keeps z (sendAccum lc via g m data s).1 := by
  unfold sendAccum
  with_reducible repeat' first
    | assumption | rfl | split | apply ownPend_keeps | apply snoopWrite_keeps | apply stageWrite_keeps
    | apply sendReq_keeps | apply Keeps.foldl22 | apply Keeps.foldl2 | apply Keeps.foldl1 | apply Keeps.foldl
    | intro _ | dsimp only | apply Keeps.set

theorem gradRow_keeps {z : State} (f : FuncRun) (q : Nat) (s : State) (hz : Keeps z s) :
    Keeps z (gradRow f q s).2 := by
  unfold gradRow
  with_reducible repeat' first | assumption | rfl | split | apply coreRead_keeps | dsimp only | apply Keeps.set

theorem gradSum_keeps {z : State} (f : FuncRun) (qs : List Nat) (s : State) (hz : Keeps z s) :
    Keeps z (gradSum f qs s).2 := by
  unfold gradSum
  with_reducible repeat' first
    | assumption | rfl | split | apply gradRow_keeps | apply Keeps.foldl22 | apply Keeps.foldl2 | apply Keeps.foldl1
    | apply Keeps.foldl | intro _ | dsimp only | apply Keeps.set

theorem scatterRow_keeps {z : State} (f : FuncRun) (w : Waybill) (u : Nat) (s : State) (hz : Keeps z s) :
    Keeps z (scatterRow f w u s) := by
  unfold scatterRow
  with_reducible repeat' first
    | assumption | rfl | split | apply bump_keeps | apply gradSum_keeps | apply smpCase_keeps | apply sendAccum_keeps
    | apply sendRowUpdate_keeps | intro _ | dsimp only | apply Keeps.set

theorem anyRowOf_keeps {z : State} (n : Nat) (s : State) (hz : Keeps z s) :
    Keeps z (anyRowOf n s).2 := by
  unfold anyRowOf
  with_reducible repeat' first | assumption | rfl | split | apply freeVal_keeps | dsimp only | apply Keeps.set

theorem waybillEdge_keeps {z : State} (lc off : Nat) (w : Waybill) (src : Nat) (s : State) (hz : Keeps z s) :
    Keeps z (waybillEdge lc off w src s).2 := by
  unfold waybillEdge
  with_reducible repeat' first
    | assumption | rfl | split | apply anyRowOf_keeps | apply smpCase_keeps | apply bump_keeps | dsimp only
    | apply Keeps.set

theorem trainLayer_keeps {z : State} (lc a l : Nat) (s : State) (hz : Keeps z s) :
    Keeps z (trainLayer lc a l s).2 := by
  unfold trainLayer
  with_reducible repeat' first
    | assumption | rfl | split | apply trainHead_keeps | apply coreRead_keeps | dsimp only | apply Keeps.set

theorem spmmTrain_keeps {z : State} {f : FuncRun} {s t : State} {q : SpmmIn} (hz : Keeps z s) (h : spmmTrain f s = some
    (q, t)) :
    Keeps z t := by
  unfold spmmTrain at h
  dsimp only at h
  split at h
  · simp at h
  · have k := trainLayer_keeps f.lc (f.addr 384) (field f.d 16 4) s hz
    split at h
    · simp at h
    · simp only [Option.some.injEq, Prod.mk.injEq] at h
      obtain ⟨_, rfl⟩ := h
      refine Keeps.foldl2 ?_ ?_
      · exact readWords_keeps _ _ _ _ _ (readWords_keeps _ _ _ _ _ (readWaybill_keeps _ _ _ k))
      · exact fun a b hb => Keeps.foldl2 hb (fun c d hd => waybillEdge_keeps _ _ _ _ _ hd)

theorem sortedKeys_keeps {z : State} (lc : Nat) (prev : Option Nat) (i : Nat) (l : List Nat) (s : State) (hz : Keeps z s) :
    Keeps z (sortedKeys lc prev i l s).2 := by
  induction l generalizing prev i s with
  | nil => exact hz
  | cons k l ih =>
    unfold sortedKeys
    extract_lets late
    split
    · exact ih _ _ _ hz
    · split
      · split <;> exact ih _ _ _ (freeVal_keeps _ _ hz)
      · exact ih _ _ _ (smpCase_keeps _ _ _ _ hz)

theorem mergeEntry_keeps {z : State} (lc n : Nat) (xs : List (Nat × Nat)) (last : Option Nat) (key : Nat)
    (s : State) (hz : Keeps z s) :
    Keeps z (mergeEntry lc n xs last key s).2.2 := by
  unfold mergeEntry
  with_reducible repeat' first
    | assumption | rfl | split | apply anyRowOf_keeps | apply smpCase_keeps | intro _ | dsimp only | apply Keeps.set

theorem anyEntries_keeps {z : State} (ne n : Nat) (s : State) (hz : Keeps z s) :
    Keeps z (anyEntries ne n s).2 := by
  unfold anyEntries
  with_reducible repeat' first
    | assumption | rfl | split | apply freeVal_keeps | apply anyRowOf_keeps | apply Keeps.foldl2 | apply Keeps.foldl
    | intro _ | dsimp only | apply Keeps.set

theorem mergeRow_keeps {z : State} (lc n : Nat) (xs : List (Nat × Nat)) (keys : List Nat) (lo hi : Nat) (s : State)
    (hz : Keeps z s) :
    Keeps z (mergeRow lc n xs keys lo hi s).2 := by
  unfold mergeRow
  with_reducible repeat' first
    | assumption | rfl | split | apply anyEntries_keeps | apply bump_keeps | apply mergeEntry_keeps
    | apply Keeps.foldl22 | apply Keeps.foldl2 | apply Keeps.foldl1 | apply Keeps.foldl | intro _ | dsimp only
    | apply Keeps.set

theorem spmmMerge_keeps {z : State} {f : FuncRun} {s t : State} {q : SpmmIn} (hz : Keeps z s)
    (h : spmmMerge f s = some (q, t)) : Keeps z t := by
  unfold spmmMerge at h
  dsimp only at h
  split at h
  · simp at h
  · split at h
    · simp at h
    · simp only [Option.some.injEq, Prod.mk.injEq] at h
      obtain ⟨_, rfl⟩ := h
      refine Keeps.foldl2 ?_ (fun a b hb => mergeRow_keeps _ _ _ _ _ _ _ hb)
      exact sortedKeys_keeps _ _ _ _ _ (readWords_keeps _ _ _ _ _ (readWords_keeps _ _ _ _ _ (readWords_keeps _ _ _ _ _ hz)))

theorem spmmTerm_keeps {z : State} (f : FuncRun) (e : Nat × Nat) (s : State) (hz : Keeps z s) :
    Keeps z (spmmTerm f e s).2 := by
  unfold spmmTerm
  with_reducible repeat' first
    | assumption | rfl | split | apply coreRead_keeps | apply readWords_keeps | intro _ | dsimp only
    | apply Keeps.set

theorem spmmTerms_keeps {z : State} (f : FuncRun) (l : List (Nat × Nat)) (s : State) (hz : Keeps z s) :
    Keeps z (spmmTerms f l s).2 := by
  unfold spmmTerms
  with_reducible repeat' first
    | assumption | rfl | split | apply spmmTerm_keeps | apply Keeps.foldl22 | apply Keeps.foldl2 | apply Keeps.foldl1
    | apply Keeps.foldl | intro _ | dsimp only | apply Keeps.set

theorem putDest_keeps {z : State} (f : FuncRun) (i : Nat) (sum : Option (List W32)) (k : Nat) (s : State)
    (hz : Keeps z s) :
    Keeps z (putDest f i sum k s) := by
  unfold putDest
  with_reducible repeat' first
    | assumption | rfl | split | apply coreWrite_keeps | apply haccAdd_keeps | intro _ | dsimp only | apply Keeps.set

theorem runDestChunk_keeps {z : State} (key no lo hi : Nat) (p : SmpPiece) (s : State) (hz : Keeps z s) :
    Keeps z (runDestChunk key no lo hi p s) := by
  unfold runDestChunk
  with_reducible repeat' first
    | assumption | rfl | split | apply spmmTerms_keeps | apply putDest_keeps | apply setInput_keeps | intro _
    | dsimp only | apply Keeps.set

theorem spmmOne_keeps {z : State} (key no i : Nat) (s : State) (hz : Keeps z s) :
    Keeps z (spmmOne key no i s) := by
  unfold spmmOne
  with_reducible repeat' first
    | assumption | rfl | split | apply givePiece_keeps | apply runDestChunk_keeps | apply setInput_keeps
    | apply spmmTerms_keeps | apply putDest_keeps | apply Keeps.foldl | intro _ | dsimp only | apply Keeps.set

theorem haccRemove_keeps {z : State} (lc : Nat) (keys : List Nat) (s : State) (hz : Keeps z s) :
    Keeps z (haccRemove lc keys s) := by
  unfold haccRemove
  with_reducible repeat' first
    | assumption | rfl | split | apply setHacc_keeps | intro _ | dsimp only | apply Keeps.set

theorem drainRow_keeps {z : State} (f : FuncRun) (rows : List (Nat × List W32)) (w i : Nat) (s : State)
    (hz : Keeps z s) :
    Keeps z (drainRow f rows w i s) := by
  unfold drainRow
  with_reducible repeat' first
    | assumption | rfl | split | apply freeBytes_keeps | apply coreWrite_keeps | dsimp only | apply Keeps.set

theorem compressOne_keeps {z : State} (f : FuncRun) (fmt k r : Nat) (s : State) (hz : Keeps z s) :
    Keeps z (compressOne f fmt k r s) := by
  unfold compressOne
  with_reducible repeat' first
    | assumption | rfl | split | apply coreRead_keeps | apply freeVal_keeps | apply coreWrite_keeps
    | apply bump_keeps | dsimp only | apply Keeps.set

theorem runFuncPiece_keeps {z : State} (key no : Nat) (p : SmpPiece) (s : State) (hz : Keeps z s) :
    Keeps z (runFuncPiece key no p s) := by
  unfold runFuncPiece
  with_reducible repeat' first
    | assumption | rfl | split | apply useArea_keeps | apply fetchGatherRow_keeps | apply scatterRow_keeps
    | apply runDestChunk_keeps | apply spmmOne_keeps | apply drainRow_keeps | apply compressOne_keeps
    | apply Keeps.foldl | intro _ | dsimp only | apply Keeps.set

theorem startFunc_keeps {z : State} (f : FuncRun) (inp : FuncInput) (rows : Nat) (s : State) (hz : Keeps z s) :
    Keeps z (startFunc f inp rows s) := by
  unfold startFunc
  with_reducible repeat' first
    | assumption | rfl | split | apply useArea_keeps | apply setFunc_keeps | apply closeFunc_keeps
    | apply givePiece_keeps | apply runFuncPiece_keeps | apply Keeps.foldl | intro _ | dsimp only | apply Keeps.set

theorem runShunter_keeps {z : State} (lc i func : Nat) (f : FuncRun → State → State) (s : State)
    (hf : ∀ x0 t, Keeps z t → Keeps z (f x0 t)) (hz : Keeps z s) :
    Keeps z (runShunter lc i func f s) := by
  unfold runShunter
  with_reducible repeat' first
    | assumption | rfl | split | apply hf | apply emptyNonPooled_keeps | apply setDeque_keeps
    | apply runFuncPiece_keeps | apply setFunc_keeps | apply closeFunc_keeps | apply completeTask_keeps
    | apply runFunction_keeps | intro _ | dsimp only | apply Keeps.set

theorem beginGather_keeps {z : State} (f : FuncRun) (s : State) (hz : Keeps z s) :
    Keeps z (beginGather f s) := by
  unfold beginGather
  with_reducible repeat' first
    | assumption | rfl | split | apply badGather_keeps | apply gatherRequests_keeps | apply readRequests_keeps
    | apply startFunc_keeps | apply countGather_keeps | dsimp only | apply Keeps.set

theorem remoteTimeoutS_keeps {z : State} (tag : Nat) (s : State) (hz : Keeps z s) :
    Keeps z (remoteTimeoutS tag s) := by
  unfold remoteTimeoutS
  with_reducible repeat' first
    | assumption | rfl | split | apply closeFunc_keeps | apply dropGatherRow_keeps | apply dropPend_keeps
    | apply reachTime_keeps | apply failRead_keeps | dsimp only | apply Keeps.set

theorem beginScatter_keeps {z : State} (f : FuncRun) (s : State) (hz : Keeps z s) :
    Keeps z (beginScatter f s) := by
  unfold beginScatter
  with_reducible repeat' first
    | assumption | rfl | split | apply badFunction_keeps | apply readWaybill_keeps | apply startFunc_keeps
    | apply bump_keeps | intro _ | dsimp only | apply Keeps.set

theorem beginSpmm_keeps {z : State} (f : FuncRun) (s : State) (hz : Keeps z s) :
    Keeps z (beginSpmm f s) := by
  unfold beginSpmm
  split
  · exact badFunction_keeps _ _ hz
  · split
    · exact badFunction_keeps _ _ hz
    · next t h =>
      have k : Keeps z t := by
        split at h
        · exact spmmMerge_keeps hz h
        · exact spmmTrain_keeps hz h
      split
      · exact badFunction_keeps _ _ hz
      · exact startFunc_keeps _ _ _ _ k

theorem beginDrain_keeps {z : State} (f : FuncRun) (s : State) (hz : Keeps z s) :
    Keeps z (beginDrain f s) := by
  unfold beginDrain
  with_reducible repeat' first
    | assumption | rfl | split | apply haccLate_keeps | apply badFunction_keeps | apply startFunc_keeps
    | apply haccRemove_keeps | intro _ | dsimp only | apply Keeps.set

theorem beginCompress_keeps {z : State} (f : FuncRun) (s : State) (hz : Keeps z s) :
    Keeps z (beginCompress f s) := by
  unfold beginCompress
  with_reducible repeat' first
    | assumption | rfl | split | apply badFunction_keeps | apply startFunc_keeps | dsimp only | apply Keeps.set

theorem gthConfig_keeps {z : State} (p : List Byte) (s : State) (hz : Keeps z s) :
    Keeps z (gthConfig p s).1 := by
  unfold gthConfig
  with_reducible repeat' first | assumption | rfl | split | apply Keeps.set

end Sys2Proof.Machine
end

