-- ==== Sys2Proof/Laws/KeepsFabric.lean ====
section
/-! SUPPORT. What no command changes is kept by the operations over links, collectives, signals, vectors and packets received: one lemma per
function, which the proofs over every command cite instead of unfolding it. -/

namespace Sys2Proof.Machine

set_option linter.unusedTactic false
set_option linter.unreachableTactic false

theorem badCodeword_keeps {z : State} (q fseq : Nat) (s : State) (hz : Keeps z s) :
    Keeps z (badCodeword q fseq s) := by
  unfold badCodeword
  with_reducible repeat' first
    | assumption | rfl | split | apply bump_keeps | apply setPort_keeps | apply startRetrain_keeps
    | apply pumpPort_keeps | dsimp only | apply Keeps.set

theorem takeFrame_keeps {z : State} (q : Nat) (f : Frame) (s : State) (hz : Keeps z s) :
    Keeps z (takeFrame q f s) := by
  unfold takeFrame
  with_reducible repeat' first
    | assumption | rfl | split | apply bump_keeps | apply setPort_keeps | apply pumpPort_keeps | dsimp only
    | apply Keeps.set

theorem codewordS_keeps {z : State} (q : Nat) (r : DecodeResult) (f : Frame) (s : State) (hz : Keeps z s) :
    Keeps z (codewordS q r f s) := by
  unfold codewordS
  with_reducible repeat' first
    | assumption | rfl | split | apply takeFrame_keeps | apply bump_keeps | apply badCodeword_keeps | apply Keeps.set

theorem controlSlotS_keeps {z : State} (q : Nat) (sl : LlcSlot) (s : State) (hz : Keeps z s) :
    Keeps z (controlSlotS q sl s) := by
  unfold controlSlotS
  with_reducible repeat' first
    | assumption | rfl | split | apply setPort_keeps | apply pumpPort_keeps | apply resend_keeps | dsimp only
    | apply Keeps.set

theorem ackTimeoutS_keeps {z : State} (q : Nat) (s : State) (hz : Keeps z s) :
    Keeps z (ackTimeoutS q s) := by
  unfold ackTimeoutS
  with_reducible repeat' first
    | assumption | rfl | split | apply reachTime_keeps | apply resend_keeps | apply setPort_keeps | dsimp only
    | apply Keeps.set

theorem linkStateS_keeps {z : State} (pkg dim : Nat) (plus portB : Bool) (st : Nat) (s : State) (hz : Keeps z s) :
    Keeps z (linkStateS pkg dim plus portB st s) := by
  unfold linkStateS
  with_reducible repeat' first | assumption | rfl | split | intro _ | dsimp only | apply Keeps.set

theorem badPacketS_keeps {z : State} (s : State) (hz : Keeps z s) :
    Keeps z (badPacketS s) := by
  unfold badPacketS
  with_reducible repeat' first | assumption | rfl | split | apply bump_keeps | apply Keeps.set

theorem badDesc_keeps {z : State} (s : State) (hz : Keeps z s) :
    Keeps z (badDesc s) := by
  unfold badDesc
  with_reducible repeat' first | assumption | rfl | split | apply raise_keeps | apply bump_keeps | apply Keeps.set

theorem endColl_keeps {z : State} (c : Coll) (s : State) (hz : Keeps z s) :
    Keeps z (endColl c s) := by
  unfold endColl
  with_reducible repeat' first | assumption | rfl | split | apply completeTask_keeps | intro _ | apply Keeps.set

theorem updColl_keeps {z : State} (no : Nat) (f : Coll → Coll) (s : State) (hz : Keeps z s) :
    Keeps z (updColl no f s) := by
  unfold updColl
  with_reducible repeat' first | assumption | rfl | split | intro _ | apply Keeps.set

theorem addUnit_keeps {z : State} (src t row nrows fmt step : Nat) (data : List Byte) (s : State) (hz : Keeps z s) :
    Keeps z (addUnit src t row nrows fmt step data s).2 := by
  unfold addUnit
  with_reducible repeat' first
    | assumption | rfl | split | apply bump_keeps | apply raise_keeps | apply setTable_keeps | apply Keeps.foldl
    | intro _ | dsimp only | apply Keeps.set

theorem checkColl_keeps {z : State} (s : State) (c : Coll) (hz : Keeps z s) :
    Keeps z (checkColl s c) := by
  unfold checkColl
  with_reducible repeat' first
    | assumption | rfl | split | apply endColl_keeps | apply updColl_keeps | intro _ | dsimp only | apply Keeps.set

theorem checkColls_keeps {z : State} (s : State) (hz : Keeps z s) :
    Keeps z (checkColls s) := by
  unfold checkColls
  with_reducible repeat' first
    | assumption | rfl | split | apply checkColl_keeps | apply Keeps.foldl | apply Keeps.set

theorem sendContrib_keeps {z : State} (c : Coll) (u : Nat × Nat × Nat) (data : List Byte) (s : State)
    (hz : Keeps z s) :
    Keeps z (sendContrib c u data s) := by
  unfold sendContrib
  with_reducible repeat' first
    | assumption | rfl | split | apply freshTag_keeps | apply sendPacket_keeps | apply addPend_keeps
    | apply bump_keeps | apply updColl_keeps | intro _ | dsimp only | apply Keeps.set

theorem gradRead_keeps {z : State} (lc a n : Nat) (s : State) (hz : Keeps z s) :
    Keeps z (gradRead lc a n s).2 := by
  unfold gradRead
  with_reducible repeat' first
    | assumption | rfl | split | apply homeRead_keeps | apply badAccessOf_keeps | dsimp only | apply Keeps.set

theorem sendUnit_keeps {z : State} (c : Coll) (s : State) (u : Nat × Nat × Nat) (hz : Keeps z s) :
    Keeps z (sendUnit c s u) := by
  unfold sendUnit
  with_reducible repeat' first
    | assumption | rfl | split | apply gradRead_keeps | apply addUnit_keeps | apply sendContrib_keeps | dsimp only
    | apply Keeps.set

theorem reduceScatterS_keeps {z : State} (d : Nat) (s : State) (hz : Keeps z s) :
    Keeps z (reduceScatterS d s) := by
  unfold reduceScatterS
  with_reducible repeat' first
    | assumption | rfl | split | apply endColl_keeps | apply badDesc_keeps | apply updColl_keeps
    | apply checkColls_keeps | apply sendUnit_keeps | apply Keeps.foldl | intro _ | dsimp only | apply Keeps.set

theorem recvContrib_keeps {z : State} (h : Hdr) (row t nrows fmt : Nat) (data : List Byte) (s : State)
    (hz : Keeps z s) :
    Keeps z (recvContrib h row t nrows fmt data s) := by
  unfold recvContrib
  with_reducible repeat' first
    | assumption | rfl | split | apply addUnit_keeps | apply checkColls_keeps | apply sendPlain_keeps | dsimp only
    | apply Keeps.set

theorem ackContrib_keeps {z : State} (tag : Nat) (s : State) (hz : Keeps z s) :
    Keeps z (ackContrib tag s) := by
  unfold ackContrib
  with_reducible repeat' first
    | assumption | rfl | split | apply dropPend_keeps | apply checkColls_keeps | intro _ | dsimp only
    | apply Keeps.set

theorem recvRdAck_keeps {z : State} (h : Hdr) (s : State) (hz : Keeps z s) :
    Keeps z (recvRdAck h s) := by
  unfold recvRdAck
  with_reducible repeat' first | assumption | rfl | split | apply ackContrib_keeps | apply Keeps.set

theorem rdAckTimeoutS_keeps {z : State} (tag : Nat) (s : State) (hz : Keeps z s) :
    Keeps z (rdAckTimeoutS tag s) := by
  unfold rdAckTimeoutS
  with_reducible repeat' first
    | assumption | rfl | split | apply reachTime_keeps | apply ackContrib_keeps | apply raise_keeps
    | apply bump_keeps | dsimp only | apply Keeps.set

theorem shardCloseS_keeps {z : State} (t : Nat) (s : State) (hz : Keeps z s) :
    Keeps z (shardCloseS t s) := by
  unfold shardCloseS
  with_reducible repeat' first
    | assumption | rfl | split | apply reachTime_keeps | apply checkColls_keeps | apply setTable_keeps | dsimp only
    | apply Keeps.set

theorem rdCommitRow_keeps {z : State} (t n : Nat) (tb : Table) (s : State) (e : Nat × RdRow) (hz : Keeps z s) :
    Keeps z (rdCommitRow t n tb s e) := by
  unfold rdCommitRow
  with_reducible repeat' first
    | assumption | rfl | split | apply updateRow_keeps | apply bump_keeps | intro _ | dsimp only | apply Keeps.set

theorem rdCommit_keeps {z : State} (n : Nat) (left : List Nat) (s : State) (hz : Keeps z s) :
    Keeps z (rdCommit n left s) := by
  unfold rdCommit
  with_reducible repeat' first
    | assumption | rfl | split | apply rdCommitRow_keeps | apply setTable_keeps | apply Keeps.foldl | intro _
    | dsimp only | apply Keeps.set

theorem rdConfig_keeps {z : State} (p : List Byte) (s : State) (hz : Keeps z s) :
    Keeps z (rdConfig p s).1 := by
  unfold rdConfig
  with_reducible repeat' first | assumption | rfl | split | dsimp only | apply Keeps.set

theorem rdAlloc_keeps {z : State} {n : Nat} {s t : State} {l : List Nat} (hz : Keeps z s) (h : rdAlloc n s = some (l, t)) :
    Keeps z t := by
  unfold rdAlloc at h
  split at h
  · simp only [Option.some.injEq, Prod.mk.injEq] at h
    exact h.2 ▸ hz
  · split at h
    · simp at h
    · next e =>
      have k := createRegion_keeps hz e
      split at h
      · simp at h
      · next e2 =>
        simp only [Option.some.injEq, Prod.mk.injEq] at h
        exact h.2 ▸ createRegion_keeps k e2

theorem unbind_keeps {z : State} (t : Nat) (s : State) (hz : Keeps z s) :
    Keeps z (unbind t s) := by
  unfold unbind
  with_reducible repeat' first
    | assumption | rfl | split | apply destroyRegion_keeps | apply setTable_keeps | apply Keeps.foldl | intro _
    | dsimp only | apply Keeps.set

theorem rdBind_keeps {z : State} (p : List Byte) (s : State) (hz : Keeps z s) :
    Keeps z (rdBind p s).1 := by
  unfold rdBind
  dsimp only
  repeat' first | with_reducible assumption | split | with_reducible apply unbind_keeps
  next h => exact setTable_keeps _ _ _ (rdAlloc_keeps hz h)

theorem setLine_keeps {z : State} (l : Nat) (g : SigLine) (s : State) (hz : Keeps z s) :
    Keeps z (setLine l g s) := by
  unfold setLine
  with_reducible repeat' first | assumption | rfl | split | apply Keeps.set

theorem resetLines_keeps {z : State} (s : State) (hz : Keeps z s) :
    Keeps z (resetLines s) := by
  unfold resetLines
  with_reducible repeat' first | assumption | rfl | split | intro _ | apply Keeps.set

theorem adoptLines_keeps {z : State} (s : State) (hz : Keeps z s) :
    Keeps z (adoptLines s) := by
  unfold adoptLines
  with_reducible repeat' first | assumption | rfl | split | intro _ | apply Keeps.set

theorem endWait_keeps {z : State} (lc x status : Nat) (s : State) (hz : Keeps z s) :
    Keeps z (endWait lc x status s) := by
  unfold endWait
  with_reducible repeat' first
    | assumption | rfl | split | apply closeWait_keeps | apply setCtx_keeps | dsimp only | apply Keeps.set

theorem judgeCore_keeps {z : State} (lc : Nat) (s : State) (hz : Keeps z s) :
    Keeps z (judgeCore lc s) := by
  unfold judgeCore
  with_reducible repeat' first
    | assumption | rfl | split | apply endWait_keeps | apply emptyNonPooled_keeps | apply bump_keeps
    | apply Keeps.foldl | intro _ | dsimp only | apply Keeps.set

theorem judgeWaits_keeps {z : State} (s : State) (hz : Keeps z s) :
    Keeps z (judgeWaits s) := by
  unfold judgeWaits
  with_reducible repeat' first
    | assumption | rfl | split | apply judgeCore_keeps | apply Keeps.foldl | intro _ | apply Keeps.set

theorem completeGen_keeps {z : State} (l : Nat) (s : State) (hz : Keeps z s) :
    Keeps z (completeGen l s) := by
  unfold completeGen
  with_reducible repeat' first
    | assumption | rfl | split | apply bump_keeps | apply setLine_keeps | intro _ | dsimp only | apply Keeps.set

theorem sendSig_keeps {z : State} (dst : Nat) (f : Hdr → Instr) (s : State) (hz : Keeps z s) :
    Keeps z (sendSig dst f s) := by
  unfold sendSig
  with_reducible repeat' first | assumption | rfl | split | apply bump_keeps | apply sendPlain_keeps | apply Keeps.set

theorem broadcastSig_keeps {z : State} (l value : Nat) (s : State) (hz : Keeps z s) :
    Keeps z (broadcastSig l value s) := by
  unfold broadcastSig
  with_reducible repeat' first
    | assumption | rfl | split | apply sendSig_keeps | apply Keeps.foldl | intro _ | apply Keeps.set

theorem rootValue_keeps {z : State} (l : Nat) (v : Bool) (s : State) (hz : Keeps z s) :
    Keeps z (rootValue l v s) := by
  unfold rootValue
  with_reducible repeat' first
    | assumption | rfl | split | apply setLine_keeps | apply completeGen_keeps | apply broadcastSig_keeps
    | dsimp only | apply Keeps.set

theorem combineLine_keeps {z : State} (l : Nat) (s : State) (hz : Keeps z s) :
    Keeps z (combineLine l s) := by
  unfold combineLine
  with_reducible repeat' first
    | assumption | rfl | split | apply rootValue_keeps | apply setLine_keeps | apply sendSig_keeps | intro _
    | dsimp only | apply Keeps.set

theorem registerLine_keeps {z : State} (l : Nat) (s : State) (hz : Keeps z s) :
    Keeps z (registerLine l s) := by
  unfold registerLine
  with_reducible repeat' first
    | assumption | rfl | split | apply combineLine_keeps | apply setLine_keeps | apply completeGen_keeps | dsimp only
    | apply Keeps.set

theorem registerLines_keeps {z : State} (s : State) (hz : Keeps z s) :
    Keeps z (registerLines s) := by
  unfold registerLines
  with_reducible repeat' first
    | assumption | rfl | split | apply judgeWaits_keeps | apply registerLine_keeps | apply Keeps.foldl | intro _
    | apply Keeps.set

theorem sigUpTake_keeps {z : State} (h : Hdr) (l : Nat) (v : Bool) (s : State) (hz : Keeps z s) :
    Keeps z (sigUpTake h l v s) := by
  unfold sigUpTake
  with_reducible repeat' first
    | assumption | rfl | split | apply judgeWaits_keeps | apply combineLine_keeps | apply setLine_keeps | dsimp only
    | apply Keeps.set

theorem sigDownTake_keeps {z : State} (l value : Nat) (s : State) (hz : Keeps z s) :
    Keeps z (sigDownTake l value s) := by
  unfold sigDownTake
  with_reducible repeat' first
    | assumption | rfl | split | apply completeGen_keeps | apply setLine_keeps | apply judgeWaits_keeps
    | apply broadcastSig_keeps | dsimp only | apply Keeps.set

theorem sigBadInstr_keeps {z : State} (lc x l reason : Nat) (s : State) (hz : Keeps z s) :
    Keeps z (sigBadInstr lc x l reason s) := by
  unfold sigBadInstr
  with_reducible repeat' first
    | assumption | rfl | split | apply freeVal_keeps | apply setCtx_keeps | apply raise_keeps | apply bump_keeps
    | dsimp only | apply Keeps.set

theorem sigInstr_keeps {z : State} (lc x l : Nat) (op : SigOp) (f : State → State) (s : State)
    (hf : ∀ t, Keeps z t → Keeps z (f t)) (hz : Keeps z s) :
    Keeps z (sigInstr lc x l op f s) := by
  unfold sigInstr
  with_reducible repeat' first
    | assumption | rfl | split | apply hf | apply sigBadInstr_keeps | dsimp only | apply Keeps.set

theorem sigDone_keeps {z : State} (lc x l value : Nat) (dest : Option Nat) (s : State) (hz : Keeps z s) :
    Keeps z (sigDone lc x l value dest s) := by
  unfold sigDone
  with_reducible repeat' first | assumption | rfl | split | apply setCtx_keeps | dsimp only | apply Keeps.set

theorem sigPut_keeps {z : State} (lc x l : Nat) (v : Bool) (s : State) (hz : Keeps z s) :
    Keeps z (sigPut lc x l v s) := by
  unfold sigPut
  with_reducible repeat' first
    | assumption | rfl | split | apply sigDone_keeps | apply setLine_keeps | dsimp only | apply Keeps.set

theorem registerArrival_keeps {z : State} (lc x l dest : Nat) (s : State) (hz : Keeps z s) :
    Keeps z (registerArrival lc x l dest s) := by
  unfold registerArrival
  with_reducible repeat' first
    | assumption | rfl | split | apply sigDone_keeps | apply setLine_keeps | dsimp only | apply Keeps.set

theorem arriveS_keeps {z : State} (lc x l dest : Nat) (s : State) (hz : Keeps z s) :
    Keeps z (arriveS lc x l dest s) := by
  unfold arriveS
  with_reducible repeat' first
    | assumption | rfl | split | apply registerArrival_keeps | apply bump_keeps | apply setCtx_keeps
    | apply Keeps.set

theorem arriveRetryS_keeps {z : State} (lc x : Nat) (s : State) (hz : Keeps z s) :
    Keeps z (arriveRetryS lc x s) := by
  unfold arriveRetryS
  with_reducible repeat' first
    | assumption | rfl | split | apply closeWait_keeps | apply registerArrival_keeps | apply setCtx_keeps
    | apply bump_keeps | dsimp only | apply Keeps.set

theorem waitS_keeps {z : State} (lc x l value timeout : Nat) (s : State) (hz : Keeps z s) :
    Keeps z (waitS lc x l value timeout s) := by
  unfold waitS
  with_reducible repeat' first
    | assumption | rfl | split | apply bump_keeps | apply emptyNonPooled_keeps | apply sigDone_keeps
    | apply setCtx_keeps | dsimp only | apply Keeps.set

theorem readS_keeps {z : State} (lc x l dest : Nat) (s : State) (hz : Keeps z s) :
    Keeps z (readS lc x l dest s) := by
  unfold readS
  with_reducible repeat' first | assumption | rfl | split | apply sigDone_keeps | apply Keeps.set

theorem waitTimeoutS_keeps {z : State} (lc x : Nat) (s : State) (hz : Keeps z s) :
    Keeps z (waitTimeoutS lc x s) := by
  unfold waitTimeoutS
  with_reducible repeat' first
    | assumption | rfl | split | apply registerLines_keeps | apply reachTime_keeps | apply endWait_keeps
    | apply raise_keeps | apply bump_keeps | dsimp only | apply Keeps.set

theorem sigConfig_keeps {z : State} (p : List Byte) (s : State) (hz : Keeps z s) :
    Keeps z (sigConfig p s).1 := by
  unfold sigConfig
  with_reducible repeat' first
    | assumption | rfl | split | apply setLine_keeps | apply raise_keeps | dsimp only | apply Keeps.set

theorem veStart_keeps {z : State} (lc : Nat) (s : State) (hz : Keeps z s) :
    Keeps z (veStart lc s) := by
  unfold veStart
  with_reducible repeat' first | assumption | rfl | split | apply runTiles_keeps | apply Keeps.set

theorem veBad'_keeps {z : State} (lc x reason : Nat) (s : State) (hz : Keeps z s) :
    Keeps z (veBad' lc x reason s) := by
  unfold veBad'
  with_reducible repeat' first
    | assumption | rfl | split | apply setCtx_keeps | apply raise_keeps | apply bump_keeps | dsimp only
    | apply Keeps.set

theorem vopIssue_keeps {z : State} (op lc x desc : Nat) (held : Instr) (faults : List TileFault) (t : Task)
    (s : State) (hz : Keeps z s) :
    Keeps z (vopIssue op lc x desc held faults t s) := by
  unfold vopIssue
  with_reducible repeat' first
    | assumption | rfl | split | apply setCtx_keeps | apply coreRead_keeps | apply consumePoison_keeps
    | apply veBad'_keeps | apply takeNumber_keeps | apply setEngine_keeps | apply veStart_keeps | dsimp only
    | apply Keeps.set

theorem vopS_keeps {z : State} (op lc x desc : Nat) (held : Instr) (faults : List TileFault) (s : State)
    (hz : Keeps z s) :
    Keeps z (vopS op lc x desc held faults s) := by
  unfold vopS
  with_reducible repeat' first | assumption | rfl | split | apply vopIssue_keeps | dsimp only | apply Keeps.set

theorem readMemory_keeps {z : State} (lc i : Nat) (q : EngInst) (s : State) (hz : Keeps z s) :
    Keeps z (readMemory lc i q s).2 := by
  unfold readMemory
  with_reducible repeat' first
    | assumption | rfl | split | apply fetchKept_keeps | apply fetchRows_keeps | apply Keeps.foldl22
    | apply Keeps.foldl2 | apply Keeps.foldl1 | apply Keeps.foldl | intro _ | dsimp only | apply Keeps.set

theorem freeRow_keeps {z : State} (n : Nat) (s : State) (hz : Keeps z s) :
    Keeps z (freeRow n s).2 := by
  unfold freeRow
  with_reducible repeat' first | assumption | rfl | split | apply freeBytes_keeps | dsimp only | apply Keeps.set

theorem readAccRow_keeps {z : State} (e : Nat) (q : EngInst) (n r : Nat) (s : State) (hz : Keeps z s) :
    Keeps z (readAccRow e q n r s).2 := by
  unfold readAccRow
  with_reducible repeat' first | assumption | rfl | split | apply freeRow_keeps | dsimp only | apply Keeps.set

theorem readAcc_keeps {z : State} (lc : Nat) (q : EngInst) (s : State) (hz : Keeps z s) :
    Keeps z (readAcc lc q s).2 := by
  unfold readAcc
  with_reducible repeat' first
    | assumption | rfl | split | apply readAccRow_keeps | apply Keeps.foldl22 | apply Keeps.foldl2
    | apply Keeps.foldl1 | apply Keeps.foldl | intro _ | dsimp only | apply Keeps.set

theorem readKeys_keeps {z : State} (lc : Nat) (q : EngInst) (s : State) (hz : Keeps z s) :
    Keeps z (readKeys lc q s).2 := by
  unfold readKeys
  with_reducible repeat' first | assumption | rfl | split | apply operandRead_keeps | dsimp only | apply Keeps.set

theorem readHacc_keeps {z : State} (lc : Nat) (q : EngInst) (keys : List Nat) (s : State) (hz : Keeps z s) :
    Keeps z (readHacc lc q keys s).2 := by
  unfold readHacc
  with_reducible repeat' first
    | assumption | rfl | split | apply haccRow_keeps | apply Keeps.foldl22 | apply Keeps.foldl2 | apply Keeps.foldl1
    | apply Keeps.foldl | intro _ | dsimp only | apply Keeps.set

theorem readNone_keeps {z : State} (q : EngInst) (i : Nat) (s : State) (hz : Keeps z s) :
    Keeps z (readNone q i s).2 := by
  unfold readNone
  with_reducible repeat' first
    | assumption | rfl | split | apply freeRow_keeps | apply Keeps.foldl22 | apply Keeps.foldl2 | apply Keeps.foldl1
    | apply Keeps.foldl | intro _ | dsimp only | apply Keeps.set

theorem readStream_keeps {z : State} (lc i : Nat) (q : EngInst) (keys : List Nat) (s : State) (hz : Keeps z s) :
    Keeps z (readStream lc i q keys s).2 := by
  unfold readStream
  with_reducible repeat' first
    | assumption | rfl | split | apply readNone_keeps | apply readMemory_keeps | apply readAcc_keeps
    | apply readHacc_keeps | apply Keeps.set

theorem readIndices_keeps {z : State} (lc : Nat) (q : EngInst) (s : State) (hz : Keeps z s) :
    Keeps z (readIndices lc q s).2 := by
  unfold readIndices
  with_reducible repeat' first
    | assumption | rfl | split | apply operandRead_keeps | apply Keeps.foldl22 | apply Keeps.foldl2
    | apply Keeps.foldl1 | apply Keeps.foldl | intro _ | dsimp only | apply Keeps.set

theorem addGn_keeps {z : State} (lc : Nat) (q : EngInst) (rows : List (List W32)) (s : State) (hz : Keeps z s) :
    Keeps z (addGn lc q rows s) := by
  unfold addGn
  with_reducible repeat' first
    | assumption | rfl | split | apply raise_keeps | apply bump_keeps | intro _ | dsimp only | apply Keeps.set

theorem clearGn_keeps {z : State} (s : State) (hz : Keeps z s) :
    Keeps z (clearGn s) := by
  unfold clearGn
  with_reducible repeat' first | assumption | rfl | split | apply Keeps.set

theorem writeVeOut_keeps {z : State} (lc : Nat) (q : EngInst) (keys : List Nat) (rows : List (List W32)) (s : State)
    (hz : Keeps z s) :
    Keeps z (writeVeOut lc q keys rows s) := by
  unfold writeVeOut
  with_reducible repeat' first
    | assumption | rfl | split | apply writeRow_keeps | apply haccFromVector_keeps | apply Keeps.foldl | intro _
    | dsimp only | apply Keeps.set

theorem writeRed_keeps {z : State} (lc : Nat) (q : EngInst) (rows : List (List W32)) (s : State) (hz : Keeps z s) :
    Keeps z (writeRed lc q rows s) := by
  unfold writeRed
  with_reducible repeat' first
    | assumption | rfl | split | apply coreWrite_keeps | apply Keeps.foldl | intro _ | dsimp only | apply Keeps.set

theorem countOor_keeps {z : State} (lc : Nat) (q : EngInst) (p : PassIn) (s : State) (hz : Keeps z s) :
    Keeps z (countOor lc q p s) := by
  unfold countOor
  with_reducible repeat' first
    | assumption | rfl | split | apply raiseAll_keeps | apply bump_keeps | intro _ | dsimp only | apply Keeps.set

theorem passS_keeps {z : State} (lc : Nat) (q : EngInst) (s : State) (hz : Keeps z s) :
    Keeps z (passS lc q s) := by
  unfold passS
  with_reducible repeat' first
    | assumption | rfl | split | apply readKeys_keeps | apply readStream_keeps | apply readIndices_keeps
    | apply countOor_keeps | apply writeRed_keeps | apply writeVeOut_keeps | apply addGn_keeps | apply bump_keeps
    | dsimp only | apply Keeps.set

theorem moveS_keeps {z : State} (lc : Nat) (q : EngInst) (s : State) (hz : Keeps z s) :
    Keeps z (moveS lc q s) := by
  unfold moveS
  with_reducible repeat' first
    | assumption | rfl | split | apply coreRead_keeps | apply smear_keeps | apply coreCopy_keeps | apply bump_keeps
    | apply Keeps.foldl | intro _ | dsimp only | apply Keeps.set

theorem wakeVector_keeps {z : State} (lc : Nat) (s : State) (hz : Keeps z s) :
    Keeps z (wakeVector lc s) := by
  unfold wakeVector
  with_reducible repeat' first
    | assumption | rfl | split | apply freeWait_keeps | apply vopS_keeps | apply Keeps.foldl | intro _ | dsimp only
    | apply Keeps.set

theorem veFinish_keeps {z : State} (lc busy drain wait : Nat) (q : EngInst) (rest : List EngInst) (s : State)
    (hz : Keeps z s) :
    Keeps z (veFinish lc busy drain wait q rest s) := by
  unfold veFinish
  with_reducible repeat' first
    | assumption | rfl | split | apply moveS_keeps | apply passS_keeps | apply setEngine_keeps | apply bump_keeps
    | apply finishEnding_keeps | apply wakeVector_keeps | apply veStart_keeps | dsimp only | apply Keeps.set

theorem veRetireS_keeps {z : State} (lc busy drain wait : Nat) (s : State) (hz : Keeps z s) :
    Keeps z (veRetireS lc busy drain wait s) := by
  unfold veRetireS
  with_reducible repeat' first | assumption | rfl | split | apply veFinish_keeps | apply Keeps.set

theorem veWaitS_keeps {z : State} (lc x : Nat) (s : State) (hz : Keeps z s) :
    Keeps z (veWaitS lc x s) := by
  unfold veWaitS
  with_reducible repeat' first | assumption | rfl | split | apply setCtx_keeps | dsimp only | apply Keeps.set

theorem setClip_keeps {z : State} (w : W32) (s : State) (hz : Keeps z s) :
    Keeps z (setClip w s) := by
  unfold setClip
  with_reducible repeat' first | assumption | rfl | split | intro _ | apply Keeps.set

theorem applyGn_keeps {z : State} (total : W64) (bad : Bool) (s : State) (hz : Keeps z s) :
    Keeps z (applyGn total bad s) := by
  unfold applyGn
  with_reducible repeat' first
    | assumption | rfl | split | apply setClip_keeps | apply raise_keeps | apply bump_keeps | apply endColl_keeps
    | apply Keeps.foldl | intro _ | dsimp only | apply Keeps.set

theorem gnResultTake_keeps {z : State} (total : W64) (count : Nat) (bad : Bool) (s : State) (hz : Keeps z s) :
    Keeps z (gnResultTake total count bad s) := by
  unfold gnResultTake
  with_reducible repeat' first
    | assumption | rfl | split | apply sendPlain_keeps | apply applyGn_keeps | apply Keeps.foldl | intro _
    | dsimp only | apply Keeps.set

theorem closeGn_keeps {z : State} (s : State) (hz : Keeps z s) :
    Keeps z (closeGn s) := by
  unfold closeGn
  with_reducible repeat' first
    | assumption | rfl | split | apply bump_keeps | apply gnResultTake_keeps | apply Keeps.foldl | intro _
    | dsimp only | apply Keeps.set

theorem gnPartialTake_keeps {z : State} (p : Nat) (x : W64) (bad : Bool) (s : State) (hz : Keeps z s) :
    Keeps z (gnPartialTake p x bad s) := by
  unfold gnPartialTake
  with_reducible repeat' first
    | assumption | rfl | split | apply closeGn_keeps | intro _ | dsimp only | apply Keeps.set

theorem missGn_keeps {z : State} (s : State) (hz : Keeps z s) :
    Keeps z (missGn s) := by
  unfold missGn
  with_reducible repeat' first
    | assumption | rfl | split | apply setClip_keeps | apply endColl_keeps | apply raise_keeps | apply bump_keeps
    | apply Keeps.foldl | intro _ | dsimp only | apply Keeps.set

theorem gnormS_keeps {z : State} (d : Nat) (s : State) (hz : Keeps z s) :
    Keeps z (gnormS d s) := by
  unfold gnormS
  with_reducible repeat' first
    | assumption | rfl | split | apply endColl_keeps | apply badDesc_keeps | apply updColl_keeps
    | apply gnPartialTake_keeps | apply sendPlain_keeps | apply applyGn_keeps | apply missGn_keeps | intro _
    | dsimp only | apply Keeps.set

theorem gnRootCloseS_keeps {z : State} (s : State) (hz : Keeps z s) :
    Keeps z (gnRootCloseS s) := by
  unfold gnRootCloseS
  with_reducible repeat' first
    | assumption | rfl | split | apply closeGn_keeps | apply reachTime_keeps | apply Keeps.set

theorem clearNorm_keeps {z : State} (s : State) (hz : Keeps z s) :
    Keeps z (clearNorm s) := by
  unfold clearNorm
  with_reducible repeat' first | assumption | rfl | split | apply clearGn_keeps | apply Keeps.set

theorem freeWords_keeps {z : State} (a0 : Nat) (a1 : State) (hz : Keeps z a1) :
    Keeps z (freeWords a0 a1).2 := by
  induction a0 generalizing a1 with
  | zero => exact hz
  | succ n ih =>
    unfold freeWords
    dsimp only
    exact ih _ (freeVal_keeps _ _ hz)

theorem scrambleAcc_keeps {z : State} (e r : Nat) (s : State) (hz : Keeps z s) :
    Keeps z (scrambleAcc e r s) := by
  unfold scrambleAcc
  with_reducible repeat' first
    | assumption | rfl | split | apply freeWords_keeps | apply freeVal_keeps | apply setEngine_keeps | dsimp only
    | apply Keeps.set

theorem retireVoid_keeps {z : State} (e : Nat) (i : EngInst) (s : State) (hz : Keeps z s) :
    Keeps z (retireVoid e i s) := by
  unfold retireVoid
  with_reducible repeat' first
    | assumption | rfl | split | apply bump_keeps | apply countRetired_keeps | dsimp only | apply Keeps.set

theorem retireAll_keeps {z : State} (s : State) (hz : Keeps z s) :
    Keeps z (retireAll s) := by
  unfold retireAll
  with_reducible repeat' first
    | assumption | rfl | split | apply retireVoid_keeps | apply Keeps.foldl | intro _ | dsimp only | apply Keeps.set

theorem abandonEngines_keeps {z : State} (s : State) (hz : Keeps z s) :
    Keeps z (abandonEngines s) := by
  unfold abandonEngines
  with_reducible repeat' first
    | assumption | rfl | split | apply retireAll_keeps | apply scrambleAcc_keeps | apply Keeps.foldl | intro _
    | dsimp only | apply Keeps.set

theorem abandonPend_keeps {z : State} (s : State) (hz : Keeps z s) :
    Keeps z (abandonPend s) := by
  unfold abandonPend
  with_reducible repeat' first
    | assumption | rfl | split | apply dropWaiting_keeps | intro _ | dsimp only | apply Keeps.set

theorem abandonStep_keeps {z : State} (s : State) (hz : Keeps z s) :
    Keeps z (abandonStep s) := by
  unfold abandonStep
  with_reducible repeat' first
    | assumption | rfl | split | apply clearGn_keeps | apply abandonEngines_keeps | apply scrambleWritten_keeps
    | apply abandonPend_keeps | apply abandonDispatch_keeps | apply Keeps.set

theorem enterQuarantine_keeps {z : State} (s : State) (hz : Keeps z s) :
    Keeps z (enterQuarantine s) := by
  unfold enterQuarantine
  with_reducible repeat' first
    | assumption | rfl | split | apply raise_keeps | apply answerWaiting_keeps | apply setDevHw_keeps
    | apply flushAllStaging_keeps | apply abandonStep_keeps | apply Keeps.set

theorem passOn_keeps {z : State} (o : Nat) (i : Instr) (h : Hdr) (s : State) (hz : Keeps z s) :
    Keeps z (passOn o i h s) := by
  unfold passOn
  with_reducible repeat' first
    | assumption | rfl | split | apply routeFrom_keeps | apply sendPlain_keeps | dsimp only | apply Keeps.set

theorem receive_keeps {z : State} (i : Instr) (f : Hdr → State → State) (s : State)
    (hf : ∀ x0 t, Keeps z t → Keeps z (f x0 t)) (hz : Keeps z s) :
    Keeps z (receive i f s) := by
  unfold receive
  with_reducible repeat' first
    | assumption | rfl | split | apply hf | apply returnCredits_keeps | apply bump_keeps | apply badPacketS_keeps
    | apply passOn_keeps | apply Keeps.set

theorem keepReplica_keeps {z : State} (d p a : Nat) (data : List Byte) (marks : List Bool) (s : State)
    (hz : Keeps z s) :
    Keeps z (keepReplica d p a data marks s) := by
  unfold keepReplica
  with_reducible repeat' first | assumption | rfl | split | apply bump_keeps | dsimp only | apply Keeps.set

theorem takeData_keeps {z : State} (p : Pend) (hot : Bool) (marks : List Bool) (d : List Byte) (s : State) (hz : Keeps z s) :
    Keeps z (takeData p hot marks d s) := by
  unfold takeData
  split
  · dsimp only
    refine landRead_keeps _ _ _ _ _ (dropPend_keeps _ _ ?_)
    split
    · exact keepReplica_keeps _ _ _ _ _ _ hz
    · exact hz
  · split
    · exact dropPend_keeps _ _ hz
    · dsimp only
      refine closeFunc_keeps _ _ (landGatherRow_keeps _ _ _ _ _ _ (dropPend_keeps _ _ ?_))
      split
      · exact keepReplica_keeps _ _ _ _ _ _ hz
      · exact hz
  · exact hz

theorem recvPoolData_keeps {z : State} (h : Hdr) (hot : Bool) (poison : Nat) (d : List Byte) (s : State)
    (hz : Keeps z s) :
    Keeps z (recvPoolData h hot poison d s) := by
  unfold recvPoolData
  with_reducible repeat' first | assumption | rfl | split | apply takeData_keeps | intro _ | apply Keeps.set

theorem failRequest_keeps {z : State} (p : Pend) (reason : Nat) (s : State) (hz : Keeps z s) :
    Keeps z (failRequest p reason s) := by
  unfold failRequest
  split
  · split
    · exact badRead_keeps _ _ _ _ (dropReads_keeps _ _ hz)
    · exact failRead_keeps _ _ hz
  · exact closeFunc_keeps _ _ (dropGatherRow_keeps _ _ _ _ (dropPend_keeps _ _ hz))
  · exact refuseWrite_keeps _ _ _ hz
  · exact refuseWrite_keeps _ _ _ hz
  · exact errTo_keeps _ _ _ (dropPend_keeps _ _ hz)
  · exact refuseMig_keeps _ _ _ (dropPend_keeps _ _ hz)
  · exact dropPend_keeps _ _ hz
  · exact hz

theorem recvPoolErr_keeps {z : State} (h : Hdr) (reason epoch : Nat) (s : State) (hz : Keeps z s) :
    Keeps z (recvPoolErr h reason epoch s) := by
  unfold recvPoolErr
  with_reducible repeat' first
    | assumption | rfl | split | apply enterQuarantine_keeps | apply failRequest_keeps | apply Keeps.set

theorem routeAgain_keeps {z : State} (o : Nat) (i : Instr) (s : State) (hz : Keeps z s) :
    Keeps z (routeAgain o i s) := by
  unfold routeAgain
  with_reducible repeat' first
    | assumption | rfl | split | apply passOn_keeps | apply routeFrom_keeps | apply failRequest_keeps | dsimp only
    | apply Keeps.set

theorem releaseCrossing_keeps {z : State} (s : State) (hz : Keeps z s) :
    Keeps z (releaseCrossing s) := by
  unfold releaseCrossing
  with_reducible repeat' first
    | assumption | rfl | split | apply routeAgain_keeps | apply Keeps.foldl | intro _ | dsimp only | apply Keeps.set

theorem recvPoolAck_keeps {z : State} (h : Hdr) (status : Nat) (s : State) (hz : Keeps z s) :
    Keeps z (recvPoolAck h status s) := by
  unfold recvPoolAck
  with_reducible repeat' first | assumption | rfl | split | apply ackTo_keeps | apply dropPend_keeps | apply Keeps.set

theorem splitRead_keeps {z : State} (p : Pend) (r : Requester) (g : Nat) (l : List (Nat × Nat)) (s : State)
    (hz : Keeps z s) :
    Keeps z (splitRead p r g l s) := by
  unfold splitRead
  with_reducible repeat' first
    | assumption | rfl | split | apply setReply_keeps | apply dropPend_keeps | apply sendReq_keeps
    | apply remoteReadFail_keeps | apply Keeps.foldl | intro _ | dsimp only | apply Keeps.set

theorem resendRead_keeps {z : State} (p : Pend) (t row off n home slot : Nat) (tb : Table) (s : State) (hz : Keeps z s) :
    Keeps z (resendRead p t row off n home slot tb s) := by
  unfold resendRead
  extract_lets layout
  split
  · split
    · next a _ =>
      have k := poolReadAt_keeps home (a + off) (n * 32) s hz
      split
      · next h => rw [h] at k; exact takeData_keeps _ _ _ _ _ k
      · next h => rw [h] at k; exact failRequest_keeps _ _ _ k
    · exact failRequest_keeps _ _ _ hz
  · split
    · exact failRequest_keeps _ _ _ hz
    · split
      · exact sendPacket_keeps _ _ (Keeps.set hz rfl rfl rfl rfl rfl rfl rfl rfl)
      · exact failRequest_keeps _ _ _ (sendPacket_keeps _ _ (Keeps.set hz rfl rfl rfl rfl rfl rfl rfl rfl))

theorem resendDemand_keeps {z : State} (p : Pend) (r : Requester) (g n home slot : Nat) (s : State) (hz : Keeps z s) :
    Keeps z (resendDemand p r g n home slot s) := by
  unfold resendDemand
  with_reducible repeat' first
    | assumption | rfl | split | apply failRequest_keeps | apply splitRead_keeps | apply resendRead_keeps
    | dsimp only | apply Keeps.set

theorem recvPoolFwd_keeps {z : State} (h : Hdr) (home slot : Nat) (s : State) (hz : Keeps z s) :
    Keeps z (recvPoolFwd h home slot s) := by
  unfold recvPoolFwd
  have f := fun p c => failRequest_keeps p c s hz
  split
  · exact hz
  · split
    · exact resendDemand_keeps _ _ _ _ _ _ _ hz
    · split
      · exact f _ _
      · split
        · exact resendRead_keeps _ _ _ _ _ _ _ _ _ hz
        · exact f _ _
    · exact f _ _

theorem perform_keeps {z : State} (i : Instr) (s : State) (hz : Keeps z s) :
    Keeps z (perform i s) := by
  unfold perform
  with_reducible repeat' first
    | assumption | rfl | split | apply servePoolRead_keeps | apply recvPoolData_keeps | apply stageWrite_keeps
    | apply recvRowUpdate_keeps | apply recvPoolAck_keeps | apply recvPoolFwd_keeps | apply recvPoolErr_keeps
    | apply recvSlotRequest_keeps | apply recvSlotGrant_keeps | apply recvSlotRefusal_keeps | apply recvRowCopy_keeps
    | apply recvDirChange_keeps | apply recvForwarded_keeps | apply recvContrib_keeps | apply recvRdAck_keeps
    | apply sigUpTake_keeps | apply sigDownTake_keeps | apply gnPartialTake_keeps | apply gnResultTake_keeps
    | apply Keeps.set

theorem handle_keeps {z : State} (i : Instr) (s : State) (hz : Keeps z s) :
    Keeps z (handle i s) := by
  unfold handle
  with_reducible repeat' first | assumption | rfl | split | apply orHold_keeps | apply perform_keeps | apply Keeps.set

theorem holdStep_keeps {z : State} (i : Instr) (s : State) (hz : Keeps z s) :
    Keeps z (holdStep i s) := by
  unfold holdStep
  with_reducible repeat' first | assumption | rfl | split | apply Keeps.set

theorem judgeStep_keeps {z : State} (i : Instr) (h : Hdr) (s : State) (hz : Keeps z s) :
    Keeps z (judgeStep i h s) := by
  unfold judgeStep
  with_reducible repeat' first
    | assumption | rfl | split | apply raise_keeps | apply bump_keeps | apply handle_keeps | apply holdStep_keeps
    | dsimp only | apply Keeps.set

theorem judgeEpoch_keeps {z : State} (t : Nat) (i : Instr) (h : Hdr) (s : State) (hz : Keeps z s) :
    Keeps z (judgeEpoch t i h s) := by
  unfold judgeEpoch
  with_reducible repeat' first
    | assumption | rfl | split | apply bump_keeps | apply sendPlain_keeps | apply judgeStep_keeps
    | apply digest_keeps | dsimp only | apply Keeps.set

theorem takePacket_keeps {z : State} (i : Instr) (s : State) (hz : Keeps z s) :
    Keeps z (takePacket i s) := by
  unfold takePacket
  with_reducible repeat' first
    | assumption | rfl | split | apply receive_keeps | apply judgeEpoch_keeps | intro _ | apply Keeps.set

theorem takeLine_keeps {z : State} (i : Instr) (s : State) (hz : Keeps z s) :
    Keeps z (takeLine i s) := by
  unfold takeLine
  with_reducible repeat' first
    | assumption | rfl | split | apply receive_keeps | apply bump_keeps | apply judgeStep_keeps | intro _
    | apply Keeps.set

theorem takeNorm_keeps {z : State} (i : Instr) (s : State) (hz : Keeps z s) :
    Keeps z (takeNorm i s) := by
  unfold takeNorm
  with_reducible repeat' first
    | assumption | rfl | split | apply receive_keeps | apply judgeStep_keeps | intro _ | apply Keeps.set

theorem releaseEpoch_keeps {z : State} (s : State) (hz : Keeps z s) :
    Keeps z (releaseEpoch s) := by
  unfold releaseEpoch
  with_reducible repeat' first
    | assumption | rfl | split | apply judgeEpoch_keeps | apply Keeps.foldl | intro _ | dsimp only | apply Keeps.set

theorem rejudge_keeps {z : State} (s : State) (i : Instr) (hz : Keeps z s) :
    Keeps z (rejudge s i) := by
  unfold rejudge
  with_reducible repeat' first | assumption | rfl | split | apply judgeStep_keeps | apply Keeps.set

theorem retryWaiting_keeps {z : State} (s : State) (hz : Keeps z s) :
    Keeps z (retryWaiting s) := by
  unfold retryWaiting
  with_reducible repeat' first
    | assumption | rfl | split | apply rejudge_keeps | apply runAccess_keeps | apply Keeps.foldl | intro _
    | apply Keeps.set

theorem releaseStep_keeps {z : State} (s : State) (hz : Keeps z s) :
    Keeps z (releaseStep s) := by
  unfold releaseStep
  with_reducible repeat' first
    | assumption | rfl | split | apply rejudge_keeps | apply Keeps.foldl | dsimp only | apply Keeps.set

theorem futureEpochS_keeps {z : State} (tag : Nat) (s : State) (hz : Keeps z s) :
    Keeps z (futureEpochS tag s) := by
  unfold futureEpochS
  with_reducible repeat' first
    | assumption | rfl | split | apply reachTime_keeps | apply enterQuarantine_keeps | apply bump_keeps | intro _
    | dsimp only | apply Keeps.set

theorem reserveWays_keeps {z : State} (s : State) (hz : Keeps z s) :
    Keeps z (reserveWays s) := by
  unfold reserveWays
  with_reducible repeat' first | assumption | rfl | split | dsimp only | apply Keeps.set

theorem initRows_keeps {z : State} (p : List Byte) (base n : Nat) (s : State) (hz : Keeps z s) :
    Keeps z (initRows p base n s) := by
  unfold initRows
  with_reducible repeat' first
    | assumption | rfl | split | apply putBytes_keeps | apply Keeps.foldl | intro _ | apply Keeps.set

theorem tableRegion_keeps {z : State} {p : List Byte} {s t : State} {i : Option Nat} (hz : Keeps z s)
    (h : tableRegion p s = some (i, t)) : Keeps z t := by
  unfold tableRegion at h
  dsimp only at h
  split at h
  · simp only [Option.some.injEq, Prod.mk.injEq] at h
    exact h.2 ▸ hz
  · split at h
    · next e =>
      simp only [Option.some.injEq, Prod.mk.injEq] at h
      exact h.2 ▸ initRows_keeps _ _ _ _ (createRegion_keeps hz e)
    · simp at h

theorem embCreate_keeps {z : State} (p : List Byte) (s : State) (hz : Keeps z s) :
    Keeps z (embCreate p s).1 := by
  unfold embCreate
  dsimp only
  repeat' first | with_reducible assumption | split
  next h =>
    dsimp only
    exact raise_keeps _ _ _ _ (reserveWays_keeps _ (setTable_keeps _ _ _ (tableRegion_keeps hz h)))

theorem embDestroy_keeps {z : State} (p : List Byte) (s : State) (hz : Keeps z s) :
    Keeps z (embDestroy p s).1 := by
  unfold embDestroy
  with_reducible repeat' first
    | assumption | rfl | split | apply unbind_keeps | apply destroyRegion_keeps | apply raise_keeps
    | apply reserveWays_keeps | apply Keeps.foldl | intro _ | dsimp only | apply Keeps.set

theorem embWriteRows_keeps {z : State} (p : List Byte) (s : State) (hz : Keeps z s) :
    Keeps z (embWriteRows p s).1 := by
  unfold embWriteRows
  with_reducible repeat' first
    | assumption | rfl | split | apply commitTable_keeps | apply homeWrite_keeps | apply Keeps.foldl | intro _
    | dsimp only | apply Keeps.set

theorem rowEntry_keeps {z : State} (tb : Table) (acc : List Byte × State) (r : Nat) (hz : Keeps z acc.2) :
    Keeps z (rowEntry tb acc r).2 := by
  unfold rowEntry
  split
  · exact hz
  · exact homeRead_keeps _ _ _ _ hz

theorem embReadRows_keeps {z : State} (p : List Byte) (s : State) (hz : Keeps z s) :
    Keeps z (embReadRows p s).1 := by
  unfold embReadRows
  extract_lets t
  split
  · exact hz
  · extract_lets n
    split
    · exact hz
    · split
      · exact hz
      · exact Keeps.foldl2 (commitTable_keeps _ _ hz) (fun a b k => rowEntry_keeps _ _ _ k)

theorem embSetHyper_keeps {z : State} (p : List Byte) (s : State) (hz : Keeps z s) :
    Keeps z (embSetHyper p s).1 := by
  unfold embSetHyper
  with_reducible repeat' first
    | assumption | rfl | split | apply setTable_keeps | intro _ | dsimp only | apply Keeps.set

theorem embMigrate_keeps {z : State} (p : List Byte) (s : State) (hz : Keeps z s) :
    Keeps z (embMigrate p s).1 := by
  unfold embMigrate
  with_reducible repeat' first | assumption | rfl | split | apply setTable_keeps | dsimp only | apply Keeps.set

theorem allocMirrors_keeps {z : State} {p : Nat} {l : List (Option Nat × Nat)} {s t : State} (hz : Keeps z s)
    (h : allocMirrors p l s = some t) : Keeps z t := by
  induction l generalizing s with
  | nil =>
    simp only [allocMirrors, Option.some.injEq] at h
    exact h ▸ hz
  | cons e l ih =>
    obtain ⟨a, n⟩ := e
    simp only [allocMirrors] at h
    split at h
    · simp at h
    · next e2 =>
      have k := createRegion_keeps hz e2
      refine ih ?_ h
      exact Keeps.set k rfl rfl rfl rfl rfl rfl rfl rfl

theorem startMirrors_keeps {z : State} {s t : State} (hz : Keeps z s) (h : startMirrors s = some t) : Keeps z t := by
  unfold startMirrors at h
  split at h
  · simp only [Option.some.injEq] at h
    exact h ▸ hz
  · split at h
    · simp only [Option.some.injEq] at h
      exact h ▸ hz
    · split at h
      · exact allocMirrors_keeps hz h
      · simp only [Option.some.injEq] at h
        exact h ▸ hz

theorem sendMirror_keeps {z : State} (s : State) (hz : Keeps z s) :
    Keeps z (sendMirror s) := by
  unfold sendMirror
  with_reducible repeat' first
    | assumption | rfl | split | apply sendReq_keeps | apply bump_keeps | apply Keeps.foldl | intro _ | dsimp only
    | apply Keeps.set

theorem mirrorCommit_keeps {z : State} (s : State) (hz : Keeps z s) :
    Keeps z (mirrorCommit s) := by
  unfold mirrorCommit
  with_reducible repeat' first
    | assumption | rfl | split | apply sendMirror_keeps | apply commitAllRows_keeps | apply Keeps.set

theorem heirRegion_keeps {z : State} (tb : Table) (p : Nat) (s : State) (hz : Keeps z s) :
    Keeps z (heirRegion tb p s).2 := by
  unfold heirRegion
  dsimp only
  repeat' first | with_reducible assumption | split
  next h => exact initRows_keeps _ _ _ _ (createRegion_keeps hz h)

theorem tableHeir_keeps {z : State} (p sub : Nat) (fresh : Bool) (s : State) (t : Nat) (hz : Keeps z s) :
    Keeps z (tableHeir p sub fresh s t) := by
  unfold tableHeir
  with_reducible repeat' first
    | assumption | rfl | split | apply heirRegion_keeps | apply setTable_keeps | intro _ | dsimp only
    | apply Keeps.set

theorem tablesHeir_keeps {z : State} (p sub : Nat) (fresh : Bool) (s : State) (hz : Keeps z s) :
    Keeps z (tablesHeir p sub fresh s) := by
  unfold tablesHeir
  with_reducible repeat' first
    | assumption | rfl | split | apply tableHeir_keeps | apply Keeps.foldl | apply Keeps.set

theorem setSubst_keeps {z : State} (q : Nat) (x : Subst) (s : State) (hz : Keeps z s) :
    Keeps z (setSubst q x s) := by
  unfold setSubst
  with_reducible repeat' first | assumption | rfl | split | intro _ | apply Keeps.set

theorem declareDead_keeps {z : State} (left : List Nat) (s : State) (p : Nat) (hz : Keeps z s) :
    Keeps z (declareDead left s p) := by
  unfold declareDead
  with_reducible repeat' first
    | assumption | rfl | split | apply raise_keeps | apply bump_keeps | apply tablesHeir_keeps | apply setSubst_keeps
    | apply Keeps.foldl | intro _ | dsimp only | apply Keeps.set

theorem countLeft_keeps {z : State} (left : List Nat) (s : State) (hz : Keeps z s) :
    Keeps z (countLeft left s) := by
  unfold countLeft
  with_reducible repeat' first | assumption | rfl | split | apply Keeps.foldl | intro _ | dsimp only | apply Keeps.set

theorem declareAll_keeps {z : State} (left : List Nat) (former : Option Nat) (s : State) (hz : Keeps z s) :
    Keeps z (declareAll left former s) := by
  unfold declareAll
  with_reducible repeat' first
    | assumption | rfl | split | apply countLeft_keeps | apply declareDead_keeps | apply Keeps.foldl | intro _
    | dsimp only | apply Keeps.set

theorem joinSpare_keeps {z : State} (s : State) (x : Subst) (hz : Keeps z s) :
    Keeps z (joinSpare s x) := by
  unfold joinSpare
  with_reducible repeat' first
    | assumption | rfl | split | apply setSubst_keeps | apply raise_keeps | apply bump_keeps | intro _ | dsimp only
    | apply Keeps.set

theorem joinSpares_keeps {z : State} (s : State) (hz : Keeps z s) :
    Keeps z (joinSpares s) := by
  unfold joinSpares
  with_reducible repeat' first
    | assumption | rfl | split | apply joinSpare_keeps | apply Keeps.foldl | apply Keeps.set

theorem fillRegion_keeps {z : State} (s : State) (id : Nat) (hz : Keeps z s) :
    Keeps z (fillRegion s id) := by
  unfold fillRegion
  with_reducible repeat' first
    | assumption | rfl | split | apply freeBytes_keeps | apply putBytes_keeps | dsimp only | apply Keeps.set

theorem spareRebuilt_keeps {z : State} (dead : Nat) (s : State) (hz : Keeps z s) :
    Keeps z (spareRebuilt dead s) := by
  unfold spareRebuilt
  with_reducible repeat' first
    | assumption | rfl | split | apply setSubst_keeps | apply fillRegion_keeps | apply Keeps.foldl | intro _
    | dsimp only | apply Keeps.set

theorem endReplace_keeps {z : State} (s : State) (hz : Keeps z s) :
    Keeps z (endReplace s) := by
  unfold endReplace
  with_reducible repeat' first
    | assumption | rfl | split | apply destroyRegion_keeps | apply Keeps.foldl | intro _ | dsimp only
    | apply Keeps.set

theorem dropHeld_keeps {z : State} (p : Nat) (s : State) (hz : Keeps z s) :
    Keeps z (dropHeld p s) := by
  unfold dropHeld
  with_reducible repeat' first | assumption | rfl | split | apply Keeps.set

theorem chanDoneS_keeps {z : State} (p : Nat) (s : State) (hz : Keeps z s) :
    Keeps z (chanDoneS p s) := by
  unfold chanDoneS
  with_reducible repeat' first
    | assumption | rfl | split | apply finishAll_keeps | apply retryWaiting_keeps | apply setChan_keeps
    | apply dropHeld_keeps | apply Keeps.set

theorem discardChannel_keeps {z : State} (p : Nat) (s : State) (hz : Keeps z s) :
    Keeps z (discardChannel p s) := by
  unfold discardChannel
  with_reducible repeat' first
    | assumption | rfl | split | apply setDepot_keeps | apply bump_keeps | intro _ | dsimp only | apply Keeps.set

theorem chanTimeoutS_keeps {z : State} (p : Nat) (s : State) (hz : Keeps z s) :
    Keeps z (chanTimeoutS p s) := by
  unfold chanTimeoutS
  with_reducible repeat' first
    | assumption | rfl | split | apply setChan_keeps | apply discardChannel_keeps | apply reachTime_keeps
    | apply addSoft_keeps | apply finishAll_keeps | apply retryWaiting_keeps | apply raise_keeps | apply bump_keeps
    | dsimp only | apply Keeps.set

theorem rerouteAll_keeps {z : State} (q : Nat) (s : State) (hz : Keeps z s) :
    Keeps z (rerouteAll q s) := by
  unfold rerouteAll
  with_reducible repeat' first
    | assumption | rfl | split | apply routeAgain_keeps | apply emptyPort_keeps | apply Keeps.foldl | intro _
    | dsimp only | apply Keeps.set

theorem offerCredits_keeps {z : State} (q : Nat) (s : State) (hz : Keeps z s) :
    Keeps z (offerCredits q s) := by
  unfold offerCredits
  with_reducible repeat' first | assumption | rfl | split | apply setPort_keeps | apply Keeps.set

theorem tryUp_keeps {z : State} (q : Nat) (s : State) (hz : Keeps z s) :
    Keeps z (tryUp q s) := by
  unfold tryUp
  with_reducible repeat' first
    | assumption | rfl | split | apply enterPort_keeps | apply setPort_keeps | apply raiseAll_keeps
    | apply bump_keeps | apply pumpPort_keeps | apply resend_keeps | apply offerCredits_keeps | intro _ | dsimp only
    | apply Keeps.set

theorem portDown_keeps {z : State} (q reason : Nat) (counted : Bool) (s : State) (hz : Keeps z s) :
    Keeps z (portDown q reason counted s) := by
  unfold portDown
  with_reducible repeat' first
    | assumption | rfl | split | apply raise_keeps | apply bump_keeps | apply rerouteAll_keeps
    | apply enterPort_keeps | dsimp only | apply Keeps.set

theorem trainingDoneS_keeps {z : State} (q lanes : Nat) (s : State) (hz : Keeps z s) :
    Keeps z (trainingDoneS q lanes s) := by
  unfold trainingDoneS
  with_reducible repeat' first
    | assumption | rfl | split | apply tryUp_keeps | apply sendHello_keeps | apply setPort_keeps
    | apply portDown_keeps | dsimp only | apply Keeps.set

theorem helloMismatch_keeps {z : State} (q : Nat) (s : State) (hz : Keeps z s) :
    Keeps z (helloMismatch q s) := by
  unfold helloMismatch
  with_reducible repeat' first
    | assumption | rfl | split | apply raise_keeps | apply bump_keeps | apply rerouteAll_keeps
    | apply enterPort_keeps | dsimp only | apply Keeps.set

theorem helloS_keeps {z : State} (h : Hdr) (q : Nat) (coords : List Nat) (code dim : Nat) (plus portB : Bool)
    (nbrPort : Nat) (s : State) (hz : Keeps z s) :
    Keeps z (helloS h q coords code dim plus portB nbrPort s) := by
  unfold helloS
  with_reducible repeat' first
    | assumption | rfl | split | apply setPort_keeps | apply tryUp_keeps | apply helloMismatch_keeps | dsimp only
    | apply Keeps.set

theorem helloTimeoutS_keeps {z : State} (q : Nat) (s : State) (hz : Keeps z s) :
    Keeps z (helloTimeoutS q s) := by
  unfold helloTimeoutS
  with_reducible repeat' first
    | assumption | rfl | split | apply portDown_keeps | apply reachTime_keeps | dsimp only | apply Keeps.set

theorem laneFaultS_keeps {z : State} (q lanes : Nat) (s : State) (hz : Keeps z s) :
    Keeps z (laneFaultS q lanes s) := by
  unfold laneFaultS
  with_reducible repeat' first | assumption | rfl | split | apply startRetrain_keeps | dsimp only | apply Keeps.set

theorem retrainTimeoutS_keeps {z : State} (q : Nat) (s : State) (hz : Keeps z s) :
    Keeps z (retrainTimeoutS q s) := by
  unfold retrainTimeoutS
  with_reducible repeat' first
    | assumption | rfl | split | apply portDown_keeps | apply reachTime_keeps | dsimp only | apply Keeps.set

theorem recheckPort_keeps {z : State} (s : State) (q : Nat) (hz : Keeps z s) :
    Keeps z (recheckPort s q) := by
  unfold recheckPort
  with_reducible repeat' first
    | assumption | rfl | split | apply setPort_keeps | apply helloMismatch_keeps | dsimp only | apply Keeps.set

theorem lnkTopoSet_keeps {z : State} (p : List Byte) (s : State) (hz : Keeps z s) :
    Keeps z (lnkTopoSet p s).1 := by
  unfold lnkTopoSet
  with_reducible repeat' first
    | assumption | rfl | split | apply recheckPort_keeps | apply Keeps.foldl | dsimp only | apply Keeps.set

theorem lnkRetrain_keeps {z : State} (p : List Byte) (s : State) (hz : Keeps z s) :
    Keeps z (lnkRetrain p s).1 := by
  unfold lnkRetrain
  with_reducible repeat' first
    | assumption | rfl | split | apply startRetrain_keeps | apply startTraining_keeps | dsimp only | apply Keeps.set

end Sys2Proof.Machine
end

