-- ==== Sys2Proof/Laws/KeepsService.lean ====
section
/-! SUPPORT. What no command changes is kept by the operations over fencing, bring-up, identity, mailboxes and the timetable: one lemma per
function, which the proofs over every command cite instead of unfolding it. -/

namespace Sys2Proof.Machine

set_option linter.unusedTactic false
set_option linter.unreachableTactic false

theorem setCore_keeps {z : State} (key : Nat) (p : PhysCore) (s : State) (hz : Keeps z s) :
    Keeps z (setCore key p s) := by
  unfold setCore
  with_reducible repeat' first | assumption | rfl | split | apply Keeps.set

theorem putCapsule_keeps {z : State} (c : Capsule) (s : State) (hz : Keeps z s) :
    Keeps z (putCapsule c s) := by
  unfold putCapsule
  with_reducible repeat' first | assumption | rfl | split | intro _ | dsimp only | apply Keeps.set

theorem standOutputs_keeps {z : State} (c : Capsule) (v : TileValue) (s : State) (hz : Keeps z s) :
    Keeps z (standOutputs c v s) := by
  unfold standOutputs
  with_reducible repeat' first
    | assumption | rfl | split | apply setEngine_keeps | intro _ | dsimp only | apply Keeps.set

theorem settle_keeps {z : State} (c : Capsule) (v : TileValue) (s : State) (hz : Keeps z s) :
    Keeps z (settle c v s) := by
  unfold settle
  with_reducible repeat' first
    | assumption | rfl | split | apply standOutputs_keeps | apply putCapsule_keeps | intro _ | dsimp only
    | apply Keeps.set

theorem callNext_keeps {z : State} (c : Capsule) (s : State) (hz : Keeps z s) :
    Keeps z (callNext c s) := by
  unfold callNext
  with_reducible repeat' first
    | assumption | rfl | split | apply putCapsule_keeps | apply leaveUnsettled_keeps | apply Keeps.set

theorem judgeTile_keeps {z : State} (c : Capsule) (s : State) (hz : Keeps z s) :
    Keeps z (judgeTile c s) := by
  unfold judgeTile
  with_reducible repeat' first
    | assumption | rfl | split | apply settle_keeps | apply bump_keeps | apply callNext_keeps | apply raise_keeps
    | apply leaveUnsettled_keeps | apply putCapsule_keeps | intro _ | dsimp only | apply Keeps.set

theorem checkDoneS_keeps {z : State} (cap die k : Nat) (v : TileValue) (s : State) (hz : Keeps z s) :
    Keeps z (checkDoneS cap die k v s) := by
  unfold checkDoneS
  with_reducible repeat' first
    | assumption | rfl | split | apply judgeTile_keeps | apply bump_keeps | intro _ | apply Keeps.set

theorem fromCore_keeps {z : State} (die k : Nat) (f : State → State) (s : State) (hf : ∀ t, Keeps z t → Keeps z
    (f t)) (hz : Keeps z s) :
    Keeps z (fromCore die k f s) := by
  unfold fromCore
  with_reducible repeat' first | assumption | rfl | split | apply hf | apply bump_keeps | apply Keeps.set

theorem failPackage_keeps {z : State} (s : State) (hz : Keeps z s) :
    Keeps z (failPackage s) := by
  unfold failPackage
  with_reducible repeat' first | assumption | rfl | split | apply raise_keeps | apply Keeps.set

theorem stopCore_keeps {z : State} (lc : Nat) (s : State) (hz : Keeps z s) :
    Keeps z (stopCore lc s) := by
  unfold stopCore
  with_reducible repeat' first
    | assumption | rfl | split | apply dropStalls_keeps | apply setCtx_keeps | apply setEngine_keeps
    | apply Keeps.foldl | intro _ | dsimp only | apply Keeps.set

theorem guestRegion_keeps {z : State} (die : Nat) (s : State) (hz : Keeps z s) :
    Keeps z (guestRegion die s) := by
  unfold guestRegion
  split
  · next h =>
    have k := createRegion_keeps hz h
    repeat' first | with_reducible assumption | with_reducible rfl | with_reducible apply Keeps.set
  · exact hz

theorem moveCore_keeps {z : State} (die lc : Nat) (s : State) (hz : Keeps z s) :
    Keeps z (moveCore die lc s) := by
  unfold moveCore
  with_reducible repeat' first
    | assumption | rfl | split | apply bump_keeps | apply setCore_keeps | apply failPackage_keeps
    | apply guestRegion_keeps | dsimp only | apply Keeps.set

theorem dropCapsules_keeps {z : State} (die k : Nat) (s : State) (hz : Keeps z s) :
    Keeps z (dropCapsules die k s) := by
  unfold dropCapsules
  with_reducible repeat' first
    | assumption | rfl | split | apply callNext_keeps | apply Keeps.foldl | intro _ | dsimp only | apply Keeps.set

theorem fenceCore_keeps {z : State} (u : PhysUnit) (s : State) (hz : Keeps z s) :
    Keeps z (fenceCore u s) := by
  unfold fenceCore
  with_reducible repeat' first
    | assumption | rfl | split | apply addSoft_keeps | apply raise_keeps | apply bump_keeps | apply stopCore_keeps
    | apply forfeit_keeps | apply setCore_keeps | apply moveCore_keeps | apply dropCapsules_keeps | apply Keeps.foldl
    | intro _ | dsimp only | apply Keeps.set

theorem chargeTransient_keeps {z : State} (kind : Nat) (u : PhysUnit) (s : State) (hz : Keeps z s) :
    Keeps z (chargeTransient kind u s) := by
  unfold chargeTransient
  with_reducible repeat' first
    | assumption | rfl | split | apply addHistory_keeps | apply raise_keeps | apply bump_keeps
    | apply fenceCore_keeps | dsimp only | apply Keeps.set

theorem chargeUnit_keeps {z : State} (kind : Nat) (u : PhysUnit) (agrees : Bool) (s : State) (hz : Keeps z s) :
    Keeps z (chargeUnit kind u agrees s) := by
  unfold chargeUnit
  with_reducible repeat' first
    | assumption | rfl | split | apply chargeTransient_keeps | apply fenceCore_keeps | apply addHistory_keeps
    | apply Keeps.set

theorem retestS_keeps {z : State} (u : PhysUnit) (cap : Nat) (v : TileValue) (s : State) (hz : Keeps z s) :
    Keeps z (retestS u cap v s) := by
  unfold retestS
  with_reducible repeat' first
    | assumption | rfl | split | apply bump_keeps | apply putCapsule_keeps | apply chargeUnit_keeps | intro _
    | dsimp only | apply Keeps.set

theorem historyFlushS_keeps {z : State} (s : State) (hz : Keeps z s) :
    Keeps z (historyFlushS s) := by
  unfold historyFlushS
  with_reducible repeat' first | assumption | rfl | split | dsimp only | apply Keeps.set

theorem poisonCore_keeps {z : State} (lc a : Nat) (s : State) (hz : Keeps z s) :
    Keeps z (poisonCore lc a s) := by
  unfold poisonCore
  with_reducible repeat' first | assumption | rfl | split | apply markPoison_keeps | apply Keeps.set

theorem copyDoneS_keeps {z : State} (lc : Nat) (poisoned : List Nat) (s : State) (hz : Keeps z s) :
    Keeps z (copyDoneS lc poisoned s) := by
  unfold copyDoneS
  with_reducible repeat' first
    | assumption | rfl | split | apply poisonCore_keeps | apply Keeps.foldl | intro _ | dsimp only | apply Keeps.set

theorem beginTest_keeps {z : State} (seconds : Nat) (byCommand : Bool) (s : State) (hz : Keeps z s) :
    Keeps z (beginTest seconds byCommand s) := by
  unfold beginTest
  with_reducible repeat' first | assumption | rfl | split | dsimp only | apply Keeps.set

theorem autoTestS_keeps {z : State} (s : State) (hz : Keeps z s) :
    Keeps z (autoTestS s) := by
  unfold autoTestS
  with_reducible repeat' first
    | assumption | rfl | split | apply reachTime_keeps | apply beginTest_keeps | dsimp only | apply Keeps.set

theorem testEndS_keeps {z : State} (tiles : Nat) (charged : List (PhysUnit × Bool)) (s : State) (hz : Keeps z s) :
    Keeps z (testEndS tiles charged s) := by
  unfold testEndS
  with_reducible repeat' first
    | assumption | rfl | split | apply reachTime_keeps | apply bump_keeps | apply chargeUnit_keeps
    | apply raise_keeps | apply answerWaiting_keeps | apply Keeps.foldl | intro _ | dsimp only | apply Keeps.set

theorem chkConfig_keeps {z : State} (p : List Byte) (s : State) (hz : Keeps z s) :
    Keeps z (chkConfig p s).1 := by
  unfold chkConfig
  with_reducible repeat' first | assumption | rfl | split | dsimp only | apply Keeps.set

theorem sparesSet_keeps {z : State} (p : List Byte) (s : State) (hz : Keeps z s) :
    Keeps z (sparesSet p s).1 := by
  unfold sparesSet
  with_reducible repeat' first | assumption | rfl | split | intro _ | dsimp only | apply Keeps.set

theorem setCplDir_keeps {z : State} (key : Nat) (d : CplDir) (s : State) (hz : Keeps z s) :
    Keeps z (setCplDir key d s) := by
  unfold setCplDir
  with_reducible repeat' first | assumption | rfl | split | apply Keeps.set

theorem unitReceiveS_keeps {z : State} (c dir seq : Nat) (data : List Byte) (crcOk : Bool) (s : State)
    (hz : Keeps z s) :
    Keeps z (unitReceiveS c dir seq data crcOk s) := by
  unfold unitReceiveS
  with_reducible repeat' first
    | assumption | rfl | split | apply setCplDir_keeps | apply bump_keeps | dsimp only | apply Keeps.set

theorem cplLaneFaultS_keeps {z : State} (c : Nat) (s : State) (hz : Keeps z s) :
    Keeps z (cplLaneFaultS c s) := by
  unfold cplLaneFaultS
  with_reducible repeat' first
    | assumption | rfl | split | apply bump_keeps | apply setCplPhase_keeps | apply Keeps.set

theorem loseCoupling_keeps {z : State} (c : Nat) (s : State) (hz : Keeps z s) :
    Keeps z (loseCoupling c s) := by
  unfold loseCoupling
  with_reducible repeat' first
    | assumption | rfl | split | apply setCplPhase_keeps | apply failPackage_keeps | apply bump_keeps | dsimp only
    | apply Keeps.set

theorem cplDoneS_keeps {z : State} (c : Nat) (carries : Bool) (s : State) (hz : Keeps z s) :
    Keeps z (cplDoneS c carries s) := by
  unfold cplDoneS
  with_reducible repeat' first
    | assumption | rfl | split | apply finishAll_keeps | apply retryWaiting_keeps | apply releaseCrossing_keeps
    | apply setCplPhase_keeps | apply loseCoupling_keeps | apply Keeps.set

theorem drainDoneS_keeps {z : State} (c : Nat) (s : State) (hz : Keeps z s) :
    Keeps z (drainDoneS c s) := by
  unfold drainDoneS
  with_reducible repeat' first
    | assumption | rfl | split | apply setCplDir_keeps | apply finishAll_keeps | apply retryWaiting_keeps
    | apply releaseCrossing_keeps | intro _ | dsimp only | apply Keeps.set

theorem setBootHdr_keeps {z : State} (f : BootHdr → BootHdr) (s : State) (hz : Keeps z s) :
    Keeps z (setBootHdr f s) := by
  unfold setBootHdr
  with_reducible repeat' first | assumption | rfl | split | dsimp only | apply Keeps.set

theorem setEnrol_keeps {z : State} (e : Enrol) (s : State) (hz : Keeps z s) :
    Keeps z (setEnrol e s) := by
  unfold setEnrol
  with_reducible repeat' first | assumption | rfl | split | dsimp only | apply Keeps.set

theorem setFwSlot_keeps {z : State} (b : Bool) (f : FwSlot) (s : State) (hz : Keeps z s) :
    Keeps z (setFwSlot b f s) := by
  unfold setFwSlot
  with_reducible repeat' first | assumption | rfl | split | apply Keeps.set

theorem bootFirmware_keeps {z : State} (s : State) (hz : Keeps z s) :
    Keeps z (bootFirmware s) := by
  unfold bootFirmware
  with_reducible repeat' first | assumption | rfl | split | apply raise_keeps | dsimp only | apply Keeps.set

theorem fwOpenS_keeps {z : State} (n : Nat) (pldm : Bool) (s : State) (hz : Keeps z s) :
    Keeps z (fwOpenS n pldm s) := by
  unfold fwOpenS
  with_reducible repeat' first
    | assumption | rfl | split | apply setBootHdr_keeps | apply setFwSlot_keeps | dsimp only | apply Keeps.set

theorem fwOpen_keeps {z : State} (p : List Byte) (s : State) (hz : Keeps z s) :
    Keeps z (fwOpen p s).1 := by
  unfold fwOpen
  with_reducible repeat' first | assumption | rfl | split | apply fwOpenS_keeps | dsimp only | apply Keeps.set

theorem fwDataS_keeps {z : State} (off : Nat) (d : List Byte) (s : State) (hz : Keeps z s) :
    Keeps z (fwDataS off d s) := by
  unfold fwDataS
  with_reducible repeat' first | assumption | rfl | split | apply setFwSlot_keeps | dsimp only | apply Keeps.set

theorem fwData_keeps {z : State} (p : List Byte) (s : State) (hz : Keeps z s) :
    Keeps z (fwData p s).1 := by
  unfold fwData
  with_reducible repeat' first | assumption | rfl | split | apply fwDataS_keeps | dsimp only | apply Keeps.set

theorem fwCommitS_keeps {z : State} (size : Nat) (s : State) (hz : Keeps z s) :
    Keeps z (fwCommitS size s).1 := by
  unfold fwCommitS
  with_reducible repeat' first
    | assumption | rfl | split | apply setBootHdr_keeps | apply raise_keeps | apply bump_keeps | dsimp only
    | apply Keeps.set

theorem fwCommit_keeps {z : State} (a0 : List Byte) (s : State) (hz : Keeps z s) :
    Keeps z (fwCommit a0 s).1 := by
  unfold fwCommit
  split
  · next ses _ =>
    split
    · exact hz
    · have k := fwCommitS_keeps ses.imageBytes s hz
      dsimp only
      split <;> exact k
  · exact hz

theorem fwActivateS_keeps {z : State} (b : Bool) (s : State) (hz : Keeps z s) :
    Keeps z (fwActivateS b s) := by
  unfold fwActivateS
  with_reducible repeat' first
    | assumption | rfl | split | apply raise_keeps | apply setBootHdr_keeps | intro _ | apply Keeps.set

theorem deferReset_keeps {z : State} (mode : Nat) (s : State) (hz : Keeps z s) :
    Keeps z (deferReset mode s) := by
  unfold deferReset
  with_reducible repeat' first | assumption | rfl | split | apply Keeps.set

theorem deferOrphan_keeps {z : State} (src : CmdSrc) (mode : Nat) (s : State) (hz : Keeps z s) :
    Keeps z (deferOrphan src mode s) := by
  unfold deferOrphan
  with_reducible repeat' first | assumption | rfl | split | apply deferReset_keeps | apply Keeps.set

theorem fwActivate_keeps {z : State} (src : CmdSrc) (p : List Byte) (s : State) (hz : Keeps z s) :
    Keeps z (fwActivate src p s).1 := by
  unfold fwActivate
  with_reducible repeat' first
    | assumption | rfl | split | apply fwActivateS_keeps | apply deferOrphan_keeps | dsimp only | apply Keeps.set

theorem ownerEnroll_keeps {z : State} (p : List Byte) (s : State) (hz : Keeps z s) :
    Keeps z (ownerEnroll p s).1 := by
  unfold ownerEnroll
  with_reducible repeat' first
    | assumption | rfl | split | apply bump_keeps | apply setEnrol_keeps | apply raise_keeps | dsimp only
    | apply Keeps.set

theorem pkgAttest_keeps {z : State} (p : List Byte) (s : State) (hz : Keeps z s) :
    Keeps z (pkgAttest p s).1 := by
  unfold pkgAttest
  with_reducible repeat' first | assumption | rfl | split | apply bump_keeps | apply Keeps.set

theorem noteFound_keeps {z : State} (e : FaultEntry) (s : State) (hz : Keeps z s) :
    Keeps z (noteFound e s) := by
  unfold noteFound
  with_reducible repeat' first | assumption | rfl | split | apply addSoft_keeps | apply Keeps.set

theorem findCore_keeps {z : State} (d k : Nat) (s : State) (hz : Keeps z s) :
    Keeps z (findCore d k s) := by
  unfold findCore
  with_reducible repeat' first
    | assumption | rfl | split | apply noteFound_keeps | apply raise_keeps | apply bump_keeps | dsimp only
    | apply Keeps.set

theorem findChan_keeps {z : State} (p : Nat) (s : State) (hz : Keeps z s) :
    Keeps z (findChan p s) := by
  unfold findChan
  with_reducible repeat' first
    | assumption | rfl | split | apply noteFound_keeps | apply raise_keeps | apply bump_keeps | dsimp only
    | apply Keeps.set

theorem findRow_keeps {z : State} (kind d unitNo bank row : Nat) (spare : Bool) (s : State) (hz : Keeps z s) :
    Keeps z (findRow kind d unitNo bank row spare s) := by
  unfold findRow
  with_reducible repeat' first
    | assumption | rfl | split | apply noteFound_keeps | apply bump_keeps | dsimp only | apply Keeps.set

theorem findWay_keeps {z : State} (d way : Nat) (s : State) (hz : Keeps z s) :
    Keeps z (findWay d way s) := by
  unfold findWay
  with_reducible repeat' first | assumption | rfl | split | apply bump_keeps | apply noteFound_keeps | apply Keeps.set

theorem findStackRow_keeps {z : State} (p row : Nat) (s : State) (hz : Keeps z s) :
    Keeps z (findStackRow p row s) := by
  unfold findStackRow
  with_reducible repeat' first
    | assumption | rfl | split | apply bump_keeps | apply noteFound_keeps | apply findChan_keeps | dsimp only
    | apply Keeps.set

theorem findMarginal_keeps {z : State} (p : Nat) (s : State) (hz : Keeps z s) :
    Keeps z (findMarginal p s) := by
  unfold findMarginal
  with_reducible repeat' first
    | assumption | rfl | split | apply noteFound_keeps | apply raise_keeps | apply bump_keeps | dsimp only
    | apply Keeps.set

theorem discrepancy_keeps {z : State} (kind d unitNo sub src : Nat) (s : State) (hz : Keeps z s) :
    Keeps z (discrepancy kind d unitNo sub src s) := by
  unfold discrepancy
  split
  · dsimp only
    refine raise_keeps _ _ _ _ (bump_keeps _ _ _ _ ?_)
    refine ⟨hz.fuse, hz.pending, hz.now, hz.secret, hz.energy, softKept_trans hz.soft ?_, hz.clears, hz.mem, hz.apart⟩
    intro x hx
    refine ⟨_, List.mem_map_of_mem hx, ?_⟩
    split
    · simp [sameItem]
    · exact sameItem_refl x
  · exact hz

theorem crossMinority_keeps {z : State} (u : PhysUnit) (agrees : Bool) (s : State) (hz : Keeps z s) :
    Keeps z (crossMinority u agrees s) := by
  unfold crossMinority
  with_reducible repeat' first
    | assumption | rfl | split | apply chargeTransient_keeps | apply findCore_keeps | apply Keeps.set

theorem sramFinding_keeps {z : State} (f : Finding) (s : State) (hz : Keeps z s) :
    Keeps z (sramFinding f s) := by
  unfold sramFinding
  with_reducible repeat' first
    | assumption | rfl | split | apply findRow_keeps | apply findCore_keeps | apply findWay_keeps | dsimp only
    | apply Keeps.set

theorem coreFinding_keeps {z : State} (f : Finding) (s : State) (hz : Keeps z s) :
    Keeps z (coreFinding f s) := by
  unfold coreFinding
  with_reducible repeat' first
    | assumption | rfl | split | apply crossMinority_keeps | apply discrepancy_keeps | apply bump_keeps
    | apply Keeps.set

theorem memFinding_keeps {z : State} (f : Finding) (s : State) (hz : Keeps z s) :
    Keeps z (memFinding f s) := by
  unfold memFinding
  with_reducible repeat' first
    | assumption | rfl | split | apply findStackRow_keeps | apply findChan_keeps | apply findMarginal_keeps
    | apply discrepancy_keeps | apply Keeps.set

theorem applyFound_keeps {z : State} (phase : Nat) (s : State) (f : Finding) (hz : Keeps z s) :
    Keeps z (applyFound phase s f) := by
  unfold applyFound
  with_reducible repeat' first
    | assumption | rfl | split | apply sramFinding_keeps | apply coreFinding_keeps | apply memFinding_keeps
    | apply Keeps.set

theorem chooseMode_keeps {z : State} (s : State) (hz : Keeps z s) :
    Keeps z (chooseMode s) := by
  unfold chooseMode
  with_reducible repeat' first | assumption | rfl | split | apply raise_keeps | dsimp only | apply Keeps.set

theorem endStart_keeps {z : State} (found : List Finding) (s : State) (hz : Keeps z s) :
    Keeps z (endStart found s) := by
  unfold endStart
  with_reducible repeat' first
    | assumption | rfl | split | apply bootFirmware_keeps | apply trainAll_keeps | apply chooseMode_keeps
    | apply applyFound_keeps | apply Keeps.foldl | dsimp only | apply Keeps.set

theorem phaseDoneS_keeps {z : State} (found : List Finding) (s : State) (hz : Keeps z s) :
    Keeps z (phaseDoneS found s) := by
  unfold phaseDoneS
  with_reducible repeat' first
    | assumption | rfl | split | apply endStart_keeps | apply applyFound_keeps | apply Keeps.foldl | dsimp only
    | apply Keeps.set

theorem reconcile_keeps {z : State} (s : State) (hz : Keeps z s) :
    Keeps z (reconcile s) := by
  unfold reconcile
  with_reducible repeat' first | assumption | rfl | split | intro _ | dsimp only | apply Keeps.set

theorem recordFull_keeps {z : State} (s : State) (hz : Keeps z s) :
    Keeps z (recordFull s) := by
  unfold recordFull
  with_reducible repeat' first | assumption | rfl | split | apply Keeps.set

theorem assignCores_keeps {z : State} (m : Nat) (s : State) (hz : Keeps z s) :
    Keeps z (assignCores m s) := by
  unfold assignCores
  with_reducible repeat' first | assumption | rfl | split | intro _ | dsimp only | apply Keeps.set

theorem becomeReady_keeps {z : State} (m : Nat) (degraded : Bool) (s : State) (hz : Keeps z s) :
    Keeps z (becomeReady m degraded s) := by
  unfold becomeReady
  with_reducible repeat' first
    | assumption | rfl | split | apply assignCores_keeps | apply raise_keeps | dsimp only | apply Keeps.set

theorem becomeLimited_keeps {z : State} (why : Nat) (s : State) (hz : Keeps z s) :
    Keeps z (becomeLimited why s) := by
  unfold becomeLimited
  with_reducible repeat' first | assumption | rfl | split | apply raise_keeps | apply Keeps.set

theorem endBringup_keeps {z : State} (s : State) (hz : Keeps z s) :
    Keeps z (endBringup s) := by
  unfold endBringup
  with_reducible repeat' first | assumption | rfl | split | apply raise_keeps | dsimp only | apply Keeps.set

theorem countRejects_keeps {z : State} (s : State) (hz : Keeps z s) :
    Keeps z (countRejects s) := by
  unfold countRejects
  with_reducible repeat' first | assumption | rfl | split | apply bump_keeps | intro _ | dsimp only | apply Keeps.set

theorem decideS_keeps {z : State} (s : State) (hz : Keeps z s) :
    Keeps z (decideS s) := by
  unfold decideS
  with_reducible repeat' first
    | assumption | rfl | split | apply endBringup_keeps | apply recordFull_keeps | apply reconcile_keeps
    | apply countRejects_keeps | apply setDevHw_keeps | apply becomeReady_keeps | apply becomeLimited_keeps | intro _
    | dsimp only | apply Keeps.set

theorem brgStart_keeps {z : State} (src : CmdSrc) (p : List Byte) (s : State) (hz : Keeps z s) :
    Keeps z (brgStart src p s).1 := by
  unfold brgStart
  with_reducible repeat' first | assumption | rfl | split | apply deferOrphan_keeps | dsimp only | apply Keeps.set

theorem deferredS_keeps {z : State} (s : State) (hz : Keeps z s) :
    Keeps z (deferredS s) := by
  unfold deferredS
  with_reducible repeat' first
    | assumption | rfl | split | apply deviceReset_keeps | apply reachTime_keeps | apply Keeps.set

theorem allowDegraded_keeps {z : State} (p : List Byte) (s : State) (hz : Keeps z s) :
    Keeps z (allowDegraded p s).1 := by
  unfold allowDegraded
  with_reducible repeat' first
    | assumption | rfl | split | apply setDev_keeps | apply becomeReady_keeps | dsimp only | apply Keeps.set

theorem allowDegradedS_keeps {z : State} (src : CmdSrc) (s : State) (hz : Keeps z s) :
    Keeps z (allowDegradedS src s) := by
  unfold allowDegradedS
  with_reducible repeat' first
    | assumption | rfl | split | apply performNow_keeps | apply allowDegraded_keeps | apply Keeps.set

theorem updJob_keeps {z : State} (f : Job → Job) (s : State) (hz : Keeps z s) :
    Keeps z (updJob f s) := by
  unfold updJob
  with_reducible repeat' first | assumption | rfl | split | apply Keeps.set

theorem sendArrival_keeps {z : State} (j : Job) (s : State) (hz : Keeps z s) :
    Keeps z (sendArrival j s) := by
  unfold sendArrival
  with_reducible repeat' first
    | assumption | rfl | split | apply updJob_keeps | apply sendPlain_keeps | intro _ | apply Keeps.set

theorem markEnd_keeps {z : State} (s : State) (hz : Keeps z s) :
    Keeps z (markEnd s) := by
  unfold markEnd
  with_reducible repeat' first
    | assumption | rfl | split | apply updJob_keeps | apply sendArrival_keeps | intro _ | dsimp only
    | apply Keeps.set

theorem recordPhase_keeps {z : State} (m : DepMsg) (s : State) (hz : Keeps z s) :
    Keeps z (recordPhase m s) := by
  unfold recordPhase
  with_reducible repeat' first
    | assumption | rfl | split | apply forfeit_keeps | apply addPhase_keeps | apply sample_keeps | intro _
    | dsimp only | apply Keeps.set

theorem commitEnded_keeps {z : State} (left dead : List Nat) (s : State) (hz : Keeps z s) :
    Keeps z (commitEnded left dead s) := by
  unfold commitEnded
  with_reducible repeat' first
    | assumption | rfl | split | apply commitStep_keeps | apply migCommit_keeps | apply rdCommit_keeps
    | apply Keeps.foldl | intro _ | dsimp only | apply Keeps.set

theorem clearStep_keeps {z : State} (s : State) (hz : Keeps z s) :
    Keeps z (clearStep s) := by
  unfold clearStep
  with_reducible repeat' first
    | assumption | rfl | split | apply slotsDue_keeps | apply resetLines_keeps | apply clearNorm_keeps
    | apply flushAllStaging_keeps | dsimp only | apply Keeps.set

theorem dropOld_keeps {z : State} (n : Nat) (s : State) (hz : Keeps z s) :
    Keeps z (dropOld n s) := by
  unfold dropOld
  with_reducible repeat' first | assumption | rfl | split | intro _ | dsimp only | apply Keeps.set

theorem beginStep_keeps {z : State} (n : Nat) (s : State) (hz : Keeps z s) :
    Keeps z (beginStep n s) := by
  unfold beginStep
  with_reducible repeat' first
    | assumption | rfl | split | apply armAll_keeps | apply migDeparture_keeps | apply mirrorCommit_keeps
    | apply releaseStep_keeps | apply releaseEpoch_keeps | apply Keeps.foldl | intro _ | dsimp only | apply Keeps.set

theorem stopDispatch_keeps {z : State} (s : State) (hz : Keeps z s) :
    Keeps z (stopDispatch s) := by
  unfold stopDispatch
  with_reducible repeat' first | assumption | rfl | split | apply Keeps.set

theorem finishMigs_keeps {z : State} (s : State) (hz : Keeps z s) :
    Keeps z (finishMigs s) := by
  unfold finishMigs
  with_reducible repeat' first
    | assumption | rfl | split | apply migCommit_keeps | apply Keeps.foldl | intro _ | apply Keeps.set

theorem freeAreas_keeps {z : State} (s : State) (hz : Keeps z s) :
    Keeps z (freeAreas s) := by
  unfold freeAreas
  with_reducible repeat' first
    | assumption | rfl | split | apply destroyRegion_keeps | apply Keeps.foldl | intro _ | apply Keeps.set

theorem leaveJob_keeps {z : State} (s : State) (hz : Keeps z s) :
    Keeps z (leaveJob s) := by
  unfold leaveJob
  with_reducible repeat' first
    | assumption | rfl | split | apply freeAreas_keeps | apply endReplace_keeps | apply commitAllRows_keeps
    | apply stopDispatch_keeps | apply reserveWays_keeps | apply clearNorm_keeps | intro _ | dsimp only
    | apply Keeps.set

theorem endJob_keeps {z : State} (s : State) (hz : Keeps z s) :
    Keeps z (endJob s) := by
  unfold endJob
  with_reducible repeat' first
    | assumption | rfl | split | apply setDevHw_keeps | apply leaveJob_keeps | apply finishMigs_keeps
    | apply Keeps.set

theorem fireDeparture_keeps {z : State} (m : DepMsg) (s : State) (hz : Keeps z s) :
    Keeps z (fireDeparture m s) := by
  unfold fireDeparture
  split
  · exact hz
  · next j _ =>
    extract_lets own ended lost former s1 s2 held s3 s4 s5 gone s6 s7 dead s8 s9 s10
    have k1 : Keeps z s1 := bump_keeps _ _ _ _ (recordPhase_keeps _ _ hz)
    clear_value s1
    have k2 : Keeps z s2 := by
      show Keeps z (if lost = true then _ else _)
      split
      · exact bump_keeps _ _ _ _ k1
      · exact k1
    clear_value s2
    have k3 : Keeps z s3 := by
      show Keeps z (if held = true then _ else _)
      split
      · exact bump_keeps _ _ _ _ k2
      · exact k2
    clear_value s3
    have k4 : Keeps z s4 := sample_keeps _ _ _ _ k3
    clear_value s4
    have k5 : Keeps z s5 := by
      show Keeps z (if lost = true then _ else _)
      split
      · exact abandonStep_keeps _ k4
      · exact k4
    clear_value s5
    have k6 : Keeps z s6 := by
      show Keeps z (if ended = true then _ else _)
      split
      · exact promoteAll_keeps _ _ (commitEnded_keeps _ _ _ k5)
      · exact promoteAll_keeps _ _ k5
    clear_value s6
    have k7 : Keeps z s7 := declareAll_keeps _ _ _ (joinSpares_keeps _ (clearStep_keeps _ k6))
    clear_value s7
    have k8 : Keeps z s8 := dropOld_keeps _ _ (Keeps.set k7 rfl rfl rfl rfl rfl rfl rfl rfl)
    clear_value s8
    have k9 : Keeps z s9 := updJob_keeps _ _ k8
    clear_value s9
    have k10 : Keeps z s10 := by
      show Keeps z (if j.started = true then _ else _)
      split
      · exact k9
      · exact answerWaiting_keeps _ _ _ k9
    clear_value s10
    split
    · exact enterQuarantine_keeps _ k10
    · split
      · exact endJob_keeps _ k10
      · split
        · exact setDevHw_keeps _ _ (updJob_keeps _ _ (mirrorCommit_keeps _ k10))
        · exact beginStep_keeps _ _ k10

theorem departureFireS_keeps {z : State} (s : State) (hz : Keeps z s) :
    Keeps z (departureFireS s) := by
  unfold departureFireS
  with_reducible repeat' first
    | assumption | rfl | split | apply fireDeparture_keeps | apply reachTime_keeps | apply Keeps.set

theorem endOfStepS_keeps {z : State} (s : State) (hz : Keeps z s) :
    Keeps z (endOfStepS s) := by
  unfold endOfStepS
  with_reducible repeat' first | assumption | rfl | split | apply markEnd_keeps | apply Keeps.set

theorem setGraph_keeps {z : State} (h : Nat) (g : Graph) (s : State) (hz : Keeps z s) :
    Keeps z (setGraph h g s) := by
  unfold setGraph
  with_reducible repeat' first | assumption | rfl | split | apply Keeps.set

theorem graphOpen_keeps {z : State} (p : List Byte) (s : State) (hz : Keeps z s) :
    Keeps z (graphOpen p s).1 := by
  unfold graphOpen
  with_reducible repeat' first | assumption | rfl | split | apply setGraph_keeps | dsimp only | apply Keeps.set

theorem graphData_keeps {z : State} (p : List Byte) (s : State) (hz : Keeps z s) :
    Keeps z (graphData p s).1 := by
  unfold graphData
  with_reducible repeat' first
    | assumption | rfl | split | apply setGraph_keeps | apply Keeps.foldl | intro _ | dsimp only | apply Keeps.set

theorem placeGraph_keeps {z : State} (h : Nat) (g : Graph) (s : State) (hz : Keeps z s) :
    Keeps z (placeGraph h g s) := by
  unfold placeGraph
  with_reducible repeat' first
    | assumption | rfl | split | apply homeWrite_keeps | apply Keeps.foldl | intro _ | dsimp only | apply Keeps.set

theorem graphCommit_keeps {z : State} (p : List Byte) (s : State) (hz : Keeps z s) :
    Keeps z (graphCommit p s).1 := by
  unfold graphCommit
  with_reducible repeat' first
    | assumption | rfl | split | apply raise_keeps | apply placeGraph_keeps | apply setGraph_keeps | dsimp only
    | apply Keeps.set

theorem graphUnload_keeps {z : State} (p : List Byte) (s : State) (hz : Keeps z s) :
    Keeps z (graphUnload p s).1 := by
  unfold graphUnload
  with_reducible repeat' first | assumption | rfl | split | dsimp only | apply Keeps.set

theorem dropBar_keeps {z : State} (s : State) (hz : Keeps z s) :
    Keeps z (dropBar s) := by
  unfold dropBar
  with_reducible repeat' first | assumption | rfl | split | apply bump_keeps | apply Keeps.set

theorem onBar_keeps {z : State} (f : State → State) (s : State) (hf : ∀ t, Keeps z t → Keeps z (f t))
    (hz : Keeps z s) :
    Keeps z (onBar f s) := by
  unfold onBar
  with_reducible repeat' first | assumption | rfl | split | apply hf | apply Keeps.set

theorem countCompletion_keeps {z : State} (n : Nat) (c : Slot) (r : Completion) (s : State) (hz : Keeps z s) :
    Keeps z (countCompletion n c r s) := by
  unfold countCompletion
  with_reducible repeat' first | assumption | rfl | split | apply bump_keeps | dsimp only | apply Keeps.set

theorem afterCompletion_keeps {z : State} (c : Slot) (r : Completion) (s : State) (hz : Keeps z s) :
    Keeps z (afterCompletion c r s) := by
  unfold afterCompletion
  with_reducible repeat' first | assumption | rfl | split | apply deferReset_keeps | apply Keeps.set

theorem newCheckpoint_keeps {z : State} (s : State) (hz : Keeps z s) :
    Keeps z (newCheckpoint s) := by
  unfold newCheckpoint
  with_reducible repeat' first | assumption | rfl | split | dsimp only | apply Keeps.set

theorem writeCompletion_keeps {z : State} (n : Nat) (c : Slot) (r : Completion) (s : State) (hz : Keeps z s) :
    Keeps z (writeCompletion n c r s) := by
  unfold writeCompletion
  with_reducible repeat' first
    | assumption | rfl | split | apply newCheckpoint_keeps | apply setMailbox_keeps | apply noteIdle_keeps
    | apply countCompletion_keeps | apply msix_keeps | apply afterCompletion_keeps | dsimp only | apply Keeps.set

theorem completeMbx_keeps {z : State} (n : Nat) (s : State) (hz : Keeps z s) :
    Keeps z (completeMbx n s) := by
  unfold completeMbx
  with_reducible repeat' first
    | assumption | rfl | split | apply writeCompletion_keeps | apply setMailbox_keeps | dsimp only | apply Keeps.set

theorem completePosted_keeps {z : State} (n st : Nat) (s : State) (hz : Keeps z s) :
    Keeps z (completePosted n st s) := by
  unfold completePosted
  with_reducible repeat' first
    | assumption | rfl | split | apply completeMbx_keeps | apply setMailbox_keeps | dsimp only | apply Keeps.set

theorem openMbx_keeps {z : State} (n : Nat) (irqEn : Bool) (s : State) (hz : Keeps z s) :
    Keeps z (openMbx n irqEn s) := by
  unfold openMbx
  with_reducible repeat' first | assumption | rfl | split | apply setMailbox_keeps | dsimp only | apply Keeps.set

theorem closeMbx_keeps {z : State} (n : Nat) (irqEn : Bool) (s : State) (hz : Keeps z s) :
    Keeps z (closeMbx n irqEn s) := by
  unfold closeMbx
  with_reducible repeat' first
    | assumption | rfl | split | apply setMailbox_keeps | apply bump_keeps | dsimp only | apply Keeps.set

theorem abortMbx_keeps {z : State} (n : Nat) (s : State) (hz : Keeps z s) :
    Keeps z (abortMbx n s) := by
  unfold abortMbx
  with_reducible repeat' first
    | assumption | rfl | split | apply bump_keeps | apply completePosted_keeps | apply Keeps.set

theorem postMbx_keeps {z : State} (n value : Nat) (s : State) (hz : Keeps z s) :
    Keeps z (postMbx n value s) := by
  unfold postMbx
  with_reducible repeat' first
    | assumption | rfl | split | apply setMailbox_keeps | apply completePosted_keeps | apply bump_keeps | dsimp only
    | apply Keeps.set

theorem windowWrite_keeps {z : State} (n off : Nat) (d : List Byte) (s : State) (hz : Keeps z s) :
    Keeps z (windowWrite n off d s) := by
  unfold windowWrite
  with_reducible repeat' first
    | assumption | rfl | split | apply setMailbox_keeps | apply bump_keeps | dsimp only | apply Keeps.set

theorem postTimeoutS_keeps {z : State} (n : Nat) (s : State) (hz : Keeps z s) :
    Keeps z (postTimeoutS n s) := by
  unfold postTimeoutS
  with_reducible repeat' first
    | assumption | rfl | split | apply completePosted_keeps | apply reachTime_keeps | dsimp only | apply Keeps.set

theorem evtStatusWrite_keeps {z : State} (v : W32) (s : State) (hz : Keeps z s) :
    Keeps z (evtStatusWrite v s) := by
  unfold evtStatusWrite
  with_reducible repeat' first | assumption | rfl | split | intro _ | dsimp only | apply Keeps.set

theorem resetWrite_keeps {z : State} (v : Nat) (s : State) (hz : Keeps z s) :
    Keeps z (resetWrite v s) := by
  unfold resetWrite
  with_reducible repeat' first
    | assumption | rfl | split | apply dropBar_keeps | apply deviceReset_keeps | apply Keeps.set

theorem msixWrite_keeps {z : State} (k v : Nat) (s : State) (hz : Keeps z s) :
    Keeps z (msixWrite k v s) := by
  unfold msixWrite
  with_reducible repeat' first | assumption | rfl | split | apply msix_keeps | intro _ | dsimp only | apply Keeps.set

theorem mbxRegWrite_keeps {z : State} (n o v : Nat) (s : State) (hz : Keeps z s) :
    Keeps z (mbxRegWrite n o v s) := by
  unfold mbxRegWrite
  with_reducible repeat' first
    | assumption | rfl | split | apply setMailbox_keeps | apply dropBar_keeps | apply abortMbx_keeps
    | apply openMbx_keeps | apply closeMbx_keeps | apply postMbx_keeps | dsimp only | apply Keeps.set

theorem bar0Write_keeps {z : State} (off v : Nat) (s : State) (hz : Keeps z s) :
    Keeps z (bar0Write off v s) := by
  unfold bar0Write
  with_reducible repeat' first
    | assumption | rfl | split | apply resetWrite_keeps | apply evtStatusWrite_keeps | apply mbxRegWrite_keeps
    | apply msixWrite_keeps | apply dropBar_keeps | apply Keeps.set

theorem registerWriteS_keeps {z : State} (bar off width v : Nat) (s : State) (hz : Keeps z s) :
    Keeps z (registerWriteS bar off width v s) := by
  unfold registerWriteS
  with_reducible repeat' first
    | assumption | rfl | split | apply bar0Write_keeps | apply dropBar_keeps | apply windowWrite_keeps
    | apply Keeps.set

theorem busMasterSetS_keeps {z : State} (s : State) (hz : Keeps z s) :
    Keeps z (busMasterSetS s) := by
  unfold busMasterSetS
  with_reducible repeat' first
    | assumption | rfl | split | apply completeMbx_keeps | apply Keeps.foldl | intro _ | dsimp only | apply Keeps.set

theorem functionUnmaskS_keeps {z : State} (s : State) (hz : Keeps z s) :
    Keeps z (functionUnmaskS s) := by
  unfold functionUnmaskS
  with_reducible repeat' first
    | assumption | rfl | split | apply msix_keeps | apply Keeps.foldl | intro _ | dsimp only | apply Keeps.set

theorem noteBadSig_keeps {z : State} (src st : Nat) (s : State) (hz : Keeps z s) :
    Keeps z (noteBadSig src st s) := by
  unfold noteBadSig
  with_reducible repeat' first | assumption | rfl | split | apply raise_keeps | apply bump_keeps | apply Keeps.set

theorem takeUpS_keeps {z : State} (n : Nat) (s : State) (hz : Keeps z s) :
    Keeps z (takeUpS n s) := by
  unfold takeUpS
  with_reducible repeat' first
    | assumption | rfl | split | apply setMailbox_keeps | apply noteBadSig_keeps | dsimp only | apply Keeps.set

theorem shedWindowS_keeps {z : State} (u : Nat) (s : State) (hz : Keeps z s) :
    Keeps z (shedWindowS u s) := by
  unfold shedWindowS
  with_reducible repeat' first | assumption | rfl | split | apply raise_keeps | dsimp only | apply Keeps.set

theorem sideSay_keeps {z : State} (m : SideMsg) (s : State) (hz : Keeps z s) :
    Keeps z (sideSay m s) := by
  unfold sideSay
  with_reducible repeat' first | assumption | rfl | split | apply Keeps.set

theorem mctpCommandS_keeps {z : State} (packet : List Byte) (s : State) (hz : Keeps z s) :
    Keeps z (mctpCommandS packet s) := by
  unfold mctpCommandS
  with_reducible repeat' first
    | assumption | rfl | split | apply bump_keeps | apply noteBadSig_keeps | apply answerSide_keeps | dsimp only
    | apply Keeps.set

theorem mctpControlS_keeps {z : State} (m : MctpControl) (s : State) (hz : Keeps z s) :
    Keeps z (mctpControlS m s) := by
  unfold mctpControlS
  with_reducible repeat' first | assumption | rfl | split | apply sideSay_keeps | apply Keeps.set

theorem pldmMessageS_keeps {z : State} (m : PldmMsg) (s : State) (hz : Keeps z s) :
    Keeps z (pldmMessageS m s) := by
  unfold pldmMessageS
  with_reducible repeat' first | assumption | rfl | split | apply sideSay_keeps | apply Keeps.set

theorem pldmFwS_keeps {z : State} (m : PldmFw) (s : State) (hz : Keeps z s) :
    Keeps z (pldmFwS m s) := by
  unfold pldmFwS
  have k := fun n => fwCommitS_keeps n s hz
  split
  · repeat' first
    | with_reducible assumption | split | with_reducible apply sideSay_keeps | with_reducible apply fwOpenS_keeps
  · repeat' first
    | with_reducible assumption | split | with_reducible apply sideSay_keeps | with_reducible apply fwDataS_keeps
  · split
    · split
      · exact sideSay_keeps _ _ (k _)
      · exact sideSay_keeps _ _ hz
    · exact sideSay_keeps _ _ hz
  · repeat' first
    | with_reducible assumption | split | with_reducible apply sideSay_keeps | with_reducible apply fwActivateS_keeps
  · split
    · split
      · refine sideSay_keeps _ _ (setBootHdr_keeps _ _ (Keeps.set hz rfl rfl rfl rfl rfl rfl rfl rfl))
      · exact sideSay_keeps _ _ hz
    · exact sideSay_keeps _ _ hz

theorem memAlloc_keeps {z : State} (p : List Byte) (s : State) (hz : Keeps z s) :
    Keeps z (memAlloc p s).1 := by
  unfold memAlloc
  dsimp only
  repeat' first | with_reducible assumption | split
  next h => exact createRegion_keeps hz h

theorem memWrite_keeps {z : State} (p : List Byte) (s : State) (hz : Keeps z s) :
    Keeps z (memWrite p s).1 := by
  unfold memWrite
  with_reducible repeat' first | assumption | rfl | split | apply homeWrite_keeps | dsimp only | apply Keeps.set

theorem memRead_keeps {z : State} (p : List Byte) (s : State) (hz : Keeps z s) :
    Keeps z (memRead p s).1 := by
  unfold memRead
  with_reducible repeat' first
    | assumption | rfl | split | apply commitTable_keeps | apply homeRead_keeps | apply freeBytes_keeps | intro _
    | dsimp only | apply Keeps.set

theorem memConfig_keeps {z : State} (p : List Byte) (s : State) (hz : Keeps z s) :
    Keeps z (memConfig p s).1 := by
  unfold memConfig
  with_reducible repeat' first
    | assumption | rfl | split | apply setStackTemp_keeps | apply Keeps.foldl | intro _ | dsimp only
    | apply Keeps.set

theorem memRetrain_keeps {z : State} (p : List Byte) (s : State) (hz : Keeps z s) :
    Keeps z (memRetrain p s).1 := by
  unfold memRetrain
  with_reducible repeat' first
    | assumption | rfl | split | apply bump_keeps | apply raise_keeps | apply startChanRetrain_keeps
    | apply Keeps.set

theorem issueAgain_keeps {z : State} (lc x : Nat) (i : Instr) (s : State) (hz : Keeps z s) :
    Keeps z (issueAgain lc x i s) := by
  unfold issueAgain
  with_reducible repeat' first | assumption | rfl | split | apply mmaS_keeps | apply vopS_keeps | apply Keeps.set

theorem goOn_keeps {z : State} (lc x : Nat) (t : Task) (w : CtxWait) (s : State) (hz : Keeps z s) :
    Keeps z (goOn lc x t w s) := by
  unfold goOn
  with_reducible repeat' first
    | assumption | rfl | split | apply trySpawn_keeps | apply sigInstr_keeps | apply waitS_keeps
    | apply arriveS_keeps | apply issueAgain_keeps | apply Keeps.set

theorem beginCore_keeps {z : State} (lc x : Nat) (t : Task) (s : State) (hz : Keeps z s) :
    Keeps z (beginCore lc x t s) := by
  unfold beginCore
  with_reducible repeat' first | assumption | rfl | split | apply goOn_keeps | apply startCore_keeps | apply Keeps.set

theorem serveHead_keeps {z : State} {lc p : Nat} {t : Task} {rest : List Task} {s u : State} (hz : Keeps z s)
    (h : serveHead lc p t rest s = .started u) : Keeps z u := by
  unfold serveHead at h
  dsimp only at h
  have k := setDisp_keeps lc { disp s lc with ready := mapSet (disp s lc).ready p rest } s hz
  have k2 : Keeps z (if t.spawned = true then setDisp lc { disp s lc with ready := mapSet (disp s lc).ready p rest } s
      else setTaskState lc t.idx .running (setDisp lc { disp s lc with ready := mapSet (disp s lc).ready p rest } s)) := by
    split
    · exact k
    · exact setTaskState_keeps _ _ _ _ k
  split at h
  · cases h; exact completeTask_keeps _ _ k
  · split at h
    · cases h
    · cases h; exact setDeque_keeps _ _ _ _ k2
  · cases h; exact startColl_keeps _ _ k2
  · split at h
    · cases h; exact beginCore_keeps _ _ _ _ k
    · cases h

theorem serveFrom_keeps {z : State} (lc : Nat) (s : State) (a0 : List Nat) (hz : Keeps z s) :
    Keeps z (serveFrom lc s a0) := by
  induction a0 with
  | nil => exact hz
  | cons p ps ih =>
    unfold serveFrom
    split
    · exact ih
    · next t rest _ =>
      split
      · next e => exact serveHead_keeps hz e
      · exact hz
      · exact ih

theorem aliveS_keeps {z : State} (s : State) (hz : Keeps z s) :
    Keeps z (aliveS s) := by
  unfold aliveS
  with_reducible repeat' first | assumption | rfl | split | apply Keeps.set

theorem startTakeover_keeps {z : State} (s : State) (hz : Keeps z s) :
    Keeps z (startTakeover s) := by
  unfold startTakeover
  with_reducible repeat' first | assumption | rfl | split | apply setSm_keeps | dsimp only | apply Keeps.set

theorem failAll_keeps {z : State} (s : State) (hz : Keeps z s) :
    Keeps z (failAll s) := by
  unfold failAll
  with_reducible repeat' first
    | assumption | rfl | split | apply answerSide_keeps | apply completePosted_keeps | apply completeMbx_keeps
    | apply setMailbox_keeps | apply Keeps.foldl | intro _ | dsimp only | apply Keeps.set

theorem smFail_keeps {z : State} (s : State) (hz : Keeps z s) :
    Keeps z (smFail s) := by
  unfold smFail
  with_reducible repeat' first | assumption | rfl | split | apply failAll_keeps | apply setSm_keeps | apply Keeps.set

theorem watchdogS_keeps {z : State} (s : State) (hz : Keeps z s) :
    Keeps z (watchdogS s) := by
  unfold watchdogS
  with_reducible repeat' first
    | assumption | rfl | split | apply bump_keeps | apply startTakeover_keeps | apply failAll_keeps
    | apply setSm_keeps | dsimp only | apply Keeps.set

theorem answerInFlight_keeps {z : State} (s : State) (hz : Keeps z s) :
    Keeps z (answerInFlight s) := by
  unfold answerInFlight
  with_reducible repeat' first
    | assumption | rfl | split | apply answerSide_keeps | apply raise_keeps | apply bump_keeps | apply Keeps.foldl
    | intro _ | dsimp only | apply Keeps.set

theorem noteSram_keeps {z : State} (imageOk ckptOk : Bool) (s : State) (hz : Keeps z s) :
    Keeps z (noteSram imageOk ckptOk s) := by
  unfold noteSram
  with_reducible repeat' first | assumption | rfl | split | apply Keeps.set

theorem restartDoneS_keeps {z : State} (imageOk ckptOk : Bool) (s : State) (hz : Keeps z s) :
    Keeps z (restartDoneS imageOk ckptOk s) := by
  unfold restartDoneS
  with_reducible repeat' first
    | assumption | rfl | split | apply noteSram_keeps | apply smFail_keeps | apply answerInFlight_keeps
    | apply setSm_keeps | dsimp only | apply Keeps.set

theorem aliveDeadlineS_keeps {z : State} (s : State) (hz : Keeps z s) :
    Keeps z (aliveDeadlineS s) := by
  unfold aliveDeadlineS
  with_reducible repeat' first
    | assumption | rfl | split | apply startTakeover_keeps | apply reachTime_keeps | apply failAll_keeps | dsimp only
    | apply Keeps.set

theorem takeoverDoneS_keeps {z : State} (ok ckptOk : Bool) (s : State) (hz : Keeps z s) :
    Keeps z (takeoverDoneS ok ckptOk s) := by
  unfold takeoverDoneS
  with_reducible repeat' first
    | assumption | rfl | split | apply noteSram_keeps | apply bump_keeps | apply answerInFlight_keeps
    | apply setSm_keeps | apply bootFirmware_keeps | apply smFail_keeps | dsimp only | apply Keeps.set

theorem sendMessages_keeps {z : State} (m : DepMsg) (s : State) (hz : Keeps z s) :
    Keeps z (sendMessages m s) := by
  unfold sendMessages
  with_reducible repeat' first
    | assumption | rfl | split | apply toMembers_keeps | apply Keeps.foldl | intro _ | dsimp only | apply Keeps.set

theorem countListed_keeps {z : State} (left : List Nat) (s : State) (hz : Keeps z s) :
    Keeps z (countListed left s) := by
  unfold countListed
  with_reducible repeat' first
    | assumption | rfl | split | apply bump_keeps | apply raiseAll_keeps | dsimp only | apply Keeps.set

theorem sendDeparture_keeps {z : State} (fire : Nat) (left : List Nat) (s : State) (hz : Keeps z s) :
    Keeps z (sendDeparture fire left s) := by
  unfold sendDeparture
  with_reducible repeat' first
    | assumption | rfl | split | apply countListed_keeps | apply sendMessages_keeps | apply updJob_keeps | intro _
    | dsimp only | apply Keeps.set

theorem trySend_keeps {z : State} (s : State) (hz : Keeps z s) :
    Keeps z (trySend s) := by
  unfold trySend
  with_reducible repeat' first | assumption | rfl | split | apply sendDeparture_keeps | apply Keeps.set

theorem cutoffS_keeps {z : State} (s : State) (hz : Keeps z s) :
    Keeps z (cutoffS s) := by
  unfold cutoffS
  with_reducible repeat' first
    | assumption | rfl | split | apply markEnd_keeps | apply missGn_keeps | apply reachTime_keeps
    | apply raiseLate_keeps | dsimp only | apply Keeps.set

theorem decisionS_keeps {z : State} (s : State) (hz : Keeps z s) :
    Keeps z (decisionS s) := by
  unfold decisionS
  with_reducible repeat' first
    | assumption | rfl | split | apply reachTime_keeps | apply updJob_keeps | apply sendDeparture_keeps
    | apply bump_keeps | intro _ | dsimp only | apply Keeps.set

theorem holdDeadlineS_keeps {z : State} (s : State) (hz : Keeps z s) :
    Keeps z (holdDeadlineS s) := by
  unfold holdDeadlineS
  with_reducible repeat' first
    | assumption | rfl | split | apply reachTime_keeps | apply sendDeparture_keeps | dsimp only | apply Keeps.set

theorem takeTimetable_keeps {z : State} (i : Instr) (f : Job → Hdr → State → State) (s : State)
    (hf : ∀ x0 x1 t, Keeps z t → Keeps z (f x0 x1 t)) (hz : Keeps z s) :
    Keeps z (takeTimetable i f s) := by
  unfold takeTimetable
  with_reducible repeat' first
    | assumption | rfl | split | apply hf | apply receive_keeps | apply bump_keeps | intro _ | apply Keeps.set

theorem lateS_keeps {z : State} (h : Hdr) (s : State) (hz : Keeps z s) :
    Keeps z (lateS h s) := by
  unfold lateS
  refine takeTimetable_keeps _ _ _ ?_ hz
  intro j h t ht
  split
  · exact updJob_keeps _ _ ht
  · exact ht

theorem arrivalS_keeps {z : State} (h : Hdr) (s : State) (hz : Keeps z s) :
    Keeps z (arrivalS h s) := by
  unfold arrivalS
  refine takeTimetable_keeps _ _ _ ?_ hz
  intro j h t ht
  dsimp only
  split
  · exact trySend_keeps _ (updJob_keeps _ _ ht)
  · exact ht

theorem takeDeparture_keeps {z : State} (i : Instr) (f : Job → State → State) (s : State)
    (hf : ∀ x0 x1, Keeps z x1 → Keeps z (f x0 x1)) (hz : Keeps z s) :
    Keeps z (takeDeparture i f s) := by
  unfold takeDeparture
  refine takeTimetable_keeps _ _ _ ?_ hz
  intro j h t ht
  split
  · exact enterQuarantine_keeps _ ht
  · split
    · exact hf _ _ ht
    · exact ht

theorem holdDeparture_keeps {z : State} (m : DepMsg) (s : State) (hz : Keeps z s) :
    Keeps z (holdDeparture m s) := by
  unfold holdDeparture
  with_reducible repeat' first
    | assumption | rfl | split | apply updJob_keeps | apply fireDeparture_keeps | apply bump_keeps | intro _
    | dsimp only | apply Keeps.set

theorem departureS_keeps {z : State} (h : Hdr) (fire : Nat) (quiesce ends : Bool) (count : Nat) (left : List Nat)
    (s : State) (hz : Keeps z s) :
    Keeps z (departureS h fire quiesce ends count left s) := by
  unfold departureS
  with_reducible repeat' first
    | assumption | rfl | split | apply takeDeparture_keeps | apply updJob_keeps | apply holdDeparture_keeps | intro _
    | dsimp only | apply Keeps.set

theorem leftContS_keeps {z : State} (h : Hdr) (left : List Nat) (s : State) (hz : Keeps z s) :
    Keeps z (leftContS h left s) := by
  unfold leftContS
  with_reducible repeat' first
    | assumption | rfl | split | apply takeDeparture_keeps | apply updJob_keeps | apply holdDeparture_keeps | intro _
    | dsimp only | apply Keeps.set

theorem adoptParams_keeps {z : State} (s : State) (hz : Keeps z s) :
    Keeps z (adoptParams s) := by
  unfold adoptParams
  with_reducible repeat' first
    | assumption | rfl | split | apply tensorsAtStart_keeps | apply adoptLines_keeps | apply clearGn_keeps
    | apply flushAllStaging_keeps | intro _ | dsimp only | apply Keeps.set

theorem sendPortStates_keeps {z : State} (s : State) (hz : Keeps z s) :
    Keeps z (sendPortStates s) := by
  unfold sendPortStates
  with_reducible repeat' first
    | assumption | rfl | split | apply sendLinkState_keeps | apply Keeps.foldl | intro _ | dsimp only
    | apply Keeps.set

theorem sendProbes_keeps {z : State} (s : State) (hz : Keeps z s) :
    Keeps z (sendProbes s) := by
  unfold sendProbes
  with_reducible repeat' first
    | assumption | rfl | split | apply updJob_keeps | apply sendPlain_keeps | apply Keeps.foldl | intro _
    | dsimp only | apply Keeps.set

theorem memberLead_keeps {z : State} (headway : Nat) (s : State) (hz : Keeps z s) :
    Keeps z (memberLead headway s).2 := by
  unfold memberLead
  with_reducible repeat' first | assumption | rfl | split | apply freeVal_keeps | dsimp only | apply Keeps.set

theorem takeParent_keeps {z : State} (s : State) (hz : Keeps z s) :
    Keeps z (takeParent s) := by
  unfold takeParent
  with_reducible repeat' first | assumption | rfl | split | apply updJob_keeps | intro _ | apply Keeps.set

theorem joinJob_keeps {z : State} (p : List Byte) (s : State) (hz : Keeps z s) :
    Keeps z (joinJob p s) := by
  unfold joinJob
  with_reducible repeat' first
    | assumption | rfl | split | apply memberLead_keeps | apply clearCtrs_keeps | apply reserveWays_keeps
    | apply adoptParams_keeps | apply updJob_keeps | apply takeParent_keeps | apply sendPortStates_keeps
    | apply sendProbes_keeps | apply afterOnce_keeps | apply armAll_keeps | intro _ | dsimp only | apply Keeps.set

theorem addArea_keeps {z : State} {q : RegionAsk} {s t : State} (hz : Keeps z s) (h : addArea q s = some t) :
    Keeps z t := by
  unfold addArea at h
  obtain ⟨⟨id, r, u⟩, e, rfl⟩ := Option.map_eq_some_iff.mp h
  exact updJob_keeps _ _ (createRegion_keeps hz e)

theorem startAreas_keeps {z : State} {s t : State} (hz : Keeps z s) (h : startAreas s = some t) : Keeps z t := by
  unfold startAreas at h
  split at h
  · cases h
  · dsimp only at h
    generalize (List.range (nDies s)).map _ ++ _ = asks at h
    have none_fold : ∀ l : List RegionAsk, l.foldl (fun o q => Option.bind o (addArea q)) none = none := by
      intro l; induction l with
      | nil => rfl
      | cons a l ih => exact ih
    have keep : ∀ (l : List RegionAsk) {u : State}, Keeps z u →
        l.foldl (fun o q => Option.bind o (addArea q)) (some u) = some t → Keeps z t := by
      intro l
      induction l with
      | nil => intro u hu e; cases e; exact hu
      | cons a l ih =>
        intro u hu e
        simp only [List.foldl_cons, Option.bind_some] at e
        cases f : addArea a u with
        | none => rw [f, none_fold] at e; cases e
        | some v => rw [f] at e; exact ih (addArea_keeps hu f) e
    exact keep _ hz h

theorem sendJobCtrl_keeps {z : State} (op : Nat) (s : State) (hz : Keeps z s) :
    Keeps z (sendJobCtrl op s) := by
  unfold sendJobCtrl
  with_reducible repeat' first | assumption | rfl | split | apply toMembers_keeps | intro _ | apply Keeps.set

theorem abortStart_keeps {z : State} (st : Nat) (s : State) (hz : Keeps z s) :
    Keeps z (abortStart st s) := by
  unfold abortStart
  with_reducible repeat' first
    | assumption | rfl | split | apply sendJobCtrl_keeps | apply answerWaiting_keeps | apply setDevHw_keeps
    | apply leaveJob_keeps | dsimp only | apply Keeps.set

theorem judgeLead_keeps {z : State} (s : State) (hz : Keeps z s) :
    Keeps z (judgeLead s) := by
  unfold judgeLead
  with_reducible repeat' first
    | assumption | rfl | split | apply updJob_keeps | apply abortStart_keeps | intro _ | dsimp only | apply Keeps.set

theorem tryFirst_keeps {z : State} (s : State) (hz : Keeps z s) :
    Keeps z (tryFirst s) := by
  unfold tryFirst
  with_reducible repeat' first
    | assumption | rfl | split | apply sendDeparture_keeps | intro _ | dsimp only | apply Keeps.set

theorem probeS_keeps {z : State} (h : Hdr) (sendTime : Nat) (s : State) (hz : Keeps z s) :
    Keeps z (probeS h sendTime s) := by
  unfold probeS
  with_reducible repeat' first
    | assumption | rfl | split | apply receive_keeps | apply sendPlain_keeps | intro _ | apply Keeps.set

theorem probeReplyS_keeps {z : State} (h : Hdr) (sendTime rtt : Nat) (s : State) (hz : Keeps z s) :
    Keeps z (probeReplyS h sendTime rtt s) := by
  unfold probeReplyS
  with_reducible repeat' first
    | assumption | rfl | split | apply receive_keeps | apply tryFirst_keeps | apply judgeLead_keeps
    | apply updJob_keeps | intro _ | apply Keeps.set

theorem trainLoadedS_keeps {z : State} (s : State) (hz : Keeps z s) :
    Keeps z (trainLoadedS s) := by
  unfold trainLoadedS
  with_reducible repeat' first
    | assumption | rfl | split | apply updJob_keeps | apply tryFirst_keeps | apply judgeLead_keeps
    | apply sendPlain_keeps | intro _ | dsimp only | apply Keeps.set

theorem joinS_keeps {z : State} (h : Hdr) (s : State) (hz : Keeps z s) :
    Keeps z (joinS h s) := by
  unfold joinS
  with_reducible repeat' first
    | assumption | rfl | split | apply receive_keeps | apply tryFirst_keeps | apply updJob_keeps | intro _
    | apply Keeps.set

theorem joinTimeoutS_keeps {z : State} (s : State) (hz : Keeps z s) :
    Keeps z (joinTimeoutS s) := by
  unfold joinTimeoutS
  with_reducible repeat' first
    | assumption | rfl | split | apply reachTime_keeps | apply abortStart_keeps | apply raise_keeps
    | apply sendDeparture_keeps | intro _ | dsimp only | apply Keeps.set

theorem reload_keeps {z : State} (s : State) (hz : Keeps z s) :
    Keeps z (reload s) := by
  unfold reload
  with_reducible repeat' first
    | assumption | rfl | split | apply updJob_keeps | apply armAll_keeps | intro _ | dsimp only | apply Keeps.set

theorem jobCtrlS_keeps {z : State} (h : Hdr) (jobId op : Nat) (s : State) (hz : Keeps z s) :
    Keeps z (jobCtrlS h jobId op s) := by
  unfold jobCtrlS
  with_reducible repeat' first
    | assumption | rfl | split | apply receive_keeps | apply abortStart_keeps | apply reload_keeps
    | apply setDevHw_keeps | apply endJob_keeps | intro _ | apply Keeps.set

theorem asMaster_keeps {z : State} (f : List Byte → State → State × Completion) (p : List Byte) (s : State)
    (hf : ∀ x t, Keeps z t → Keeps z (f x t).1) (hz : Keeps z s) : Keeps z (asMaster f p s).1 := by
  unfold asMaster
  split
  · exact hf _ _ hz
  · exact hz

theorem setHeadway_keeps {z : State} (p : List Byte) (s : State) (hz : Keeps z s) :
    Keeps z (setHeadway p s).1 := by
  unfold setHeadway
  with_reducible repeat' first
    | assumption | rfl | split | apply updJob_keeps | intro _ | dsimp only | apply Keeps.set

theorem ttQuiesce_keeps {z : State} (v1 : List Byte) (s : State) (hz : Keeps z s) :
    Keeps z (ttQuiesce v1 s).1 := by
  unfold ttQuiesce
  with_reducible repeat' first | assumption | rfl | split | apply updJob_keeps | intro _ | apply Keeps.set

theorem ttResume_keeps {z : State} (v1 : List Byte) (s : State) (hz : Keeps z s) :
    Keeps z (ttResume v1 s).1 := by
  unfold ttResume
  with_reducible repeat' first
    | assumption | rfl | split | apply reload_keeps | apply sendJobCtrl_keeps | apply setDev_keeps | apply Keeps.set

theorem ttJobEnd_keeps {z : State} (v1 : List Byte) (s : State) (hz : Keeps z s) :
    Keeps z (ttJobEnd v1 s).1 := by
  unfold ttJobEnd
  with_reducible repeat' first
    | assumption | rfl | split | apply setDev_keeps | apply leaveJob_keeps | apply finishMigs_keeps
    | apply sendJobCtrl_keeps | apply updJob_keeps | intro _ | dsimp only | apply Keeps.set

theorem timeXferTimerS_keeps {z : State} (q : Nat) (s : State) (hz : Keeps z s) :
    Keeps z (timeXferTimerS q s) := by
  unfold timeXferTimerS
  with_reducible repeat' first
    | assumption | rfl | split | apply freeVal_keeps | apply queueAt_keeps | dsimp only | apply Keeps.set

theorem setOffset_keeps {z : State} (x : Int) (s : State) (hz : Keeps z s) :
    Keeps z (setOffset x s) := by
  unfold setOffset
  with_reducible repeat' first
    | assumption | rfl | split | apply updJob_keeps | apply raise_keeps | apply bump_keeps | intro _ | dsimp only
    | apply Keeps.set

theorem timeXferS_keeps {z : State} (h : Hdr) (t1 t2 t3 : Nat) (offset : Int) (s : State) (hz : Keeps z s) :
    Keeps z (timeXferS h t1 t2 t3 offset s) := by
  unfold timeXferS
  with_reducible repeat' first
    | assumption | rfl | split | apply receive_keeps | apply setOffset_keeps | intro _ | apply Keeps.set

theorem timerefLossS_keeps {z : State} (s : State) (hz : Keeps z s) :
    Keeps z (timerefLossS s) := by
  unfold timerefLossS
  with_reducible repeat' first | assumption | rfl | split | apply raise_keeps | dsimp only | apply Keeps.set

theorem countTakeover_keeps {z : State} (s : State) (hz : Keeps z s) :
    Keeps z (countTakeover s) := by
  unfold countTakeover
  with_reducible repeat' first | assumption | rfl | split | apply raise_keeps | apply bump_keeps | apply Keeps.set

theorem takeOver_keeps {z : State} (j : Job) (s : State) (hz : Keeps z s) :
    Keeps z (takeOver j s) := by
  unfold takeOver
  with_reducible repeat' first
    | assumption | rfl | split | apply updJob_keeps | apply countTakeover_keeps | apply toMembers_keeps | intro _
    | dsimp only | apply Keeps.set

theorem deputyDeadlineS_keeps {z : State} (s : State) (hz : Keeps z s) :
    Keeps z (deputyDeadlineS s) := by
  unfold deputyDeadlineS
  with_reducible repeat' first
    | assumption | rfl | split | apply takeOver_keeps | apply reachTime_keeps | dsimp only | apply Keeps.set

theorem answerTakeover_keeps {z : State} (s : State) (hz : Keeps z s) :
    Keeps z (answerTakeover s) := by
  unfold answerTakeover
  with_reducible repeat' first
    | assumption | rfl | split | apply updJob_keeps | apply sendPlain_keeps | intro _ | dsimp only | apply Keeps.set

theorem adoptTakeover_keeps {z : State} (h : Hdr) (s : State) (hz : Keeps z s) :
    Keeps z (adoptTakeover h s) := by
  unfold adoptTakeover
  with_reducible repeat' first
    | assumption | rfl | split | apply updJob_keeps | apply releaseEpoch_keeps | apply answerTakeover_keeps
    | apply countTakeover_keeps | apply takeParent_keeps | intro _ | dsimp only | apply Keeps.set

theorem announced_keeps {z : State} (h : Hdr) (rank : Nat) (j : Job) (s : State) (hz : Keeps z s) :
    Keeps z (announced h rank j s) := by
  unfold announced
  with_reducible repeat' first
    | assumption | rfl | split | apply adoptTakeover_keeps | apply answerTakeover_keeps | apply bump_keeps
    | dsimp only | apply Keeps.set

theorem answered_keeps {z : State} (h : Hdr) (eos : Bool) (s : State) (hz : Keeps z s) :
    Keeps z (answered h eos s) := by
  unfold answered
  with_reducible repeat' first
    | assumption | rfl | split | apply updJob_keeps | intro _ | dsimp only | apply Keeps.set

theorem takeoverS_keeps {z : State} (h : Hdr) (master rank : Nat) (isAnswer eos : Bool) (s : State) (hz : Keeps z s) :
    Keeps z (takeoverS h master rank isAnswer eos s) := by
  unfold takeoverS
  with_reducible repeat' first
    | assumption | rfl | split | apply receive_keeps | apply answered_keeps | apply announced_keeps | intro _
    | apply Keeps.set

theorem answerWindowS_keeps {z : State} (s : State) (hz : Keeps z s) :
    Keeps z (answerWindowS s) := by
  unfold answerWindowS
  with_reducible repeat' first
    | assumption | rfl | split | apply reachTime_keeps | apply sendDeparture_keeps | intro _ | dsimp only
    | apply Keeps.set

theorem stopStep_keeps {z : State} (s : State) (hz : Keeps z s) :
    Keeps z (stopStep s) := by
  unfold stopStep
  with_reducible repeat' first
    | assumption | rfl | split | apply stopDispatch_keeps | apply dropWaiting_keeps | intro _ | dsimp only
    | apply Keeps.set

theorem noMasterS_keeps {z : State} (s : State) (hz : Keeps z s) :
    Keeps z (noMasterS s) := by
  unfold noMasterS
  with_reducible repeat' first
    | assumption | rfl | split | apply reachTime_keeps | apply updJob_keeps | apply raise_keeps
    | apply setDevHw_keeps | apply stopStep_keeps | intro _ | dsimp only | apply Keeps.set

end Sys2Proof.Machine
end

