-- ==== Sys2Proof/Laws/Meter.lean ====
section
/-! SUPPORT. What the meter's own operations keep: power, key, and ENERGY, which never falls. -/

namespace Sys2Proof.Machine

theorem MeterKeeps.refl (m : Meter) : MeterKeeps m m := ⟨rfl, rfl, Nat.le_refl _⟩

theorem MeterKeeps.trans {a b c : Meter} (h : MeterKeeps a b) (g : MeterKeeps b c) : MeterKeeps a c :=
  ⟨g.powered.trans h.powered, g.secret.trans h.secret, Nat.le_trans h.energy g.energy⟩

theorem audit_meter {a : Meter} (k : Nat) (d : List Byte) (m : Meter) (h : MeterKeeps a m) : MeterKeeps a (audit k d m) :=
  ⟨h.powered, h.secret, h.energy⟩

theorem report_meter {a : Meter} (acc : Option Account) (f : Bool) (m : Meter) (h : MeterKeeps a m) :
    MeterKeeps a (report acc f m) := ⟨h.powered, h.secret, h.energy⟩

theorem reportNow_meter {a : Meter} (m : Meter) (h : MeterKeeps a m) : MeterKeeps a (reportNow m) := report_meter _ _ _ h

theorem answer_meter {a : Meter} (st : Nat) (b : List Byte) (m : Meter) (h : MeterKeeps a m) : MeterKeeps a (answer st b m) :=
  ⟨h.powered, h.secret, h.energy⟩

theorem closeAccount_meter {a : Meter} (c : Account) (m : Meter) (h : MeterKeeps a m) : MeterKeeps a (closeAccount c m) :=
  ⟨h.powered, h.secret, h.energy⟩

theorem sampleTime_meter {a : Meter} (m : Meter) (h : MeterKeeps a m) : MeterKeeps a (sampleTime m) := by
  unfold sampleTime; split <;> exact ⟨h.powered, h.secret, h.energy⟩

theorem sampleEnergy_meter {a : Meter} (uw : Nat) (m : Meter) (h : MeterKeeps a m) : MeterKeeps a (sampleEnergy uw m) := by
  unfold sampleEnergy
  split
  · exact h
  · exact ⟨h.powered, h.secret, Nat.le_trans h.energy (Nat.le_add_right _ _)⟩

theorem sampleInterval_meter {a : Meter} (mv : Nat) (ma : Int) (uw : Nat) (m : Meter) (h : MeterKeeps a m) :
    MeterKeeps a (sampleInterval mv ma uw m) := by
  unfold sampleInterval; dsimp only; split <;> exact ⟨h.powered, h.secret, h.energy⟩

theorem meterSampleM_meter (mv : Nat) (ma : Int) (m : Meter) : MeterKeeps m (meterSampleM mv ma m) := by
  have h := sampleInterval_meter mv ma (sampleUw mv ma) _ (sampleEnergy_meter (sampleUw mv ma) _
    (sampleTime_meter m (MeterKeeps.refl m)))
  unfold meterSampleM
  dsimp only
  split <;> exact ⟨h.powered, h.secret, h.energy⟩

theorem reportTimerM_meter (m : Meter) : MeterKeeps m (reportTimerM m) := by
  unfold reportTimerM
  dsimp only
  apply reportNow_meter
  split <;> split <;> exact ⟨rfl, rfl, Nat.le_refl _⟩

theorem sealChangeM_meter (m : Meter) : MeterKeeps m (sealChangeM m) := by
  unfold sealChangeM; dsimp only; split <;> exact ⟨rfl, rfl, Nat.le_refl _⟩

theorem challengeM_meter (b : List Byte) (m : Meter) : MeterKeeps m (challengeM b m) := by
  unfold challengeM; split <;> exact ⟨rfl, rfl, Nat.le_refl _⟩

theorem readAuditM_meter (q : Nat) (m : Meter) : MeterKeeps m (readAuditM q m) := by
  unfold readAuditM; split <;> exact ⟨rfl, rfl, Nat.le_refl _⟩

theorem accountOpenM_meter (id : Nat) (m : Meter) : MeterKeeps m (accountOpenM id m) := by
  unfold accountOpenM; dsimp only; split <;> exact ⟨rfl, rfl, Nat.le_refl _⟩

theorem accountCloseM_meter (m : Meter) : MeterKeeps m (accountCloseM m) := by
  unfold accountCloseM; dsimp only; split <;> exact ⟨rfl, rfl, Nat.le_refl _⟩

theorem readIdM_meter (m : Meter) : MeterKeeps m (readIdM m) := ⟨rfl, rfl, Nat.le_refl _⟩

theorem paramLoadM_meter (b : List Byte) (m : Meter) : MeterKeeps m (paramLoadM b m) := by
  unfold paramLoadM; dsimp only; repeat' split
  all_goals exact ⟨rfl, rfl, Nat.le_refl _⟩

theorem badCommandM_meter (b : Nat) (m : Meter) : MeterKeeps m (badCommandM b m) := by
  unfold badCommandM; split <;> exact ⟨rfl, rfl, Nat.le_refl _⟩

end Sys2Proof.Machine
end

