-- ==== Sys2Proof/Laws/KeepsRows.lean ====
section
/-! SUPPORT. What no command changes is kept by the two commands that wait (CMD_TT_JOB_START, CMD_CHK_FIELD_TEST). -/

namespace Sys2Proof.Machine

theorem jobStart_keeps {z : State} (c : Slot) (s : State) (hz : Keeps z s) :
    Keeps z (performedState (jobStart c s)) := by
  unfold jobStart
  dsimp only
  repeat' split
  all_goals first
    | exact hz
    | next t h =>
      obtain ⟨u, e, g⟩ := Option.bind_eq_some_iff.mp h
      exact setDev_keeps _ _ (startMirrors_keeps (startAreas_keeps (joinJob_keeps _ _ hz) e) g)

theorem chkFieldTest_keeps {z : State} (c : Slot) (s : State) (hz : Keeps z s) :
    Keeps z (performedState (chkFieldTest c s)) := by
  unfold chkFieldTest
  dsimp only
  split
  · exact hz
  · split
    · exact hz
    · exact beginTest_keeps _ _ _ hz

end Sys2Proof.Machine
end

