-- ==== Sys2Proof/Laws/Ops.lean ====
section
/-! SUPPORT. What the shared operations do, one lemma each: counters, event records, units, the performing and recording of
a command. -/

namespace Sys2Proof.Machine

-- Counters (R15).

/-- Two counters with instances below 65,536 have one key only if they are one counter. -/
theorem ctrKey_inj {id inst id' inst' : Nat} (h : inst < 65536) (h' : inst' < 65536)
    (e : ctrKey id inst = ctrKey id' inst') : id = id' ∧ inst = inst' := by
  have e' : id * 65536 + inst = id' * 65536 + inst' := e
  generalize hc : (65536 : Nat) = c at *
  have hid : id = id' := by
    rcases Nat.lt_trichotomy id id' with hl | hl | hl
    · have := Nat.mul_le_mul_right c hl
      rw [Nat.succ_mul] at this
      omega
    · exact hl
    · have := Nat.mul_le_mul_right c hl
      rw [Nat.succ_mul] at this
      omega
  exact ⟨hid, by subst hid; omega⟩

theorem ctrGet_bump_same (id inst n : Nat) (s : State) :
    ctrGet (bump id inst n s) id inst = sat max64 (ctrGet s id inst + n) := by
  show mapGetD (mapSet s.ctr (ctrKey id inst) _) (ctrKey id inst) 0 = _
  rw [mapGetD_mapSet_same]

theorem ctrGet_bump_key {id inst id' inst' : Nat} (n : Nat) (s : State) (h : ctrKey id' inst' ≠ ctrKey id inst) :
    ctrGet (bump id inst n s) id' inst' = ctrGet s id' inst' := by
  show mapGetD (mapSet s.ctr (ctrKey id inst) _) (ctrKey id' inst') 0 = _
  rw [mapGetD_mapSet_other _ _ _ h]
  rfl

theorem ctrGet_bump_other {id inst id' inst' : Nat} (n : Nat) (s : State) (hi : inst < 65536) (hi' : inst' < 65536)
    (h : (id', inst') ≠ (id, inst)) : ctrGet (bump id inst n s) id' inst' = ctrGet s id' inst' := by
  apply ctrGet_bump_key
  intro e
  obtain ⟨a, b⟩ := ctrKey_inj hi' hi e
  exact h (by rw [a, b])

/-- Counting changes counters alone. -/
theorem bump_frame (id inst n : Nat) (s : State) : bump id inst n s = { s with ctr := (bump id inst n s).ctr } := rfl

-- Event records (R520).

theorem countRaising_frame (code src : Nat) (s : State) :
    countRaising code src s = { s with ctr := (bump Cnt.evrRaised code 1 s).ctr, evr := (countRaising code src s).evr } := rfl

/-- What stages 2 and 3 do: a record joins the queue, or the loss is counted; nothing but counters and recorder changes. -/
theorem enqueue_cases (code src time : Nat) (payload : List Byte) (s : State) :
    ((bucketDue s code).tokens ≠ 0 ∧ s.evr.queue.length < 4096 ∧ (enqueue code src time payload s).ctr = s.ctr ∧
        (enqueue code src time payload s).evr.queue =
          s.evr.queue ++ [{ seq := 0, code := code, sev := evSev code, src := src, time := time, payload := payload }]
      ∨ ¬((bucketDue s code).tokens ≠ 0 ∧ s.evr.queue.length < 4096) ∧
        (enqueue code src time payload s).ctr = (bump Cnt.evrSuppress code 1 s).ctr ∧
        (enqueue code src time payload s).evr.queue = s.evr.queue)
    ∧ enqueue code src time payload s =
        { s with ctr := (enqueue code src time payload s).ctr, evr := (enqueue code src time payload s).evr } := by
  unfold enqueue
  dsimp only
  by_cases hb : (bucketDue s code).tokens = 0
  · rw [if_pos hb]
    exact ⟨.inr ⟨fun h => h.1 hb, rfl, rfl⟩, rfl⟩
  · rw [if_neg hb]
    by_cases hq : 4096 ≤ s.evr.queue.length
    · rw [if_pos hq]
      exact ⟨.inr ⟨fun h => Nat.not_lt.mpr hq h.2, rfl, rfl⟩, rfl⟩
    · rw [if_neg hq]
      exact ⟨.inl ⟨hb, Nat.lt_of_not_le hq, rfl, rfl⟩, rfl⟩

/-- MEM_EVENT is set for the three events of R495 and stays otherwise. -/
theorem noteMemEvent_eq (code : Nat) (s : State) :
    noteMemEvent code s = { s with flash := { s.flash with brg := { s.flash.brg with
      memEvent := s.flash.brg.memEvent || memEventCodes.contains code } } } := by
  unfold noteMemEvent
  split
  · next h => rw [h, Bool.or_true]
  · next h =>
    rw [Bool.not_eq_true] at h
    rw [h, Bool.or_false]

/-- Raising an event changes only counters, the recorder and MEM_EVENT. -/
theorem raise_frame (code src : Nat) (payload : List Byte) (s : State) :
    raise code src payload s = { s with
      ctr := (raise code src payload s).ctr
      evr := (raise code src payload s).evr
      flash := { s.flash with brg := { s.flash.brg with
        memEvent := s.flash.brg.memEvent || memEventCodes.contains code } } } := by
  unfold raise
  rw [noteMemEvent_eq, (enqueue_cases code src s.now payload (countRaising code src s)).2]
  rfl

/-- Raising an event leaves every counter of another ID alone. -/
theorem ctrGet_raise {code src id inst : Nat} (payload : List Byte) (s : State) (hc : code < 65536) (hi : inst < 65536)
    (h1 : id ≠ Cnt.evrRaised) (h2 : id ≠ Cnt.evrSuppress) : ctrGet (raise code src payload s) id inst = ctrGet s id inst := by
  have hr : ctrGet (countRaising code src s) id inst = ctrGet s id inst :=
    ctrGet_bump_other 1 s hc hi (fun e => h1 (Prod.mk.inj e).1)
  rw [← hr]
  unfold raise
  rw [noteMemEvent_eq]
  rcases (enqueue_cases code src s.now payload (countRaising code src s)).1 with ⟨_, _, h, _⟩ | ⟨_, h, _⟩
  · show mapGetD (enqueue code src s.now payload (countRaising code src s)).ctr _ _ = _
    rw [h]
    rfl
  · show mapGetD (enqueue code src s.now payload (countRaising code src s)).ctr _ _ = _
    rw [h]
    exact ctrGet_bump_other 1 _ hc hi (fun e => h2 (Prod.mk.inj e).1)

-- Messages to the host and state changes (R426, R428, R591): they change no counter.

theorem msix_frame (v : Nat) (s : State) : msix v s = { s with host := (msix v s).host } := by
  unfold msix
  repeat' split
  all_goals rfl

theorem pkgEvt_frame (i : Nat) (s : State) : pkgEvt i s = { s with host := (pkgEvt i s).host } := by
  unfold pkgEvt
  dsimp only
  split
  · rfl
  · rw [msix_frame]

theorem stateChanged_frame (s : State) :
    stateChanged s = { s with stateSeq := (s.stateSeq + 1) % 65536, host := (stateChanged s).host } := by
  unfold stateChanged
  rw [pkgEvt_frame]

theorem setSm_frame (d : SmState) (s : State) :
    setSm d s = { s with stateSeq := (setSm d s).stateSeq, sm := { s.sm with state := d }, host := (setSm d s).host } := by
  unfold setSm
  split
  · next h => rw [← h]
  · rw [stateChanged_frame]

theorem setDev_frame (d : DevState) (s : State) :
    setDev d s =
      { s with dev := d, stateSeq := (setDev d s).stateSeq, chk := (setDev d s).chk, host := (setDev d s).host } := by
  unfold setDev
  split
  · next h => rw [← h]
  · rw [stateChanged_frame]

-- The passing of time.

/-- `t` is `s` but for counters and what counts time. -/
def timeOnly (s t : State) : Prop :=
  t = { s with ctr := t.ctr, flash := { s.flash with histNs := t.flash.histNs }, dsp := { s.dsp with frac := t.dsp.frac } }

theorem timeOnly.refl (s : State) : timeOnly s s := rfl

theorem timeOnly.trans {a b c : State} (h : timeOnly a b) (g : timeOnly b c) : timeOnly a c := by
  unfold timeOnly at *
  rw [g, h]

theorem timeOnly.bump {r s : State} (id inst n : Nat) (h : timeOnly r s) : timeOnly r (bump id inst n s) :=
  h.trans rfl

theorem timeOnly.foldl {α : Type} {r s : State} {f : State → α → State} {l : List α} (h : timeOnly r s)
    (hf : ∀ t a, timeOnly r t → timeOnly r (f t a)) : timeOnly r (l.foldl f s) := by
  induction l generalizing s with
  | nil => exact h
  | cons a l ih => exact ih (hf s a h)

theorem hostTime_only {r : State} (dt : Nat) (s : State) (h : timeOnly r s) : timeOnly r (hostTime dt s) := by
  have h1 : timeOnly r (s.pkg.dies.foldl
      (fun s e => if e.2.step = 0 then s else Sys2Proof.Machine.bump Cnt.pkgTempThrottleNs e.1 dt s) s) := by
    refine h.foldl fun t a ht => ?_
    split
    · exact ht
    · exact ht.bump _ _ _
  unfold hostTime
  dsimp only
  generalize s.pkg.dies.foldl _ s = u at h1 ⊢
  repeat' split
  all_goals exact h1.trans rfl

theorem stackTime_only {r : State} (dt : Nat) (s : State) (h : timeOnly r s) : timeOnly r (stackTime dt s) := by
  unfold stackTime
  refine h.foldl fun t a ht => ?_
  dsimp only
  repeat' split
  all_goals exact ht.trans rfl

theorem addCclk_only {r : State} (id lc k dt : Nat) (s : State) (h : timeOnly r s) : timeOnly r (addCclk id lc k dt s) := by
  unfold addCclk
  dsimp only
  repeat' split
  all_goals exact h.trans rfl

theorem coreTime_only {r : State} (dt : Nat) (s : State) (lc : Nat) (h : timeOnly r s) : timeOnly r (coreTime dt s lc) := by
  unfold coreTime
  dsimp only
  repeat' split
  all_goals repeat' first | exact h | apply addCclk_only

/-- What `dt` ns change: time, counters of time, and nothing else. -/
theorem advance_frame (dt : Nat) (s : State) :
    advance dt s = { s with
      now := s.now + dt
      ctr := (advance dt s).ctr
      flash := { s.flash with histNs := (advance dt s).flash.histNs }
      dsp := { s.dsp with frac := (advance dt s).dsp.frac } } := by
  unfold advance
  split
  · next h => subst h; rfl
  · dsimp only
    have key : ∀ u, timeOnly s u → { u with now := u.now + dt } = { s with
        now := s.now + dt
        ctr := u.ctr
        flash := { s.flash with histNs := u.flash.histNs }
        dsp := { s.dsp with frac := u.dsp.frac } } := by
      intro u hu
      unfold timeOnly at hu
      have hn : u.now = s.now := by rw [hu]
      rw [hn]
      conv => lhs; rw [hu]
    apply key
    split
    · exact (stackTime_only dt _ (hostTime_only dt s (timeOnly.refl s))).foldl fun t a ht => coreTime_only dt t a ht
    · exact timeOnly.refl s

theorem advance_now (dt : Nat) (s : State) : (advance dt s).now = s.now + dt := by rw [advance_frame]

theorem reachTime_now (t : Nat) (s : State) : (reachTime t s).now = Nat.max s.now t := by
  unfold reachTime
  rw [advance_now]
  show s.now + (t - s.now) = max s.now t
  omega

-- Units (R3).

theorem onUnit_present {p : Bool} (t : State) (h : p = true) : onUnit p t = .next t := by rw [h]; rfl

theorem onUnit_absent {p : Bool} (t : State) (h : p = false) : onUnit p t = .fault .absentUnit := by rw [h]; rfl

-- Performing a command (R38, R441, R442).

theorem performCmd_done {s t : State} {src : CmdSrc} {op : Nat} {c : Slot} {r : Completion} {f : Slot → State → Performed}
    (h : performs s src op c) (hf : f c s = .done t r) : performCmd op src f s = recorded src c r t := by
  obtain ⟨h1, h2, h3, h4⟩ := h
  simp [performCmd, h1, h2, h3, h4, hf, recorded]

theorem performCmd_wait {s t : State} {src : CmdSrc} {op : Nat} {c : Slot} {f : Slot → State → Performed}
    (h : performs s src op c) (hf : f c s = .wait t) : performCmd op src f s = leftWaiting src c t := by
  obtain ⟨h1, h2, h3, h4⟩ := h
  simp [performCmd, h1, h2, h3, h4, hf, leftWaiting]

theorem performNow_of {s : State} {src : CmdSrc} {op : Nat} {c : Slot} (f : List Byte → State → State × Completion)
    (h : performs s src op c) : performNow op src f s = recorded src c (f c.payload s).2 (f c.payload s).1 :=
  performCmd_done h rfl

theorem performQuery_of {s : State} {src : CmdSrc} {op : Nat} {c : Slot} (f : List Byte → State → Completion)
    (h : performs s src op c) : performQuery op src f s = recorded src c (f c.payload s) s :=
  performNow_of (fun p s => (s, f p s)) h

/-- A stale command completes with ST_BAD_STATE and no effect. -/
theorem performCmd_stale {s : State} {src : CmdSrc} {op : Nat} {c : Slot} (f : Slot → State → Performed)
    (h1 : slotOf s src = some c) (h2 : runnable op c = true) (h3 : c.stale = true) (h4 : s.sm.state = .running) :
    performCmd op src f s = recorded src c (plain St.badState) s := by
  simp [performCmd, h1, h2, h3, h4, recorded]

-- Mailboxes.

@[simp] theorem mailbox_set_same (n : Nat) (m : Mailbox) (s : State) : mailbox (setMailbox n m s) n = m := by
  simp [mailbox, setMailbox]

theorem mailbox_set_other {n k : Nat} (m : Mailbox) (s : State) (h : k ≠ n) : mailbox (setMailbox n m s) k = mailbox s k := by
  simp [mailbox, setMailbox, mapGetD_mapSet_other _ _ _ h]

end Sys2Proof.Machine
end

