-- ==== Sys2Proof/Laws/Packets.lean ====
section
/-! SUPPORT. What the reception of a packet comes to, once for all packets (R397). -/

namespace Sys2Proof.Machine

/-- A packet for this package, well formed, is handed to what follows steps 1 and 2, and its credits are returned. -/
theorem receive_addressed {i : Instr} {h : Hdr} {s : State} (f : Hdr → State → State) (a : addressed s i h) :
    receive i f s = returnCredits i h (f h s) := by
  obtain ⟨h1, h2, h3, h4, h5⟩ := a
  simp [receive, h1, h2, h3, h4, h5]

theorem digest_job (b : Bool) (p : Nat) (i : Instr) (s : State) : (digest b p i s).job = s.job := by
  unfold digest
  split
  · rfl
  · dsimp only
    split <;> rfl

theorem digest_step (b : Bool) (p : Nat) (i : Instr) (s : State) : (digest b p i s).step = s.step := by
  unfold digest
  split
  · rfl
  · dsimp only
    split <;> rfl

theorem stepOf_digest (b : Bool) (p : Nat) (i : Instr) (s : State) : stepOf (digest b p i s) = stepOf s := by
  unfold stepOf
  rw [digest_job, digest_step]

/-- A pool or collective packet whose epoch is in force is digested and judged by its step. -/
theorem takePacket_inForce {i : Instr} {h : Hdr} {s : State} (a : addressed s i h)
    (he : epochJudged s = true → h.epoch = epochOf s) :
    takePacket i s = returnCredits i h (judgeStep i h (digest false h.src i s)) := by
  unfold takePacket
  rw [receive_addressed _ a]
  simp only [judgeEpoch]
  rw [if_neg, if_neg]
  · intro h
    simp only [Bool.and_eq_true, decide_eq_true_eq] at h
    have := he h.1
    omega
  · intro h
    simp only [Bool.and_eq_true, decide_eq_true_eq] at h
    have := he h.1
    omega

/-- A current pool or collective packet has its effect on the state that holds its digest. -/
theorem takePacket_current {i : Instr} {h : Hdr} {s : State} (c : current s i h) :
    takePacket i s = returnCredits i h (handle i (digest false h.src i s)) := by
  obtain ⟨a, he, h1, h2, h3, h4⟩ := c
  rw [takePacket_inForce a he]
  simp only [judgeStep, stepOf_digest]
  rw [if_neg (by omega)]
  cases hk : stepKind i
  · simp [h3 hk]
  · have := h2 hk
    simp [Nat.not_lt.mpr this]
  · simp [h4 (.inl hk)]
  · simp [h4 (.inr hk)]
  · rfl

end Sys2Proof.Machine
end

