-- ==== Sys2Proof/Laws/State.lean ====
section
/-! SUPPORT. What each update of the state leaves as it was, field by field, and what is read after it. -/

namespace Sys2Proof.Machine

-- bump

@[simp] theorem bump_now (id inst n : Nat) (s : State) : (bump id inst n s).now = s.now := rfl
@[simp] theorem bump_dev (id inst n : Nat) (s : State) : (bump id inst n s).dev = s.dev := rfl
@[simp] theorem bump_stateSeq (id inst n : Nat) (s : State) : (bump id inst n s).stateSeq = s.stateSeq := rfl
@[simp] theorem bump_step (id inst n : Nat) (s : State) : (bump id inst n s).step = s.step := rfl
@[simp] theorem bump_fuse (id inst n : Nat) (s : State) : (bump id inst n s).fuse = s.fuse := rfl
@[simp] theorem bump_flash (id inst n : Nat) (s : State) : (bump id inst n s).flash = s.flash := rfl
@[simp] theorem bump_cpl (id inst n : Nat) (s : State) : (bump id inst n s).cpl = s.cpl := rfl
@[simp] theorem bump_mem (id inst n : Nat) (s : State) : (bump id inst n s).mem = s.mem := rfl
@[simp] theorem bump_pool (id inst n : Nat) (s : State) : (bump id inst n s).pool = s.pool := rfl
@[simp] theorem bump_fab (id inst n : Nat) (s : State) : (bump id inst n s).fab = s.fab := rfl
@[simp] theorem bump_job (id inst n : Nat) (s : State) : (bump id inst n s).job = s.job := rfl
@[simp] theorem bump_dsp (id inst n : Nat) (s : State) : (bump id inst n s).dsp = s.dsp := rfl
@[simp] theorem bump_sig (id inst n : Nat) (s : State) : (bump id inst n s).sig = s.sig := rfl
@[simp] theorem bump_eng (id inst n : Nat) (s : State) : (bump id inst n s).eng = s.eng := rfl
@[simp] theorem bump_chk (id inst n : Nat) (s : State) : (bump id inst n s).chk = s.chk := rfl
@[simp] theorem bump_sm (id inst n : Nat) (s : State) : (bump id inst n s).sm = s.sm := rfl
@[simp] theorem bump_host (id inst n : Nat) (s : State) : (bump id inst n s).host = s.host := rfl
@[simp] theorem bump_evr (id inst n : Nat) (s : State) : (bump id inst n s).evr = s.evr := rfl
@[simp] theorem bump_meter (id inst n : Nat) (s : State) : (bump id inst n s).meter = s.meter := rfl
@[simp] theorem bump_win (id inst n : Nat) (s : State) : (bump id inst n s).win = s.win := rfl
@[simp] theorem bump_pkg (id inst n : Nat) (s : State) : (bump id inst n s).pkg = s.pkg := rfl
@[simp] theorem bump_boot (id inst n : Nat) (s : State) : (bump id inst n s).boot = s.boot := rfl
@[simp] theorem bump_brg (id inst n : Nat) (s : State) : (bump id inst n s).brg = s.brg := rfl
@[simp] theorem bump_fw (id inst n : Nat) (s : State) : (bump id inst n s).fw = s.fw := rfl
@[simp] theorem bump_pending (id inst n : Nat) (s : State) : (bump id inst n s).pending = s.pending := rfl
@[simp] theorem bump_free (id inst n : Nat) (s : State) : (bump id inst n s).free = s.free := rfl

-- setMailbox

@[simp] theorem setMailbox_now (n : Nat) (m : Mailbox) (s : State) : (setMailbox n m s).now = s.now := rfl
@[simp] theorem setMailbox_dev (n : Nat) (m : Mailbox) (s : State) : (setMailbox n m s).dev = s.dev := rfl
@[simp] theorem setMailbox_stateSeq (n : Nat) (m : Mailbox) (s : State) : (setMailbox n m s).stateSeq = s.stateSeq := rfl
@[simp] theorem setMailbox_step (n : Nat) (m : Mailbox) (s : State) : (setMailbox n m s).step = s.step := rfl
@[simp] theorem setMailbox_ctr (n : Nat) (m : Mailbox) (s : State) : (setMailbox n m s).ctr = s.ctr := rfl
@[simp] theorem setMailbox_fuse (n : Nat) (m : Mailbox) (s : State) : (setMailbox n m s).fuse = s.fuse := rfl
@[simp] theorem setMailbox_flash (n : Nat) (m : Mailbox) (s : State) : (setMailbox n m s).flash = s.flash := rfl
@[simp] theorem setMailbox_cpl (n : Nat) (m : Mailbox) (s : State) : (setMailbox n m s).cpl = s.cpl := rfl
@[simp] theorem setMailbox_mem (n : Nat) (m : Mailbox) (s : State) : (setMailbox n m s).mem = s.mem := rfl
@[simp] theorem setMailbox_pool (n : Nat) (m : Mailbox) (s : State) : (setMailbox n m s).pool = s.pool := rfl
@[simp] theorem setMailbox_fab (n : Nat) (m : Mailbox) (s : State) : (setMailbox n m s).fab = s.fab := rfl
@[simp] theorem setMailbox_job (n : Nat) (m : Mailbox) (s : State) : (setMailbox n m s).job = s.job := rfl
@[simp] theorem setMailbox_dsp (n : Nat) (m : Mailbox) (s : State) : (setMailbox n m s).dsp = s.dsp := rfl
@[simp] theorem setMailbox_sig (n : Nat) (m : Mailbox) (s : State) : (setMailbox n m s).sig = s.sig := rfl
@[simp] theorem setMailbox_eng (n : Nat) (m : Mailbox) (s : State) : (setMailbox n m s).eng = s.eng := rfl
@[simp] theorem setMailbox_chk (n : Nat) (m : Mailbox) (s : State) : (setMailbox n m s).chk = s.chk := rfl
@[simp] theorem setMailbox_sm (n : Nat) (m : Mailbox) (s : State) : (setMailbox n m s).sm = s.sm := rfl
@[simp] theorem setMailbox_evr (n : Nat) (m : Mailbox) (s : State) : (setMailbox n m s).evr = s.evr := rfl
@[simp] theorem setMailbox_meter (n : Nat) (m : Mailbox) (s : State) : (setMailbox n m s).meter = s.meter := rfl
@[simp] theorem setMailbox_win (n : Nat) (m : Mailbox) (s : State) : (setMailbox n m s).win = s.win := rfl
@[simp] theorem setMailbox_pkg (n : Nat) (m : Mailbox) (s : State) : (setMailbox n m s).pkg = s.pkg := rfl
@[simp] theorem setMailbox_boot (n : Nat) (m : Mailbox) (s : State) : (setMailbox n m s).boot = s.boot := rfl
@[simp] theorem setMailbox_brg (n : Nat) (m : Mailbox) (s : State) : (setMailbox n m s).brg = s.brg := rfl
@[simp] theorem setMailbox_fw (n : Nat) (m : Mailbox) (s : State) : (setMailbox n m s).fw = s.fw := rfl
@[simp] theorem setMailbox_pending (n : Nat) (m : Mailbox) (s : State) : (setMailbox n m s).pending = s.pending := rfl
@[simp] theorem setMailbox_free (n : Nat) (m : Mailbox) (s : State) : (setMailbox n m s).free = s.free := rfl

-- setDisp

@[simp] theorem setDisp_now (lc : Nat) (d : Disp) (s : State) : (setDisp lc d s).now = s.now := rfl
@[simp] theorem setDisp_dev (lc : Nat) (d : Disp) (s : State) : (setDisp lc d s).dev = s.dev := rfl
@[simp] theorem setDisp_stateSeq (lc : Nat) (d : Disp) (s : State) : (setDisp lc d s).stateSeq = s.stateSeq := rfl
@[simp] theorem setDisp_step (lc : Nat) (d : Disp) (s : State) : (setDisp lc d s).step = s.step := rfl
@[simp] theorem setDisp_ctr (lc : Nat) (d : Disp) (s : State) : (setDisp lc d s).ctr = s.ctr := rfl
@[simp] theorem setDisp_fuse (lc : Nat) (d : Disp) (s : State) : (setDisp lc d s).fuse = s.fuse := rfl
@[simp] theorem setDisp_flash (lc : Nat) (d : Disp) (s : State) : (setDisp lc d s).flash = s.flash := rfl
@[simp] theorem setDisp_cpl (lc : Nat) (d : Disp) (s : State) : (setDisp lc d s).cpl = s.cpl := rfl
@[simp] theorem setDisp_mem (lc : Nat) (d : Disp) (s : State) : (setDisp lc d s).mem = s.mem := rfl
@[simp] theorem setDisp_pool (lc : Nat) (d : Disp) (s : State) : (setDisp lc d s).pool = s.pool := rfl
@[simp] theorem setDisp_fab (lc : Nat) (d : Disp) (s : State) : (setDisp lc d s).fab = s.fab := rfl
@[simp] theorem setDisp_job (lc : Nat) (d : Disp) (s : State) : (setDisp lc d s).job = s.job := rfl
@[simp] theorem setDisp_sig (lc : Nat) (d : Disp) (s : State) : (setDisp lc d s).sig = s.sig := rfl
@[simp] theorem setDisp_eng (lc : Nat) (d : Disp) (s : State) : (setDisp lc d s).eng = s.eng := rfl
@[simp] theorem setDisp_chk (lc : Nat) (d : Disp) (s : State) : (setDisp lc d s).chk = s.chk := rfl
@[simp] theorem setDisp_sm (lc : Nat) (d : Disp) (s : State) : (setDisp lc d s).sm = s.sm := rfl
@[simp] theorem setDisp_host (lc : Nat) (d : Disp) (s : State) : (setDisp lc d s).host = s.host := rfl
@[simp] theorem setDisp_evr (lc : Nat) (d : Disp) (s : State) : (setDisp lc d s).evr = s.evr := rfl
@[simp] theorem setDisp_meter (lc : Nat) (d : Disp) (s : State) : (setDisp lc d s).meter = s.meter := rfl
@[simp] theorem setDisp_win (lc : Nat) (d : Disp) (s : State) : (setDisp lc d s).win = s.win := rfl
@[simp] theorem setDisp_pkg (lc : Nat) (d : Disp) (s : State) : (setDisp lc d s).pkg = s.pkg := rfl
@[simp] theorem setDisp_boot (lc : Nat) (d : Disp) (s : State) : (setDisp lc d s).boot = s.boot := rfl
@[simp] theorem setDisp_brg (lc : Nat) (d : Disp) (s : State) : (setDisp lc d s).brg = s.brg := rfl
@[simp] theorem setDisp_fw (lc : Nat) (d : Disp) (s : State) : (setDisp lc d s).fw = s.fw := rfl
@[simp] theorem setDisp_pending (lc : Nat) (d : Disp) (s : State) : (setDisp lc d s).pending = s.pending := rfl
@[simp] theorem setDisp_free (lc : Nat) (d : Disp) (s : State) : (setDisp lc d s).free = s.free := rfl

@[simp] theorem disp_setDisp_same (lc : Nat) (d : Disp) (s : State) : disp (setDisp lc d s) lc = d := by simp [disp, setDisp]

theorem disp_setDisp_other {lc k : Nat} (d : Disp) (s : State) (h : k ≠ lc) :
    disp (setDisp lc d s) k = disp s k := by simp [disp, setDisp, mapGetD_mapSet_other _ _ _ h]

-- setCtx

@[simp] theorem setCtx_now (lc x : Nat) (c : Ctx) (s : State) : (setCtx lc x c s).now = s.now := rfl
@[simp] theorem setCtx_dev (lc x : Nat) (c : Ctx) (s : State) : (setCtx lc x c s).dev = s.dev := rfl
@[simp] theorem setCtx_stateSeq (lc x : Nat) (c : Ctx) (s : State) : (setCtx lc x c s).stateSeq = s.stateSeq := rfl
@[simp] theorem setCtx_step (lc x : Nat) (c : Ctx) (s : State) : (setCtx lc x c s).step = s.step := rfl
@[simp] theorem setCtx_ctr (lc x : Nat) (c : Ctx) (s : State) : (setCtx lc x c s).ctr = s.ctr := rfl
@[simp] theorem setCtx_fuse (lc x : Nat) (c : Ctx) (s : State) : (setCtx lc x c s).fuse = s.fuse := rfl
@[simp] theorem setCtx_flash (lc x : Nat) (c : Ctx) (s : State) : (setCtx lc x c s).flash = s.flash := rfl
@[simp] theorem setCtx_cpl (lc x : Nat) (c : Ctx) (s : State) : (setCtx lc x c s).cpl = s.cpl := rfl
@[simp] theorem setCtx_mem (lc x : Nat) (c : Ctx) (s : State) : (setCtx lc x c s).mem = s.mem := rfl
@[simp] theorem setCtx_pool (lc x : Nat) (c : Ctx) (s : State) : (setCtx lc x c s).pool = s.pool := rfl
@[simp] theorem setCtx_fab (lc x : Nat) (c : Ctx) (s : State) : (setCtx lc x c s).fab = s.fab := rfl
@[simp] theorem setCtx_job (lc x : Nat) (c : Ctx) (s : State) : (setCtx lc x c s).job = s.job := rfl
@[simp] theorem setCtx_sig (lc x : Nat) (c : Ctx) (s : State) : (setCtx lc x c s).sig = s.sig := rfl
@[simp] theorem setCtx_eng (lc x : Nat) (c : Ctx) (s : State) : (setCtx lc x c s).eng = s.eng := rfl
@[simp] theorem setCtx_chk (lc x : Nat) (c : Ctx) (s : State) : (setCtx lc x c s).chk = s.chk := rfl
@[simp] theorem setCtx_sm (lc x : Nat) (c : Ctx) (s : State) : (setCtx lc x c s).sm = s.sm := rfl
@[simp] theorem setCtx_host (lc x : Nat) (c : Ctx) (s : State) : (setCtx lc x c s).host = s.host := rfl
@[simp] theorem setCtx_evr (lc x : Nat) (c : Ctx) (s : State) : (setCtx lc x c s).evr = s.evr := rfl
@[simp] theorem setCtx_meter (lc x : Nat) (c : Ctx) (s : State) : (setCtx lc x c s).meter = s.meter := rfl
@[simp] theorem setCtx_win (lc x : Nat) (c : Ctx) (s : State) : (setCtx lc x c s).win = s.win := rfl
@[simp] theorem setCtx_pkg (lc x : Nat) (c : Ctx) (s : State) : (setCtx lc x c s).pkg = s.pkg := rfl
@[simp] theorem setCtx_boot (lc x : Nat) (c : Ctx) (s : State) : (setCtx lc x c s).boot = s.boot := rfl
@[simp] theorem setCtx_brg (lc x : Nat) (c : Ctx) (s : State) : (setCtx lc x c s).brg = s.brg := rfl
@[simp] theorem setCtx_fw (lc x : Nat) (c : Ctx) (s : State) : (setCtx lc x c s).fw = s.fw := rfl
@[simp] theorem setCtx_pending (lc x : Nat) (c : Ctx) (s : State) : (setCtx lc x c s).pending = s.pending := rfl
@[simp] theorem setCtx_free (lc x : Nat) (c : Ctx) (s : State) : (setCtx lc x c s).free = s.free := rfl

-- setDeque

@[simp] theorem setDeque_now (lc i : Nat) (l : List Task) (s : State) : (setDeque lc i l s).now = s.now := rfl
@[simp] theorem setDeque_dev (lc i : Nat) (l : List Task) (s : State) : (setDeque lc i l s).dev = s.dev := rfl
@[simp] theorem setDeque_stateSeq (lc i : Nat) (l : List Task) (s : State) : (setDeque lc i l s).stateSeq = s.stateSeq := rfl
@[simp] theorem setDeque_step (lc i : Nat) (l : List Task) (s : State) : (setDeque lc i l s).step = s.step := rfl
@[simp] theorem setDeque_ctr (lc i : Nat) (l : List Task) (s : State) : (setDeque lc i l s).ctr = s.ctr := rfl
@[simp] theorem setDeque_fuse (lc i : Nat) (l : List Task) (s : State) : (setDeque lc i l s).fuse = s.fuse := rfl
@[simp] theorem setDeque_flash (lc i : Nat) (l : List Task) (s : State) : (setDeque lc i l s).flash = s.flash := rfl
@[simp] theorem setDeque_cpl (lc i : Nat) (l : List Task) (s : State) : (setDeque lc i l s).cpl = s.cpl := rfl
@[simp] theorem setDeque_mem (lc i : Nat) (l : List Task) (s : State) : (setDeque lc i l s).mem = s.mem := rfl
@[simp] theorem setDeque_pool (lc i : Nat) (l : List Task) (s : State) : (setDeque lc i l s).pool = s.pool := rfl
@[simp] theorem setDeque_fab (lc i : Nat) (l : List Task) (s : State) : (setDeque lc i l s).fab = s.fab := rfl
@[simp] theorem setDeque_job (lc i : Nat) (l : List Task) (s : State) : (setDeque lc i l s).job = s.job := rfl
@[simp] theorem setDeque_sig (lc i : Nat) (l : List Task) (s : State) : (setDeque lc i l s).sig = s.sig := rfl
@[simp] theorem setDeque_eng (lc i : Nat) (l : List Task) (s : State) : (setDeque lc i l s).eng = s.eng := rfl
@[simp] theorem setDeque_chk (lc i : Nat) (l : List Task) (s : State) : (setDeque lc i l s).chk = s.chk := rfl
@[simp] theorem setDeque_sm (lc i : Nat) (l : List Task) (s : State) : (setDeque lc i l s).sm = s.sm := rfl
@[simp] theorem setDeque_host (lc i : Nat) (l : List Task) (s : State) : (setDeque lc i l s).host = s.host := rfl
@[simp] theorem setDeque_evr (lc i : Nat) (l : List Task) (s : State) : (setDeque lc i l s).evr = s.evr := rfl
@[simp] theorem setDeque_meter (lc i : Nat) (l : List Task) (s : State) : (setDeque lc i l s).meter = s.meter := rfl
@[simp] theorem setDeque_win (lc i : Nat) (l : List Task) (s : State) : (setDeque lc i l s).win = s.win := rfl
@[simp] theorem setDeque_pkg (lc i : Nat) (l : List Task) (s : State) : (setDeque lc i l s).pkg = s.pkg := rfl
@[simp] theorem setDeque_boot (lc i : Nat) (l : List Task) (s : State) : (setDeque lc i l s).boot = s.boot := rfl
@[simp] theorem setDeque_brg (lc i : Nat) (l : List Task) (s : State) : (setDeque lc i l s).brg = s.brg := rfl
@[simp] theorem setDeque_fw (lc i : Nat) (l : List Task) (s : State) : (setDeque lc i l s).fw = s.fw := rfl
@[simp] theorem setDeque_pending (lc i : Nat) (l : List Task) (s : State) : (setDeque lc i l s).pending = s.pending := rfl
@[simp] theorem setDeque_free (lc i : Nat) (l : List Task) (s : State) : (setDeque lc i l s).free = s.free := rfl

-- setLine

@[simp] theorem setLine_now (l : Nat) (g : SigLine) (s : State) : (setLine l g s).now = s.now := rfl
@[simp] theorem setLine_dev (l : Nat) (g : SigLine) (s : State) : (setLine l g s).dev = s.dev := rfl
@[simp] theorem setLine_stateSeq (l : Nat) (g : SigLine) (s : State) : (setLine l g s).stateSeq = s.stateSeq := rfl
@[simp] theorem setLine_step (l : Nat) (g : SigLine) (s : State) : (setLine l g s).step = s.step := rfl
@[simp] theorem setLine_ctr (l : Nat) (g : SigLine) (s : State) : (setLine l g s).ctr = s.ctr := rfl
@[simp] theorem setLine_fuse (l : Nat) (g : SigLine) (s : State) : (setLine l g s).fuse = s.fuse := rfl
@[simp] theorem setLine_flash (l : Nat) (g : SigLine) (s : State) : (setLine l g s).flash = s.flash := rfl
@[simp] theorem setLine_cpl (l : Nat) (g : SigLine) (s : State) : (setLine l g s).cpl = s.cpl := rfl
@[simp] theorem setLine_mem (l : Nat) (g : SigLine) (s : State) : (setLine l g s).mem = s.mem := rfl
@[simp] theorem setLine_pool (l : Nat) (g : SigLine) (s : State) : (setLine l g s).pool = s.pool := rfl
@[simp] theorem setLine_fab (l : Nat) (g : SigLine) (s : State) : (setLine l g s).fab = s.fab := rfl
@[simp] theorem setLine_job (l : Nat) (g : SigLine) (s : State) : (setLine l g s).job = s.job := rfl
@[simp] theorem setLine_dsp (l : Nat) (g : SigLine) (s : State) : (setLine l g s).dsp = s.dsp := rfl
@[simp] theorem setLine_eng (l : Nat) (g : SigLine) (s : State) : (setLine l g s).eng = s.eng := rfl
@[simp] theorem setLine_chk (l : Nat) (g : SigLine) (s : State) : (setLine l g s).chk = s.chk := rfl
@[simp] theorem setLine_sm (l : Nat) (g : SigLine) (s : State) : (setLine l g s).sm = s.sm := rfl
@[simp] theorem setLine_host (l : Nat) (g : SigLine) (s : State) : (setLine l g s).host = s.host := rfl
@[simp] theorem setLine_evr (l : Nat) (g : SigLine) (s : State) : (setLine l g s).evr = s.evr := rfl
@[simp] theorem setLine_meter (l : Nat) (g : SigLine) (s : State) : (setLine l g s).meter = s.meter := rfl
@[simp] theorem setLine_win (l : Nat) (g : SigLine) (s : State) : (setLine l g s).win = s.win := rfl
@[simp] theorem setLine_pkg (l : Nat) (g : SigLine) (s : State) : (setLine l g s).pkg = s.pkg := rfl
@[simp] theorem setLine_boot (l : Nat) (g : SigLine) (s : State) : (setLine l g s).boot = s.boot := rfl
@[simp] theorem setLine_brg (l : Nat) (g : SigLine) (s : State) : (setLine l g s).brg = s.brg := rfl
@[simp] theorem setLine_fw (l : Nat) (g : SigLine) (s : State) : (setLine l g s).fw = s.fw := rfl
@[simp] theorem setLine_pending (l : Nat) (g : SigLine) (s : State) : (setLine l g s).pending = s.pending := rfl
@[simp] theorem setLine_free (l : Nat) (g : SigLine) (s : State) : (setLine l g s).free = s.free := rfl

@[simp] theorem sigLine_setLine_same (l : Nat) (g : SigLine) (s : State) : sigLine (setLine l g s) l = g := by simp [sigLine, setLine]

theorem sigLine_setLine_other {l k : Nat} (g : SigLine) (s : State) (h : k ≠ l) :
    sigLine (setLine l g s) k = sigLine s k := by simp [sigLine, setLine, mapGetD_mapSet_other _ _ _ h]

-- setTable

@[simp] theorem setTable_now (t : Nat) (tb : Table) (s : State) : (setTable t tb s).now = s.now := rfl
@[simp] theorem setTable_dev (t : Nat) (tb : Table) (s : State) : (setTable t tb s).dev = s.dev := rfl
@[simp] theorem setTable_stateSeq (t : Nat) (tb : Table) (s : State) : (setTable t tb s).stateSeq = s.stateSeq := rfl
@[simp] theorem setTable_step (t : Nat) (tb : Table) (s : State) : (setTable t tb s).step = s.step := rfl
@[simp] theorem setTable_ctr (t : Nat) (tb : Table) (s : State) : (setTable t tb s).ctr = s.ctr := rfl
@[simp] theorem setTable_fuse (t : Nat) (tb : Table) (s : State) : (setTable t tb s).fuse = s.fuse := rfl
@[simp] theorem setTable_flash (t : Nat) (tb : Table) (s : State) : (setTable t tb s).flash = s.flash := rfl
@[simp] theorem setTable_cpl (t : Nat) (tb : Table) (s : State) : (setTable t tb s).cpl = s.cpl := rfl
@[simp] theorem setTable_mem (t : Nat) (tb : Table) (s : State) : (setTable t tb s).mem = s.mem := rfl
@[simp] theorem setTable_fab (t : Nat) (tb : Table) (s : State) : (setTable t tb s).fab = s.fab := rfl
@[simp] theorem setTable_job (t : Nat) (tb : Table) (s : State) : (setTable t tb s).job = s.job := rfl
@[simp] theorem setTable_dsp (t : Nat) (tb : Table) (s : State) : (setTable t tb s).dsp = s.dsp := rfl
@[simp] theorem setTable_sig (t : Nat) (tb : Table) (s : State) : (setTable t tb s).sig = s.sig := rfl
@[simp] theorem setTable_eng (t : Nat) (tb : Table) (s : State) : (setTable t tb s).eng = s.eng := rfl
@[simp] theorem setTable_chk (t : Nat) (tb : Table) (s : State) : (setTable t tb s).chk = s.chk := rfl
@[simp] theorem setTable_sm (t : Nat) (tb : Table) (s : State) : (setTable t tb s).sm = s.sm := rfl
@[simp] theorem setTable_host (t : Nat) (tb : Table) (s : State) : (setTable t tb s).host = s.host := rfl
@[simp] theorem setTable_evr (t : Nat) (tb : Table) (s : State) : (setTable t tb s).evr = s.evr := rfl
@[simp] theorem setTable_meter (t : Nat) (tb : Table) (s : State) : (setTable t tb s).meter = s.meter := rfl
@[simp] theorem setTable_win (t : Nat) (tb : Table) (s : State) : (setTable t tb s).win = s.win := rfl
@[simp] theorem setTable_pkg (t : Nat) (tb : Table) (s : State) : (setTable t tb s).pkg = s.pkg := rfl
@[simp] theorem setTable_boot (t : Nat) (tb : Table) (s : State) : (setTable t tb s).boot = s.boot := rfl
@[simp] theorem setTable_brg (t : Nat) (tb : Table) (s : State) : (setTable t tb s).brg = s.brg := rfl
@[simp] theorem setTable_fw (t : Nat) (tb : Table) (s : State) : (setTable t tb s).fw = s.fw := rfl
@[simp] theorem setTable_pending (t : Nat) (tb : Table) (s : State) : (setTable t tb s).pending = s.pending := rfl
@[simp] theorem setTable_free (t : Nat) (tb : Table) (s : State) : (setTable t tb s).free = s.free := rfl

@[simp] theorem table_setTable_same (t : Nat) (tb : Table) (s : State) : table (setTable t tb s) t = some tb := by simp [table, setTable]

theorem table_setTable_other {t k : Nat} (tb : Table) (s : State) (h : k ≠ t) :
    table (setTable t tb s) k = table s k := by simp [table, setTable, mapGet_mapSet_other _ _ h]

-- setEngine

@[simp] theorem setEngine_now (e : Nat) (g : Engine) (s : State) : (setEngine e g s).now = s.now := rfl
@[simp] theorem setEngine_dev (e : Nat) (g : Engine) (s : State) : (setEngine e g s).dev = s.dev := rfl
@[simp] theorem setEngine_stateSeq (e : Nat) (g : Engine) (s : State) : (setEngine e g s).stateSeq = s.stateSeq := rfl
@[simp] theorem setEngine_step (e : Nat) (g : Engine) (s : State) : (setEngine e g s).step = s.step := rfl
@[simp] theorem setEngine_ctr (e : Nat) (g : Engine) (s : State) : (setEngine e g s).ctr = s.ctr := rfl
@[simp] theorem setEngine_fuse (e : Nat) (g : Engine) (s : State) : (setEngine e g s).fuse = s.fuse := rfl
@[simp] theorem setEngine_flash (e : Nat) (g : Engine) (s : State) : (setEngine e g s).flash = s.flash := rfl
@[simp] theorem setEngine_cpl (e : Nat) (g : Engine) (s : State) : (setEngine e g s).cpl = s.cpl := rfl
@[simp] theorem setEngine_mem (e : Nat) (g : Engine) (s : State) : (setEngine e g s).mem = s.mem := rfl
@[simp] theorem setEngine_pool (e : Nat) (g : Engine) (s : State) : (setEngine e g s).pool = s.pool := rfl
@[simp] theorem setEngine_fab (e : Nat) (g : Engine) (s : State) : (setEngine e g s).fab = s.fab := rfl
@[simp] theorem setEngine_job (e : Nat) (g : Engine) (s : State) : (setEngine e g s).job = s.job := rfl
@[simp] theorem setEngine_dsp (e : Nat) (g : Engine) (s : State) : (setEngine e g s).dsp = s.dsp := rfl
@[simp] theorem setEngine_sig (e : Nat) (g : Engine) (s : State) : (setEngine e g s).sig = s.sig := rfl
@[simp] theorem setEngine_chk (e : Nat) (g : Engine) (s : State) : (setEngine e g s).chk = s.chk := rfl
@[simp] theorem setEngine_sm (e : Nat) (g : Engine) (s : State) : (setEngine e g s).sm = s.sm := rfl
@[simp] theorem setEngine_host (e : Nat) (g : Engine) (s : State) : (setEngine e g s).host = s.host := rfl
@[simp] theorem setEngine_evr (e : Nat) (g : Engine) (s : State) : (setEngine e g s).evr = s.evr := rfl
@[simp] theorem setEngine_meter (e : Nat) (g : Engine) (s : State) : (setEngine e g s).meter = s.meter := rfl
@[simp] theorem setEngine_win (e : Nat) (g : Engine) (s : State) : (setEngine e g s).win = s.win := rfl
@[simp] theorem setEngine_pkg (e : Nat) (g : Engine) (s : State) : (setEngine e g s).pkg = s.pkg := rfl
@[simp] theorem setEngine_boot (e : Nat) (g : Engine) (s : State) : (setEngine e g s).boot = s.boot := rfl
@[simp] theorem setEngine_brg (e : Nat) (g : Engine) (s : State) : (setEngine e g s).brg = s.brg := rfl
@[simp] theorem setEngine_fw (e : Nat) (g : Engine) (s : State) : (setEngine e g s).fw = s.fw := rfl
@[simp] theorem setEngine_pending (e : Nat) (g : Engine) (s : State) : (setEngine e g s).pending = s.pending := rfl
@[simp] theorem setEngine_free (e : Nat) (g : Engine) (s : State) : (setEngine e g s).free = s.free := rfl

@[simp] theorem engine_setEngine_same (e : Nat) (g : Engine) (s : State) : engine (setEngine e g s) e = g := by simp [engine, setEngine]

theorem engine_setEngine_other {e k : Nat} (g : Engine) (s : State) (h : k ≠ e) :
    engine (setEngine e g s) k = engine s k := by simp [engine, setEngine, mapGetD_mapSet_other _ _ _ h]

-- setHacc

@[simp] theorem setHacc_now (lc : Nat) (a : Hacc) (s : State) : (setHacc lc a s).now = s.now := rfl
@[simp] theorem setHacc_dev (lc : Nat) (a : Hacc) (s : State) : (setHacc lc a s).dev = s.dev := rfl
@[simp] theorem setHacc_stateSeq (lc : Nat) (a : Hacc) (s : State) : (setHacc lc a s).stateSeq = s.stateSeq := rfl
@[simp] theorem setHacc_step (lc : Nat) (a : Hacc) (s : State) : (setHacc lc a s).step = s.step := rfl
@[simp] theorem setHacc_ctr (lc : Nat) (a : Hacc) (s : State) : (setHacc lc a s).ctr = s.ctr := rfl
@[simp] theorem setHacc_fuse (lc : Nat) (a : Hacc) (s : State) : (setHacc lc a s).fuse = s.fuse := rfl
@[simp] theorem setHacc_flash (lc : Nat) (a : Hacc) (s : State) : (setHacc lc a s).flash = s.flash := rfl
@[simp] theorem setHacc_cpl (lc : Nat) (a : Hacc) (s : State) : (setHacc lc a s).cpl = s.cpl := rfl
@[simp] theorem setHacc_mem (lc : Nat) (a : Hacc) (s : State) : (setHacc lc a s).mem = s.mem := rfl
@[simp] theorem setHacc_pool (lc : Nat) (a : Hacc) (s : State) : (setHacc lc a s).pool = s.pool := rfl
@[simp] theorem setHacc_fab (lc : Nat) (a : Hacc) (s : State) : (setHacc lc a s).fab = s.fab := rfl
@[simp] theorem setHacc_job (lc : Nat) (a : Hacc) (s : State) : (setHacc lc a s).job = s.job := rfl
@[simp] theorem setHacc_dsp (lc : Nat) (a : Hacc) (s : State) : (setHacc lc a s).dsp = s.dsp := rfl
@[simp] theorem setHacc_sig (lc : Nat) (a : Hacc) (s : State) : (setHacc lc a s).sig = s.sig := rfl
@[simp] theorem setHacc_chk (lc : Nat) (a : Hacc) (s : State) : (setHacc lc a s).chk = s.chk := rfl
@[simp] theorem setHacc_sm (lc : Nat) (a : Hacc) (s : State) : (setHacc lc a s).sm = s.sm := rfl
@[simp] theorem setHacc_host (lc : Nat) (a : Hacc) (s : State) : (setHacc lc a s).host = s.host := rfl
@[simp] theorem setHacc_evr (lc : Nat) (a : Hacc) (s : State) : (setHacc lc a s).evr = s.evr := rfl
@[simp] theorem setHacc_meter (lc : Nat) (a : Hacc) (s : State) : (setHacc lc a s).meter = s.meter := rfl
@[simp] theorem setHacc_win (lc : Nat) (a : Hacc) (s : State) : (setHacc lc a s).win = s.win := rfl
@[simp] theorem setHacc_pkg (lc : Nat) (a : Hacc) (s : State) : (setHacc lc a s).pkg = s.pkg := rfl
@[simp] theorem setHacc_boot (lc : Nat) (a : Hacc) (s : State) : (setHacc lc a s).boot = s.boot := rfl
@[simp] theorem setHacc_brg (lc : Nat) (a : Hacc) (s : State) : (setHacc lc a s).brg = s.brg := rfl
@[simp] theorem setHacc_fw (lc : Nat) (a : Hacc) (s : State) : (setHacc lc a s).fw = s.fw := rfl
@[simp] theorem setHacc_pending (lc : Nat) (a : Hacc) (s : State) : (setHacc lc a s).pending = s.pending := rfl
@[simp] theorem setHacc_free (lc : Nat) (a : Hacc) (s : State) : (setHacc lc a s).free = s.free := rfl

@[simp] theorem hacc_setHacc_same (lc : Nat) (a : Hacc) (s : State) : hacc (setHacc lc a s) lc = a := by simp [hacc, setHacc]

theorem hacc_setHacc_other {lc k : Nat} (a : Hacc) (s : State) (h : k ≠ lc) :
    hacc (setHacc lc a s) k = hacc s k := by simp [hacc, setHacc, mapGetD_mapSet_other _ _ _ h]

-- setPort

@[simp] theorem setPort_now (q : Nat) (p : Port) (s : State) : (setPort q p s).now = s.now := rfl
@[simp] theorem setPort_dev (q : Nat) (p : Port) (s : State) : (setPort q p s).dev = s.dev := rfl
@[simp] theorem setPort_stateSeq (q : Nat) (p : Port) (s : State) : (setPort q p s).stateSeq = s.stateSeq := rfl
@[simp] theorem setPort_step (q : Nat) (p : Port) (s : State) : (setPort q p s).step = s.step := rfl
@[simp] theorem setPort_ctr (q : Nat) (p : Port) (s : State) : (setPort q p s).ctr = s.ctr := rfl
@[simp] theorem setPort_fuse (q : Nat) (p : Port) (s : State) : (setPort q p s).fuse = s.fuse := rfl
@[simp] theorem setPort_flash (q : Nat) (p : Port) (s : State) : (setPort q p s).flash = s.flash := rfl
@[simp] theorem setPort_cpl (q : Nat) (p : Port) (s : State) : (setPort q p s).cpl = s.cpl := rfl
@[simp] theorem setPort_mem (q : Nat) (p : Port) (s : State) : (setPort q p s).mem = s.mem := rfl
@[simp] theorem setPort_pool (q : Nat) (p : Port) (s : State) : (setPort q p s).pool = s.pool := rfl
@[simp] theorem setPort_job (q : Nat) (p : Port) (s : State) : (setPort q p s).job = s.job := rfl
@[simp] theorem setPort_dsp (q : Nat) (p : Port) (s : State) : (setPort q p s).dsp = s.dsp := rfl
@[simp] theorem setPort_sig (q : Nat) (p : Port) (s : State) : (setPort q p s).sig = s.sig := rfl
@[simp] theorem setPort_eng (q : Nat) (p : Port) (s : State) : (setPort q p s).eng = s.eng := rfl
@[simp] theorem setPort_chk (q : Nat) (p : Port) (s : State) : (setPort q p s).chk = s.chk := rfl
@[simp] theorem setPort_sm (q : Nat) (p : Port) (s : State) : (setPort q p s).sm = s.sm := rfl
@[simp] theorem setPort_host (q : Nat) (p : Port) (s : State) : (setPort q p s).host = s.host := rfl
@[simp] theorem setPort_evr (q : Nat) (p : Port) (s : State) : (setPort q p s).evr = s.evr := rfl
@[simp] theorem setPort_meter (q : Nat) (p : Port) (s : State) : (setPort q p s).meter = s.meter := rfl
@[simp] theorem setPort_win (q : Nat) (p : Port) (s : State) : (setPort q p s).win = s.win := rfl
@[simp] theorem setPort_pkg (q : Nat) (p : Port) (s : State) : (setPort q p s).pkg = s.pkg := rfl
@[simp] theorem setPort_boot (q : Nat) (p : Port) (s : State) : (setPort q p s).boot = s.boot := rfl
@[simp] theorem setPort_brg (q : Nat) (p : Port) (s : State) : (setPort q p s).brg = s.brg := rfl
@[simp] theorem setPort_fw (q : Nat) (p : Port) (s : State) : (setPort q p s).fw = s.fw := rfl
@[simp] theorem setPort_pending (q : Nat) (p : Port) (s : State) : (setPort q p s).pending = s.pending := rfl
@[simp] theorem setPort_free (q : Nat) (p : Port) (s : State) : (setPort q p s).free = s.free := rfl

@[simp] theorem port_setPort_same (q : Nat) (p : Port) (s : State) : port (setPort q p s) q = p := by simp [port, setPort]

theorem port_setPort_other {q k : Nat} (p : Port) (s : State) (h : k ≠ q) :
    port (setPort q p s) k = port s k := by simp [port, setPort, mapGetD_mapSet_other _ _ _ h]

-- setReply

@[simp] theorem setReply_now (r : Requester) (p : ReadReply) (s : State) : (setReply r p s).now = s.now := rfl
@[simp] theorem setReply_dev (r : Requester) (p : ReadReply) (s : State) : (setReply r p s).dev = s.dev := rfl
@[simp] theorem setReply_stateSeq (r : Requester) (p : ReadReply) (s : State) : (setReply r p s).stateSeq = s.stateSeq := rfl
@[simp] theorem setReply_step (r : Requester) (p : ReadReply) (s : State) : (setReply r p s).step = s.step := rfl
@[simp] theorem setReply_ctr (r : Requester) (p : ReadReply) (s : State) : (setReply r p s).ctr = s.ctr := rfl
@[simp] theorem setReply_fuse (r : Requester) (p : ReadReply) (s : State) : (setReply r p s).fuse = s.fuse := rfl
@[simp] theorem setReply_flash (r : Requester) (p : ReadReply) (s : State) : (setReply r p s).flash = s.flash := rfl
@[simp] theorem setReply_cpl (r : Requester) (p : ReadReply) (s : State) : (setReply r p s).cpl = s.cpl := rfl
@[simp] theorem setReply_pool (r : Requester) (p : ReadReply) (s : State) : (setReply r p s).pool = s.pool := rfl
@[simp] theorem setReply_fab (r : Requester) (p : ReadReply) (s : State) : (setReply r p s).fab = s.fab := rfl
@[simp] theorem setReply_job (r : Requester) (p : ReadReply) (s : State) : (setReply r p s).job = s.job := rfl
@[simp] theorem setReply_dsp (r : Requester) (p : ReadReply) (s : State) : (setReply r p s).dsp = s.dsp := rfl
@[simp] theorem setReply_sig (r : Requester) (p : ReadReply) (s : State) : (setReply r p s).sig = s.sig := rfl
@[simp] theorem setReply_eng (r : Requester) (p : ReadReply) (s : State) : (setReply r p s).eng = s.eng := rfl
@[simp] theorem setReply_chk (r : Requester) (p : ReadReply) (s : State) : (setReply r p s).chk = s.chk := rfl
@[simp] theorem setReply_sm (r : Requester) (p : ReadReply) (s : State) : (setReply r p s).sm = s.sm := rfl
@[simp] theorem setReply_host (r : Requester) (p : ReadReply) (s : State) : (setReply r p s).host = s.host := rfl
@[simp] theorem setReply_evr (r : Requester) (p : ReadReply) (s : State) : (setReply r p s).evr = s.evr := rfl
@[simp] theorem setReply_meter (r : Requester) (p : ReadReply) (s : State) : (setReply r p s).meter = s.meter := rfl
@[simp] theorem setReply_win (r : Requester) (p : ReadReply) (s : State) : (setReply r p s).win = s.win := rfl
@[simp] theorem setReply_pkg (r : Requester) (p : ReadReply) (s : State) : (setReply r p s).pkg = s.pkg := rfl
@[simp] theorem setReply_boot (r : Requester) (p : ReadReply) (s : State) : (setReply r p s).boot = s.boot := rfl
@[simp] theorem setReply_brg (r : Requester) (p : ReadReply) (s : State) : (setReply r p s).brg = s.brg := rfl
@[simp] theorem setReply_fw (r : Requester) (p : ReadReply) (s : State) : (setReply r p s).fw = s.fw := rfl
@[simp] theorem setReply_pending (r : Requester) (p : ReadReply) (s : State) : (setReply r p s).pending = s.pending := rfl
@[simp] theorem setReply_free (r : Requester) (p : ReadReply) (s : State) : (setReply r p s).free = s.free := rfl

-- setStaging

@[simp] theorem setStaging_now (lc : Nat) (l : List PfLine) (s : State) : (setStaging lc l s).now = s.now := rfl
@[simp] theorem setStaging_dev (lc : Nat) (l : List PfLine) (s : State) : (setStaging lc l s).dev = s.dev := rfl
@[simp] theorem setStaging_stateSeq (lc : Nat) (l : List PfLine) (s : State) : (setStaging lc l s).stateSeq = s.stateSeq := rfl
@[simp] theorem setStaging_step (lc : Nat) (l : List PfLine) (s : State) : (setStaging lc l s).step = s.step := rfl
@[simp] theorem setStaging_ctr (lc : Nat) (l : List PfLine) (s : State) : (setStaging lc l s).ctr = s.ctr := rfl
@[simp] theorem setStaging_fuse (lc : Nat) (l : List PfLine) (s : State) : (setStaging lc l s).fuse = s.fuse := rfl
@[simp] theorem setStaging_flash (lc : Nat) (l : List PfLine) (s : State) : (setStaging lc l s).flash = s.flash := rfl
@[simp] theorem setStaging_cpl (lc : Nat) (l : List PfLine) (s : State) : (setStaging lc l s).cpl = s.cpl := rfl
@[simp] theorem setStaging_pool (lc : Nat) (l : List PfLine) (s : State) : (setStaging lc l s).pool = s.pool := rfl
@[simp] theorem setStaging_fab (lc : Nat) (l : List PfLine) (s : State) : (setStaging lc l s).fab = s.fab := rfl
@[simp] theorem setStaging_job (lc : Nat) (l : List PfLine) (s : State) : (setStaging lc l s).job = s.job := rfl
@[simp] theorem setStaging_dsp (lc : Nat) (l : List PfLine) (s : State) : (setStaging lc l s).dsp = s.dsp := rfl
@[simp] theorem setStaging_sig (lc : Nat) (l : List PfLine) (s : State) : (setStaging lc l s).sig = s.sig := rfl
@[simp] theorem setStaging_eng (lc : Nat) (l : List PfLine) (s : State) : (setStaging lc l s).eng = s.eng := rfl
@[simp] theorem setStaging_chk (lc : Nat) (l : List PfLine) (s : State) : (setStaging lc l s).chk = s.chk := rfl
@[simp] theorem setStaging_sm (lc : Nat) (l : List PfLine) (s : State) : (setStaging lc l s).sm = s.sm := rfl
@[simp] theorem setStaging_host (lc : Nat) (l : List PfLine) (s : State) : (setStaging lc l s).host = s.host := rfl
@[simp] theorem setStaging_evr (lc : Nat) (l : List PfLine) (s : State) : (setStaging lc l s).evr = s.evr := rfl
@[simp] theorem setStaging_meter (lc : Nat) (l : List PfLine) (s : State) : (setStaging lc l s).meter = s.meter := rfl
@[simp] theorem setStaging_win (lc : Nat) (l : List PfLine) (s : State) : (setStaging lc l s).win = s.win := rfl
@[simp] theorem setStaging_pkg (lc : Nat) (l : List PfLine) (s : State) : (setStaging lc l s).pkg = s.pkg := rfl
@[simp] theorem setStaging_boot (lc : Nat) (l : List PfLine) (s : State) : (setStaging lc l s).boot = s.boot := rfl
@[simp] theorem setStaging_brg (lc : Nat) (l : List PfLine) (s : State) : (setStaging lc l s).brg = s.brg := rfl
@[simp] theorem setStaging_fw (lc : Nat) (l : List PfLine) (s : State) : (setStaging lc l s).fw = s.fw := rfl
@[simp] theorem setStaging_pending (lc : Nat) (l : List PfLine) (s : State) : (setStaging lc l s).pending = s.pending := rfl
@[simp] theorem setStaging_free (lc : Nat) (l : List PfLine) (s : State) : (setStaging lc l s).free = s.free := rfl

@[simp] theorem stagingOf_setStaging_same (lc : Nat) (l : List PfLine) (s : State) : stagingOf (setStaging lc l s) lc = l := by simp [stagingOf, setStaging]

theorem stagingOf_setStaging_other {lc k : Nat} (l : List PfLine) (s : State) (h : k ≠ lc) :
    stagingOf (setStaging lc l s) k = stagingOf s k := by simp [stagingOf, setStaging, mapGetD_mapSet_other _ _ _ h]

-- setDepot

@[simp] theorem setDepot_now (d : Nat) (l : List DepotLine) (s : State) : (setDepot d l s).now = s.now := rfl
@[simp] theorem setDepot_dev (d : Nat) (l : List DepotLine) (s : State) : (setDepot d l s).dev = s.dev := rfl
@[simp] theorem setDepot_stateSeq (d : Nat) (l : List DepotLine) (s : State) : (setDepot d l s).stateSeq = s.stateSeq := rfl
@[simp] theorem setDepot_step (d : Nat) (l : List DepotLine) (s : State) : (setDepot d l s).step = s.step := rfl
@[simp] theorem setDepot_ctr (d : Nat) (l : List DepotLine) (s : State) : (setDepot d l s).ctr = s.ctr := rfl
@[simp] theorem setDepot_fuse (d : Nat) (l : List DepotLine) (s : State) : (setDepot d l s).fuse = s.fuse := rfl
@[simp] theorem setDepot_flash (d : Nat) (l : List DepotLine) (s : State) : (setDepot d l s).flash = s.flash := rfl
@[simp] theorem setDepot_cpl (d : Nat) (l : List DepotLine) (s : State) : (setDepot d l s).cpl = s.cpl := rfl
@[simp] theorem setDepot_pool (d : Nat) (l : List DepotLine) (s : State) : (setDepot d l s).pool = s.pool := rfl
@[simp] theorem setDepot_fab (d : Nat) (l : List DepotLine) (s : State) : (setDepot d l s).fab = s.fab := rfl
@[simp] theorem setDepot_job (d : Nat) (l : List DepotLine) (s : State) : (setDepot d l s).job = s.job := rfl
@[simp] theorem setDepot_dsp (d : Nat) (l : List DepotLine) (s : State) : (setDepot d l s).dsp = s.dsp := rfl
@[simp] theorem setDepot_sig (d : Nat) (l : List DepotLine) (s : State) : (setDepot d l s).sig = s.sig := rfl
@[simp] theorem setDepot_eng (d : Nat) (l : List DepotLine) (s : State) : (setDepot d l s).eng = s.eng := rfl
@[simp] theorem setDepot_chk (d : Nat) (l : List DepotLine) (s : State) : (setDepot d l s).chk = s.chk := rfl
@[simp] theorem setDepot_sm (d : Nat) (l : List DepotLine) (s : State) : (setDepot d l s).sm = s.sm := rfl
@[simp] theorem setDepot_host (d : Nat) (l : List DepotLine) (s : State) : (setDepot d l s).host = s.host := rfl
@[simp] theorem setDepot_evr (d : Nat) (l : List DepotLine) (s : State) : (setDepot d l s).evr = s.evr := rfl
@[simp] theorem setDepot_meter (d : Nat) (l : List DepotLine) (s : State) : (setDepot d l s).meter = s.meter := rfl
@[simp] theorem setDepot_win (d : Nat) (l : List DepotLine) (s : State) : (setDepot d l s).win = s.win := rfl
@[simp] theorem setDepot_pkg (d : Nat) (l : List DepotLine) (s : State) : (setDepot d l s).pkg = s.pkg := rfl
@[simp] theorem setDepot_boot (d : Nat) (l : List DepotLine) (s : State) : (setDepot d l s).boot = s.boot := rfl
@[simp] theorem setDepot_brg (d : Nat) (l : List DepotLine) (s : State) : (setDepot d l s).brg = s.brg := rfl
@[simp] theorem setDepot_fw (d : Nat) (l : List DepotLine) (s : State) : (setDepot d l s).fw = s.fw := rfl
@[simp] theorem setDepot_pending (d : Nat) (l : List DepotLine) (s : State) : (setDepot d l s).pending = s.pending := rfl
@[simp] theorem setDepot_free (d : Nat) (l : List DepotLine) (s : State) : (setDepot d l s).free = s.free := rfl

@[simp] theorem depotLines_setDepot_same (d : Nat) (l : List DepotLine) (s : State) : depotLines (setDepot d l s) d = l := by simp [depotLines, setDepot]

theorem depotLines_setDepot_other {d k : Nat} (l : List DepotLine) (s : State) (h : k ≠ d) :
    depotLines (setDepot d l s) k = depotLines s k := by simp [depotLines, setDepot, mapGetD_mapSet_other _ _ _ h]

-- setChan

@[simp] theorem setChan_now (p : Nat) (c : ChanState) (s : State) : (setChan p c s).now = s.now := rfl
@[simp] theorem setChan_dev (p : Nat) (c : ChanState) (s : State) : (setChan p c s).dev = s.dev := rfl
@[simp] theorem setChan_stateSeq (p : Nat) (c : ChanState) (s : State) : (setChan p c s).stateSeq = s.stateSeq := rfl
@[simp] theorem setChan_step (p : Nat) (c : ChanState) (s : State) : (setChan p c s).step = s.step := rfl
@[simp] theorem setChan_ctr (p : Nat) (c : ChanState) (s : State) : (setChan p c s).ctr = s.ctr := rfl
@[simp] theorem setChan_fuse (p : Nat) (c : ChanState) (s : State) : (setChan p c s).fuse = s.fuse := rfl
@[simp] theorem setChan_flash (p : Nat) (c : ChanState) (s : State) : (setChan p c s).flash = s.flash := rfl
@[simp] theorem setChan_cpl (p : Nat) (c : ChanState) (s : State) : (setChan p c s).cpl = s.cpl := rfl
@[simp] theorem setChan_pool (p : Nat) (c : ChanState) (s : State) : (setChan p c s).pool = s.pool := rfl
@[simp] theorem setChan_fab (p : Nat) (c : ChanState) (s : State) : (setChan p c s).fab = s.fab := rfl
@[simp] theorem setChan_job (p : Nat) (c : ChanState) (s : State) : (setChan p c s).job = s.job := rfl
@[simp] theorem setChan_dsp (p : Nat) (c : ChanState) (s : State) : (setChan p c s).dsp = s.dsp := rfl
@[simp] theorem setChan_sig (p : Nat) (c : ChanState) (s : State) : (setChan p c s).sig = s.sig := rfl
@[simp] theorem setChan_eng (p : Nat) (c : ChanState) (s : State) : (setChan p c s).eng = s.eng := rfl
@[simp] theorem setChan_chk (p : Nat) (c : ChanState) (s : State) : (setChan p c s).chk = s.chk := rfl
@[simp] theorem setChan_sm (p : Nat) (c : ChanState) (s : State) : (setChan p c s).sm = s.sm := rfl
@[simp] theorem setChan_host (p : Nat) (c : ChanState) (s : State) : (setChan p c s).host = s.host := rfl
@[simp] theorem setChan_evr (p : Nat) (c : ChanState) (s : State) : (setChan p c s).evr = s.evr := rfl
@[simp] theorem setChan_meter (p : Nat) (c : ChanState) (s : State) : (setChan p c s).meter = s.meter := rfl
@[simp] theorem setChan_win (p : Nat) (c : ChanState) (s : State) : (setChan p c s).win = s.win := rfl
@[simp] theorem setChan_pkg (p : Nat) (c : ChanState) (s : State) : (setChan p c s).pkg = s.pkg := rfl
@[simp] theorem setChan_boot (p : Nat) (c : ChanState) (s : State) : (setChan p c s).boot = s.boot := rfl
@[simp] theorem setChan_brg (p : Nat) (c : ChanState) (s : State) : (setChan p c s).brg = s.brg := rfl
@[simp] theorem setChan_fw (p : Nat) (c : ChanState) (s : State) : (setChan p c s).fw = s.fw := rfl
@[simp] theorem setChan_pending (p : Nat) (c : ChanState) (s : State) : (setChan p c s).pending = s.pending := rfl
@[simp] theorem setChan_free (p : Nat) (c : ChanState) (s : State) : (setChan p c s).free = s.free := rfl

@[simp] theorem chanState_setChan_same (p : Nat) (c : ChanState) (s : State) : chanState (setChan p c s) p = c := by simp [chanState, setChan]

theorem chanState_setChan_other {p k : Nat} (c : ChanState) (s : State) (h : k ≠ p) :
    chanState (setChan p c s) k = chanState s k := by simp [chanState, setChan, mapGetD_mapSet_other _ _ _ h]

-- setDie

@[simp] theorem setDie_now (d : Nat) (c : DieClock) (s : State) : (setDie d c s).now = s.now := rfl
@[simp] theorem setDie_dev (d : Nat) (c : DieClock) (s : State) : (setDie d c s).dev = s.dev := rfl
@[simp] theorem setDie_stateSeq (d : Nat) (c : DieClock) (s : State) : (setDie d c s).stateSeq = s.stateSeq := rfl
@[simp] theorem setDie_step (d : Nat) (c : DieClock) (s : State) : (setDie d c s).step = s.step := rfl
@[simp] theorem setDie_ctr (d : Nat) (c : DieClock) (s : State) : (setDie d c s).ctr = s.ctr := rfl
@[simp] theorem setDie_fuse (d : Nat) (c : DieClock) (s : State) : (setDie d c s).fuse = s.fuse := rfl
@[simp] theorem setDie_flash (d : Nat) (c : DieClock) (s : State) : (setDie d c s).flash = s.flash := rfl
@[simp] theorem setDie_cpl (d : Nat) (c : DieClock) (s : State) : (setDie d c s).cpl = s.cpl := rfl
@[simp] theorem setDie_mem (d : Nat) (c : DieClock) (s : State) : (setDie d c s).mem = s.mem := rfl
@[simp] theorem setDie_pool (d : Nat) (c : DieClock) (s : State) : (setDie d c s).pool = s.pool := rfl
@[simp] theorem setDie_fab (d : Nat) (c : DieClock) (s : State) : (setDie d c s).fab = s.fab := rfl
@[simp] theorem setDie_job (d : Nat) (c : DieClock) (s : State) : (setDie d c s).job = s.job := rfl
@[simp] theorem setDie_dsp (d : Nat) (c : DieClock) (s : State) : (setDie d c s).dsp = s.dsp := rfl
@[simp] theorem setDie_sig (d : Nat) (c : DieClock) (s : State) : (setDie d c s).sig = s.sig := rfl
@[simp] theorem setDie_eng (d : Nat) (c : DieClock) (s : State) : (setDie d c s).eng = s.eng := rfl
@[simp] theorem setDie_chk (d : Nat) (c : DieClock) (s : State) : (setDie d c s).chk = s.chk := rfl
@[simp] theorem setDie_sm (d : Nat) (c : DieClock) (s : State) : (setDie d c s).sm = s.sm := rfl
@[simp] theorem setDie_host (d : Nat) (c : DieClock) (s : State) : (setDie d c s).host = s.host := rfl
@[simp] theorem setDie_evr (d : Nat) (c : DieClock) (s : State) : (setDie d c s).evr = s.evr := rfl
@[simp] theorem setDie_meter (d : Nat) (c : DieClock) (s : State) : (setDie d c s).meter = s.meter := rfl
@[simp] theorem setDie_win (d : Nat) (c : DieClock) (s : State) : (setDie d c s).win = s.win := rfl
@[simp] theorem setDie_boot (d : Nat) (c : DieClock) (s : State) : (setDie d c s).boot = s.boot := rfl
@[simp] theorem setDie_brg (d : Nat) (c : DieClock) (s : State) : (setDie d c s).brg = s.brg := rfl
@[simp] theorem setDie_fw (d : Nat) (c : DieClock) (s : State) : (setDie d c s).fw = s.fw := rfl
@[simp] theorem setDie_pending (d : Nat) (c : DieClock) (s : State) : (setDie d c s).pending = s.pending := rfl
@[simp] theorem setDie_free (d : Nat) (c : DieClock) (s : State) : (setDie d c s).free = s.free := rfl

@[simp] theorem dieClock_setDie_same (d : Nat) (c : DieClock) (s : State) : dieClock (setDie d c s) d = c := by simp [dieClock, setDie]

theorem dieClock_setDie_other {d k : Nat} (c : DieClock) (s : State) (h : k ≠ d) :
    dieClock (setDie d c s) k = dieClock s k := by simp [dieClock, setDie, mapGetD_mapSet_other _ _ _ h]

-- setCore

@[simp] theorem setCore_now (key : Nat) (p : PhysCore) (s : State) : (setCore key p s).now = s.now := rfl
@[simp] theorem setCore_dev (key : Nat) (p : PhysCore) (s : State) : (setCore key p s).dev = s.dev := rfl
@[simp] theorem setCore_stateSeq (key : Nat) (p : PhysCore) (s : State) : (setCore key p s).stateSeq = s.stateSeq := rfl
@[simp] theorem setCore_step (key : Nat) (p : PhysCore) (s : State) : (setCore key p s).step = s.step := rfl
@[simp] theorem setCore_ctr (key : Nat) (p : PhysCore) (s : State) : (setCore key p s).ctr = s.ctr := rfl
@[simp] theorem setCore_fuse (key : Nat) (p : PhysCore) (s : State) : (setCore key p s).fuse = s.fuse := rfl
@[simp] theorem setCore_flash (key : Nat) (p : PhysCore) (s : State) : (setCore key p s).flash = s.flash := rfl
@[simp] theorem setCore_cpl (key : Nat) (p : PhysCore) (s : State) : (setCore key p s).cpl = s.cpl := rfl
@[simp] theorem setCore_mem (key : Nat) (p : PhysCore) (s : State) : (setCore key p s).mem = s.mem := rfl
@[simp] theorem setCore_pool (key : Nat) (p : PhysCore) (s : State) : (setCore key p s).pool = s.pool := rfl
@[simp] theorem setCore_fab (key : Nat) (p : PhysCore) (s : State) : (setCore key p s).fab = s.fab := rfl
@[simp] theorem setCore_job (key : Nat) (p : PhysCore) (s : State) : (setCore key p s).job = s.job := rfl
@[simp] theorem setCore_dsp (key : Nat) (p : PhysCore) (s : State) : (setCore key p s).dsp = s.dsp := rfl
@[simp] theorem setCore_sig (key : Nat) (p : PhysCore) (s : State) : (setCore key p s).sig = s.sig := rfl
@[simp] theorem setCore_eng (key : Nat) (p : PhysCore) (s : State) : (setCore key p s).eng = s.eng := rfl
@[simp] theorem setCore_sm (key : Nat) (p : PhysCore) (s : State) : (setCore key p s).sm = s.sm := rfl
@[simp] theorem setCore_host (key : Nat) (p : PhysCore) (s : State) : (setCore key p s).host = s.host := rfl
@[simp] theorem setCore_evr (key : Nat) (p : PhysCore) (s : State) : (setCore key p s).evr = s.evr := rfl
@[simp] theorem setCore_meter (key : Nat) (p : PhysCore) (s : State) : (setCore key p s).meter = s.meter := rfl
@[simp] theorem setCore_win (key : Nat) (p : PhysCore) (s : State) : (setCore key p s).win = s.win := rfl
@[simp] theorem setCore_pkg (key : Nat) (p : PhysCore) (s : State) : (setCore key p s).pkg = s.pkg := rfl
@[simp] theorem setCore_boot (key : Nat) (p : PhysCore) (s : State) : (setCore key p s).boot = s.boot := rfl
@[simp] theorem setCore_brg (key : Nat) (p : PhysCore) (s : State) : (setCore key p s).brg = s.brg := rfl
@[simp] theorem setCore_fw (key : Nat) (p : PhysCore) (s : State) : (setCore key p s).fw = s.fw := rfl
@[simp] theorem setCore_pending (key : Nat) (p : PhysCore) (s : State) : (setCore key p s).pending = s.pending := rfl
@[simp] theorem setCore_free (key : Nat) (p : PhysCore) (s : State) : (setCore key p s).free = s.free := rfl

@[simp] theorem physCore_setCore_same (key : Nat) (p : PhysCore) (s : State) : physCore (setCore key p s) key = p := by simp [physCore, setCore]

theorem physCore_setCore_other {key k : Nat} (p : PhysCore) (s : State) (h : k ≠ key) :
    physCore (setCore key p s) k = physCore s k := by simp [physCore, setCore, mapGetD_mapSet_other _ _ _ h]

@[simp] theorem ctx_setCtx_same (lc x : Nat) (c : Ctx) (s : State) : ctx (setCtx lc x c s) lc x = c := by
  simp [ctx, setCtx]

theorem ctx_setCtx_other {lc x lc' x' : Nat} (c : Ctx) (s : State) (hx : x < 4) (hx' : x' < 4)
    (h : (lc', x') ≠ (lc, x)) : ctx (setCtx lc x c s) lc' x' = ctx s lc' x' := by
  have k : 4 * lc' + x' ≠ 4 * lc + x := by
    intro e
    apply h
    have : lc' = lc := by omega
    have : x' = x := by omega
    simp [*]
  simp [ctx, setCtx, mapGetD_mapSet_other _ _ _ k]

@[simp] theorem deque_setDeque_same (lc i : Nat) (l : List Task) (s : State) : deque (setDeque lc i l s) lc i = l := by
  simp [deque, setDeque]

theorem deque_setDeque_other {lc i lc' i' : Nat} (l : List Task) (s : State) (hi : i < 8) (hi' : i' < 8)
    (h : (lc', i') ≠ (lc, i)) : deque (setDeque lc i l s) lc' i' = deque s lc' i' := by
  have k : 8 * lc' + i' ≠ 8 * lc + i := by
    intro e
    apply h
    have : lc' = lc := by omega
    have : i' = i := by omega
    simp [*]
  simp [deque, setDeque, mapGetD_mapSet_other _ _ _ k]

@[simp] theorem disp_setCtx (lc x : Nat) (c : Ctx) (s : State) (k : Nat) : disp (setCtx lc x c s) k = disp s k := rfl

@[simp] theorem ctx_setDisp (lc : Nat) (d : Disp) (s : State) (k x : Nat) : ctx (setDisp lc d s) k x = ctx s k x := rfl

@[simp] theorem ctx_setDeque (lc i : Nat) (l : List Task) (s : State) (k x : Nat) :
    ctx (setDeque lc i l s) k x = ctx s k x := rfl

@[simp] theorem disp_setDeque (lc i : Nat) (l : List Task) (s : State) (k : Nat) : disp (setDeque lc i l s) k = disp s k :=
  rfl

@[simp] theorem deque_setCtx (lc x : Nat) (c : Ctx) (s : State) (k i : Nat) : deque (setCtx lc x c s) k i = deque s k i :=
  rfl

@[simp] theorem deque_setDisp (lc : Nat) (d : Disp) (s : State) (k i : Nat) : deque (setDisp lc d s) k i = deque s k i :=
  rfl

@[simp] theorem hacc_setEngine (e : Nat) (g : Engine) (s : State) (k : Nat) : hacc (setEngine e g s) k = hacc s k := rfl

@[simp] theorem engine_setHacc (lc : Nat) (h : Hacc) (s : State) (k : Nat) : engine (setHacc lc h s) k = engine s k := rfl

end Sys2Proof.Machine
end

