-- ==== Sys2Proof/Machine/Views.lean ====
section
/-! DEFINITION. What the readable registers hold: the BARs as the host reads them (R424 to R433) and the registers that
programs read (R82, R105, R181, R197, R298, R320, R341). No row of the table is such a read, and none changes the state but
for the free values of the reads that the spec leaves open. -/

namespace Sys2Proof.Machine

-- BAR0 (R424 to R429).

/-- A register: its offset, its bytes and its value. -/
structure RegView where
  off : Nat
  bytes : Nat
  value : Nat
  deriving DecidableEq, Repr

/-- PKG_LC_COUNT (R425). -/
def pkgLcCount (s : State) : Nat := packNat [(0, 7, nLc s), (8, 8, 2 ^ nDies s - 1)]

/-- PKG_NUMBER (R425). -/
def pkgNumber (s : State) : Nat := packNat [(0, 12, pkgNo s), (12, 1, bit s.flash.topo.isSome)]

/-- PKG_STATE (R426). -/
def pkgState (s : State) : Nat :=
  packNat [(0, 4, devCode s.dev), (4, 2, smCode s.sm.state), (6, 1, bit s.sm.onD1), (7, 1, bit s.brg.degraded),
    (8, 2, s.sm.shed), (16, 16, s.stateSeq)]

/-- The identity, control, status and timetable registers (R425). PKG_RESET is write-only and reads as zero. -/
def bar0Regs (s : State) : List RegView :=
  [⟨0x0, 4, idCode s⟩, ⟨0x4, 4, pkgLcCount s⟩, ⟨0x8, 8, s.fuse.serial.toNat⟩, ⟨0x10, 8, fwVersion s⟩,
   ⟨0x18, 4, pkgNumber s⟩, ⟨0x40, 32, leNat (edPublic s.fuse.idSecret)⟩, ⟨0x60, 32, leNat (edPublic s.meter.secret)⟩,
   ⟨0x1000, 8, pkgState s⟩, ⟨0x1010, 4, s.host.evtStatus.toNat⟩, ⟨0x1014, 4, s.host.evtMask.toNat⟩,
   ⟨0x1018, 8, s.sm.alive⟩, ⟨0x2000, 8, s.now⟩, ⟨0x2008, 8, s.step⟩, ⟨0x2010, 8, ttNextDep s⟩,
   ⟨0x2018, 4, epochOf s⟩, ⟨0x2020, 8, ttStatusReg s⟩]

/-- STATE of MBX_STATE (R433). -/
def phaseCode : MbxPhase → Nat
  | .closed => 0
  | .idle => 1
  | .posted => 2
  | .executing => 3

/-- MBX_STATE of mailbox n (R433): CLASS is that of the command posted or executing. -/
def mbxStateReg (m : Mailbox) : Nat :=
  let cls := match m.phase, m.slot with
    | .executing, some c => cmdClass c.opcode
    | .posted, _ => cmdClass (field m.window 0 16)
    | _, _ => 0
  packNat [(0, 2, phaseCode m.phase), (2, 2, cls), (4, 1, bit m.closing)]

/-- The control registers of a mailbox, by entry offset (R432, R433). MBX_POST and ABORT are write-only. -/
def mbxRegs (m : Mailbox) : List RegView :=
  [⟨0x0, 8, m.retBase⟩, ⟨0x8, 4, m.retSize⟩, ⟨0xC, 4, packNat [(0, 1, bit (m.phase != .closed)), (1, 1, bit m.irqEn)]⟩,
   ⟨0x14, 4, mbxStateReg m⟩, ⟨0x18, 4, m.lastSeq⟩, ⟨0x1C, 4, m.lastStatus⟩]

/-- Byte `o` of a block of registers; a reserved offset reads as zero (R424). -/
def regByte (l : List RegView) (o : Nat) : Byte :=
  match l.find? (fun r => r.off ≤ o && o < r.off + r.bytes) with
  | some r => BitVec.ofNat 8 (r.value / 256 ^ (o - r.off))
  | none => 0

/-- Byte `o` of the MSI-X table: 65 vectors; a dword never written reads as it resets (R424, assumption log 11). -/
def msixByte (s : State) (o : Nat) : Byte :=
  if 65 * 16 ≤ o then 0
  else BitVec.ofNat 8 ((mapGetD s.host.msixTable (o / 4) (if o / 4 % 4 = 3 then 1 else 0)).toNat / 256 ^ (o % 4))

/-- Byte `o` of the pending bit array: bit v of vector v. -/
def pbaByte (s : State) (o : Nat) : Byte :=
  BitVec.ofNat 8 (bitmap ((List.range 8).map (fun i => s.host.msixPending.contains (8 * o + i))))

/-- Byte `o` of BAR0 below the counter mirror. -/
def bar0Byte (s : State) (o : Nat) : Byte :=
  if 0x10000 ≤ o ∧ o < 0x11000 then regByte (mbxRegs (mailbox s ((o - 0x10000) / 64))) ((o - 0x10000) % 64)
  else if 0x20000 ≤ o ∧ o < 0x21000 then msixByte s (o - 0x20000)
  else if 0x21000 ≤ o ∧ o < 0x22000 then pbaByte s (o - 0x21000)
  else regByte (bar0Regs s) o

/-- A read of `n` bytes at `o` of BAR0. The counter mirror answers whole counters of instances 0 to 511; other sizes there are
unspecified (R429), so free values. -/
def bar0Read (o n : Nat) (s : State) : List Byte × State :=
  if o < 0x1000000 then ((List.range n).map (fun i => bar0Byte s (o + i)), s)
  else
    let m := o - 0x1000000
    if n = 8 ∧ m % 8 = 0 then (toLE 8 (ctrGet s (m / 0x1000) (m % 0x1000 / 8)), s) else freeBytes n s

-- BAR2 and BAR4 (R430, R431).

/-- Byte `o` of BAR4: the meter bridge window, and the recorder summary under its generation word. -/
def bar4Byte (s : State) (o : Nat) : Byte :=
  if o < 0x10000 then winByte s.win o
  else if 0x100000 ≤ o ∧ o < 0x200000 then
    (toLE 8 s.evr.summaryGen ++ s.evr.summary).getD (o - 0x100000) 0
  else 0

/-- A host read of `n` bytes at offset `o` of a BAR; none where the host does not reach the BARs (R423). -/
def barRead (bar o n : Nat) (s : State) : Option (List Byte × State) :=
  if !reachable s then none
  else if bar = 0 then some (bar0Read o n s)
  else if bar = 2 then some ((List.range n).map (fun i => (mailbox s ((o + i) / 1048576 % 64)).window.getD ((o + i) % 1048576) 0), s)
  else if bar = 4 then some ((List.range n).map (fun i => bar4Byte s (o + i)), s)
  else none

-- Registers that programs read.

/-- DSP_TRAIN_SEL of a task (R105). -/
def dspTrainSel (s : State) (t : Task) : Nat := taskStep s t % 2

/-- DSP_ARG_BASE of a task (R105): the block that a SPAWN named, else the one that the descriptor names, where the task's
section lies in the scratchpad (assumption log 34). -/
def dspArgBase (s : State) (t : Task) : Nat :=
  match t.arg, s.job with
  | 0, some j => scratchAddr t.lc (reserveBase s j.graph t.lc + tdArgOff t.bytes)
  | a, _ => a

/-- DSP_JOB_ID (R105). -/
def dspJobId (s : State) : Nat := jobId s

/-- VE_GN_STATUS (R320). -/
def veGnStatus (s : State) (lc : Nat) : Nat := bit (s.eng.gnBad.contains lc)

/-- GTH_HACC_CFG as it reads (R182): WIDTH and OP; OPEN is write-only. -/
def haccCfg (s : State) (lc : Nat) : Nat := packNat [(0, 9, (hacc s lc).width), (9, 2, (hacc s lc).op)]

end Sys2Proof.Machine
end

