-- ==== Sys2Proof/WellFormed.lean ====
section
/-! DEFINITION. When a command is well formed: its operands lie in the ranges that the spec gives their fields and unit
numbers on the largest code (R3, R17, R394). Whether the package at hand holds the unit is the meaning's to check. -/

namespace Sys2Proof

/-- The fields of a link packet's header have the widths of R394. -/
def Hdr.wf (h : Hdr) : Bool :=
  h.src < 4096 && h.dst < 4096 && h.hops < 256 && h.epoch < 2 ^ 32 && h.step < 2 ^ 64 && h.tag < 2 ^ 32

/-- A mailbox number is below 64 (R17). -/
def CmdSrc.wf : CmdSrc → Bool
  | .mbx n => n < 64
  | .sideband => true
  | .orphan i => i < 64

/-- A unit of a logical core: four contexts, eight shunters, one vector engine (R17). -/
def Unit'.wf : Unit' → Bool
  | .ctx x => x < 4
  | .shunter i => i < 8
  | .vector => true

/-- A requester names a logical core of the largest code (R17). -/
def Requester.wf : Requester → Bool
  | .core lc u => lc < 64 && u.wf
  | .stationmaster => true

/-- Dies and physical cores as R17 numbers them. -/
def PhysUnit.wf (u : PhysUnit) : Bool := u.die < 8 && u.k < 10

/-- A command's operands are in range. -/
def Instr.wf : Instr → Bool
  | .couplingUnitReceive c d _ _ _ => c < 10 && d < 2
  | .couplingLaneFault c => c < 10
  | .couplingRetrainDone c _ => c < 10
  | .couplingRerouteDrainDone c => c < 10
  | .bridgeWindowWrite off d => off + d.length ≤ 65536
  | .smAliveMark | .smWatchdogExpiry | .smRestartDone _ _ | .smAliveDeadline | .smTakeoverDone _ _ => true
  | .meterReportRx d => match d with
    | some b => b.length == 320
    | none => true
  | .meterStaleTimeout => true
  | .cmdTtJobStart c | .cmdTtSetHeadway c | .cmdTtQuiesce c | .cmdTtResume c | .cmdTtJobEnd c | .cmdTtStatus c => c.wf
  | .probe h t => h.wf && t < 2 ^ 64
  | .probeReply h t r => h.wf && t < 2 ^ 64 && r < 2 ^ 64
  | .join h => h.wf
  | .trainLoadComplete | .joinTimeout => true
  | .jobCtrl h j o => h.wf && j < 2 ^ 64 && o < 256
  | .timeXferTimer p => p < 16
  | .timeXfer h a b c _ => h.wf && a < 2 ^ 64 && b < 2 ^ 64 && c < 2 ^ 64
  | .cutoff | .decisionPoint | .holdDeadline => true
  | .departure h f _ _ n l => h.wf && f < 2 ^ 64 && n ≤ 4096 && l.length ≤ 64
  | .leftCont h l => h.wf && l.length ≤ 64
  | .departureFire => true
  | .stagingWritebackDone d => d < 8
  | .embRowCommit t r => t < 256 && r < 2 ^ 40
  | .endOfStepReached => true
  | .late h | .arrival h => h.wf
  | .deputyDeadline => true
  | .takeover h m r _ _ => h.wf && m < 4096 && r < 8
  | .takeoverAnswerWindow | .noMasterDeadline => true
  | .completionNotice a b => a < 64 && b < 64
  | .dispatchTask lc | .noticeHeldApply lc | .spawnStallResume lc => lc < 64
  | .taskEnd lc x | .taskBadCode lc x | .spawnStallTimeout lc x | .quantumExpiry lc x | .suspensionDone lc x =>
    lc < 64 && x < 4
  | .spawn lc x t g j a => lc < 64 && x < 4 && t < 2 ^ 32 && g < 2 ^ 32 && j < 2 ^ 32 && a < 2 ^ 64
  | .cmdDspGraphOpen c | .cmdDspGraphData c | .cmdDspGraphCommit c | .cmdDspGraphUnload c | .cmdDspGraphInfo c => c.wf
  | .sample lc i | .samplePieceRun lc i | .shunterSteal lc i | .stealRetryTimer lc i | .shunterSleepTimer lc i
  | .gather lc i | .scatter lc i | .spmm lc i | .haccDrain lc i | .compress24 lc i => lc < 64 && i < 8
  | .cmdSmpAdjSet c | .cmdSmpAdjClear c | .cmdSmpSeedsSet c | .cmdSmpInfo c | .cmdSmpProbe c => c.wf
  | .haccContribution lc k e _ _ _ c j => lc < 64 && c < 64 && j < 8 && k < 2 ^ 64 && e.length ≤ 4096
  | .haccCfgWrite lc w o => lc < 64 && w < 2 ^ 32 && o < 2 ^ 32
  | .haccOpen lc => lc < 64
  | .remoteReadTimeout t => t < 2 ^ 32
  | .cmdGthConfig c | .cmdGthInfo c => c.wf
  | .poolRead h a n => h.wf && a < 2 ^ 42 && n < 2 ^ 16
  | .poolData h _ _ d => h.wf && d.length ≤ 4096
  | .poolStore h a d | .poolAccum h a d => h.wf && a < 2 ^ 42 && d.length ≤ 4096
  | .rowUpdate h r t p n d => h.wf && r < 2 ^ 40 && t < 256 && p < 256 && n < 256 && d.length ≤ 4096
  | .poolAck h st => h.wf && st < 256
  | .poolFwd h home slot => h.wf && home < 4096 && slot < 2 ^ 40
  | .poolErr h r e => h.wf && r < 256 && e < 2 ^ 32
  | .slotRequest h r t | .slotRefusal h r t => h.wf && r < 2 ^ 40 && t < 256
  | .slotGrant h r t sl => h.wf && r < 2 ^ 40 && t < 256 && sl < 2 ^ 40
  | .rowCopy h r t _ _ => h.wf && r < 2 ^ 40 && t < 256
  | .directoryChange h r t home sl => h.wf && r < 2 ^ 40 && t < 256 && home < 4096 && sl < 2 ^ 40
  | .forwardedContribution h r t o _ d => h.wf && r < 2 ^ 40 && t < 256 && o < 4096 && d.length ≤ 4096
  | .cmdEmbTableCreate c | .cmdEmbTableDestroy c | .cmdEmbWriteRows c | .cmdEmbReadRows c | .cmdEmbSetHyper c
  | .cmdEmbMigrate c | .cmdEmbDirRead c | .cmdEmbInfo c | .cmdMxTensorSet c | .cmdMxTensorInfo c => c.wf
  | .mma lc x d _ | .elem lc x d _ | .perm lc x d _ | .move lc x d => lc < 64 && x < 4 && d < 2 ^ 64
  | .mmaRetire lc a _ _ _ _ => lc < 64 && a < 2
  | .mxWait lc x a => lc < 64 && x < 4 && a < 2
  | .veRetire lc _ _ _ => lc < 64
  | .veWait lc x => lc < 64 && x < 4
  | .sigSet lc x l | .sigClr lc x l | .sigArrive lc x l _ | .sigRead lc x l _ => lc < 64 && x < 4 && l < 32
  | .sigArriveRetry lc x | .sigWaitTimeout lc x => lc < 64 && x < 4
  | .sigWait lc x l v t => lc < 64 && x < 4 && l < 32 && v < 2 ^ 64 && t < 2 ^ 64
  | .sigValueRegister => true
  | .sigUp h l _ => h.wf && l < 32
  | .sigDown h l v => h.wf && l < 32 && v < 2 ^ 64
  | .cmdSigConfig c | .cmdSigInfo c => c.wf
  | .memoryReadRequest r a n _ => r.wf && a < 2 ^ 54 + 2 ^ 32 && n < 2 ^ 32
  | .memoryWriteRequest r a d => r.wf && a < 2 ^ 54 + 2 ^ 32 && d.length < 2 ^ 32
  | .wcbIdleFlush l => l < 2 ^ 42
  | .prefetchFill lc g => lc < 64 && g < 2 ^ 54
  | .patrolScrub p _ | .channelRetrainStart p | .channelRetrainDone p | .channelRetrainTimeout p => p < 2048
  | .stackTempReport j _ => j < 16
  | .cmdMemAlloc c | .cmdMemFree c | .cmdMemWrite c | .cmdMemRead c | .cmdMemRegions c | .cmdMemConfig c
  | .cmdMemRetrain c | .cmdMemStatus c => c.wf
  | .cmdMemMargin c p => c.wf && p.length ≤ 4096
  | .linkCodewordReceive p _ f => p < 16 && f.fseq < 4096
  | .linkLayerControlSlot p sl => p < 16 && sl.credits.length ≤ 6
  | .linkAckTimeout p | .portHelloTimeout p | .portRetrainTimeout p => p < 16
  | .portTrainingDone p l | .portLaneFault p l => p < 16 && l < 256
  | .hello h p co code dim _ _ nb => h.wf && p < 16 && co.length == 4 && code < 256 && dim < 4 && nb < 16
  | .linkState h p d _ _ st => h.wf && p < 4096 && d < 4 && st < 8
  | .futureEpochTimeout t => t < 2 ^ 32
  | .reduceScatter d | .gnorm d => d < 8
  | .rdContrib h r t n f _ => h.wf && r < 2 ^ 40 && t < 256 && n < 2 ^ 16 && f < 32
  | .rdAck h r t st _ => h.wf && r < 2 ^ 40 && t < 256 && st < 256
  | .rdAckTimeout t => t < 2 ^ 32
  | .shardCloseTime t => t < 256
  | .gnPartial h _ _ => h.wf
  | .gnRootClose => true
  | .gnResult h _ c _ => h.wf && c < 2 ^ 16
  | .cmdLnkTopoSet c | .cmdLnkStatus c | .cmdLnkRetrain c | .cmdRdConfig c | .cmdRdBind c | .cmdRdDigestRead c => c.wf
  | .registerWrite bar off w v => bar < 6 && off < 2 ^ 26 && (w == 4 || w == 8) && v < 2 ^ 64
  | .devReset _ | .pkgEvtStatusWrite _ => true
  | .mbxWindowWrite n off d => n < 64 && off + d.length ≤ 2 ^ 20
  | .mbxOpen n _ | .mbxClose n _ => n < 64
  | .mbxAbort n | .mbxTakeUp n | .mbxPostTimeout n | .mbxCompletion n => n < 64
  | .mbxPost n v => n < 64 && v < 2 ^ 32
  | .functionLevelReset | .d3hotEntry | .busMasterEnableSet => true
  | .shedWindow u => u ≤ 100
  | .cmdMbxNop c | .cmdMbxInfo c => c.wf
  | .mctpCommand p => p.length ≤ 64 + 1024
  | .mctpControl _ | .pldmMessage _ | .pldmFirmwareUpdate _ => true
  | .checkExecutionDone _ d k _ => d < 8 && k < 10
  | .retestDone u _ _ => u.wf
  | .sidingCopyDone lc _ => lc < 64
  | .spareRebuildDone d => d < 4096
  | .historyFlush | .autoFieldTestStart => true
  | .fieldTestEnd _ c => c.all (fun u => u.1.wf)
  | .cmdChkConfig c | .cmdChkStatus c | .cmdChkFieldTest c | .cmdFncStatus c | .cmdFncHistoryRead c
  | .cmdFncSparesSet c => c.wf
  | .brgPhaseComplete _ | .brgDecide | .deferredReset => true
  | .cmdBrgStart c | .cmdBrgStatus c | .cmdBrgAllowDegraded c | .cmdBrgFaultMapRead c => c.wf
  | .eventAdmit => true
  | .tokenRefill c => c < 65536
  | .spillBatch | .freezeTimeout | .summaryRefresh => true
  | .cmdEvrRead c | .cmdEvrFreeze c | .cmdEvrUnfreeze c | .cmdEvrClear c | .cmdEvrHistRead c | .cmdEvrConfig c
  | .cmdEvrCountersRead c | .cmdEvrPhaseRead c => c.wf
  | .meterSample _ _ | .meterPulseEnd | .meterCommit | .meterReportTimer | .sealChange | .readReport => true
  | .challenge _ | .paramLoad _ => true
  | .readAudit q => q < 2 ^ 64
  | .accountOpen i => i < 2 ^ 64
  | .accountClose | .readId => true
  | .meterBadCommand b => b < 256
  | .cmdMtrReportRead c | .cmdMtrAuditRead c | .cmdPkgAttest c | .cmdPkgOwnerEnroll c | .cmdPkgFwOpen c
  | .cmdPkgFwData c | .cmdPkgFwCommit c | .cmdPkgFwActivate c => c.wf
  | .vauxApplied _ | .vauxLoss | .vinLoss | .vinRangeExit | .pkgPwrgdFall | .pkgPwrgdRise | .pkgRstNFall
  | .pkgRstNRise | .pciePerstNFall | .pcieRefclkLoss | .pcieRefclkReturn | .lrefclkLoss | .timerefLoss | .ppsEdge =>
    true
  | .dieTempReport d _ => d < 8
  | .powerCeilingUpdate v i p m => v < 2 ^ 32 && i < 2 ^ 32 && p < 2 ^ 32 && m ≤ 700
  | .pkgThrottleNFall | .pkgThrottleNRise | .jtagInstruction _ => true
  | .cmdPkgPowerStatus c | .cmdPkgPowerLimit c | .cmdPkgThermalStatus c => c.wf
  | .pciePerstNRise | .busMasterEnableClear | .msixFunctionUnmask => true
  | .badLinkPacket b => b.length == 32
  | .timerefReturn => true
  | .cclkChangeDone d => d < 8

end Sys2Proof
end

