-- ==== Sys2Proof/Tests/Slice0.lean ====
section
/-! SUPPORT. The model's own tests: what WellFormed refuses, a witness for the hypotheses of every statement, and single
steps with results taken from the spec's own examples. -/

namespace Sys2Proof.Tests

open Sys2Proof.Machine

-- One theorem after another: each kernel evaluation of a package's state takes a thread with a large stack.
set_option Elab.async false

-- What WellFormed refuses: one ill-formed term for each check.

def h0 : Hdr := { src := 1, dst := 0, hops := 0, epoch := 1, step := 3, tag := 5 }

theorem test_wf_refuses_headers : ({ h0 with src := 4096 } : Hdr).wf = false ∧ ({ h0 with dst := 4096 } : Hdr).wf = false
    ∧ ({ h0 with hops := 256 } : Hdr).wf = false ∧ ({ h0 with epoch := 2 ^ 32 } : Hdr).wf = false
    ∧ ({ h0 with step := 2 ^ 64 } : Hdr).wf = false ∧ ({ h0 with tag := 2 ^ 32 } : Hdr).wf = false := by decide

theorem test_wf_refuses_units : (CmdSrc.mbx 64).wf = false ∧ (CmdSrc.orphan 64).wf = false
    ∧ (Unit'.ctx 4).wf = false ∧ (Unit'.shunter 8).wf = false ∧ (Requester.core 64 .vector).wf = false
    ∧ (Requester.core 0 (.ctx 4)).wf = false ∧ ({ die := 8, k := 0, eng := .a0 } : PhysUnit).wf = false
    ∧ ({ die := 0, k := 10, eng := .a0 } : PhysUnit).wf = false := by decide

theorem test_wf_refuses_chapter1 : (Instr.couplingUnitReceive 10 0 0 [] true).wf = false
    ∧ (Instr.couplingUnitReceive 0 2 0 [] true).wf = false ∧ (Instr.couplingLaneFault 10).wf = false
    ∧ (Instr.couplingRetrainDone 10 true).wf = false ∧ (Instr.couplingRerouteDrainDone 10).wf = false
    ∧ (Instr.bridgeWindowWrite 65536 [0]).wf = false ∧ (Instr.meterReportRx (some [0])).wf = false := by decide

theorem test_wf_refuses_chapters2to6 : (Instr.probe h0 (2 ^ 64)).wf = false ∧ (Instr.probeReply h0 0 (2 ^ 64)).wf = false
    ∧ (Instr.jobCtrl h0 (2 ^ 64) 0).wf = false ∧ (Instr.jobCtrl h0 0 256).wf = false ∧ (Instr.timeXferTimer 16).wf = false
    ∧ (Instr.timeXfer h0 (2 ^ 64) 0 0 0).wf = false ∧ (Instr.departure h0 0 false false 4097 []).wf = false
    ∧ (Instr.leftCont h0 (List.replicate 65 0)).wf = false ∧ (Instr.stagingWritebackDone 8).wf = false
    ∧ (Instr.embRowCommit 256 0).wf = false ∧ (Instr.takeover h0 4096 0 false false).wf = false
    ∧ (Instr.takeover h0 0 8 false false).wf = false ∧ (Instr.completionNotice 64 0).wf = false
    ∧ (Instr.dispatchTask 64).wf = false ∧ (Instr.taskEnd 0 4).wf = false ∧ (Instr.spawn 0 4 0 0 0 0).wf = false
    ∧ (Instr.sample 0 8).wf = false ∧ (Instr.haccContribution 0 0 [] 0 0 0 64 0).wf = false
    ∧ (Instr.haccCfgWrite 0 (2 ^ 32) 0).wf = false ∧ (Instr.haccOpen 64).wf = false
    ∧ (Instr.remoteReadTimeout (2 ^ 32)).wf = false ∧ (Instr.poolRead h0 (2 ^ 42) 1).wf = false
    ∧ (Instr.poolData h0 false 0 (List.replicate 4097 0)).wf = false ∧ (Instr.poolStore h0 (2 ^ 42) []).wf = false
    ∧ (Instr.rowUpdate h0 (2 ^ 40) 0 0 1 []).wf = false ∧ (Instr.poolAck h0 256).wf = false
    ∧ (Instr.poolFwd h0 4096 0).wf = false ∧ (Instr.poolErr h0 256 0).wf = false
    ∧ (Instr.slotRequest h0 0 256).wf = false ∧ (Instr.slotGrant h0 0 0 (2 ^ 40)).wf = false
    ∧ (Instr.rowCopy h0 (2 ^ 40) 0 [] 0).wf = false ∧ (Instr.directoryChange h0 0 0 4096 0).wf = false
    ∧ (Instr.forwardedContribution h0 0 0 4096 0 []).wf = false := by decide +kernel

theorem test_wf_refuses_chapters7to12 : (Instr.mma 64 0 0 []).wf = false ∧ (Instr.mmaRetire 0 2 0 0 0 0).wf = false
    ∧ (Instr.mxWait 0 0 2).wf = false ∧ (Instr.veRetire 64 0 0 0).wf = false ∧ (Instr.veWait 0 4).wf = false
    ∧ (Instr.sigSet 0 0 32).wf = false ∧ (Instr.sigArriveRetry 0 4).wf = false ∧ (Instr.sigWait 0 0 0 (2 ^ 64) 0).wf = false
    ∧ (Instr.sigUp h0 32 true).wf = false ∧ (Instr.sigDown h0 0 (2 ^ 64)).wf = false
    ∧ (Instr.memoryReadRequest .stationmaster (2 ^ 54 + 2 ^ 32) 1 []).wf = false
    ∧ (Instr.memoryWriteRequest .stationmaster (2 ^ 54 + 2 ^ 32) []).wf = false ∧ (Instr.wcbIdleFlush (2 ^ 42)).wf = false
    ∧ (Instr.prefetchFill 64 0).wf = false ∧ (Instr.patrolScrub 2048 []).wf = false
    ∧ (Instr.stackTempReport 16 0).wf = false ∧ (Instr.cmdMemMargin (.mbx 64) []).wf = false
    ∧ (Instr.linkCodewordReceive 16 .clean { fseq := 0, data := [] }).wf = false
    ∧ (Instr.linkCodewordReceive 0 .clean { fseq := 4096, data := [] }).wf = false
    ∧ (Instr.linkLayerControlSlot 0 { ack := none, nak := none, credits := List.replicate 7 0 }).wf = false
    ∧ (Instr.portTrainingDone 0 256).wf = false ∧ (Instr.hello h0 0 [0] 0 0 true true 0).wf = false
    ∧ (Instr.linkState h0 0 4 true true 0).wf = false ∧ (Instr.reduceScatter 8).wf = false
    ∧ (Instr.rdContrib h0 0 0 0 32 []).wf = false ∧ (Instr.rdAck h0 0 0 256 false).wf = false
    ∧ (Instr.shardCloseTime 256).wf = false ∧ (Instr.gnResult h0 0 (2 ^ 16) false).wf = false := by decide +kernel

theorem test_wf_refuses_chapters13to18 : (Instr.registerWrite 6 0 4 0).wf = false ∧ (Instr.registerWrite 0 0 2 0).wf = false
    ∧ (Instr.registerWrite 0 (2 ^ 26) 4 0).wf = false ∧ (Instr.registerWrite 0 0 4 (2 ^ 64)).wf = false
    ∧ (Instr.mbxWindowWrite 64 0 []).wf = false ∧ (Instr.mbxWindowWrite 0 (2 ^ 20) [0]).wf = false
    ∧ (Instr.mbxOpen 64 false).wf = false ∧ (Instr.mbxAbort 64).wf = false ∧ (Instr.mbxPost 0 (2 ^ 32)).wf = false
    ∧ (Instr.shedWindow 101).wf = false ∧ (Instr.mctpCommand (List.replicate 1089 0)).wf = false
    ∧ (Instr.checkExecutionDone 0 8 0 .right).wf = false ∧ (Instr.sidingCopyDone 64 []).wf = false
    ∧ (Instr.spareRebuildDone 4096).wf = false ∧ (Instr.tokenRefill 65536).wf = false
    ∧ (Instr.readAudit (2 ^ 64)).wf = false ∧ (Instr.meterBadCommand 256).wf = false
    ∧ (Instr.dieTempReport 8 0).wf = false ∧ (Instr.powerCeilingUpdate 0 0 0 701).wf = false
    ∧ (Instr.badLinkPacket []).wf = false ∧ (Instr.cclkChangeDone 8).wf = false := by decide +kernel

-- The small states that the witnesses and tests start from.

/-- READY after bring-up with eight logical cores on each die, firmware running, the host's bus mastering on, package 0 of two
in a row along z, with port 12 up. -/
def ready : State :=
  let s := State.reset
  { s with
    dev := .ready
    boot := { s.boot with started := true }
    brg := { s.brg with
      phase := 5
      m := 8
      spreadOk := true }
    flash := { s.flash with topo := some { coords := [0, 0, 0, 0], lens := [1, 1, 1, 2], wraps := List.replicate 4 false } }
    fab := { s.fab with ports := [(12, { coldPort with st := .up, lanes := 255, nbrPkg := 1, credits := List.replicate 6 100 })] }
    host := { s.host with busMaster := true } }

/-- An executing command's slot. -/
def slotFor (op : Nat) (p : List Byte) : Slot :=
  { header := pack 64 [(0, 16, op)], payload := p, opcode := op, postTime := 0, waits := false, stale := false,
    done := none }

/-- `s` with mailbox 0 executing a command. -/
def ask (op : Nat) (p : List Byte) (s : State) : State :=
  setMailbox 0 { closedMailbox with phase := .executing, slot := some (slotFor op p) } s

/-- The command that `ask` puts there is performed now. -/
abbrev asked (op : Nat) (p : List Byte) (s : State) : Prop := performs (ask op p s) (.mbx 0) op (slotFor op p)

theorem asked_of (op : Nat) (p : List Byte) (s : State) (h : s.sm.state = .running) : asked op p s :=
  ⟨by simp [slotOf, ask], by simp [runnable, slotFor], rfl, h⟩

/-- A job of packages 0 (its master) and 1 (its deputy), in step 3, of graph 1. -/
def job0 : Job :=
  { id := 7, graph := 1, role := 0, rank := 0, master := 0, deputies := [1], stageMib := 32, joinNs := 1000,
    members := [0, 1], stepLimit := 0, fixedOrder := false, epoch := 1, headway := 1000000, hold := 4, lead := 1000,
    leadGiven := 0, prop := 0, measured := 0, probes := [], phase := .inStep, started := true, next := 4,
    nominal := 1000000, depTime := 0, startTime := 0, loaded := true, onceDone := true, joined := [0, 1], late := false,
    arrived := false, endAt := none, readied := [], done := [], doneAt := [], syncLost := false, owes := false,
    sittingOut := false, sitting := [], holding := false, decided := false, pending := [], sent := none, leftCont := [],
    quiesceReq := false, endReq := false, change := [], offset := 0, syncOk := true, takeover := none, adopted := none,
    noMaster := false, replaced := none, partDep := none, parent := none, areas := [] }

/-- A committed graph: a reservation of 1,024 KiB, one task on logical core 0, and `d` at offset 64 of its section. -/
def graphWith (d : List Byte) : Graph :=
  { size := 1048576
    units := [(0, pack 64 [(16, 7, 64), (64, 32, 512), (192, 16, 128)]), (2, pack 64 [(0, 32, 256), (32, 16, 1), (96, 16, 1024)]),
      (5, slice d 0 64), (6, slice d 64 64)]
    committed := true
    bases := [] }

/-- RUNNING step 3 of a job. -/
def inJob (j : Job) (s : State) : State :=
  { s with
    dev := .running
    step := 3
    job := some j
    dsp := { s.dsp with graphs := [(1, graphWith [])] } }

/-- The tick master in step 3. -/
def running : State := inJob job0 ready

/-- A member in step 3 whose master is package 1. -/
def follower : State := inJob { job0 with master := 1, deputies := [0], parent := some 1 } ready

/-- CMD_TT_JOB_START of package 0, master of a job of itself alone, of graph 1. -/
def startPayload : List Byte :=
  pack 560 [(0, 64, 7), (64, 32, 1), (96, 2, 2), (112, 16, 8), (192, 32, 1000000), (256, 32, 2000), (288, 32, 1), (384, 1, 1)]

/-- READY with a committed graph, on a package of two dies with one logical core on each. -/
def startable : State :=
  { ready with
    fuse := { ready.fuse with code := .cx2a }
    brg := { ready.brg with m := 1 }
    dsp := { ready.dsp with graphs := [(1, graphWith [])] } }

/-- A task of logical core 0 whose code or descriptor is at offset 64 of its section. -/
def taskOf (kind : Nat) : Task :=
  { lc := 0, idx := 0, uid := 0, spawned := false, cls := 0, bytes := pack 64 [(0, 4, kind), (96, 32, 64)], arg := 0,
    join := none, piece := none, saved := none, since := 0 }

/-- Context 0 of logical core 0 holds a CORE task. -/
def busy : State := setCtx 0 0 { freshCtx with task := some (taskOf 0) } running

/-- Shunter 0 of logical core 0 holds a SHUNT task with descriptor `d`. -/
def shunting (d : List Byte) : State :=
  { running with dsp := { running.dsp with
    graphs := [(1, graphWith d)]
    deques := [(0, [taskOf 1])] } }

/-- A pooled region of 1 MiB without a table, and one for the device alone. -/
def region0 : Region :=
  { base := 4096, size := 1048576, spread := true, die := 0, far := false, pooled := true, progR := true, progW := true,
    pfEn := false, hint := 0, table := none, device := false, f0 := 0, frames := 1, chan0 := 0, n := 11 }

/-- `s` with region 1. -/
def withRegion (r : Region) (s : State) : State := { s with mem := { s.mem with regions := [(1, r)] } }

/-- CMD_EMB_TABLE_CREATE for table 3: 8 rows of 16 FP32 values, homes 0 and 1, four migration slots (R229). -/
def tablePayload : List Byte :=
  pack 576 [(0, 16, 3), (22, 1, 1), (24, 1, 1), (32, 16, 16), (64, 64, 8), (128, 32, 4), (160, 32, 4), (288, 32, 0x3F800000),
    (416, 8, 1), (424, 16, 1), (440, 8, 129), (512, 8, 3)]

/-- The table, stored in region 1. -/
def table0 : Table := freshTable tablePayload (some 1)

/-- `s` with table 3. -/
def withTable (tb : Table) (s : State) : State := setTable 3 tb s

/-- A header of a packet of the step in force, from package 1. -/
def h1 : Hdr := { src := 1, dst := 0, hops := 1, epoch := 1, step := 3, tag := 5 }

-- Witnesses: a state and operands that meet the hypotheses of each statement, named after it.

theorem witness_FrontCommandRuns : ({ ready with pending := [.smAliveMark, .cutoff] } : State).pending = .smAliveMark :: [.cutoff]
    ∧ ready.pending = [] := ⟨rfl, rfl⟩

theorem witness_steps : ∃ t, step { ready with pending := [.smAliveMark] } = .next t := ⟨_, rfl⟩

theorem witness_FusesNeverBlown : ∃ t, step ready = .next t := ⟨_, rfl⟩

theorem witness_SoftFaultMapKeepsItems : ∃ t, step { ready with pending := [.historyFlush] } = .next t := ⟨_, rfl⟩

theorem witness_ClearLogNeverErased :
    ∃ t, step { ask 0x0F03 (pack 16 [(0, 2, 3)]) ready with pending := [.cmdEvrClear (.mbx 0)] } = .next t := ⟨_, rfl⟩

theorem witness_MemoryStaysCanonical : ready.mem.wf = true
    ∧ ∃ t, step { ready with pending := [.memoryWriteRequest .stationmaster 0 [1]] } = .next t := ⟨by decide, _, rfl⟩

theorem witness_RegionsNeverOverlap : regionsApart (withRegion region0 ready).mem.regions
    ∧ ∃ t, step { withRegion region0 ready with pending := [.cmdMemAlloc (.mbx 0)] } = .next t :=
  ⟨by simp [regionsApart, withRegion], _, rfl⟩

theorem witness_EnergyNeverFalls : meterSettled ready.meter ready.pkg.vaux
    ∧ ∃ t, step { ready with pending := [.meterSample 12000 1000] } = .next t :=
  ⟨⟨rfl, by decide⟩, _, rfl⟩

theorem witness_TimeAndKeysStand : ∃ t, step { ready with pending := [.ppsEdge] } = .next t := ⟨_, rfl⟩

theorem witness_QueueUntouched : ∃ t, exec (.mbxOpen 0 true) ready = .next t := ⟨_, rfl⟩

theorem witness_StaleCommandHasNoEffect :
    let c : Slot := { slotFor 0x0100 [] with stale := true }
    let s := setMailbox 0 { closedMailbox with phase := .executing, slot := some c } ready
    commandRow (.cmdMbxNop (.mbx 0)) = some (0x0100, .mbx 0) ∧ slotOf s (.mbx 0) = some c ∧ runnable 0x0100 c = true
      ∧ c.stale = true ∧ s.sm.state = .running ∧ s.dev ≠ .limited ∧ c.done = none := by decide

theorem witness_CounterRises : (65535 : Nat) < 65536 ∧ (1, 0) ≠ ((1, 65535) : Nat × Nat) := by decide

theorem witness_EventRaised : (bucketDue ready Ev.brgReady).tokens ≠ 0 ∧ ready.evr.queue.length < 4096
    ∧ (bucketDue { ready with evr := { ready.evr with buckets := [(Ev.brgReady, { tokens := 0, next := none })] } } Ev.brgReady).tokens = 0 := by
  decide

theorem witness_CouplingUnitsDelivered : hasCoupling ready 9 = true ∧ (1 : Nat) < 2 ∧ cplPhase ready 9 = .up
    ∧ (mapGetD ready.cpl.dirs (2 * 9 + 1) freshDir).next = 0 ∧ hasCoupling ready 10 = false := by decide

theorem witness_CouplingFailureReroutes : hasCoupling ready 9 = true ∧ cplPhase ready 9 = .up
    ∧ (let s := setCplPhase 9 .retraining ready
      cplPhase s 9 = .retraining ∧ s.fuse.code ≠ .cx2a ∧ s.cpl.avoid = none)
    ∧ (let s := { setCplPhase 9 .retraining ready with cpl := { resetCouplings with phases := [(9, .retraining)], avoid := some 1 } }
      cplPhase s 9 = .retraining ∧ s.cpl.avoid.isSome = true)
    ∧ (let s : State := { ready with cpl := { resetCouplings with phases := [(9, .failed)], avoid := some 9, draining := true } }
      s.cpl.avoid = some 9 ∧ s.cpl.draining = true) := by decide

theorem witness_StationmasterRestartsAndMoves :
    let at' := fun (d : SmState) (e : Option Nat) => { ready with now := 10000000000, sm := { ready.sm with state := d, lastExpiry := e, awaitingMark := true } }
    diesRun ready = true ∧ ready.sm.state = .running ∧ ready.sm.lastMark ≠ some ready.now ∧ secondExpiry ready = false
      ∧ secondExpiry (at' .running (some 0)) = true ∧ (at' .running (some 0)).sm.onD1 = false
      ∧ (at' .restarting (some 0)).sm.state = .restarting ∧ (at' .restarting (some 0)).sm.awaitingMark = true
      ∧ (at' .takeover none).sm.state = .takeover ∧ cplPhase (at' .takeover none) 0 = .up
      ∧ (at' .takeover none).cpl.draining = false ∧ (bootChoice (at' .takeover none)).isSome = true
      ∧ slotOf (ask 0x0100 [] (at' .restarting (some 0))) (.mbx 0) = some (slotFor 0x0100 []) := by decide +kernel

theorem witness_BridgeIsOneWay : diesRun ready = true ∧ 65535 + [(0 : Byte)].length ≤ 65536
    ∧ (let s := { ready with meter := { ready.meter with bridge := [(List.replicate 320 0, [])] } }
      s.meter.bridge = (List.replicate 320 0, []) :: []) := by decide +kernel

theorem witness_TimetableCommands_start :
    let s := ask 0x0200 startPayload startable
    let bad := pack 64 [(0, 64, 7), (64, 16, 1), (112, 16, 32)]
    asked 0x0200 startPayload startable ∧ heldBack (.mbx 0) s = false ∧ startOk s startPayload = true
      ∧ waysFit s (waysFor 8 s.pool.gthCfgNext.replicaMib (dirEntriesAll s)) = true ∧ field startPayload 112 16 = 8
      ∧ ((startAreas (joinJob startPayload s)).bind startMirrors).isSome = true
      ∧ asked 0x0200 bad ready ∧ heldBack (.mbx 0) (ask 0x0200 bad ready) = false ∧ startOk (ask 0x0200 bad ready) bad = false :=
  ⟨asked_of _ _ _ rfl, by decide, by decide +kernel, by decide +kernel, by decide, by decide +kernel, asked_of _ _ _ rfl,
    by decide, by decide⟩

theorem witness_TimetableCommands_noSpace :
    let full : State := { startable with mem := { startable.mem with waysOff := [(0, List.range 16)] } }
    let s := ask 0x0200 startPayload full
    asked 0x0200 startPayload full ∧ heldBack (.mbx 0) s = false ∧ startOk s startPayload = true
      ∧ waysFit s (waysFor 8 s.pool.gthCfgNext.replicaMib (dirEntriesAll s)) = false :=
  ⟨asked_of _ _ _ rfl, by decide, by decide +kernel, by decide +kernel⟩

theorem witness_TimetableCommands_master :
    let p := pack 24 [(0, 32, 1000000), (32, 8, 128), (64, 32, 100000), (96, 64, 4)]
    let q := pack 24 [(0, 32, 19999)]
    asked 0x0201 p running ∧ running.job = some job0 ∧ job0.master = pkgNo running
      ∧ 20000 ≤ field p 0 32 ∧ field p 0 32 ≤ 4000000000 ∧ field p 32 8 ≤ 128 ∧ field p 40 24 = 0
      ∧ paceOk (field p 0 32) (field p 64 32) job0.measured = true
      ∧ asked 0x0201 q running ∧ field q 0 32 < 20000
      ∧ asked 0x0202 [] running ∧ asked 0x0204 [] running ∧ running.dev ≠ .quiesced ∧ asked 0x0205 [] running
      ∧ asked 0x0205 [] ready ∧ ready.job = none :=
  ⟨asked_of _ _ _ rfl, by decide, by decide, by decide, by decide, by decide, by decide, by decide, asked_of _ _ _ rfl,
    by decide, asked_of _ _ _ rfl, asked_of _ _ _ rfl, by decide, asked_of _ _ _ rfl, asked_of _ _ _ rfl, rfl⟩

theorem witness_TimetableCommands_quiesced :
    let s : State := { running with dev := .quiesced }
    asked 0x0203 [] s ∧ heldBack (.mbx 0) (ask 0x0203 [] s) = false ∧ s.dev = .quiesced ∧ job0.noMaster = false
      ∧ asked 0x0204 [] s ∧ heldBack (.mbx 0) (ask 0x0204 [] s) = false :=
  ⟨asked_of _ _ _ rfl, by decide, rfl, rfl, asked_of _ _ _ rfl, by decide⟩

theorem witness_TimetableCommands_member :
    let j : Job := { job0 with master := 1, noMaster := true }
    let s : State := { inJob j ready with dev := .quiesced }
    asked 0x0201 [] follower ∧ asked 0x0202 [] follower ∧ asked 0x0203 [] follower ∧ asked 0x0204 [] follower
      ∧ asked 0x0205 [] follower ∧ heldBack (.mbx 0) (ask 0x0203 [] follower) = false ∧ follower.dev ≠ .quiesced
      ∧ (follower.job.map Job.master) = some 1 ∧ (1 : Nat) ≠ pkgNo follower
      ∧ s.job = some j ∧ asked 0x0204 [] s ∧ heldBack (.mbx 0) (ask 0x0204 [] s) = false ∧ j.noMaster = true :=
  ⟨asked_of _ _ _ rfl, asked_of _ _ _ rfl, asked_of _ _ _ rfl, asked_of _ _ _ rfl, asked_of _ _ _ rfl, by decide, by decide,
    rfl, by decide, rfl, asked_of _ _ _ rfl, by decide, rfl⟩

/-- `addressed`, as a test. -/
def isAddressed (s : State) (i : Instr) (h : Hdr) : Bool :=
  decide (hdrOf i = some h) && diesRun s && decide (s.dev ≠ .quarantined) && packetOk i && decide (h.dst = pkgNo s)

theorem addressed_of {s : State} {i : Instr} {h : Hdr} (a : isAddressed s i h = true) : addressed s i h := by
  simpa [isAddressed, addressed, and_assoc] using a

/-- `current`, as a test. -/
def isCurrent (s : State) (i : Instr) (h : Hdr) : Bool :=
  isAddressed s i h && decide (epochJudged s = true → h.epoch = epochOf s) && decide (h.step < stepOf s + 2)
    && decide (stepKind i = .staged → stepOf s ≤ h.step) && decide (stepKind i = .read → h.step = stepOf s)
    && decide (stepKind i = .line ∨ stepKind i = .norm → h.step = stepOf s ∧ epochOf s ≤ h.epoch)

theorem current_of {s : State} {i : Instr} {h : Hdr} (a : isCurrent s i h = true) : current s i h := by
  simp only [isCurrent, Bool.and_eq_true, decide_eq_true_eq, and_assoc] at a
  exact ⟨addressed_of a.1, a.2⟩

theorem witness_JobJoined :
    let j : Job := { job0 with phase := .loading, started := false, loaded := false, probes := [1], joined := [] }
    let s := inJob j ready
    isAddressed s (.probe h1 0) h1 ∧ isAddressed s (.probeReply h1 0 100) h1 ∧ h1.src ∈ j.probes ∧ isAddressed s (.join h1) h1
      ∧ j.master = pkgNo s ∧ j.phase = .loading ∧ h1.epoch = j.epoch ∧ h1.src ∈ j.members ∧ j.sent = none ∧ s.dev = .running
      ∧ j.started = false ∧ isAddressed s (.jobCtrl h1 j.id 0) h1 ∧ isAddressed s (.jobCtrl h1 j.id 1) h1 := by decide

theorem witness_JobJoined_member :
    let j : Job := { job0 with phase := .loading, started := false, loaded := false, master := 1 }
    let s := inJob j ready
    j.phase = .loading ∧ j.loaded = false ∧ j.onceDone = true ∧ outstanding s = 0 ∧ s.dev = .running ∧ j.master ≠ pkgNo s
      ∧ isAddressed { s with dev := .quiesced } (.jobCtrl h1 j.id 2) h1 ∧ j.noMaster = false := by decide

theorem witness_DeparturePrepared :
    running.job = some job0 ∧ running.dev = .running ∧ job0.phase = .inStep ∧ job0.master = pkgNo running
      ∧ job0.decided = false ∧ job0.sent = none ∧ job0.takeover = none ∧ job0.hold ≠ 0 ∧ job0.epoch ≤ h1.epoch
      ∧ isAddressed running (.late h1) h1 ∧ h1.step = running.step ∧ h1.src ∈ job0.members
      ∧ isAddressed running (.arrival h1) h1
      ∧ ((markEnd (missGn (reachTime (job0.nominal - job0.lead) running))).job.isSome = true)
      ∧ ({ job0 with holding := true, decided := true, pending := [1] } : Job).holding = true
      ∧ isAddressed running (.late { h1 with epoch := 0 }) { h1 with epoch := 0 } ∧ ({ h1 with epoch := 0 } : Hdr).epoch < job0.epoch := by
  decide +kernel

theorem witness_DeparturePrepared_member :
    let j : Job := { job0 with master := 1, leftCont := [9] }
    let h : Hdr := { h1 with step := 4 }
    let s := inJob j ready
    h.epoch = j.epoch ∧ h.src = j.master ∧ h.step = j.next ∧ j.sent = none ∧ j.partDep = none ∧ isAddressed s (.leftCont h [8]) h
      ∧ isAddressed s (.departure h 2000000 false false (j.leftCont ++ [8]).length [8]) h := by decide

theorem witness_DepartureFires :
    let m : DepMsg := { step := 4, fireTime := 1000000, epoch := 1, quiesce := false, ends := false, left := [] }
    let s := inJob { job0 with sent := some m } ready
    s.dev = .running ∧ m.left.contains (pkgNo s) = false ∧ m.ends = false ∧ m.quiesce = false ∧ job0.stepLimit = 0
      ∧ job0.started = true ∧ job0.phase = .inStep ∧ isMember s (pkgNo s) = true ∧ (7 : Nat) < nDies s := by decide

theorem witness_MasterReplaced :
    let j : Job := { job0 with master := 1, deputies := [0], parent := some 1 }
    let t : Takeover := { time := 0, answered := [], notReached := [] }
    let h2 : Hdr := { h1 with epoch := 2 }
    follower.job = some j ∧ follower.dev = .running ∧ j.sent = none ∧ j.phase = .inStep ∧ pkgNo follower ∈ j.deputies
      ∧ j.master ≠ pkgNo follower ∧ j.partDep = none ∧ lowerAnnounced j (pkgNo follower) = false ∧ isAddressed follower (.takeover h2 1 0 false false) h2 ∧ j.epoch < h2.epoch
      ∧ j.replaced = none ∧ isAddressed (inJob { j with takeover := some t } ready) (.takeover h1 0 0 true true) h1
      ∧ h1.epoch = j.epoch := by decide

theorem witness_TimeDisciplined :
    let up := setPort 15 { coldPort with st := .up } ready
    let j : Job := { job0 with master := 1, deputies := [0], parent := some 1 }
    follower.job = some j ∧ j.parent = some h1.src ∧ (15 : Nat) < nPorts up ∧ (port up 15).st = .up ∧ isAddressed follower (.timeXfer h1 0 0 0 99) h1 ∧ j.master ≠ pkgNo follower
      ∧ (99 : Int).natAbs < 100 ∧ 100 ≤ (1000 : Int).natAbs ∧ (1000 : Int).natAbs ≤ 1000 ∧ 1000 < (-1001 : Int).natAbs
      ∧ ready.pkg.timeref = true ∧ ({ ready.pkg with timeref := false } : Package).timeref = false := by decide

theorem witness_NoticesReadyTasks :
    let n : Notice := { src := 0, dst := 1, idx := 2, flow := false }
    let d2 : Disp := { freshDisp with counts := [(2, 2)] }
    let d1 : Disp := { freshDisp with counts := [(2, 1)] }
    let at' := fun (d : Disp) => setDisp 1 d { running with dsp := { running.dsp with flight := [n] } }
    (1 : Nat) < nLc running
      ∧ takeFirst (fun n : Notice => n.src == 0 && n.dst == 1) (at' d2).dsp.flight = some (n, [])
      ∧ 1 < mapGetD (disp (at' d2) 1).counts 2 0 ∧ mapGetD (disp (at' d1) 1).counts 2 0 ≤ 1 ∧ readyFree (disp (at' d1) 1) = true
      ∧ (disp (at' d1) 1).held = [] ∧ (disp (at' { d1 with held := [n] }) 1).held ≠ []
      ∧ (disp (at' { d1 with held := [n] }) 1).held = n :: [] := by decide

theorem witness_DispatchStartsHead :
    let at' := fun (k : Nat) => setDisp 0 { freshDisp with ready := [(7, [taskOf k])] } running
    (0 : Nat) < nLc running ∧ underCopy (at' 0) 0 = false ∧ (∀ q, q < 7 → readyAt (disp (at' 0) 0) q = [])
      ∧ readyAt (disp (at' 0) 0) 7 = taskOf 0 :: [] ∧ tdKind (taskOf 0).bytes = 0 ∧ (savedCtx (at' 0) 0 (taskOf 0)).wait = .none
      ∧ (let s := setDisp 0 { freshDisp with slots := [(2, { freshCtx with wait := .vector })] } running
        (savedCtx s 0 { taskOf 0 with saved := some 2 }).wait ≠ .none) ∧ freeCtx (at' 0) 0 = some 0
      ∧ tdKind (taskOf 1).bytes = 1 ∧ (deque (at' 1) (shunterLc (at' 1) 0) (pickShunter (at' 1) 0 (taskOf 1))).length < 256
      ∧ tdKind (taskOf 2).bytes = 2 ∧ tdKind (taskOf 3).bytes = 3 := by decide +kernel

theorem witness_TasksEndAndSpawn :
    (0 : Nat) < nLc busy ∧ (ctx busy 0 0).task = some (taskOf 0) ∧ (ctx busy 0 0).wait = .none ∧ (ctx busy 0 0).suspending = false
      ∧ unretired busy 0 0 = false ∧ ctxWaits busy 0 0 = false ∧ (∀ y, y < 4 → y ≠ 0 → (ctx busy 0 y).wait ≠ .ending)
      ∧ spawnBad busy (taskOf 0) 0 64 0 = true ∧ readyFree (disp busy 0) = true ∧ (disp busy 0).held = []
      ∧ (disp busy 0).stalls = [] ∧ (jobGraph busy).isSome = true ∧ hostCore busy 0 = none
      ∧ (let s := setCtx 0 0 { ctx busy 0 0 with suspending := true } busy
        (ctx s 0 0).suspending = true ∧ freeSave s 0 = some 0 ∧ unretired s 0 0 = false ∧ ctxWaits s 0 0 = false) := by decide +kernel

/-- A graph with one SPAWNS task and one template on logical core 0, whose spawned task joins the task. -/
def spawnGraph : Graph :=
  { size := 1048576
    units := [(0, pack 64 [(16, 7, 64), (64, 32, 1024), (192, 16, 128)]), (2, pack 64 [(0, 32, 256), (32, 16, 1), (48, 16, 1), (96, 16, 1024)]),
      (4, pack 64 [(11, 1, 1), (16, 16, 1)]), (5, pack 64 [(96, 32, 64)])]
    committed := true, bases := [] }

theorem witness_TasksEndAndSpawn_spawn :
    let t : Task := { taskOf 0 with bytes := pack 64 [(11, 1, 1), (96, 32, 64)] }
    let d : Disp := { freshDisp with counts := [(0, 1)], states := [(0, .waiting)], outstanding := 1 }
    let u : State := setDisp 0 d (setCtx 0 0 { freshCtx with task := some t } { running with dsp := { running.dsp with graphs := [(1, spawnGraph)] } })
    let z : SpawnStall := { lc := 0, x := 0, template := 0, target := 0, joinTask := 0, arg := 0, since := 0 }
    let v := setCtx 0 0 { ctx u 0 0 with wait := .spawn z } (setDisp 0 { d with stalls := [z], ready := [(0, [t])] } u)
    spawnBad u t 0 0 0 = false ∧ readyFree (disp u 0) = true ∧ jobGraph u = some spawnGraph
      ∧ stallOf v 0 0 = some z ∧ (ctx v 0 0).wait = .spawn z ∧ (freeSave v 0).isSome = true ∧ anyCoreReady v 0 = true
      ∧ (disp v 0).stalls = z :: [] ∧ (disp v 0).held = [] := by decide +kernel

theorem witness_GraphCommands_open :
    let p := toLE 4 1024
    asked 0x0300 p ready ∧ 1024 ≤ field p 0 32 ∧ field p 0 32 ≤ 1073741824 ∧ field p 0 32 % 64 = 0
      ∧ (ask 0x0300 p ready).dsp.graphs.length < 8 := ⟨asked_of _ _ _ rfl, by decide⟩

theorem witness_GraphCommands :
    let open' : Graph := { size := 1024, units := [], committed := false, bases := [] }
    let s : State := { ready with dsp := { ready.dsp with graphs := [(1, open'), (2, graphWith [])] } }
    let p := pack 12 [(0, 32, 1), (64, 32, 64)] ++ zeros 64
    let q := pack 4 [(0, 32, 1)]
    asked 0x0301 p s ∧ asked 0x0302 q s ∧ asked 0x0303 q s ∧ asked 0x0304 q s
      ∧ (mapGet (ask 0x0301 p s).dsp.graphs (field p 0 32) = some open' ∧ open'.committed = false
        ∧ field p 32 32 % 64 = 0 ∧ field p 64 32 = 64 ∧ field p 32 32 + field p 64 32 ≤ open'.size
        ∧ (graphFault (ask 0x0302 q s) open').isSome = true ∧ graphInJob (ask 0x0303 q s) 1 = false
        ∧ graphInJob running 1 = true ∧ (mapGet s.dsp.graphs 2).map (fun g => g.committed) = some true) :=
  ⟨asked_of _ _ _ rfl, asked_of _ _ _ rfl, asked_of _ _ _ rfl, asked_of _ _ _ rfl, by decide +kernel⟩

/-- The smallest image that passes R124 on a package of two logical cores. -/
def tinyImage (crc : Nat) : Graph :=
  { size := 256
    units := [(0, pack 64 [(0, 16, 1), (16, 7, 2), (64, 32, 256), (96, 32, crc), (192, 16, 128)]), (1, zeros 64), (2, pack 64 [(0, 32, 192), (128, 32, 192)]), (3, zeros 64)]
    committed := false, bases := [] }

theorem crc32_four {a b c d : List Byte} {w x y z : Nat} (h1 : a.foldl (crcByte 0xEDB88320) 0xFFFFFFFF = w)
    (h2 : b.foldl (crcByte 0xEDB88320) w = x) (h3 : c.foldl (crcByte 0xEDB88320) x = y)
    (h4 : d.foldl (crcByte 0xEDB88320) y = z) : crc32 (a ++ (b ++ (c ++ d))) = z ^^^ 0xFFFFFFFF := by
  simp only [crc32, List.foldl_append, h1, h2, h3, h4]

theorem tinyImage_bytes : splice (imgRead (tinyImage 58895418) 0 256) 12 (zeros 4) =
    pack 64 [(0, 16, 1), (16, 7, 2), (64, 32, 256), (192, 16, 128)]
      ++ (zeros 64 ++ (pack 64 [(0, 32, 192), (128, 32, 192)] ++ zeros 64)) := by decide +kernel

theorem tinyImage_crc : crc32 (splice (imgRead (tinyImage 58895418) 0 256) 12 (zeros 4)) = 58895418 :=
  (congrArg crc32 tinyImage_bytes).trans
    ((crc32_four (w := 1526645273) (x := 792980844) (y := 108515474) (z := 4236071877) (by decide +kernel)
      (by decide +kernel) (by decide +kernel) (by decide +kernel)).trans (by decide))

theorem tinyImage_check3 : checkCrc (tinyImage 58895418) = [(12, true)] := by
  unfold checkCrc
  rw [show imgCrc (tinyImage 58895418) = 58895418 from tinyImage_crc]
  decide +kernel

theorem graphFault_none {s : State} {g : Graph} (h2 : firstBad (checkWritten g) = none) (h3 : firstBad (checkCrc g) = none)
    (h4 : firstBad (check4 s g) = none) (h5 : firstBad (check5 g) = none) (h6 : firstBad (check6 g) = none)
    (h7 : firstBad (check7 g) = none) : graphFault s g = none := by
  unfold graphFault
  simp only [h2, h3, h4, h5, h6, h7, Option.map_none]

theorem witness_GraphCommands_commit :
    let g := tinyImage 58895418
    let p := pack 4 [(0, 32, 1)]
    let s : State := { ready with
      fuse := { ready.fuse with code := .cx2a }
      brg := { ready.brg with m := 1 }
      dsp := { ready.dsp with graphs := [(1, g)] } }
    asked 0x0302 p s ∧ mapGet (ask 0x0302 p s).dsp.graphs (field p 0 32) = some g ∧ g.committed = false
      ∧ graphFault (ask 0x0302 p s) g = none ∧ (check8 (ask 0x0302 p s) g).isSome = true :=
  ⟨asked_of _ _ _ rfl, by decide +kernel, rfl, graphFault_none (by decide +kernel) (by rw [tinyImage_check3]; decide)
    (by decide +kernel) (by decide +kernel) (by decide +kernel) (by decide +kernel), by decide +kernel⟩

/-- A sample descriptor of one layer and one seed; `long`: LONG_ROW. -/
def sampleDesc (long : Nat) : List Byte :=
  pack 128 [(0, 8, 1), (8, 4, 1), (32, 32, 1), (64, 32, long), (192, 64, 65536), (256, 32, 4096), (288, 32, 16), (320, 32, 16),
    (352, 32, 64), (384, 64, 131072)]

/-- Shunter 0 of logical core 0 holds a sample task whose layer 1 draws one edge. -/
def sampling (long : Nat) : State :=
  let t : Task := { taskOf 1 with bytes := pack 64 [(0, 4, 1), (96, 32, 64), (256, 16, 1)] }
  { running with dsp := { running.dsp with
    graphs := [(1, graphWith (sampleDesc long))]
    deques := [(0, [t])] } }

theorem witness_SampleTasksRun :
    let t : Task := { taskOf 1 with bytes := pack 64 [(0, 4, 1), (96, 32, 64), (256, 16, 1)] }
    let check := fun (long : Nat) => sampleDescOk (emptyNonPooled 0 (setDeque 0 0 [] (sampling long))) 0 (sectionRead (sampling long) 0 64 128) t.bytes
    (0 : Nat) < nLc (sampling 0) ∧ (deque (sampling 0) 0 0).reverse = t :: [] ∧ t.piece = none
      ∧ field (sectionRead (sampling 0) t.lc (tdCode t.bytes) 128) 0 8 = 1 ∧ check 0 = true ∧ check 1 = false := by decide +kernel

theorem witness_SampleTasksRun_effect :
    (sampleS 0 0 (rowBegun 0 (sampling 1))).mem.met = false := by
  decide +kernel

theorem witness_SampleTasksRun_piece :
    let t : Task := { taskOf 1 with piece := some 1, uid := 9 }
    let p : SmpPiece := { id := 1, first := 0, n := 1, chunk := none }
    let j : SmpJob :=
      { no := 9, task := taskOf 1, home := 0, desc := sampleDesc 0, step := 3, layer := 1, seedMap := [], nodes := [], hops := [],
        layers := [], pieces := [p], nextPiece := 2, rows := [], longs := [], dropped := 0, truncated := false, degraded := false }
    let s : State := { running with dsp := { running.dsp with deques := [(0, [t])], samples := [(9, j)] } }
    (deque s 0 0).reverse = t :: [] ∧ t.piece = some 1 ∧ sampleJob s t.uid = some j
      ∧ j.pieces.find? (fun p => p.id == 1) = some p ∧ j.pieces.find? (fun p => p.id == 2) = none := by decide

theorem witness_ChunksChooseAsAnUncutRow :
    (([(1, 0, 5)] ++ [(1, 1, 6)] : List (Nat × Nat × Nat)).map (fun e => e.2.1)).Nodup := by decide

theorem witness_ShuntersSteal :
    let t : Task := { taskOf 1 with bytes := pack 64 [(0, 4, 1), (10, 1, 1)] }
    let s : State := { running with dsp := { running.dsp with deques := [(8 * 8 + 3, [t])] } }
    let idle : State := { running with dsp := { running.dsp with idle := [(0, (0, 0))] } }
    (0 : Nat) < nLc s ∧ deque s 0 0 = [] ∧ shunterTask s 0 0 = none ∧ s.dsp.asleep.contains 0 = false ∧ shunterLc s 0 = 0
      ∧ underCopy s 0 = false
      ∧ (victims s 0 0).find? (fun v => (stealFrom s v.2.1 v.2.2).isSome) = some (3, 8, 3) ∧ stealFrom s 8 3 = some (t, [])
      ∧ (victims idle 0 0).find? (fun v => (stealFrom idle v.2.1 v.2.2).isSome) = none
      ∧ mapGet idle.dsp.idle (8 * 0 + 0) = some (0, 0) := by decide +kernel

theorem witness_SamplerCommands :
    let s := withRegion { region0 with base := 0 } ready
    let good := pack 48 [(32, 32, 3), (64, 64, 4), (128, 64, 0), (192, 64, 4096)]
    let seeds := pack 20 [(32, 32, 3), (64, 64, 8192), (128, 32, 1)]
    let probe := pack 24 [(128, 32, 0), (160, 10, 2), (176, 4, 8)]
    asked 0x0400 good s ∧ adjBad (ask 0x0400 good s) good = 0 ∧ adjBad s (zeros 48) ≠ 0 ∧ asked 0x0401 (zeros 4) s
      ∧ field (zeros 4) 4 28 = 0 ∧ asked 0x0402 seeds s ∧ seedsBad (ask 0x0402 seeds s) seeds = 0 ∧ seedsBad s (zeros 20) ≠ 0
      ∧ asked 0x0403 [] s ∧ asked 0x0404 probe s ∧ leFanout (field probe 160 16) ≠ 0 ∧ 1 ≤ field probe 176 4
      ∧ field probe 176 4 ≤ 8 ∧ field probe 183 9 = 0 :=
  ⟨asked_of _ _ _ rfl, by decide +kernel, by decide, asked_of _ _ _ rfl, by decide, asked_of _ _ _ rfl, by decide +kernel,
    by decide, asked_of _ _ _ rfl, asked_of _ _ _ rfl, by decide⟩

/-- A gather of one request from eight flat rows of 64 bytes. -/
def gatherDesc : List Byte :=
  pack 128 [(0, 8, 2), (8, 1, 1), (128, 64, 131072), (192, 32, 64), (288, 32, 64), (320, 32, 1), (384, 64, 65536), (448, 64, 4096),
    (640, 64, 8)]

theorem witness_GatherScatterMerge_gather :
    let s := shunting gatherDesc
    let t := taskOf 1
    let u := emptyNonPooled 0 (setDeque 0 0 [] (rowBegun 0 s))
    let d := sectionRead s 0 64 128
    let f := funcRun 0 t d (taskStep u t)
    let q0 : GatherAsk := { table := none, rows := 8, rowBytes := 64, flatBase := 0, width := 4, reqAddr := 0, reqs := 0, layers := 0 }
    let q := (gatherRequests f q0 u).1
    let l := readRequests t.lc q (gatherRequests f q0 u).2
    let uniq := setUnion [] (l.1.filterMap Request.rowOf)
    (deque s 0 0).reverse = t :: [] ∧ t.piece = none ∧ d = gatherDesc ∧ field d 0 8 = 2 ∧ gatherFieldsOk d = true
      ∧ gatherSource u d = some q0 ∧ flag d 10 = false ∧ Nat.max 64 (cdiv (16 * q.reqs) 1024) ≤ field d 192 32
      ∧ inReservation u t.lc q.reqAddr (q.width * q.reqs) = true ∧ uniq = [0]
      ∧ areasOk u t.lc (gatherAreas f q uniq.length) = true := by decide +kernel

theorem witness_GatherScatterMerge_bad :
    funcCodes.contains (field (sectionRead (shunting (pack 128 [(0, 8, 255)])) 0 64 128) 0 8) = false
      ∧ gatherFieldsOk (sectionRead (shunting (pack 128 [(0, 8, 2)])) 0 64 128) = false
      ∧ (let d := pack 128 [(0, 8, 5)]
        spmmFieldsOk (shunting d) 0 (sectionRead (shunting d) 0 64 128) = false) := by decide +kernel

/-- A scatter of rows of 16 values; its waybill lies at `w`. -/
def scatterDesc (w : Nat) : List Byte := pack 128 [(0, 8, 3), (128, 64, 131072), (192, 32, 64), (256, 32, 16), (320, 64, w)]

theorem witness_GatherScatterMerge_scatter :
    let s : State := setTable 0 table0 { shunting (scatterDesc 64) with step := 0 }
    let u := emptyNonPooled 0 (setDeque 0 0 [] (rowBegun 0 s))
    let f := funcRun 0 (taskOf 1) (scatterDesc 64) (taskStep u (taskOf 1))
    sectionRead s 0 64 128 = scatterDesc 64 ∧ inReservation u 0 (f.addr 320) 64 = true
      ∧ scatterOk u f (readWaybill 0 (f.addr 320) u).1 = true
      ∧ (let u := emptyNonPooled 0 (setDeque 0 0 [] (rowBegun 0 (shunting (scatterDesc 64))))
        let f := funcRun 0 (taskOf 1) (scatterDesc 64) (taskStep u (taskOf 1))
        scatterOk u f (readWaybill 0 (f.addr 320) u).1 = false) := by decide +kernel

/-- A merge of one row of A with one key of X. -/
def spmmDesc : List Byte :=
  pack 128 [(0, 8, 5), (10, 1, 1), (128, 64, 131072), (192, 32, 64), (256, 32, 1), (288, 32, 32), (320, 32, 1), (448, 64, 64),
    (512, 64, 192), (640, 64, 256), (832, 64, 128), (896, 32, 1)]

theorem witness_GatherScatterMerge_spmm :
    let s := shunting spmmDesc
    let u := emptyNonPooled 0 (setDeque 0 0 [] (rowBegun 0 s))
    let f := funcRun 0 (taskOf 1) spmmDesc (taskStep u (taskOf 1))
    sectionRead s 0 64 128 = spmmDesc ∧ spmmFieldsOk u 0 spmmDesc = true ∧ flag spmmDesc 10 = true
      ∧ (match spmmMerge f u with
        | some (q, _) => areasOk u 0 (spmmAreas f q) && q.dests.length == 1
        | none => false) = true := by decide +kernel

theorem witness_DrainAndCompress_drain :
    let d := pack 128 [(0, 8, 6), (128, 64, 131072), (192, 32, 64), (256, 32, 1), (384, 64, 64), (448, 64, 128)]
    let s := shunting d
    let u := emptyNonPooled 0 (setDeque 0 0 [] (rowBegun 0 s))
    let f := funcRun 0 (taskOf 1) d (taskStep u (taskOf 1))
    (deque s 0 0).reverse = taskOf 1 :: [] ∧ sectionRead s 0 64 128 = d ∧ commonOk d 8 false = true ∧ 1 ≤ field d 256 32
      ∧ field d 256 32 ≤ 16777216 ∧ field d 288 32 = 0 ∧ field d 512 512 = 0
      ∧ areasOk u 0 [f.work, (f.addr 320, 0), (f.addr 384, 0), (f.addr 448, 4)] = true
      ∧ (haccKeys u 0).take (field d 256 32) = []
      ∧ commonOk (pack 128 [(0, 8, 6), (8, 1, 1)]) 8 false = false := by decide +kernel

theorem witness_DrainAndCompress_compress :
    let d := pack 128 [(0, 8, 7), (128, 64, 131072), (192, 32, 64), (256, 32, 1), (288, 32, 4), (384, 64, 64), (448, 64, 128),
      (512, 32, 32)]
    let s := shunting d
    let u := emptyNonPooled 0 (setDeque 0 0 [] (rowBegun 0 s))
    let f := funcRun 0 (taskOf 1) d (taskStep u (taskOf 1))
    sectionRead s 0 64 128 = d ∧ commonOk d 12 false = true ∧ field d 8 4 ≤ 10 ∧ field d 512 32 % 32 = 0 ∧ field d 544 480 = 0
      ∧ areasOk u 0 [f.work, (f.addr 320, 8), (f.addr 384, 64), (f.addr 448, 64)] = true := by decide +kernel

/-- A drain of logical core 0 under way, with one piece left. -/
def drainJob : FuncJob :=
  { no := 1, task := taskOf 1, home := 0, desc := pack 128 [(0, 8, 6)], step := 3, input := .drain [(0, [0x3F800000])] false 1
    pieces := [{ id := 1, first := 0, n := 1, chunk := none }], nextPiece := 2 }

theorem witness_GatherScatterMerge_piece :
    let t : Task := { taskOf 1 with uid := 1, spawned := true, piece := some 1 }
    let s : State := { running with dsp := { running.dsp with deques := [(0, [t])], funcs := [(1, drainJob)] } }
    newestPiece s 0 0 6 = some (t, drainJob, { id := 1, first := 0, n := 1, chunk := none }) := by decide

/-- The hash accumulator of logical core 0 with `n` entries of one value under key 0. -/
def haccOf (n : Nat) : Hacc :=
  { closedHacc with
    width := 1
    entries := (List.range n).map (fun i => { key := 0, elems := [0x3F800000], task := 0, piece := 0, seqNo := i, time := 0, before := none, fresh := [] }) }

theorem witness_HashAccumulatorTakesRows :
    let s := setHacc 0 (haccOf 1) running
    let full := setHacc 0 (haccOf 16) { running with dsp := { running.dsp with graphs := [(1, { graphWith [] with units := [(0, pack 64 [(23, 1, 1)])] })] } }
    (0 : Nat) < nLc s ∧ coreTaskRuns busy 0 = true ∧ coreTaskRuns running 0 = false ∧ draining s 0 = false ∧ (hacc s 0).late = []
      ∧ draining { s with dsp := { s.dsp with funcs := [(1, drainJob)] } } 0 = true ∧ (hacc running 0).width = 0 ∧ (256 ≤ 256 ∧ 3 ≤ 3) ∧ (256 : Nat) < 257 ∧ (hacc s 0).width ≠ 0
      ∧ [(0x3F800000 : W32)].length = (hacc s 0).width ∧ fixedOrder s = false ∧ fixedOrder full = true
      ∧ (takeFirst (fun x : HaccEntry => x.key == 0) (hacc s 0).entries).isSome = true
      ∧ (hacc s 0).entries.any (fun x => x.key == 1) = false
      ∧ countIf (fun x : HaccEntry => haccSet 1 x.key == haccSet 1 0) (hacc s 0).entries < 16
      ∧ 16 ≤ countIf (fun x : HaccEntry => haccSet 1 x.key == haccSet 1 0) (hacc full 0).entries
      ∧ (hacc full 0).spill.length < full.pool.gthCfg.spillMib * 1048576 / haccEntryBytes (hacc full 0).width := by decide +kernel

theorem witness_EvictionIntoAFullLog :
    let s := setHacc 0 (haccOf 16) { running with
      dsp := { running.dsp with graphs := [(1, { graphWith [] with units := [(0, pack 64 [(23, 1, 1)])] })] }
      pool := { running.pool with gthCfg := { running.pool.gthCfg with spillMib := 0 } } }
    (0 : Nat) < nLc s ∧ (hacc s 0).width ≠ 0 ∧ draining s 0 = false ∧ (hacc s 0).late = [] ∧ fixedOrder s = true
      ∧ 16 ≤ countIf (fun x : HaccEntry => haccSet (hacc s 0).width x.key == haccSet (hacc s 0).width 0) (hacc s 0).entries
      ∧ (takeFirst (fun x : HaccEntry => haccSet (hacc s 0).width x.key == haccSet (hacc s 0).width 0) (hacc s 0).entries).isSome = true
      ∧ s.pool.gthCfg.spillMib * 1048576 / haccEntryBytes (hacc s 0).width ≤ (hacc s 0).spill.length := by decide +kernel

theorem witness_PacketsJudged :
    let i := Instr.poolRead h1 0 1
    let st := fun (e n : Nat) => Instr.poolStore { h1 with epoch := e, step := n } 0 (zeros 32)
    poolPacket i = true ∧ hdrOf i = some h1 ∧ diesRun running = true
      ∧ ({ running with dev := .quarantined } : State).dev = .quarantined ∧ running.dev ≠ .quarantined
      ∧ packetOk (.poolRead h1 0 0) = false ∧ packetOk (.poolRead h1 0 128) = true ∧ isAddressed running (st 0 3) { h1 with epoch := 0, step := 3 }
      ∧ epochJudged running = true ∧ ({ h1 with epoch := 0 } : Hdr).epoch < epochOf running ∧ epochOf running < 2
      ∧ isAddressed running (st 1 5) { h1 with step := 5 } ∧ stepOf running + 2 ≤ 5
      ∧ isAddressed running (st 1 2) { h1 with step := 2 } ∧ (2 : Nat) < stepOf running ∧ stepKind (st 1 2) = .staged
      ∧ isAddressed running (.poolRead { h1 with step := 4 } 0 1) { h1 with step := 4 } ∧ stepKind (.poolRead h1 0 1) = .read := by
  decide +kernel

/-- The step's state with a pooled region that holds no table, or table 3. -/
def pooled : State := withRegion region0 running

/-- See pooled. -/
def tabled : State := withTable table0 (withRegion { region0 with table := some 3 } running)

/-- The room that a store of 32 bytes at 4096 finds in the staging areas. -/
def roomAt (u : State) : Bool :=
  let v := touchHomes 4096 32 u
  (setUnion [] ((unitsOf 32 4096 32).map (fun x => homeDie v (x * 32)))).all (fun k =>
    stageUsed v k + countIf (fun x => homeDie v (x * 32) == k) (unitsOf 32 4096 32) ≤ stageSectors v)

theorem witness_PoolRequestsServed :
    let r := Instr.poolRead h1 4096 1
    let w := Instr.poolStore h1 4096 (zeros 32)
    isCurrent pooled r h1 ∧ isCurrent pooled w h1 ∧ isCurrent pooled (.poolAccum h1 4096 (zeros 32)) h1
      ∧ regionOfRange (arrived (.poolRead h1 0 1) h1 pooled) 0 32 = none
      ∧ regionOfRange (arrived r h1 pooled) 4096 32 = some (1, region0)
      ∧ region0.pooled = true ∧ region0.progR = true ∧ region0.progW = true ∧ region0.table = none
      ∧ (regionOfRange (arrived r h1 tabled) 4096 32).map (fun e => e.2.table) = some (some 3)
      ∧ table (arrived r h1 tabled) 3 = some table0
      ∧ rowsIn (arrived r h1 tabled) table0 4096 4096 32 = [0] ∧ rowRoute (arrived r h1 tabled) table0 0 = .here
      ∧ roomAt (arrived w h1 pooled) = true
      ∧ roomAt (arrived w h1 (withRegion region0 (inJob { job0 with stageMib := 0 } ready))) = false := by decide +kernel

/-- The pooled region's first channel retrains. -/
def pooledRetrain : State :=
  { pooled with mem := { pooled.mem with chans := [((chanAt pooled 4096).getD 0, .retraining 0)] } }

theorem witness_PoolRequestsServed_effect :
    let r := Instr.poolRead h1 4096 1
    (homeRead false 4096 32 (countRead (flatKey 4096) (arrived r h1 pooled)).1).2.2.mem.met = false
      ∧ (homeRead false 4096 32 (countRead (flatKey 4096) (arrived r h1 pooledRetrain)).1).2.2.mem.met = true := by decide +kernel

theorem witness_PoolRequestsServed_rows :
    let i := Instr.rowUpdate h1 2 3 0 1 (zeros 64)
    let b := arrived i h1 tabled
    let room := fun (b : State) => stageFits (touchHomes ((rowStore b table0 2).getD 0) 1 b) (rowDie b table0 2)
      (cdiv (4 * (words32 (zeros 64)).length) 32)
    isCurrent tabled i h1 ∧ table (arrived i h1 running) 3 = none ∧ table b 3 = some table0 ∧ table0.rows ≤ 8
      ∧ (2 : Nat) < table0.rows ∧ (words32 (zeros 64)).length = table0.width ∧ (words32 (zeros 4)).length ≠ table0.width
      ∧ rowRoute b table0 2 = .here ∧ room b = true
      ∧ table0.migs.find? (fun m => m.row == 2 && m.start == h1.step) = none
      ∧ room (arrived i h1 (withTable table0 (withRegion { region0 with table := some 3 } (inJob { job0 with stageMib := 0 } ready))))
        = false
      ∧ joinParts { src := 1, tag := 5, parts := [(0, words32 (zeros 64))] } 2 = none := by decide +kernel

/-- `s` with one request of kind `k` out, TAG 5, to package 1. -/
def waitsFor (k : PendKind) (s : State) : State :=
  { s with fab := { s.fab with pend := [{ tag := 5, dst := 1, step := 3, time := 0, kind := k }] } }

theorem witness_PoolRepliesTaken :
    let r := Requester.core 0 (.ctx 0)
    let p : PendKind → Pend := fun k => { tag := 5, dst := 1, step := 3, time := 0, kind := k }
    let g : GatherIn :=
      { table := some 3, flatBase := 0, uniq := [6], inv := [0], waybill := 0, out := none, rowBytes := 64, drops := [],
        remote := [], degraded := false }
    let j : FuncJob :=
      { no := 4, task := taskOf 1, home := 0, desc := pack 128 [(0, 8, 2)], step := 3, input := .gather g, pieces := [], nextPiece := 1 }
    let s := waitsFor (.demand r (2 ^ 42) 32) running
    let t := waitsFor (.gather 4 0 0) { tabled with dsp := { tabled.dsp with funcs := [(4, j)] } }
    let a := 4096 + 2 * rowStride table0.payload
    let d := waitsFor (.demand r a 32) tabled
    isCurrent s (.poolData h1 false 0 (zeros 32)) h1 ∧ isCurrent s (.poolAck h1 0) h1 ∧ isCurrent s (.poolErr h1 1 2) h1
      ∧ isCurrent t (.poolFwd h1 1 noSlot) h1 ∧ findPend s h1.tag = some (p (.demand r (2 ^ 42) 32)) ∧ epochOf s < 2
      ∧ gatherOf t 4 = some (j, g) ∧ findPend t h1.tag = some (p (.gather 4 0 0))
      ∧ (∀ k ∈ [PendKind.write none, .rowUpdate 3 0, .mig 3 0, .fwd 1 9], findPend (waitsFor k running) 5 = some (p k))
      ∧ (let u := digest false 1 (.poolFwd h1 1 noSlot) t
        gatherOf u 4 = some (j, g) ∧ table u 3 = some table0 ∧ (1 : Nat) ≠ pkgNo u ∧ isMember u 1 = true
          ∧ (sendPacket (.poolRead (mkHdr u 1 5) (remoteRowAddr table0 3 (table0.firstHome 6) 1 6 noSlot + 0) 2) u).2 = true)
      ∧ (let u := digest false 1 (.poolFwd h1 1 noSlot) d
        findPend u h1.tag = some (p (.demand r a 32))
          ∧ (remoteTableAt u (gPkg a) (gLocal a)).map (fun e => (e.1, e.2.1 == table0, e.2.2 / rowStride table0.payload)) = some (3, true, 2)
          ∧ (rowParts table0 4096 4288 32).length = 1 ∧ (rowAtIndex table0 0 2).isSome = true) := by
  decide +kernel

theorem witness_RowsMigrate :
    let m : Migration :=
      { row := 2, target := 1, start := 3, oldPkg := 0, oldSlot := noSlot, newSlot := noSlot, st := .reserving, seqNo := 0 }
    let s := waitsFor (.slotReq 3 2) (withTable { table0 with migs := [m] } tabled)
    isCurrent tabled (.slotRequest h1 6 3) h1 ∧ isCurrent tabled (.slotRefusal h1 2 3) h1 ∧ isCurrent tabled (.rowCopy h1 6 3 (zeros (rowStride table0.payload)) 0) h1
      ∧ isCurrent tabled (.directoryChange h1 6 3 1 noSlot) h1 ∧ isCurrent tabled (.forwardedContribution h1 2 3 1 1 (zeros 64)) h1
      ∧ isCurrent s (.slotGrant h1 2 3 0) h1 ∧ table tabled 3 = some table0 ∧ freeSlot table0 = some 0 ∧ table0.region = some 1
      ∧ freeSlot { table0 with usedSlots := [0, 1, 2, 3] } = none := by decide +kernel

/-- Room for `k` sectors of a row of `t` on its die, its `n` bytes touched. -/
def rowFits (t : Table) (row n k : Nat) (b : State) : Bool :=
  stageFits (touchHomes ((rowStore b t row).getD 0) n b) (rowDie b t row) k

/-- `s` as a packet from package 1 finds it whose length the spec does not state: with a digest of it, or without. -/
def withDigest (i : Instr) (s : State) : State :=
  let d : Digest := { sentCnt := 0, recvCnt := 1, sentSum := 0, recvSum := (0 + pktHash i) % 2 ^ 64 }
  { s with fab := { s.fab with digests := mapSet s.fab.digests (3 * 4096 + 1) d } }

theorem arrived_of {i : Instr} {s : State} {P : State → Prop} (hi : hdrOf i = some h1) (hd : s.fab.digests = [])
    (h : P (rowBegun (arrivalDie s h1) s)) (h' : P (rowBegun (arrivalDie (withDigest i s) h1) (withDigest i s))) :
    P (arrived i h1 s) := by
  have : digest false 1 i s = s ∨ digest false 1 i s = withDigest i s := by
    unfold digest withDigest
    rw [hi, hd]
    dsimp only
    split
    · exact .inl rfl
    · exact .inr rfl
  show P (rowBegun (arrivalDie (digest false 1 i s) h1) (digest false 1 i s))
  rcases this with e | e <;> rw [e]
  · exact h
  · exact h'

theorem witness_RowsMigrate_copy :
    let i := Instr.rowCopy h1 6 3 (zeros 96) 0
    isCurrent tabled i h1 = true ∧ (table (arrived i h1 tabled) 3 = some table0 ∧ rowFits table0 6 96 3 (arrived i h1 tabled) = true) :=
  ⟨by decide +kernel, arrived_of (P := fun b => table b 3 = some table0 ∧ rowFits table0 6 96 3 b = true) rfl rfl
    (by decide +kernel) (by decide +kernel)⟩

theorem witness_RowsMigrate_forwarded :
    let i := Instr.forwardedContribution h1 2 3 1 1 (zeros 64)
    let sh : Shadow := { row := 2, source := 1, start := 3, slot := 0, image := none, marks := [] }
    let tb : Table := { table0 with shadows := [sh] }
    let s := withTable tb tabled
    isCurrent s i h1 = true ∧ tb.shadows.any (fun x => x.row == 2 && x.start == h1.step) = true
      ∧ (table (arrived i h1 s) 3 = some tb ∧ rowFits tb 2 1 2 (arrived i h1 s) = true) :=
  ⟨by decide +kernel, by decide, arrived_of (P := fun b => table b 3 = some _ ∧ rowFits _ 2 1 2 b = true) rfl rfl
    (by decide +kernel) (by decide +kernel)⟩

theorem witness_RowsMigrate_grant :
    let m : Migration :=
      { row := 2, target := 1, start := 3, oldPkg := 0, oldSlot := noSlot, newSlot := noSlot, st := .reserving, seqNo := 0 }
    let tb : Table := { table0 with migs := [m] }
    let s := waitsFor (.slotReq 3 2) (withTable tb tabled)
    let i := Instr.slotGrant h1 2 3 0
    let P := fun (b : State) => (findPend b h1.tag).map (fun p => p.step) = some b.step ∧ table b 3 = some tb
      ∧ (commitAddr (dropPend h1.tag b) tb 2).isSome = true ∧ (commitRow 3 2 (dropPend h1.tag b)).job.isSome = true
    isCurrent s i h1 = true ∧ [m].find? (fun m => m.row == 2 && m.st == .reserving && m.start == 3) = some m ∧ P (arrived i h1 s) := by
  intro m tb s i P
  exact ⟨by decide +kernel, by decide, arrived_of (P := P) rfl rfl (by decide +kernel) (by decide +kernel)⟩

theorem witness_RowsCommitted :
    let c : Contrib :=
      { step := 3, origin := 1, table := 3, row := 2, seq := 0, elems := List.replicate 16 0x3F800000, owed := none }
    let tb := { table0 with committing := [2] }
    let s := withTable tb { tabled with
      step := 4
      pool := { tabled.pool with commitStep := 3, contribs := [c] } }
    let b := rowBegun (rowDie s tb 2) s
    let u := withTable { table0 with committing := [] } { b with pool := { b.pool with contribs := [] } }
    let x := homeRead false 4288 (rowStride table0.payload) u
    table s 3 = some tb ∧ tb.committing.contains 2 = true ∧ rowContribs s 3 2 3 = c :: []
      ∧ commitAddr u tb 2 = some 4288 ∧ x.2.1.any id = false ∧ x.2.2.mem.met = false
      ∧ (let image := x.1
        lastStep (rowHeader table0.payload image) < 3
          ∧ (updatedRow table0 (hyperAt table0 3) (jobId u) 3 2 3 c.elems image).isSome = true
          ∧ (updatedRow table0 (hyperAt table0 3) (jobId u) 3 2 3 (List.replicate 16 0x7FC00000) image).isNone = true) := by
  decide +kernel

theorem witness_TableCommands_create :
    asked 0x0600 tablePayload ready ∧ createOk tablePayload = true ∧ createOk (zeros 576) = false
      ∧ table (ask 0x0600 tablePayload ready) 3 = none
      ∧ (let s := ask 0x0600 tablePayload ready
        waysFit s (waysFor (jobMib s).1 (jobMib s).2 (dirEntriesAll s + field tablePayload 160 32)) = true) :=
  ⟨asked_of _ _ _ rfl, by decide +kernel⟩

theorem witness_TableCommands_region : (tableRegion tablePayload ready).isSome = true := by decide +kernel

theorem witness_TableCommands :
    let p := pack 16 [(0, 16, 3)]
    let w := pack (16 + rowStride tablePayload) [(0, 16, 3), (32, 32, 1), (64, 40, 2)]
    let r := pack 16 [(0, 16, 3), (32, 32, 1), (64, 40, 6)]
    let h := pack 28 [(0, 16, 3), (160, 64, 4)]
    let m := pack 16 [(0, 16, 3), (16, 12, 1), (64, 64, 2)]
    let d := pack 12 [(0, 16, 3), (64, 32, 32768)]
    let c := pack 6 [(0, 8, 1), (16, 16, 16), (32, 16, 10)]
    asked 0x0601 p tabled ∧ asked 0x0602 w tabled ∧ asked 0x0603 r tabled ∧ asked 0x0604 h tabled ∧ asked 0x0605 m tabled
      ∧ asked 0x0606 d tabled ∧ asked 0x0607 p tabled ∧ asked 0x0500 c tabled ∧ asked 0x0501 [] tabled
      ∧ (table (ask 0x0601 p tabled) 3 = some table0 ∧ field p 16 16 = 0 ∧ w.length ≤ 524288
        ∧ firstForeign tabled table0 w (8 + rowStride table0.payload) 1 = none ∧ firstForeign tabled table0 r 8 1 = some 0
        ∧ field h 16 48 = 0 ∧ finite32 h 64 true = true ∧ finite32 h 96 true = true ∧ finite32 h 128 false = true
        ∧ field m 28 36 = 0 ∧ table0.migEnable = true ∧ field m 64 64 < table0.rows ∧ table0.home (field m 64 64) = pkgNo tabled
        ∧ field m 16 12 ≠ pkgNo tabled ∧ isMember tabled (field m 16 12) = true ∧ 1 ≤ field d 64 32 ∧ field d 64 32 ≤ 32768
        ∧ (gthCfgOf c).isSome = true ∧ gthCfgOf (zeros 6) = none) :=
  ⟨asked_of _ _ _ rfl, asked_of _ _ _ rfl, asked_of _ _ _ rfl, asked_of _ _ _ rfl, asked_of _ _ _ rfl, asked_of _ _ _ rfl,
    asked_of _ _ _ rfl, asked_of _ _ _ rfl, asked_of _ _ _ rfl, by decide +kernel⟩

/-- `busy` with the bytes of a descriptor at the start of its scratchpad. -/
def withDesc (d : List Byte) : State := putBytes (scratchAddr 0 0) d busy

/-- An MMA of one product of 16-bit elements on array A0 that clears its accumulator. -/
def mmaDesc : List Byte :=
  pack 128 [(1, 1, 1), (80, 8, 1), (96, 11, 1), (128, 32, 1), (160, 32, 32), (192, 32, 32), (256, 64, 4096), (320, 64, 8192)]

theorem witness_MatrixInstructions :
    let s := withDesc mmaDesc
    let r := coreRead 0 0 128 s
    (0 : Nat) < nLc s ∧ (ctx s 0 0).task = some (taskOf 0) ∧ (ctx s 0 0).wait = .none ∧ (ctx s 0 0).suspending = false
      ∧ r.1 = mmaDesc ∧ mmArray r.1 = 0 ∧ (engine s (engKey 0 0)).queue = [] ∧ mmReason s 0 r.1 (mmFmts s r.1) = 0
      ∧ mmReason busy 0 (zeros 128) (mmFmts busy (zeros 128)) ≠ 0 := by decide +kernel

/-- The instruction that `mmaDesc` leaves in a queue. -/
def mmaInst : EngInst :=
  { no := 0, x := 0, task := taskOf 0, desc := mmaDesc, fmts := [0, 0, 0], fexp := 0, mark := 0, accMark := 0, faults := [] }

theorem witness_MatrixInstructions_queue :
    let e := engKey 0 0
    let s := setEngine e { freshEngine with queue := [mmaInst] } busy
    let full := setEngine e { freshEngine with queue := List.replicate 8 mmaInst } busy
    let c : Capsule := { id := 0, eng := e, tile := 0, execs := [], next := none, standing := none, unsettled := false, retests := [] }
    (engine s e).queue = mmaInst :: [] ∧ tilesSettled s e = true ∧ 8 ≤ (engine full e).queue.length
      ∧ tilesSettled { s with chk := { s.chk with capsules := [c] } } e = false ∧ queuedFor s e 0 = true ∧ queuedFor busy e 0 = false := by
  decide +kernel

theorem witness_MatrixInstructions_tensors :
    let p := pack 8 [(0, 12, 4094)] ++ zeros 64
    let q := pack 8 [(0, 12, 4095)] ++ pack 64 [(0, 8, 1)]
    asked 0x0700 p ready ∧ asked 0x0700 q ready ∧ asked 0x0701 (pack 8 [(0, 12, 4094)]) ready
      ∧ (field p 0 12 ≠ 4095 ∧ field p 12 52 = 0 ∧ leNat (slice p 8 64) = 0 ∧ leNat (slice q 8 64) ≠ 0
        ∧ tensorBad (ask 0x0700 q ready) q ≠ 0) := ⟨asked_of _ _ _ rfl, asked_of _ _ _ rfl, asked_of _ _ _ rfl, by decide +kernel⟩

theorem witness_MatrixInstructions_good :
    let q := pack 8 [(0, 12, 1)] ++ pack 64 [(55, 8, 127)]
    asked 0x0700 q ready ∧ leNat (slice q 8 64) ≠ 0 ∧ tensorBad (ask 0x0700 q ready) q = 0 :=
  ⟨asked_of _ _ _ rfl, by decide +kernel⟩

/-- A vector instruction of one row of one FP32 value, of operation `op`. -/
def veDesc (op : Nat) : List Byte :=
  pack 256 ([(0, 4, op), (64, 15, 1), (80, 15, if op = 1 then 1 else 0), (96, 21, 1), (512, 3, 1), (515, 5, if op = 2 then 0 else 13),
    (544, 32, 32), (576, 64, 4096), (1536, 3, 1), (1539, 5, if op = 2 then 0 else 13), (1568, 32, 32), (1600, 64, 8192)]
    ++ (if op = 1 then [(768, 3, 1), (771, 5, 13), (800, 32, 32), (832, 64, 12288)] else []))

theorem witness_VectorInstructions :
    ∀ op ∈ [0, 1, 2],
      let s := withDesc (veDesc op)
      let r := coreRead 0 0 256 s
      (ctx s 0 0).task = some (taskOf 0) ∧ (ctx s 0 0).wait = .none ∧ (ctx s 0 0).suspending = false ∧ r.1 = veDesc op
        ∧ (engine s (engKey 0 2)).holder = none ∧ (engine s (engKey 0 2)).queue.length < 8 ∧ veOp r.1 = op
        ∧ veReason s 0 r.1 (veFmts s r.1) = 0 ∧ veReason busy 0 (zeros 256) (veFmts busy (zeros 256)) ≠ 0 := by decide +kernel

theorem witness_VectorInstructions_queue :
    let e := engKey 0 2
    let i : EngInst := { mmaInst with desc := veDesc 0 }
    let s := setEngine e { freshEngine with queue := [i], holder := some 1 } busy
    (engine s e).queue = i :: [] ∧ tilesSettled s e = true ∧ waitsForMma s 0 i = false ∧ (engine s e).holder = some 1
      ∧ queuedFor s e 0 = true ∧ queuedFor busy e 0 = false := by decide +kernel

/-- Line `l` in use: KIND `mode`, class STEP, with `n` arrivals or contributions expected of logical core 0. -/
def lineOf (mode n : Nat) : SigLine := { freshLine with cfg := pack 40 [(8, 2, mode), (64, 4, n)] }

theorem witness_SignalInstructions :
    let f := setLine 30 (lineOf 1 1) busy
    let b := setLine 30 (lineOf 2 15) busy
    let full := setLine 30 { lineOf 2 15 with counts := [(0, 30)] } busy
    (0 : Nat) < nLc f ∧ sigReason busy 0 31 0 .set ≠ 0 ∧ sigReason f 0 30 0 .set = 0 ∧ sigReason f 0 30 0 .clr = 0
      ∧ sigReason b 0 30 0 .arrive = 0 ∧ mapGetD (sigLine b 30).counts 0 0 < 2 * sgExpect (sigLine b 30).cfg 0
      ∧ 2 * sgExpect (sigLine full 30).cfg 0 ≤ mapGetD (sigLine full 30).counts 0 0 ∧ sigReason full 0 30 0 .arrive = 0
      ∧ sigReason f 0 30 0 (.wait 1) = 0 ∧ lineMeets (sigLine f 30) 1 = false ∧ lineMeets (sigLine f 30) 0 = true
      ∧ sigReason f 0 30 0 .read = 0 := by decide +kernel

theorem witness_BarrierWaitsAndReads :
    let b := setLine 30 { lineOf 2 15 with gen := 32767 } busy
    let w := setCtx 0 0 { ctx b 0 0 with wait := .sig 30 65535 0 none } b
    field (sigLine b 30).cfg 8 2 = 2 ∧ (∀ g ∈ [0, 32768, 65535], sigReason b 0 30 (taskOf 0).cls (.wait g) = 0)
      ∧ lineMeets (sigLine b 30) 0 = true ∧ lineMeets (sigLine b 30) 65535 = false ∧ sigReason b 0 30 (taskOf 0).cls .read = 0
      ∧ field (sigLine w 30).cfg 8 2 = 2 ∧ (ctx w 0 0).wait = .sig 30 65535 0 none := by decide +kernel

theorem witness_SignalLinesMove :
    let job := { freshLine with cfg := pack 40 [(8, 2, 1), (10, 1, 1), (64, 4, 1)] }
    let s := setLine 2 job running
    let a := setCtx 0 0 { ctx busy 0 0 with wait := .arrive 30 5 0 } (setLine 30 (lineOf 2 15) busy)
    let w := setCtx 0 0 { ctx busy 0 0 with wait := .sig 30 1 0 (some 100) } (setLine 30 (lineOf 1 1) busy)
    let m := setLine 30 { lineOf 1 1 with contrib := 1 } w
    isCurrent s (.sigUp h1 2 true) h1 = true ∧ isCurrent s (.sigDown h1 2 1) h1 = true ∧ sgMode (sigLine s 2).cfg ≠ 0
      ∧ sgJob (sigLine s 2).cfg = true ∧ isAddressed s (.sigUp { h1 with epoch := 0 } 2 true) { h1 with epoch := 0 } = true
      ∧ ({ h1 with epoch := 0 } : Hdr).epoch < epochOf s ∧ isAddressed s (.sigUp { h1 with step := 2 } 2 true) { h1 with step := 2 } = true
      ∧ ({ h1 with step := 2 } : Hdr).step < stepOf s ∧ (ctx a 0 0).wait = .arrive 30 5 0 ∧ underCopy a 0 = false
      ∧ mapGetD (sigLine a 30).counts 0 0 < 2 * sgExpect (sigLine a 30).cfg 0 ∧ (ctx w 0 0).wait = .sig 30 1 0 (some 100)
      ∧ underCopy w 0 = false ∧ (ctx (registerLines (reachTime 100 w)) 0 0).wait = .sig 30 1 0 (some 100)
      ∧ (ctx m 0 0).wait = .sig 30 1 0 (some 100) ∧ (ctx (registerLines (reachTime 100 m)) 0 0).wait = .none := by
  decide +kernel

theorem witness_SignalLinesMove_commands :
    let good := pack 40 [(0, 5, 30), (8, 2, 2), (64, 4, 15)]
    asked 0x0A00 good ready ∧ sigConfigBad (ask 0x0A00 good ready) good = 0 ∧ asked 0x0A00 (pack 40 [(0, 5, 31)]) ready
      ∧ sigConfigBad ready (pack 40 [(0, 5, 31)]) = 1 ∧ asked 0x0A01 [] ready :=
  ⟨asked_of _ _ _ rfl, by decide +kernel, asked_of _ _ _ rfl, by decide +kernel, asked_of _ _ _ rfl⟩

/-- `s` whose channel 0 retrains since time 0; region 0 lies on every channel. -/
def chan0 (c : ChanState) (s : State) : State := { s with mem := { s.mem with chans := [(0, c)] } }

theorem witness_MemoryReadsAndWrites :
    let r : Requester := .core 0 .vector
    let pooled := withRegion { region0 with base := 65536 } running
    let own := withRegion { region0 with base := 65536, pooled := false } running
    let g := 65536
    requesterIn own r = true ∧ aimed own g = g ∧ gPkg g = pkgNo own
      ∧ accessBlocked (chan0 (.retraining 0) own) (requesterDie own r) (gLocal g) 256 = true
      ∧ accessBlocked own (requesterDie own r) (gLocal g) 256 = false
      ∧ accessOk own r false 65536 256 = true ∧ accessOk own r true 65536 256 = true ∧ accessOk own r false 0 1 = false
      ∧ accessOk own r true 65536 0 = false ∧ accessOk own r false bridgeBase 64 = true ∧ accessOk own .stationmaster true bridgeBase 1 = true
      ∧ (regionAt own 65536).map (fun e => (e.2.table, e.2.pooled)) = some (none, false)
      ∧ accessOk pooled r true 65536 32 = true ∧ (regionAt pooled 65536).map (fun e => e.2.pooled) = some true := by decide +kernel

theorem witness_MemoryReadsAndWrites_waits :
    let r : Requester := .core 0 .vector
    let own := withRegion { region0 with base := 65536, pooled := false } running
    let i := Instr.memoryReadRequest r 65536 256 []
    let fenced := { own with chk := { own.chk with movedFrom := [(0, 3)] } }
    let there := 2 ^ 54 + 0x40000000
    (requesterLc r).bind (mapGet fenced.chk.movedFrom) = some 3 ∧ (requesterLc r).bind (mapGet own.chk.movedFrom) = none
      ∧ behindWaiting { own with mem := { own.mem with waiting := [i] } } i = true ∧ behindWaiting own i = false
      ∧ opReacher r = some 0 ∧ inOpCache (there - 2 ^ 54) 64 = true ∧ inOpCache (there + 1048576 - 2 ^ 54) 1 = false
      ∧ opReacher (.core 0 (.shunter 0)) = none := by decide +kernel

theorem witness_MemoryReadsAndWrites_sits :
    let r : Requester := .core 0 .vector
    let s := withRegion { region0 with base := 65536 } (inJob { job0 with sittingOut := true } ready)
    accessOk s r true 65536 32 = true ∧ (regionAt s 65536).map (fun e => e.2.pooled) = some true
      ∧ s.job.map (fun j => j.sittingOut) = some true
      ∧ (let t := withTable table0 (withRegion { region0 with base := 65536, table := some 3 } running)
        accessOk t r false 65536 32 = true ∧ (regionAt t 65536).map (fun e => e.2.table) = some (some 3)
          ∧ table t 3 = some table0) := by decide +kernel

theorem witness_MemoryReadsAndWrites_far :
    let b := 2 ^ 42 + 4096
    let last := 2 ^ 42 + (2 ^ 41 - 1)
    gPkg (aimed running b) ≠ pkgNo running ∧ isMember running (gPkg (aimed running b)) = true
      ∧ gLocal (aimed running last) + 1 ≤ 2 ^ 41 ∧ 2 ^ 41 < gLocal (aimed running last) + 2
      ∧ isMember running (gPkg (aimed running (2 ^ 43))) = false := by decide +kernel

theorem witness_MemoryEventsAndCommands_events :
    let l : WcbLine := { line := 64, mask := 1, last := 0 }
    let f : PfLine := { granule := 16, ready := false, hit := false, pooled := false, data := [], poison := [] }
    let s := withRegion { region0 with pooled := false } ready
    let w := { s with mem := { s.mem with wcb := [l], staging := [(0, [f])] } }
    takeFirst (fun x : WcbLine => x.line == 64) w.mem.wcb = some (l, []) ∧ (chanAt w (64 * 64)).map (chanState w) = some .up
      ∧ (0 : Nat) < nLc w ∧ (stagingOf w 0).any (fun l => l.granule == 16 && !l.ready) = true
      ∧ 2047 < nChans w ∧ chanIn w 2047 = true ∧ chanState w 2047 = .up ∧ chanState (chan0 (.retraining 7) w) 0 = .retraining 7
      ∧ 15 < nStacks w ∧ diesRun w = true := by decide +kernel

theorem witness_MemoryEventsAndCommands_waits :
    let f : PfLine := { granule := 16, ready := false, hit := false, pooled := false, data := [], poison := [] }
    let s := withRegion { region0 with pooled := false, base := 65536 } ready
    let w := fun (s : State) => { s with mem := { s.mem with staging := [(0, [f])] } }
    let fill := fun (s : State) => (homeRead true (16 * 256) 256 (rowBegun (lcDie s 0) s)).2.2.mem.met
    let put := fun (s : State) => (homeWrite 65536 (zeros 16) (rowBegun 0 s)).mem.met
    let get := fun (s : State) => (homeRead false 65536 16 (rowBegun 0 s)).2.2.mem.met
    let low := withRegion { region0 with pooled := false } ready
    let shut := fun (s : State) (a : Nat) => { s with mem := { s.mem with chans := [((chanAt s a).getD 0, .retraining 0)] } }
    fill (w low) = false ∧ fill (w (shut low 4096)) = true ∧ put s = false ∧ put (shut s 65536) = true ∧ get s = false
      ∧ get (shut s 65536) = true := by decide +kernel

theorem witness_MemoryEventsAndCommands_alloc :
    let p := pack 16 [(0, 64, 65536), (69, 1, 1), (70, 1, 1)]
    asked 0x0B00 p ready ∧ allocFieldsOk ready p = true ∧ (allocAsk p).spread = true ∧ allocFieldsOk ready (zeros 16) = false
      ∧ (createRegion (allocAsk p) (ask 0x0B00 p ready)).isSome = true
      ∧ (let q := pack 16 [(0, 64, 2 ^ 41)]
        allocFieldsOk ready q = true ∧ (createRegion (allocAsk q) ready).isNone = true) :=
  ⟨asked_of _ _ _ rfl, by decide +kernel⟩

theorem witness_MemoryEventsAndCommands :
    let s := withRegion { region0 with pooled := false, base := 65536, size := 65536, frames := 1 } ready
    let t := withRegion { region0 with table := some 3 } ready
    let busy' := chan0 (.retraining 0) s
    let a := pack 12 [(0, 64, 65536), (64, 32, 16)]
    let config := pack 8 [(8, 8, 85), (16, 7, 64), (32, 8, 168), (40, 8, 255)]
    asked 0x0B01 (pack 2 [(0, 12, 1)]) s ∧ asked 0x0B02 (a ++ zeros 16) s ∧ asked 0x0B03 a s
      ∧ asked 0x0B04 (pack 4 [(0, 12, 4095), (16, 16, 1)]) s ∧ asked 0x0B05 config s ∧ asked 0x0B06 (zeros 2) s
      ∧ asked 0x0B06 (zeros 2) busy' ∧ asked 0x0B07 (pack 4 [(17, 7, 64)]) s ∧ asked 0x0B08 [] s
      ∧ (mapGet s.mem.regions 2 = none ∧ (mapGet s.mem.regions 1).isSome = true ∧ s.mem.regions.all (fun e => !regionNamed s e.2) = true
        ∧ rangeOk s 0 16 = none ∧ (rangeOk s 65536 65536).map (fun r => r.table) = some none
        ∧ (rangeOk t 4096 16).map (fun r => r.table) = some (some 3) ∧ memConfigOk config = true ∧ memConfigOk (zeros 8) = false
        ∧ namedChan s (zeros 2) = some 0 ∧ namedChan s (pack 2 [(0, 4, 15), (8, 7, 127)]) = some 2047
        ∧ namedChan s (pack 2 [(4, 4, 1)]) = none ∧ retraining busy' 0 = true ∧ chanState s 0 = .up) :=
  ⟨asked_of _ _ _ rfl, asked_of _ _ _ rfl, asked_of _ _ _ rfl, asked_of _ _ _ rfl, asked_of _ _ _ rfl, asked_of _ _ _ rfl,
    asked_of _ _ _ rfl, asked_of _ _ _ rfl, asked_of _ _ _ rfl, by decide +kernel⟩

/-- `running` with port 12 in a state. -/
def portIn (st : PortSt) (reason : Nat) : State :=
  setPort 12 { port running 12 with st := st, reason := reason } running

theorem witness_LinkLayerAndPorts :
    let t := portIn .training 0
    let c := (List.range 4).map (coordOf 1)
    let f := portFace running 12
    (12 : Nat) < nPorts running ∧ (port running 12).st = .up ∧ (port t 12).st = .training
      ∧ (port (portIn .retraining 0) 12).st = .retraining ∧ (port running 12).lanes = 255
      ∧ 127 % 256 &&& (port running 12).lanes ≠ (port running 12).lanes ∧ 255 % 256 &&& (port running 12).lanes = (port running 12).lanes
      ∧ laneCount (goodLanes t 12 63) = 6 ∧ laneCount (goodLanes t 12 31) = 5
      ∧ c = (List.range 4).map (coordOf 1) ∧ expectedNbr t 12 = some 1 ∧ codeByte running.fuse.code = 8 ∧ f.1 = 3 ∧ f.2.1 = true
      ∧ (port t 12).trained = none ∧ (let p : Port := { port t 12 with trained := some 255 }; p.trained = some 255)
      ∧ isAddressed running (.linkState h1 1 3 false false 4) h1 = true ∧ running.job.isSome = true := by decide +kernel

theorem witness_LinkLayerAndPorts_held :
    let s : State := { running with fab := { running.fab with heldEpoch := [(0, .arrival h1)] } }
    let p : Port := { port running 12 with
      retry := [{ fseq := 0, llc := none, runOn := none, starts := [.arrival h1], used := 2 }] }
    s.fab.heldEpoch = (0, .arrival h1) :: [] ∧ hdrOf (.arrival h1) = some h1 ∧ p.retry ≠ [] := by decide

theorem witness_LinkLayerAndPorts_commands :
    let good := pack 8 [(25, 3, 1)]
    asked 0x0C00 good ready ∧ topoOk ready good = true ∧ topoOk ready (pack 8 [(0, 3, 1)]) = false
      ∧ (ask 0x0C00 good ready).pool.tables = [] ∧ (withTable table0 ready).pool.tables ≠ [] ∧ asked 0x0C01 [] ready
      ∧ (∀ e ∈ [(PortSt.up, 0), (.training, 0), (.retraining, 0), (.down, 3), (.disabled, 2), (.disabled, 1)],
        asked 0x0C02 (pack 4 [(0, 4, 12)]) (portIn e.1 e.2))
      ∧ field (pack 4 [(0, 4, 12)]) 0 4 = 12 ∧ (expectedNbr (portIn .disabled 2) 12).isSome = true :=
  ⟨asked_of _ _ _ rfl, by decide +kernel, by decide +kernel, by decide, by decide, asked_of _ _ _ rfl,
    fun _ h => by fin_cases h <;> exact asked_of _ _ _ rfl, by decide, by decide +kernel⟩

/-- A collective of die 0 with descriptor `d`. -/
def collOf (d : List Byte) (started : Bool) : Coll :=
  { no := 1, die := 0, task := taskOf 2, desc := d, step := 3, started := started, unacked := [], partialDone := false }

/-- `tabled` with a collective, its table bound. -/
def reducing (d : List Byte) (started : Bool) : State :=
  withTable { table0 with bind := some true } { tabled with fab := { tabled.fab with colls := [collOf d started] } }

/-- A REDUCE_SCATTER of the 8 rows of table 3 from the scratchpad. -/
def rsDesc : List Byte :=
  pack 128 [(0, 8, 1), (16, 5, 13), (32, 8, 3), (64, 64, 0x30000000000), (192, 32, 8), (224, 32, 1000)]

/-- A GNORM with clip norm 1. -/
def gnDesc : List Byte := pack 128 [(0, 8, 2), (256, 32, 1000), (288, 32, 0x3F800000)]

theorem witness_ReductionAndNorm :
    let s := reducing rsDesc false
    let n := reducing gnDesc false
    let bad := reducing (zeros 128) false
    let p : Pend := { tag := 5, dst := 1, step := 3, time := 0, kind := .contrib 1 }
    let w := { s with fab := { s.fab with pend := [p] } }
    (0 : Nat) < nDies s ∧ s.fab.colls.find? (fun c => c.die == 0 && cdKind c.desc != 2 && !c.started) = some (collOf rsDesc false)
      ∧ sittingOut s = false ∧ s.chk.forfeited = false ∧ rsDescOk s rsDesc = true ∧ rsDescOk bad (zeros 128) = false
      ∧ (table s (cdTable rsDesc)).isSome = true
      ∧ isCurrent s (.rdContrib h1 0 3 2 13 (zeros 2048)) h1 ∧ isCurrent w (.rdAck h1 0 3 0 false) h1
      ∧ (let u := digest false h1.src (.rdAck h1 0 3 0 false) w
        findPend w h1.tag = some p ∧ findPend u h1.tag = some p)
      ∧ n.fab.colls.find? (fun c => c.die == 0 && cdKind c.desc == 2 && !c.started) = some (collOf gnDesc false)
      ∧ gnDescOk gnDesc = true ∧ gnDescOk (zeros 128) = false ∧ n.fab.gnApplied = false ∧ n.fab.gnResult = none := by
  decide +kernel

theorem witness_ReductionAndNorm_effect :
    let d := pack 128 [(0, 8, 1), (16, 5, 13), (32, 8, 3), (64, 64, scratchAddr 8 0), (192, 32, 4), (224, 32, 1000)]
    let k := collOf d false
    let s := reducing d false
    let run := fun (s : State) =>
      let b := rowBegun 0 s
      let u := { b with fab := { b.fab with colls := b.fab.colls.map (fun x => if x.no = k.no then { x with started := true } else x) } }
      (checkColls ((cutUnits table0 4 4 0 3).foldl (sendUnit k) u)).mem.met
    rsDescOk s d = true ∧ run s = false ∧ (∀ p ∈ fixedRoute 0 1, run (setCplPhase p .retraining s) = true) := by decide +kernel

/-- A packet's digest changes neither tables nor collectives. -/
theorem digest_pool_colls (b : Bool) (p : Nat) (i : Instr) (s : State) :
    (digest b p i s).pool = s.pool ∧ (digest b p i s).fab.colls = s.fab.colls ∧ (digest b p i s).fab.rdCfg = s.fab.rdCfg
      ∧ (digest b p i s).flash = s.flash := by
  unfold digest
  split
  · simp
  · split <;> simp

theorem witness_ReductionAndNorm_rows :
    let s := reducing rsDesc false
    ∀ i, let u := digest false h1.src i s
      table u 3 = table s 3 ∧ (table s 3).map (fun tb => tb.bind) = some (some true)
        ∧ (table s 3).map (fun tb => tb.defaultHome 0 == pkgNo s && (0 : Nat) < tb.rows) = some true
        ∧ (table s 3).map (fun tb => tb.defaultHome 4 == pkgNo s) = some false ∧ pkgNo u = pkgNo s
        ∧ fmtAgrees u 3 13 = fmtAgrees s 3 13 ∧ fmtAgrees u 3 0 = fmtAgrees s 3 0 ∧ fmtAgrees s 3 13 = true
        ∧ fmtAgrees s 3 0 = false ∧ u.fab.rdCfg.nonfiniteAdd = s.fab.rdCfg.nonfiniteAdd := by
  intro s i u
  obtain ⟨h1, h2, h3, h4⟩ := digest_pool_colls false h1.src i s
  refine ⟨by simp only [table, u, h1], by decide +kernel, by decide +kernel, by decide +kernel, by simp only [pkgNo, u, h4],
    by simp only [fmtAgrees, u, h2], by simp only [fmtAgrees, u, h2], by decide +kernel, by decide +kernel, by simp only [u, h3]⟩

theorem witness_ReductionAndNorm_norm :
    let m := reducing gnDesc true
    let f := inJob { job0 with master := 1, deputies := [0] } (reducing gnDesc false)
    let r := { m with fab := { m.fab with gnRoot := [(1, (0, false))] } }
    m.job = some job0 ∧ isCurrent m (.gnPartial h1 0 false) h1 ∧ job0.master = pkgNo m ∧ m.fab.gnClosed = false
      ∧ r.fab.gnRoot ≠ [] ∧ isCurrent f (.gnResult h1 0 2 false) h1 ∧ gnColls m = collOf gnDesc true :: []
      ∧ f.fab.gnApplied = false ∧ f.now + job0.lead < job0.nominal
      ∧ (let u := { f with fab := { f.fab with ports := [], colls := [collOf gnDesc true] } }
        (sendPlain (.gnPartial (mkHdr u 1 0) 0 false) u).fab.gnResult = none) := by decide +kernel

theorem witness_ReductionAndNorm_commands :
    let c := pack 8 [(16, 16, 10)]
    let b := pack 8 [(0, 8, 3), (8, 1, 1)]
    let d := pack 12 [(0, 64, 3), (80, 16, 4096)]
    let wide := withTable { table0 with payload := pack 576 [(0, 16, 3), (32, 16, 256), (64, 64, 8)] } tabled
    asked 0x0C03 c ready ∧ field c 1 15 = 0 ∧ field c 32 32 = 0 ∧ field c 16 16 = 10 ∧ asked 0x0C04 b wide ∧ asked 0x0C05 d running
      ∧ (field d 64 12 + field d 80 16 ≤ 4096 ∧ digestKept running 3 = true ∧ digestKept running 5 = false
        ∧ (table wide 3).map (fun tb => tb.width) = some 256 ∧ table wide 2 = none ∧ field b 10 54 = 0) :=
  ⟨asked_of _ _ _ rfl, by decide, by decide, by decide, asked_of _ _ _ rfl, asked_of _ _ _ rfl, by decide +kernel⟩

/-- `ready` with mailbox 0, its return buffer 4,096 bytes, in a phase. -/
def boxIn (p : MbxPhase) (w : List Byte) : State :=
  setMailbox 0 { closedMailbox with retSize := 4096, phase := p, window := w } ready

/-- The header of a command of opcode `op`, with a payload of `n` bytes and CMD_SEQ `q`. -/
def headerOf (op n q : Nat) : List Byte := pack 64 [(0, 16, op), (32, 32, q), (64, 32, n)]

theorem witness_MailboxesServe :
    let p := boxIn .posted (headerOf 0x0101 0 0)
    let t := boxIn .posted (pack 64 [(0, 16, 0x0101), (96, 32, 600000)])
    let x := setMailbox 0 { closedMailbox with
      phase := .executing
      slot := some { slotFor 0x0100 [] with done := some (plain 0) } } ready
    reachable ready = true ∧ 1048575 + [(0 : Byte)].length ≤ 1048576 ∧ (mailbox ready 63).phase = .closed
      ∧ (mailbox (boxIn .idle []) 0).phase = .idle ∧ (mailbox p 0).phase = .posted ∧ smServes p = true ∧ nextTakeUp p = some 0
      ∧ validate (postedSlot (mailbox p 0)) (some 0) 4032 p = none
      ∧ field (mailbox t 0).window 96 32 = 600000 ∧ (mailbox x 0).phase = .executing
      ∧ (mailbox x 0).slot = some { slotFor 0x0100 [] with done := some (plain 0) } ∧ ready.host.busMaster = true
      ∧ ({ x with host := { x.host with busMaster := false } } : State).host.busMaster = false
      ∧ ready.sm.shed < 1 ∧ ({ ready with sm := { ready.sm with shed := 3 } } : State).sm.shed = 3 := by decide +kernel

/-- The slot of a command with a header and a payload. -/
def cmdSlot (h p : List Byte) (op : Nat) : Slot := { slotFor op p with header := h }

theorem witness_MailboxesServe_checks :
    let v := fun (c : Slot) => validate c none 4096 ready
    v (cmdSlot (pack 64 [(0, 16, 0x0101), (18, 1, 1)]) [] 0x0101) = some (St.badHeader, 1)
      ∧ v (cmdSlot (pack 64 [(0, 16, 0x0101), (16, 1, 1)]) [] 0x0101) = some (St.badCrc, 2)
      ∧ v (cmdSlot (headerOf 0xFFFF 0 0) [] 0xFFFF) = some (St.badOpcode, 3)
      ∧ v (cmdSlot (headerOf 0x0101 1 0) [0] 0x0101) = some (St.badLength, 4)
      ∧ v (cmdSlot (pack 64 [(0, 16, 0x0101), (17, 1, 1), (64, 32, 88)]) (zeros 88) 0x0101) = some (St.badSig, 5)
      ∧ v (cmdSlot (headerOf 0x0203 0 0) [] 0x0203) = some (St.badState, 6)
      ∧ validate (cmdSlot (headerOf 0x0204 0 0) [] 0x0204) none 4096 follower = some (St.notMaster, 7) := by decide +kernel

theorem witness_SidebandAnswers :
    let s := { ready with fw := some { imageBytes := 320, pldm := true } }
    let fresh := { ready with dev := .ready }
    let b := { ready with flash := { ready.flash with boot1 := { ready.flash.boot1 with updateNo := 9, validA := true } } }
    let off := { b with flash := { b.flash with boot1 := { b.flash.boot1 with validA := false, validB := false } } }
    sideServes ready = true ∧ ready.host.side = none ∧ ready.dev ≠ .off
      ∧ sideValidate (cmdSlot (headerOf 0x0101 0 0) [] 0x0101) ready = none
      ∧ sideValidate (cmdSlot (headerOf 0xFFFF 0 0) [] 0xFFFF) ready = some (St.badOpcode, 3)
      ∧ pldmFwAllowed fresh = true ∧ flashBusy fresh = false ∧ flashBusy s = true ∧ pldmFwAllowed { ready with dev := .standby } = false
      ∧ s.fw = some { imageBytes := 320, pldm := true } ∧ 256 + (zeros 64).length ≤ 320 ∧ (fwCommitS 320 s).2.isSome = true
      ∧ (lastValid b).isSome = true ∧ lastValid off = none ∧ b.fw = none := by decide +kernel

theorem witness_SidebandAnswers_commands : asked 0x0100 [1, 2] ready ∧ asked 0x0101 [] ready :=
  ⟨asked_of _ _ _ rfl, asked_of _ _ _ rfl⟩

/-- A capsule of tile 0 of array A0 of logical core 0 with executions of these values by cores 0, 1, …; `u` is next. -/
def capsuleOf (values : List TileValue) (u : PhysUnit) : Capsule :=
  { id := 4, eng := 0, tile := 0, execs := values.mapIdx (fun i v => { unit := { die := 0, k := i, eng := .a0 }, value := v }),
    next := some u, standing := none, unsettled := false, retests := [] }

theorem witness_ChecksFenceAndTest :
    let u : PhysUnit := { die := 0, k := 9, eng := .a0 }
    let w : TileValue := .wrong 0 []
    let cores := (List.range 10).map (fun k => (k, { bareCore with
      role := if k < 8 then .serving else .siding
      lc := if k < 8 then some k else none }))
    let with' := fun (values : List TileValue) =>
      ({ running with chk := { running.chk with cores := cores, capsules := [capsuleOf values u] } } : State)
    let retest : Capsule := { capsuleOf [] u with standing := some .right, retests := [u] }
    let r := { with' [] with chk := { (with' []).chk with capsules := [retest] } }
    (∀ values ∈ [[TileValue.right], [.right, w], [.right, w, .wrong 1 []], [.right, w, .wrong 1 [], w]],
      (with' values).chk.capsules.find? (fun c => c.id == 4) = some (capsuleOf values u)
        ∧ (capsuleOf values u).next = some u ∧ (capsuleOf values u).execs.map (fun e => e.value) = values)
      ∧ (nextUnit (with' [.right, w]) { capsuleOf [.right, w] u with next := none }).isSome = true
      ∧ r.chk.capsules.find? (fun c => c.id == 4 && c.retests.contains u) = some retest ∧ retest.standing = some .right
      ∧ retest.standing ≠ some w ∧ (physCore r 0).role = .serving ∧ servedBy (physCore r 0) = [0]
      ∧ (∀ k ∈ [0, 9], (physCore { r with chk := { r.chk with cores := [(k, { bareCore with role := .fenced })] } } k).role = .fenced)
      ∧ (lowestSiding r 0).map (fun e => e.1) = some 8 ∧ lowestSiding r 1 = none
      ∧ (let t : State := { r with chk := { r.chk with
          cores := cores.take 8
          spares := { r.chk.spares with sliceOk := true } } }
        lowestSiding t 0 = none ∧ (chooseHost t 0).map (fun e => e.1) = some 0) := by decide +kernel

theorem witness_ChecksFenceAndTest_rest :
    let x : Subst := { dead := 1, acting := none, spare := some 2, rebuilt := false, joined := false }
    let f : FieldTest := { since := 0, seconds := 20, byCommand := true, stopped := false }
    let c := { ready with chk := { ready.chk with
      cores := [(8, { bareCore with copying := [0] })]
      substs := [x]
      autoField := true
      autoDone := false } }
    (0 : Nat) < nLc c ∧ underCopy c 0 = true ∧ c.chk.forfeited = false
      ∧ c.chk.substs.find? (fun x => x.dead == 1 && !x.rebuilt) = some x ∧ (2 : Nat) ≠ pkgNo c
      ∧ c.dev = .ready ∧ c.job = none ∧ c.chk.field = none ∧ commandRuns c = false
      ∧ ({ c with chk := { c.chk with field := some f } } : State).chk.field = some f := by decide +kernel

theorem witness_ChecksFenceAndTest_commands :
    let config := pack 8 [(0, 9, 256), (9, 1, 1), (16, 8, 10)]
    let busy' := { ready with chk := { ready.chk with
      field := some { since := 0, seconds := 20, byCommand := true, stopped := false } } }
    let spares := pack 8 [(0, 4, 8), (8, 4, 1)] ++ pack 520 [(0, 12, 7)]
    asked 0x0D00 config ready ∧ field config 0 9 ≤ 256 ∧ field config 10 6 = 0 ∧ field config 24 40 = 0 ∧ asked 0x0D01 [] ready
      ∧ asked 0x0D02 (pack 8 [(0, 8, 120)]) ready ∧ asked 0x0D02 (pack 8 [(0, 8, 5)]) busy' ∧ busy'.chk.field.isSome = true
      ∧ ready.chk.field = none ∧ asked 0x0D03 [] ready ∧ asked 0x0D04 (pack 8 [(32, 16, 16384)]) ready ∧ asked 0x0D05 spares ready
      ∧ field spares 0 4 = 8 ∧ field spares 8 4 = 1 ∧ field spares 6 2 = 0 ∧ field spares 12 52 = 0
      ∧ field spares ((8 + 520 * 0) * 8 + 12) 52 = 0 :=
  ⟨asked_of _ _ _ rfl, by decide, by decide, by decide, asked_of _ _ _ rfl, asked_of _ _ _ rfl, asked_of _ _ _ rfl, rfl, rfl,
    asked_of _ _ _ rfl, asked_of _ _ _ rfl, asked_of _ _ _ rfl, by decide +kernel⟩

/-- In phase `n` of BRINGUP. -/
def inPhase (n : Nat) : State := { ready with dev := .bringup, brg := { ready.brg with phase := n } }

theorem witness_BringupProceeds :
    let s := inPhase 4
    let d := recordFull (reconcile (countRejects s))
    let p0 := { inPhase 0 with boot := { ready.boot with started := false } }
    (inPhase 1).dev = .bringup ∧ (inPhase 3).sm.state = .running ∧ (inPhase 0).boot.started = true
      ∧ p0.boot.started = false ∧ (bootFirmware { p0 with fuse := { p0.fuse with tabvasKeys := [] } }).boot.started = false
      ∧ 1 < nDies s ∧ coreBad s 1 9 = false ∧ chanBad s 2047 = false
      ∧ sparesUsed s 0 < 32 ∧ (List.range (nPorts s)).any (fun q => (port s q).st == .training) = false
      ∧ anyExecuting 0x0E02 s = false ∧ limitedWhy d = 0 ∧ (coresPerDie d).isSome = true
      ∧ (let t := findCore 0 0 (findCore 0 1 (findCore 0 2 s))
        coreBad t 0 0 = true ∧ limitedWhy (recordFull (reconcile (countRejects t))) = 1)
      ∧ chanBad (findChan 5 s) 5 = true ∧ hasCoupling s 9 = true := by decide +kernel

theorem witness_BringupProceeds_commands :
    let limited := { findCore 0 0 (findCore 0 1 (findCore 0 2 ready)) with dev := .limited, brg := { ready.brg with limitedWhy := 1 } }
    let quick := { ready with flash := { ready.flash with brg := { ready.flash.brg with lastFullPass := some 0, memEvent := false } } }
    let allow := pack 8 [(0, 1, 1), (1, 3, 7)]
    let u : State := { limited with flash := { limited.flash with brg := { limited.flash.brg with allow := true, minLc := 7 } } }
    ({ ready with brg := { ready.brg with resetAt := some (1, 2) } } : State).brg.resetAt = some (1, 2)
      ∧ asked 0x0E00 (pack 8 [(0, 2, 2)]) quick ∧ asked 0x0E00 (pack 8 [(0, 2, 3)]) ready
      ∧ quickOk (ask 0x0E00 (pack 8 [(0, 2, 2)]) quick) = true ∧ quickOk ready = false
      ∧ asked 0x0E01 [] ready ∧ asked 0x0E02 allow ready ∧ asked 0x0E02 allow limited ∧ asked 0x0E03 (pack 8 [(32, 16, 32768)]) ready
      ∧ (limited.dev = .limited ∧ heldBack (.mbx 0) (ask 0x0E02 allow limited) = false ∧ field allow 4 60 = 0
        ∧ coresPerDie u = some (7, true) ∧ coresPerDie limited = none) :=
  ⟨rfl, asked_of _ _ _ rfl, asked_of _ _ _ rfl, by decide +kernel, by decide +kernel, asked_of _ _ _ rfl, asked_of _ _ _ rfl,
    asked_of _ _ _ rfl, asked_of _ _ _ rfl, by decide +kernel⟩

/-- A record of severity `sev`, without a number yet. -/
def recOf (sev : Nat) : Rec := { seq := 0, code := Ev.brgReady, sev := sev, src := 0, time := 4096, payload := [] }

theorem witness_RecorderRecords :
    let q := { ready with evr := { ready.evr with queue := [recOf 4] } }
    let f : Freeze := { expires := 60, startCount := 0 }
    let z := { q with evr := { q.evr with freeze := some f } }
    let full := { q with evr := { q.evr with ring := List.replicate 4096 { recOf 3 with seq := 1, payload := zeros 8 } } }
    let b := { ready with evr := { ready.evr with buckets := [(Ev.brgReady, { tokens := 0, next := some 5 })] } }
    q.evr.queue = recOf 4 :: [] ∧ (recOf 4).seq = 0 ∧ q.evr.freeze = none ∧ z.evr.freeze = some f
      ∧ (let need := recLen (recOf 4) + (if needsAnchor q.evr.ring 4096 then 16 else 0)
        ringBytes (makeRoom 4 need 0 q.evr.ring []).1 + need ≤ ringCap)
      ∧ full.evr.freeze = none ∧ (bucketOf b Ev.brgReady).next = some 5 ∧ q.sm.state = .running := by decide +kernel

theorem witness_RecorderRecords_commands :
    let config := pack 16 [(16, 16, Ev.brgReady), (32, 16, 1000), (48, 16, 1024)]
    let range := pack 16 [(0, 1, 1), (16, 16, 2), (32, 16, 15), (64, 32, 320), (96, 32, 832)]
    let counters := pack 16 [(0, 8, 1), (64, 16, Cnt.evrRaised), (96, 16, 4096)]
    let full := { ready with flash := { ready.flash with clearLog := List.replicate 1024 (recOf 3) } }
    let frozen := { ready with evr := { ready.evr with freeze := some { expires := 60, startCount := 0 } } }
    asked 0x0F00 (pack 24 [(0, 2, 2), (128, 32, 524288)]) ready ∧ asked 0x0F01 (pack 2 [(0, 16, 600)]) ready
      ∧ asked 0x0F01 (pack 2 [(0, 16, 600)]) frozen ∧ asked 0x0F02 [] frozen ∧ asked 0x0F02 [] ready ∧ asked 0x0F03 [3] ready ∧ asked 0x0F03 [1] full
      ∧ 1024 ≤ full.flash.clearLog.length ∧ ready.flash.clearLog.length < 1024
      ∧ asked 0x0F04 (pack 8 [(0, 2, 1), (32, 16, 4096)]) ready ∧ asked 0x0F05 config ready ∧ asked 0x0F05 range ready
      ∧ (evKnown Ev.brgReady = true ∧ Ev.brgReady ≠ Ev.evrTime ∧ Ev.brgReady ≠ Ev.evrCleared ∧ field config 1 15 = 0
        ∧ field config 64 64 = 0 ∧ field range 1 15 = 0 ∧ (sensorRange 2).isSome = true ∧ 15 < sensorInsts ready 2
        ∧ toSigned 32 (field range 64 32) < toSigned 32 (field range 96 32)
        ∧ (toSigned 32 (field range 96 32) - toSigned 32 (field range 64 32)) % 32 = 0)
      ∧ asked 0x0F06 counters ready ∧ field counters 0 8 = 1 ∧ field counters 8 56 = 0 ∧ field counters 96 16 = 4096
      ∧ asked 0x0F07 (pack 12 [(64, 16, 4096)]) ready :=
  ⟨asked_of _ _ _ rfl, asked_of _ _ _ rfl, asked_of _ _ _ rfl, asked_of _ _ _ rfl, asked_of _ _ _ rfl, asked_of _ _ _ rfl,
    asked_of _ _ _ rfl, by decide +kernel, by decide, asked_of _ _ _ rfl, asked_of _ _ _ rfl, asked_of _ _ _ rfl, by decide +kernel,
    asked_of _ _ _ rfl, by decide, by decide, by decide, asked_of _ _ _ rfl⟩

/-- A secret key of 32 equal bytes. -/
def key32 : List Byte := List.replicate 32 1

theorem witness_MeterAndIdentity :
    let m := ready.meter
    let a : Account := { id := 1, energy := 0, startMs := 0, pMax := 0 }
    let e : AuditEntry := { seq := 1, ms := 0, kind := 1, data := zeros 24, chain := zeros 16 }
    m.powered = true ∧ ({ m with sealOpen := true } : Meter).sealOpen = true ∧ m.sealOpen = false ∧ m.regs.account = none
      ∧ ({ m.regs with account := some a } : MeterRegs).account = some a ∧ (zeros 16).length = 16
      ∧ ({ m with audit := [e] } : Meter).audit.find? (fun e => e.seq == 1) = some e ∧ m.audit.find? (fun e => e.seq == 2) = none
      ∧ (zeros 256).length % 256 = 0 ∧ auditFull m = false ∧ auditFull { m with audit := List.replicate 16384 { e with kind := 3 } } = true
      ∧ State.reset.meter.powered = true ∧ ({ m with powered := false } : Meter).powered = false := by decide +kernel

theorem witness_MeterAndIdentity_param :
    paramSigned (edPublic key32) (zeros 192 ++ edSign key32 (zeros 192)) = true := by decide +kernel

theorem witness_MeterAndIdentity_paramRefused : paramSigned (zeros 32) (zeros 192 ++ List.replicate 64 255) = false := by decide +kernel

/-- An enrolment of slot 4 with all three uses, as the first owner (R563). -/
def enrolPayload : List Byte :=
  let q := pack 16 [(0, 8, 1), (8, 4, 4), (16, 3, 7), (64, 64, 1)] ++ edPublic key32 ++ pack 16 [(0, 4, 4)]
  q ++ edSign key32 (toLE 8 ready.fuse.serial.toNat ++ q)

theorem witness_MeterAndIdentity_enrol :
    enrolPayload.length = 128 ∧ (enrolChange enrolPayload ready).isSome = true ∧ enrolChange (zeros 128) ready = none := by
  decide +kernel

theorem witness_MeterAndIdentity_asked :
    let o := pack 4 [(0, 32, 320)]
    let d := pack 8 [(0, 32, 256), (32, 32, 64)] ++ zeros 64
    let s := { ready with fw := some { imageBytes := 320, pldm := false } }
    let b := { ready with flash := { ready.flash with boot1 := { ready.flash.boot1 with updateNo := 9, validA := true } } }
    asked 0x1000 [64] ready ∧ asked 0x1001 (pack 10 [(64, 16, 256)]) ready ∧ asked 0x1010 (zeros 32) ready ∧ asked 0x1011 enrolPayload ready
      ∧ asked 0x1012 o ready ∧ field o 0 32 = 320 ∧ asked 0x1013 d s ∧ field d 0 32 + field d 32 32 ≤ 320 ∧ asked 0x1014 [] s
      ∧ asked 0x1015 (pack 4 [(0, 1, 1)]) b ∧ (lastValid (ask 0x1015 (pack 4 [(0, 1, 1)]) b)).isSome = true
      ∧ (imageCheck s (fwSlot s (inactive s)) (some 320)).isSome = true :=
  ⟨asked_of _ _ _ rfl, asked_of _ _ _ rfl, asked_of _ _ _ rfl, asked_of _ _ _ rfl, asked_of _ _ _ rfl, by decide, asked_of _ _ _ rfl,
    by decide, asked_of _ _ _ rfl, asked_of _ _ _ rfl, by decide +kernel, by decide +kernel⟩

/-- An image of 64 zero bytes under key 0 and its signature. -/
def imageHead : List Byte := pack 192 [(0, 32, 0x38584354), (32, 16, 1), (64, 32, 64), (256, 512, leNat (sha512 (zeros 64)))]

theorem witness_MeterAndIdentity_image :
    let image := imageHead ++ edSign key32 imageHead ++ zeros 64
    let s := { ready with fuse := { ready.fuse with tabvasKeys := [edPublic key32], svnFloor := 0 } }
    imageCheck s { factory := false, units := fwUnits 5 0 image [] } (some 320) = none := by decide +kernel

theorem witness_PackagePinsAndPower :
    let cold := { State.reset with pkg := { State.reset.pkg with vaux := false } }
    let held := { ready with dev := .standby, pkg := { ready.pkg with pwrgd := false } }
    let low := { ready with dev := .standby, pkg := { ready.pkg with rstN := false } }
    let turning := setDie 0 { dieClock ready 0 with changing := true } ready
    ready.dev ≠ .off ∧ ready.dev ≠ .standby ∧ cold.pkg.vaux = false ∧ ready.pkg.vaux = true ∧ ready.pkg.vinRange = true
      ∧ held.pkg.pwrgd = false ∧ held.pkg.rstN = true ∧ held.pkg.thermtrip = false ∧ low.pkg.rstN = false ∧ low.pkg.pwrgd = true
      ∧ ready.pkg.refclk = true ∧ 7 < nDies ready ∧ diesRun ready = true ∧ diesRun held = false ∧ (3 : Nat) ≤ 3
      ∧ (dieClock turning 0).changing = true ∧ ({ ready.fuse with dbgLockBlown := false } : Fuses).dbgLockBlown = false
      ∧ jtagActs ready .idcode = true ∧ jtagActs ready .extest = false ∧ jtagActs low .extest = true := by decide +kernel

theorem witness_PackagePinsAndPower_commands :
    let limit := pack 8 [(0, 16, codeMaxW ready.fuse.code), (16, 8, 100)]
    asked 0x1100 [] ready ∧ asked 0x1101 limit ready ∧ asked 0x1101 (pack 8 [(16, 8, 84)]) ready ∧ asked 0x1102 [] ready
      ∧ field limit 24 40 = 0 ∧ codeMinW ready.fuse.code ≤ field limit 0 16 ∧ field limit 0 16 ≤ codeMaxW ready.fuse.code
      ∧ field limit 16 8 = 100 :=
  ⟨asked_of _ _ _ rfl, asked_of _ _ _ rfl, asked_of _ _ _ rfl, asked_of _ _ _ rfl, by decide +kernel⟩

-- Results that the spec's worked examples state.

/-- Chapter 0: the package at torus coordinates (3, 5, 0, 6) is package 1,862. -/
theorem test_packageNumber :
    pkgNo { ready with flash := { ready.flash with topo := some { coords := [3, 5, 0, 6], lens := [8, 8, 8, 8], wraps := [] } } } = 1862 := by
  decide

/-- Chapter 0: the global address 0x1D_1800_0040_0000 names local address 0x0040_0000 of package 0x746. -/
theorem test_globalAddress : gPkg 0x1D180000400000 = 0x746 ∧ gLocal 0x1D180000400000 = 0x400000 := by decide

/-- Chapter 11: offset 0x1_2345_6700 of a spread region at frame 40, and of one placed on D5 at frame 0. -/
theorem test_channelHash :
    let r := { region0 with base := 0, f0 := 40 }
    let d := { r with spread := false, die := 5, f0 := 0, chan0 := 1280, n := 8 }
    chanOf r 0x123456700 = 267 ∧ frameOf r 0x123456700 = (76, 26624) ∧ chanOf d 0x123456700 = 1280
      ∧ frameOf d 0x123456700 = (291, 17664) := by decide +kernel

/-- Chapter 6: ROW_STRIDE of a table of 64 BF16 values is 416 with OPT 1 and 672 with OPT 3. -/
theorem test_rowStride :
    rowStride (pack 576 [(16, 2, 1), (18, 3, 1), (32, 16, 64)]) = 416 ∧ rowStride (pack 576 [(16, 2, 1), (18, 3, 3), (32, 16, 64)]) = 672 := by decide +kernel

/-- Chapter 2: HOLD 64 at a headway of 400,000 ns is a hold limit of 100,000 ns. -/
theorem test_holdLimit : holdLimit { job0 with headway := 400000, hold := 64 } = 100000 := by decide

/-- Chapter 7: three words rounded to CF19. -/
theorem test_cf19 : toCf19 0x3F801000 = 0x3F800000 ∧ toCf19 0x3F803000 = 0x3F804000 ∧ toCf19 0x7F7FF000 = 0x7F800000 := by decide +kernel

/-- Chapter 7: the three-piece and the two-piece split of 0x3FAA_AAAB. -/
theorem test_pieces :
    pieces 15 0x3FAAAAAB = (0x3FAAA000, 0x39AAA000, 0x34000000) ∧ pieces 14 0x3FAAAAAB = (0x3FAAA000, 0, 0x39AAC000) := by decide +kernel

/-- Chapter 7: BF16 of 0x3F80_8000 with the random word 0x9E00_0000. -/
theorem test_stochastic : (convertOne 0 (some 0x9E000000) (val32 0x3F808000)).code = 0x3F81 := by decide +kernel

/-- The block of chapter 7: its FP32 words by element. -/
def exampleBlock : List Val :=
  let words : List (Nat × W32) := [(0, 0x40E00000), (1, 0xC0200000), (2, 0x3E99999A), (8, 0x3F800000), (9, 0x3E4CCCCD), (16, 0x3D4CCCCD),
    (17, 0x3D23D70A), (24, 0x3F19999A), (25, 0xBC23D70A)]
  (List.range 32).map (fun i => val32 ((mapGet words i).getD 0))

/-- Chapter 7: the example block as MXFP4 (scale code, codes 0, 1, 2, 8, 9, 16, 17, 24, 25, saturations, underflows) and as SS4. -/
theorem test_blocks :
    let how : ConvHow := { fmt := 8, tid := 0, stoch := false, noClip := false, sexp := 0, jobId := 0, step := 0 }
    let m := convRow how 0 exampleBlock
    let s := convRow { how with fmt := 10 } 0 exampleBlock
    let picks := fun (r : ConvRow) => [0, 1, 2, 8, 9, 16, 17, 24, 25].map (fun i => r.codes.getD i 0)
    m.scales = [0x7F] ∧ picks m = [7, 12, 1, 2, 0, 0, 0, 1, 8] ∧ m.sats = 1 ∧ m.ufl = 4 ∧ s.scales = [0x7F, 0xF8]
      ∧ picks s = [7, 12, 1, 6, 2, 1, 1, 6, 8] ∧ s.sats = 1 ∧ s.ufl = 1 := by decide +kernel

/-- Chapter 8: products of 2^-30 vanish beside 1 and -1, and stay in a chunk of their own. -/
theorem test_chunks :
    let one : Val := .fin false 1 0
    let tiny : Val := .fin false 1 (-30)
    (groupSum [one, negVal one, tiny, tiny]).1 = 0 ∧ (groupSum [.fin false 0 0, tiny]).1 = 0x30800000 := by decide +kernel

/-- Chapter 13: CMD_MEM_ALLOC with reserved bit 80 set fails check 1 of R377; without it the bytes pass. -/
theorem test_allocReserved :
    let p := fun (b : Nat) => pack 16 [(0, 64, 0x40000000), (64, 8, 0xF0), (80, 8, b)]
    (memAlloc (p 1) ready).2 = failWith St.badParam 1 ∧ allocFieldsOk ready (p 0) = true := by decide +kernel

/-- An empty queue is one TCLK cycle (assumption log 3); CMD_MBX_NOP answers its payload (R453). -/
theorem test_steps :
    step State.reset = .next (advance 1 State.reset) ∧ (advance 1 State.reset).now = 1
      ∧ step { ask 0x0100 [5] ready with pending := [.cmdMbxNop (.mbx 0)] }
        = .next (recorded (.mbx 0) (slotFor 0x0100 [5]) (okWith [5]) (ask 0x0100 [5] ready)) := ⟨rfl, by decide +kernel, rfl⟩

/-- No row of the opcode table has bits: no word spells a command (assumption log 1). -/
theorem test_decode : decodeTableWord 16 0 = none ∧ State.reset.withFetchWord 16 0 = State.reset := ⟨rfl, rfl⟩

/-- The check values of the standards that the spec names: CRC-32 of the nine digits (IEEE 802.3), SHA-512 of "abc"
(FIPS 180-4), and the first key of RFC 8032, 7.1. -/
theorem test_standards :
    crc32 [0x31, 0x32, 0x33, 0x34, 0x35, 0x36, 0x37, 0x38, 0x39] = 0xCBF43926
      ∧ (sha512 [0x61, 0x62, 0x63]).take 8 = toBE 8 0xDDAF35A193617ABA
      ∧ edPublic (toBE 32 0x9D61B19DEFFD5A60BA844AF492EC2CC44449C5697B326919703BAC031CAE7F60)
        = toBE 32 0xD75A980182B10AB7D54BFED3C964073A0EE172F3DAA62325AF021A68F707511A := by decide +kernel

/-- The registers at reset (R425, R426, R428): PKG_ID_CODE of a CX8-8A, PKG_STATE in BRINGUP, PKG_EVT_MASK; a closed mailbox;
no BAR in STANDBY (R423). -/
theorem test_registers :
    let s := State.reset
    (bar0Read 0 4 s).1 = toLE 4 0x0001B108 ∧ (bar0Read 0x1000 8 s).1 = toLE 8 2 ∧ (bar0Read 0x1014 4 s).1 = toLE 4 0xF
      ∧ (bar0Read 0x10014 4 s).1 = zeros 4 ∧ barRead 0 0 4 { s with dev := .standby } = none := by decide +kernel

end Sys2Proof.Tests
end

section
/-! What every command keeps, once for all rows of the opcode table, and from it what every step keeps; the statements
of 00_scope.md. -/

namespace Sys2Proof.Machine

theorem Keeps.ite {z s t : State} {c : Prop} [Decidable c] (hs : Keeps z s) (ht : Keeps z t) :
    Keeps z (if c then s else t) := by
  split
  · exact hs
  · exact ht

theorem Keeps.setPkg {z s : State} {p : Package} (h : Keeps z s) (hv : p.vaux = s.pkg.vaux) :
    Keeps z { s with pkg := p } :=
  h.set rfl rfl rfl rfl rfl rfl rfl hv

theorem Keeps.setHost {z s : State} {x : HostIf} (h : Keeps z s) : Keeps z { s with host := x } :=
  h.set rfl rfl rfl rfl rfl rfl rfl rfl

/-- Where answer `r` is a next state, it keeps of `z` what no command changes. -/
def AnswerKeeps (z : State) (r : Result) : Prop := ∀ t, r = .next t → Keeps z t

theorem AnswerKeeps.next {z t : State} (h : Keeps z t) : AnswerKeeps z (.next t) := by
  rintro _ ⟨⟩
  exact h

theorem AnswerKeeps.refused {z : State} {r : Refusal} : AnswerKeeps z (.refused r) := by
  intro t h
  cases h

theorem AnswerKeeps.fault {z : State} {f : Fault} : AnswerKeeps z (.fault f) := by
  intro t h
  cases h

theorem AnswerKeeps.ite {z : State} {c : Prop} [Decidable c] {a b : Result} (ha : AnswerKeeps z a)
    (hb : AnswerKeeps z b) : AnswerKeeps z (if c then a else b) := by
  split
  · exact ha
  · exact hb

/-- A command that names a unit has its effect or faults (R3). -/
theorem AnswerKeeps.onUnit {z t : State} {present : Bool} (h : Keeps z t) : AnswerKeeps z (onUnit present t) :=
  .ite (.next h) .fault

theorem AnswerKeeps.onShunter {z s : State} {lc i func : Nat} {f : FuncRun → State → State} (hz : Keeps z s)
    (hf : ∀ x t, Keeps z t → Keeps z (f x t)) : AnswerKeeps z (onShunter lc i func f s) :=
  .onUnit (whenOpen_keeps _ _ _ (fun t ht => runShunter_keeps _ _ _ _ t hf ht) hz)

/-- A command of a command table that is performed at once. -/
theorem AnswerKeeps.command {z s : State} {op : Nat} {src : CmdSrc} {f : List Byte → State → State × Completion}
    (hz : Keeps z s) (hf : ∀ p t, Keeps z t → Keeps z (f p t).1) : AnswerKeeps z (.next (performNow op src f s)) :=
  .next (performNow_keeps _ _ _ _ hz hf)

/-- A command of a command table that only answers. -/
theorem AnswerKeeps.query {z s : State} {op : Nat} {src : CmdSrc} {f : List Byte → State → Completion}
    (hz : Keeps z s) : AnswerKeeps z (.next (performQuery op src f s)) :=
  .next (performQuery_keeps _ _ _ _ hz)

/-- No command changes what `Keeps` names. One arm per row, in the order of the opcode table, by the lemma of what the
row does. -/
theorem exec_keeps {z s : State} (hz : Keeps z s) : ∀ i : Instr, AnswerKeeps z (exec i s)
  -- chapter 1
  | .couplingUnitReceive .. => .onUnit (unitReceiveS_keeps _ _ _ _ _ _ hz)
  | .couplingLaneFault .. => .onUnit (cplLaneFaultS_keeps _ _ hz)
  | .couplingRetrainDone .. => .onUnit (cplDoneS_keeps _ _ _ hz)
  | .couplingRerouteDrainDone .. => .onUnit (drainDoneS_keeps _ _ hz)
  | .smAliveMark => .next (aliveS_keeps _ hz)
  | .smWatchdogExpiry => .next (watchdogS_keeps _ hz)
  | .smRestartDone .. => .next (restartDoneS_keeps _ _ _ hz)
  | .smAliveDeadline => .next (aliveDeadlineS_keeps _ hz)
  | .smTakeoverDone .. => .next (takeoverDoneS_keeps _ _ _ hz)
  | .bridgeWindowWrite .. => .ite (.next (bridgeWriteS_keeps _ hz)) (.next hz)
  | .meterReportRx .. => .next (reportRxS_keeps _ _ hz)
  | .meterStaleTimeout => .next (staleS_keeps _ hz)
  -- chapter 2
  | .cmdTtJobStart .. => .next (hz.ite (performCmd_keeps _ _ _ _ hz jobStart_keeps))
  | .cmdTtSetHeadway .. => .command hz fun p t => asMaster_keeps _ p t setHeadway_keeps
  | .cmdTtQuiesce .. => .command hz fun p t => asMaster_keeps _ p t ttQuiesce_keeps
  | .cmdTtResume .. => .next (hz.ite (performNow_keeps _ _ _ _ hz fun p t => asMaster_keeps _ p t ttResume_keeps))
  | .cmdTtJobEnd .. => .next (hz.ite (performNow_keeps _ _ _ _ hz ttJobEnd_keeps))
  | .cmdTtStatus .. => .query hz
  | .probe .. => .next (probeS_keeps _ _ _ hz)
  | .probeReply .. => .next (probeReplyS_keeps _ _ _ _ hz)
  | .join .. => .next (joinS_keeps _ _ hz)
  | .trainLoadComplete => .next (trainLoadedS_keeps _ hz)
  | .joinTimeout => .next (joinTimeoutS_keeps _ hz)
  | .jobCtrl .. => .next (jobCtrlS_keeps _ _ _ _ hz)
  | .timeXferTimer .. => .onUnit (timeXferTimerS_keeps _ _ hz)
  | .timeXfer .. => .next (timeXferS_keeps _ _ _ _ _ _ hz)
  | .cutoff => .next (cutoffS_keeps _ hz)
  | .decisionPoint => .next (decisionS_keeps _ hz)
  | .holdDeadline => .next (holdDeadlineS_keeps _ hz)
  | .departure .. => .next (departureS_keeps _ _ _ _ _ _ _ hz)
  | .leftCont .. => .next (leftContS_keeps _ _ _ hz)
  | .departureFire => .next (departureFireS_keeps _ hz)
  | .stagingWritebackDone .. => .onUnit (writebackDone_keeps _ _ hz)
  | .embRowCommit .. => .next (whenOpen_keeps _ _ _ (commitRow_keeps _ _) hz)
  | .endOfStepReached => .next (trySend_keeps _ (endOfStepS_keeps _ hz))
  | .late .. => .next (lateS_keeps _ _ hz)
  | .arrival .. => .next (arrivalS_keeps _ _ hz)
  | .deputyDeadline => .next (deputyDeadlineS_keeps _ hz)
  | .takeover .. => .next (takeoverS_keeps _ _ _ _ _ _ hz)
  | .takeoverAnswerWindow => .next (answerWindowS_keeps _ hz)
  | .noMasterDeadline => .next (noMasterS_keeps _ hz)
  -- chapter 3
  | .completionNotice .. => .onUnit (completionNoticeS_keeps _ _ _ hz)
  | .dispatchTask .. => .onUnit (hz.ite (serveFrom_keeps _ _ _ hz))
  | .noticeHeldApply .. => .onUnit (noticeHeldS_keeps _ _ hz)
  | .taskEnd .. => .onUnit (taskEndS_keeps _ _ _ hz)
  | .taskBadCode .. => .onUnit (taskBadCodeS_keeps _ _ _ hz)
  | .spawn .. => .onUnit (spawnS_keeps _ _ _ _ _ _ _ hz)
  | .spawnStallResume .. => .onUnit (spawnResumeS_keeps _ _ hz)
  | .spawnStallTimeout .. => .onUnit (spawnTimeoutS_keeps _ _ _ hz)
  | .quantumExpiry .. => .onUnit (quantumS_keeps _ _ _ hz)
  | .suspensionDone .. => .onUnit (suspensionDoneS_keeps _ _ _ hz)
  | .cmdDspGraphOpen .. => .command hz graphOpen_keeps
  | .cmdDspGraphData .. => .command hz graphData_keeps
  | .cmdDspGraphCommit .. => .command hz graphCommit_keeps
  | .cmdDspGraphUnload .. => .command hz graphUnload_keeps
  | .cmdDspGraphInfo .. => .query hz
  -- chapter 4
  | .sample .. => .onUnit (whenOpen_keeps _ _ _ (sampleS_keeps _ _) hz)
  | .samplePieceRun .. => .onUnit (whenOpen_keeps _ _ _ (samplePieceS_keeps _ _) hz)
  | .shunterSteal .. => .onUnit (stealS_keeps _ _ _ hz)
  | .stealRetryTimer .. => .onUnit (stealRetryS_keeps _ _ _ hz)
  | .shunterSleepTimer .. => .onUnit (shunterSleepS_keeps _ _ _ hz)
  | .cmdSmpAdjSet .. => .command hz adjSet_keeps
  | .cmdSmpAdjClear .. => .command hz adjClear_keeps
  | .cmdSmpSeedsSet .. => .command hz seedsSet_keeps
  | .cmdSmpInfo .. => .query hz
  | .cmdSmpProbe .. => .next (whenOpen_keeps _ _ _ (fun _ ht => performNow_keeps _ _ _ _ ht smpProbe_keeps) hz)
  -- chapter 5
  | .gather .. => .onShunter hz beginGather_keeps
  | .scatter .. => .onShunter hz beginScatter_keeps
  | .spmm .. => .onShunter hz beginSpmm_keeps
  | .haccDrain .. => .onShunter hz beginDrain_keeps
  | .compress24 .. => .onShunter hz beginCompress_keeps
  | .haccContribution .. => .onUnit (haccAdd_keeps _ _ _ hz)
  | .haccCfgWrite .. => .onUnit (haccCfgS_keeps _ _ _ _ hz)
  | .haccOpen .. => .onUnit (haccOpenS_keeps _ _ hz)
  | .remoteReadTimeout .. => .next (remoteTimeoutS_keeps _ _ hz)
  | .cmdGthConfig .. => .command hz gthConfig_keeps
  | .cmdGthInfo .. => .query hz
  | .poolRead .. => .next (takePacket_keeps _ _ hz)
  | .poolData .. => .next (takePacket_keeps _ _ hz)
  | .poolStore .. => .next (takePacket_keeps _ _ hz)
  | .poolAccum .. => .next (takePacket_keeps _ _ hz)
  | .rowUpdate .. => .next (takePacket_keeps _ _ hz)
  | .poolAck .. => .next (takePacket_keeps _ _ hz)
  -- chapter 6
  | .poolFwd .. => .next (takePacket_keeps _ _ hz)
  | .poolErr .. => .next (takePacket_keeps _ _ hz)
  | .slotRequest .. => .next (takePacket_keeps _ _ hz)
  | .slotGrant .. => .next (takePacket_keeps _ _ hz)
  | .slotRefusal .. => .next (takePacket_keeps _ _ hz)
  | .rowCopy .. => .next (takePacket_keeps _ _ hz)
  | .directoryChange .. => .next (takePacket_keeps _ _ hz)
  | .forwardedContribution .. => .next (takePacket_keeps _ _ hz)
  | .cmdEmbTableCreate .. => .command hz embCreate_keeps
  | .cmdEmbTableDestroy .. => .command hz embDestroy_keeps
  | .cmdEmbWriteRows .. => .next (whenOpen_keeps _ _ _ (fun _ ht => performNow_keeps _ _ _ _ ht embWriteRows_keeps) hz)
  | .cmdEmbReadRows .. => .next (whenOpen_keeps _ _ _ (fun _ ht => performNow_keeps _ _ _ _ ht embReadRows_keeps) hz)
  | .cmdEmbSetHyper .. => .command hz embSetHyper_keeps
  | .cmdEmbMigrate .. => .command hz embMigrate_keeps
  | .cmdEmbDirRead .. => .query hz
  | .cmdEmbInfo .. => .query hz
  -- chapters 7 and 8
  | .cmdMxTensorSet .. => .command hz tensorSet_keeps
  | .cmdMxTensorInfo .. => .query hz
  | .mma .. => .onUnit (mmaS_keeps _ _ _ _ _ hz)
  | .mmaRetire .. => .onUnit (mmaRetireS_keeps _ _ _ _ _ _ _ hz)
  | .mxWait .. => .onUnit (mxWaitS_keeps _ _ _ _ hz)
  -- chapter 9
  | .elem .. => .onUnit (vopS_keeps _ _ _ _ _ _ _ hz)
  | .perm .. => .onUnit (vopS_keeps _ _ _ _ _ _ _ hz)
  | .move .. => .onUnit (vopS_keeps _ _ _ _ _ _ _ hz)
  | .veRetire .. => .onUnit (veRetireS_keeps _ _ _ _ _ hz)
  | .veWait .. => .onUnit (veWaitS_keeps _ _ _ hz)
  -- chapter 10
  | .sigSet .. => .onUnit (sigInstr_keeps _ _ _ _ _ _ (sigPut_keeps _ _ _ _) hz)
  | .sigClr .. => .onUnit (sigInstr_keeps _ _ _ _ _ _ (sigPut_keeps _ _ _ _) hz)
  | .sigArrive .. => .onUnit (sigInstr_keeps _ _ _ _ _ _ (arriveS_keeps _ _ _ _) hz)
  | .sigArriveRetry .. => .onUnit (arriveRetryS_keeps _ _ _ hz)
  | .sigWait .. => .onUnit (sigInstr_keeps _ _ _ _ _ _ (waitS_keeps _ _ _ _ _) hz)
  | .sigRead .. => .onUnit (sigInstr_keeps _ _ _ _ _ _ (readS_keeps _ _ _ _) hz)
  | .sigValueRegister => .next (registerLines_keeps _ hz)
  | .sigWaitTimeout .. => .onUnit (waitTimeoutS_keeps _ _ _ hz)
  | .sigUp .. => .next (takeLine_keeps _ _ hz)
  | .sigDown .. => .next (takeLine_keeps _ _ hz)
  | .cmdSigConfig .. => .command hz sigConfig_keeps
  | .cmdSigInfo .. => .query hz
  -- chapter 11
  | .memoryReadRequest .. => .onUnit (atPort_keeps _ _ _ hz)
  | .memoryWriteRequest .. => .onUnit (atPort_keeps _ _ _ hz)
  | .wcbIdleFlush .. => .next (wcbIdleS_keeps _ _ hz)
  | .prefetchFill .. => .onUnit (whenOpen_keeps _ _ _ (fillStaging_keeps _ _) hz)
  | .patrolScrub .. => .onUnit (scrubS_keeps _ _ _ hz)
  | .channelRetrainStart .. => .onUnit (chanRetrainS_keeps _ _ hz)
  | .channelRetrainDone .. => .onUnit (chanDoneS_keeps _ _ hz)
  | .channelRetrainTimeout .. => .onUnit (chanTimeoutS_keeps _ _ hz)
  | .stackTempReport .. => .onUnit (stackTempS_keeps _ _ _ hz)
  | .cmdMemAlloc .. => .command hz memAlloc_keeps
  | .cmdMemFree .. => .command hz memFree_keeps
  | .cmdMemWrite .. => .next (whenOpen_keeps _ _ _ (fun _ ht => performNow_keeps _ _ _ _ ht memWrite_keeps) hz)
  | .cmdMemRead .. => .next (whenOpen_keeps _ _ _ (fun _ ht => performNow_keeps _ _ _ _ ht memRead_keeps) hz)
  | .cmdMemRegions .. => .query hz
  | .cmdMemConfig .. => .command hz memConfig_keeps
  | .cmdMemRetrain .. => .command hz memRetrain_keeps
  | .cmdMemMargin .. => .query hz
  | .cmdMemStatus .. => .query hz
  -- chapter 12
  | .linkCodewordReceive .. => .onUnit (codewordS_keeps _ _ _ _ hz)
  | .linkLayerControlSlot .. => .onUnit (controlSlotS_keeps _ _ _ hz)
  | .linkAckTimeout .. => .onUnit (ackTimeoutS_keeps _ _ hz)
  | .portTrainingDone .. => .onUnit (trainingDoneS_keeps _ _ _ hz)
  | .hello .. => .onUnit (helloS_keeps _ _ _ _ _ _ _ _ _ hz)
  | .portHelloTimeout .. => .onUnit (helloTimeoutS_keeps _ _ hz)
  | .portLaneFault .. => .onUnit (laneFaultS_keeps _ _ _ hz)
  | .portRetrainTimeout .. => .onUnit (retrainTimeoutS_keeps _ _ hz)
  | .linkState .. => .next (receive_keeps _ _ _ (fun _ => linkStateS_keeps _ _ _ _ _) hz)
  | .futureEpochTimeout .. => .next (futureEpochS_keeps _ _ hz)
  | .reduceScatter .. => .onUnit (whenOpen_keeps _ _ _ (reduceScatterS_keeps _) hz)
  | .gnorm .. => .onUnit (gnormS_keeps _ _ hz)
  | .rdContrib .. => .next (takePacket_keeps _ _ hz)
  | .rdAck .. => .next (takePacket_keeps _ _ hz)
  | .rdAckTimeout .. => .next (rdAckTimeoutS_keeps _ _ hz)
  | .shardCloseTime .. => .next (shardCloseS_keeps _ _ hz)
  | .gnPartial .. => .next (takeNorm_keeps _ _ hz)
  | .gnRootClose => .next (gnRootCloseS_keeps _ hz)
  | .gnResult .. => .next (takeNorm_keeps _ _ hz)
  | .cmdLnkTopoSet .. => .command hz lnkTopoSet_keeps
  | .cmdLnkStatus .. => .query hz
  | .cmdLnkRetrain .. => .command hz lnkRetrain_keeps
  | .cmdRdConfig .. => .command hz rdConfig_keeps
  | .cmdRdBind .. => .command hz rdBind_keeps
  | .cmdRdDigestRead .. => .query hz
  -- chapter 13
  | .registerWrite .. => .next (onBar_keeps _ _ (registerWriteS_keeps _ _ _ _) hz)
  | .devReset .. => .next (onBar_keeps _ _ (deviceReset_keeps _) hz)
  | .pkgEvtStatusWrite .. => .next (onBar_keeps _ _ (evtStatusWrite_keeps _) hz)
  | .mbxWindowWrite .. => .onUnit (onBar_keeps _ _ (windowWrite_keeps _ _ _) hz)
  | .mbxOpen .. => .onUnit (onBar_keeps _ _ (openMbx_keeps _ _) hz)
  | .mbxClose .. => .onUnit (onBar_keeps _ _ (closeMbx_keeps _ _) hz)
  | .mbxAbort .. => .onUnit (onBar_keeps _ _ (abortMbx_keeps _) hz)
  | .mbxPost .. => .onUnit (onBar_keeps _ _ (postMbx_keeps _ _) hz)
  | .mbxTakeUp .. => .onUnit (takeUpS_keeps _ _ hz)
  | .mbxPostTimeout .. => .onUnit (postTimeoutS_keeps _ _ hz)
  | .mbxCompletion .. => .onUnit (completeMbx_keeps _ _ hz)
  | .functionLevelReset => .next (onBar_keeps _ _ hostReset_keeps hz)
  | .d3hotEntry => .next (onBar_keeps _ _ hostReset_keeps hz)
  | .busMasterEnableSet => .next (onBar_keeps _ _ busMasterSetS_keeps hz)
  | .shedWindow .. => .next (shedWindowS_keeps _ _ hz)
  | .cmdMbxNop .. => .query hz
  | .cmdMbxInfo .. => .query hz
  | .mctpCommand .. => .next (mctpCommandS_keeps _ _ hz)
  | .mctpControl .. => .next (hz.ite (mctpControlS_keeps _ _ hz))
  | .pldmMessage .. => .next ((pldmMessageS_keeps _ _ hz).ite hz)
  | .pldmFirmwareUpdate .. => .next ((pldmFwS_keeps _ _ hz).ite hz)
  -- chapter 14
  | .checkExecutionDone .. => .onUnit (fromCore_keeps _ _ _ _ (checkDoneS_keeps _ _ _ _) hz)
  | .retestDone .. => .onUnit (fromCore_keeps _ _ _ _ (retestS_keeps _ _ _) hz)
  | .sidingCopyDone .. => .onUnit (copyDoneS_keeps _ _ _ hz)
  | .spareRebuildDone .. => .next (spareRebuilt_keeps _ _ hz)
  | .historyFlush => .next (historyFlushS_keeps _ hz)
  | .autoFieldTestStart => .next (autoTestS_keeps _ hz)
  | .fieldTestEnd .. => .next (testEndS_keeps _ _ _ hz)
  | .cmdChkConfig .. => .command hz chkConfig_keeps
  | .cmdChkStatus .. => .query hz
  | .cmdChkFieldTest .. => .next (performCmd_keeps _ _ _ _ hz chkFieldTest_keeps)
  | .cmdFncStatus .. => .query hz
  | .cmdFncHistoryRead .. => .query hz
  | .cmdFncSparesSet .. => .command hz sparesSet_keeps
  -- chapter 15
  | .brgPhaseComplete .. => .next (phaseDoneS_keeps _ _ hz)
  | .brgDecide => .next (decideS_keeps _ hz)
  | .cmdBrgStart .. => .command hz (brgStart_keeps _)
  | .deferredReset => .next (deferredS_keeps _ hz)
  | .cmdBrgStatus .. => .query hz
  | .cmdBrgAllowDegraded .. => .next (allowDegradedS_keeps _ _ hz)
  | .cmdBrgFaultMapRead .. => .query hz
  -- chapter 16
  | .eventAdmit => .next (eventAdmitS_keeps _ hz)
  | .tokenRefill .. => .next (tokenRefillS_keeps _ _ hz)
  | .spillBatch => .next (spillBatchS_keeps _ hz)
  | .freezeTimeout => .next (freezeTimeoutS_keeps _ hz)
  | .summaryRefresh => .next (summaryRefreshS_keeps _ hz)
  | .cmdEvrRead .. => .query hz
  | .cmdEvrFreeze .. => .command hz evrFreeze_keeps
  | .cmdEvrUnfreeze .. => .command hz evrUnfreeze_keeps
  | .cmdEvrClear .. => .command hz evrClear_keeps
  | .cmdEvrHistRead .. => .query hz
  | .cmdEvrConfig .. => .command hz evrConfig_keeps
  | .cmdEvrCountersRead .. => .query hz
  | .cmdEvrPhaseRead .. => .query hz
  -- chapter 17
  | .meterSample .. => .next (onMeter_keeps _ _ hz (meterSampleM_meter _ _))
  | .meterPulseEnd => .next (onMeter_keeps _ _ hz fun _ => ⟨rfl, rfl, Nat.le_refl _⟩)
  | .meterCommit => .next (onMeter_keeps _ _ hz fun _ => ⟨rfl, rfl, Nat.le_refl _⟩)
  | .meterReportTimer => .next (onMeter_keeps _ _ hz reportTimerM_meter)
  | .sealChange => .next (onMeter_keeps _ _ hz sealChangeM_meter)
  | .readReport => .next (onMeter_keeps _ _ hz fun m => answer_meter _ _ _ (.refl m))
  | .challenge .. => .next (onMeter_keeps _ _ hz (challengeM_meter _))
  | .readAudit .. => .next (onMeter_keeps _ _ hz (readAuditM_meter _))
  | .accountOpen .. => .next (onMeter_keeps _ _ hz (accountOpenM_meter _))
  | .accountClose => .next (onMeter_keeps _ _ hz accountCloseM_meter)
  | .readId => .next (onMeter_keeps _ _ hz readIdM_meter)
  | .paramLoad .. => .next (onMeter_keeps _ _ hz (paramLoadM_meter _))
  | .meterBadCommand .. => .next (onMeter_keeps _ _ hz (badCommandM_meter _))
  | .cmdMtrReportRead .. => .query hz
  | .cmdMtrAuditRead .. => .query hz
  | .cmdPkgAttest .. => .command hz pkgAttest_keeps
  | .cmdPkgOwnerEnroll .. => .command hz ownerEnroll_keeps
  | .cmdPkgFwOpen .. => .command hz fwOpen_keeps
  | .cmdPkgFwData .. => .command hz fwData_keeps
  | .cmdPkgFwCommit .. => .command hz fwCommit_keeps
  | .cmdPkgFwActivate .. => .command hz (fwActivate_keeps _)
  -- chapter 18
  | .vauxApplied .. => .next (vauxAppliedS_keeps _ _ hz)
  | .vauxLoss => .next (vauxLossS_keeps _ hz)
  | .vinLoss => .next (vinLossS_keeps _ hz)
  | .vinRangeExit => .next (vinRangeExitS_keeps _ hz)
  | .pkgPwrgdFall => .next (pwrgdFallS_keeps _ hz)
  | .pkgPwrgdRise => .next (pwrgdRiseS_keeps _ hz)
  | .pkgRstNFall => .next (rstFallS_keeps _ hz)
  | .pkgRstNRise => .next (rstRiseS_keeps _ hz)
  | .pciePerstNFall => .next (perstFallS_keeps _ hz)
  | .pcieRefclkLoss => .next (refclkLossS_keeps _ hz)
  | .pcieRefclkReturn => .next (hz.setPkg rfl)
  | .lrefclkLoss => .next (lrefclkLossS_keeps _ hz)
  | .timerefLoss => .next (timerefLossS_keeps _ hz)
  | .ppsEdge => .next (.ite (hz.setPkg rfl) hz)
  | .dieTempReport .. => .onUnit (dieTempReportS_keeps _ _ _ hz)
  | .powerCeilingUpdate .. => .next (powerCeilingUpdateS_keeps _ _ _ _ _ hz)
  | .pkgThrottleNFall => .next (throttleS_keeps _ _ hz)
  | .pkgThrottleNRise => .next (throttleS_keeps _ _ hz)
  | .jtagInstruction .. => .ite (.next hz) (.ite .refused (.next (jtagS_keeps _ _ hz)))
  | .cmdPkgPowerStatus .. => .query hz
  | .cmdPkgPowerLimit .. => .command hz powerLimit_keeps
  | .cmdPkgThermalStatus .. => .query hz
  -- the rows that the table lists last
  | .pciePerstNRise => .next (hz.setPkg rfl)
  | .busMasterEnableClear => .next (onBar_keeps _ _ (fun _ ht => ht.setHost) hz)
  | .msixFunctionUnmask => .next (onBar_keeps _ _ functionUnmaskS_keeps hz)
  | .badLinkPacket .. => .next (badPacketS_keeps _ hz)
  | .timerefReturn => .next (hz.ite (hz.setPkg rfl))
  | .cclkChangeDone .. => .onUnit (cclkChangeDoneS_keeps _ _ hz)

theorem step_of_queue {s : State} {c : Instr} {rest : List Instr} (hq : s.pending = c :: rest) :
    step s = exec c { s with pending := rest } := by
  unfold step
  rw [hq]

theorem step_of_empty {s : State} (hq : s.pending = []) : step s = .next (advance 1 s) := by
  unfold step
  rw [hq]

/-- A step takes the front command off the queue, and keeps of what is left all that no command changes. -/
theorem step_keeps {s t : State} (h : step s = .next t) : Keeps { s with pending := s.pending.tail } t := by
  cases hq : s.pending with
  | nil =>
    rw [step_of_empty hq] at h
    have hs : { s with pending := ([] : List Instr).tail } = s := by rw [List.tail_nil, ← hq]
    rw [hs]
    exact AnswerKeeps.next (advance_keeps 1 s (Keeps.refl s)) t h
  | cons c rest =>
    rw [step_of_queue hq] at h
    exact exec_keeps (Keeps.refl _) c t h

theorem sat_eq_min (m x : Nat) : sat m x = Nat.min x m := Nat.min_def.symm

theorem ctrGet_reset (id inst : Nat) : ctrGet State.reset id inst = 0 := rfl

theorem mailbox_reset (n : Nat) : mailbox State.reset n = closedMailbox := rfl

end Sys2Proof.Machine

namespace Sys2Proof.Proofs

open Sys2Proof.Machine

/-- Settles O1: the two equations of `step`, one per shape of the queue. -/
theorem frontCommandRuns : Obligations.FrontCommandRuns :=
  ⟨fun _ _ _ hq => step_of_queue hq, fun _ hq => step_of_empty hq⟩

/-- Settles O2: every scalar field by evaluation; no counter and no mailbox is listed at reset, so each reads as its
default. -/
theorem resetState : Obligations.ResetState := by
  have hmbx : ∀ n, (mailbox State.reset n).phase = .closed ∧ (mailbox State.reset n).irqEn = false
      ∧ (mailbox State.reset n).closing = false ∧ (mailbox State.reset n).retBase = 0
      ∧ (mailbox State.reset n).retSize = 0 ∧ (mailbox State.reset n).slot = none := by
    intro n
    rw [mailbox_reset]
    exact ⟨rfl, rfl, rfl, rfl, rfl, rfl⟩
  exact ⟨rfl, rfl, rfl, rfl, rfl, ctrGet_reset, rfl, rfl, hmbx, rfl, rfl, rfl, rfl⟩

/-- Settles O15: a key read after counting is the sum capped at the largest 64-bit value; no two counters share a
key (`ctrGet_bump_other`). -/
theorem counterRises : Obligations.CounterRises := by
  intro id inst n s hi
  refine ⟨?_, fun id' inst' hi' hne => ctrGet_bump_other n s hi hi' hne, bump_frame id inst n s⟩
  calc ctrGet (bump id inst n s) id inst
      = sat max64 (ctrGet s id inst + n) := ctrGet_bump_same id inst n s
    _ = Nat.min (ctrGet s id inst + n) max64 := sat_eq_min _ _

/-- Settles O10: time and the meter's key are among what every step keeps (`step_keeps`). That a device reset leaves
global time as it is, is the model's choice (assumption log 17). -/
theorem timeAndKeysStand : Obligations.TimeAndKeysStand := by
  intro s t h
  have hk := step_keeps h
  exact ⟨hk.now, hk.secret⟩

end Sys2Proof.Proofs
end

section
/-! The units that cross a coupling between dies, and what its loss and its drain do; the statements of
01_package_architecture.md on the couplings. -/

namespace Sys2Proof.Machine

-- The units of one direction (R24).

theorem keepForRetry_new {d : CplDir} {seq : Nat} (data : List Byte) (hn : d.next ≤ seq) (ha : mapGet d.ahead seq = none)
    (hr : mapGet d.retry seq = none) : keepForRetry seq data d = { d with retry := mapSet d.retry seq data } := by
  simp [keepForRetry, Nat.not_lt.mpr hn, ha, hr]

theorem acceptUnit_received {d : CplDir} {seq : Nat} (data : List Byte) (h : seq < d.next) : acceptUnit seq data d = d :=
  if_pos h

/-- The unit expected, with nothing received ahead, is delivered as the retry buffer holds it. -/
theorem acceptUnit_expected {d : CplDir} (data : List Byte) (ha : d.ahead = []) :
    acceptUnit d.next data d = { d with
      next := d.next + 1
      retry := mapDel d.retry d.next
      delivered := d.delivered ++ [mapGetD d.retry d.next data] } := by
  obtain ⟨next, retry, ahead, delivered⟩ := d
  subst ha
  simp [acceptUnit, deliverAhead, mapSet]

/-- A unit after the one expected, with nothing received ahead, is kept until those before it have come. -/
theorem acceptUnit_early {d : CplDir} {seq : Nat} (data : List Byte) (ha : d.ahead = []) (h : d.next < seq) :
    acceptUnit seq data d = { d with
      retry := mapDel d.retry seq
      ahead := [(seq, mapGetD d.retry seq data)] } := by
  simp [acceptUnit, deliverAhead, mapSet, ha, Nat.lt_asymm h, Nat.ne_of_gt h, Nat.le_of_lt h]

-- COUPLING_UNIT_RECEIVE (R24, R28).

theorem unitReceiveS_blocked {c : Nat} {s : State} (dir seq : Nat) (data : List Byte) (ok : Bool)
    (h : cplPhase s c ≠ .up) : unitReceiveS c dir seq data ok s =
      setCplDir (2 * c + dir) (keepForRetry seq data (cplDir s (2 * c + dir))) s :=
  if_pos h

theorem unitReceiveS_crcError {c : Nat} {s : State} (dir seq : Nat) (data : List Byte) (h : cplPhase s c = .up) :
    unitReceiveS c dir seq data false s = bump Cnt.pkgCplRetry c 1
      (setCplDir (2 * c + dir) (keepForRetry seq data (cplDir s (2 * c + dir))) s) := by
  simp [unitReceiveS, h]

theorem unitReceiveS_good {c : Nat} {s : State} (dir seq : Nat) (data : List Byte) (h : cplPhase s c = .up) :
    unitReceiveS c dir seq data true s =
      setCplDir (2 * c + dir) (acceptUnit seq data (cplDir s (2 * c + dir))) s := by
  simp [unitReceiveS, h]

theorem exec_couplingUnitReceive {c dir : Nat} {s : State} (seq : Nat) (data : List Byte) (ok : Bool)
    (hc : hasCoupling s c = true) (hd : dir < 2) :
    exec (.couplingUnitReceive c dir seq data ok) s = .next (unitReceiveS c dir seq data ok s) :=
  onUnit_present _ (by simp [hc, hd])

-- The loss of a coupling, and the drain (R28, R29).

theorem cplDoneS_carries {c : Nat} {s : State} (h : cplPhase s c = .retraining) :
    cplDoneS c true s = finishAll (retryWaiting (releaseCrossing (setCplPhase c .up s))) := by
  simp [cplDoneS, h]

theorem cplDoneS_lost {c : Nat} {s : State} (h : cplPhase s c = .retraining) :
    cplDoneS c false s = finishAll (retryWaiting (releaseCrossing (loseCoupling c s))) := by
  simp [cplDoneS, h]

/-- The first loss, where there is another way: the second route table. -/
theorem loseCoupling_reroutes {c : Nat} {s : State} (hcode : s.fuse.code ≠ .cx2a) (hfirst : s.cpl.avoid = none) :
    loseCoupling c s = bump Cnt.pkgCplReroute c 1 { s with cpl := { s.cpl with
      phases := mapSet s.cpl.phases c .failed, avoid := some c, draining := true } } := by
  simp [loseCoupling, setCplPhase, hcode, hfirst]

/-- A second loss, or the loss of the only coupling: the package fails. -/
theorem loseCoupling_fails {c : Nat} {s : State} (h : s.fuse.code = .cx2a ∨ s.cpl.avoid.isSome = true) :
    loseCoupling c s = failPackage (setCplPhase c .failed s) :=
  if_pos h

theorem drainDoneS_draining {c : Nat} {s : State} (ha : s.cpl.avoid = some c) (hd : s.cpl.draining = true) :
    drainDoneS c s = finishAll (retryWaiting (releaseCrossing { s with cpl := { s.cpl with
      draining := false
      dirs := mapSet (mapSet s.cpl.dirs (2 * c) (drainDir (cplDir s (2 * c)))) (2 * c + 1)
        (drainDir (cplDir s (2 * c + 1))) } })) :=
  if_pos ⟨ha, hd⟩

end Sys2Proof.Machine

namespace Sys2Proof.Proofs

open Sys2Proof.Machine

/-- Settles O17: COUPLING_UNIT_RECEIVE sets one direction of the coupling, to what `keepForRetry` or `acceptUnit` makes of
it. That the unit kept ahead is the retry buffer's, is the model's reading of R24 (assumption log 47); the fault of a
coupling that the code lacks is assumption log 6. -/
theorem couplingUnitsDelivered : Obligations.CouplingUnitsDelivered := by
  intro c dir seq data s
  refine ⟨fun hc hdir => ⟨fun hn ha hr => ⟨fun hup => ?_, fun ok hdown => ?_⟩,
    fun hup ha => ⟨fun hseq => ?_, fun hseq => ?_, fun hseq => ?_⟩⟩, fun ok hno => ?_⟩
  · rw [exec_couplingUnitReceive _ _ _ hc hdir, unitReceiveS_crcError _ _ _ hup, cplDir, keepForRetry_new data hn ha hr]
    rfl
  · rw [exec_couplingUnitReceive _ _ _ hc hdir, unitReceiveS_blocked _ _ _ _ hdown, cplDir,
      keepForRetry_new data hn ha hr]
    rfl
  · rw [exec_couplingUnitReceive _ _ _ hc hdir, unitReceiveS_good _ _ _ hup, hseq, cplDir, acceptUnit_expected data ha]
    rfl
  · rw [exec_couplingUnitReceive _ _ _ hc hdir, unitReceiveS_good _ _ _ hup, cplDir, acceptUnit_received data hseq]
    rfl
  · rw [exec_couplingUnitReceive _ _ _ hc hdir, unitReceiveS_good _ _ _ hup, cplDir, acceptUnit_early data ha hseq]
    rfl
  · exact onUnit_absent _ (by simp [hno])

/-- Settles O18: one equation per row and outcome, the loss of the coupling told apart by whether there is another way.
What the end of the drain delivers is `drainDir` of each direction, the model's reading of R28 (assumption log 47). -/
theorem couplingFailureReroutes : Obligations.CouplingFailureReroutes := by
  intro c s hc
  refine ⟨fun hup => ?_, fun hr => ?_, fun hr hcode hfirst => ?_, fun hr hlast => ?_, fun ha hd => ?_⟩
  · calc exec (.couplingLaneFault c) s
        = .next (cplLaneFaultS c s) := onUnit_present _ hc
      _ = .next (bump Cnt.pkgCplRetrain c 1 (setCplPhase c .retraining s)) := by rw [cplLaneFaultS, if_pos hup]
  · calc exec (.couplingRetrainDone c true) s
        = .next (cplDoneS c true s) := onUnit_present _ hc
      _ = .next (finishAll (retryWaiting (releaseCrossing (setCplPhase c .up s)))) := by rw [cplDoneS_carries hr]
  · calc exec (.couplingRetrainDone c false) s
        = .next (cplDoneS c false s) := onUnit_present _ hc
      _ = _ := by rw [cplDoneS_lost hr, loseCoupling_reroutes hcode hfirst]
  · calc exec (.couplingRetrainDone c false) s
        = .next (cplDoneS c false s) := onUnit_present _ hc
      _ = .next (finishAll (retryWaiting (releaseCrossing (failPackage (setCplPhase c .failed s))))) := by
        rw [cplDoneS_lost hr, loseCoupling_fails hlast]
  · calc exec (.couplingRerouteDrainDone c) s
        = .next (drainDoneS c s) := onUnit_present _ hc
      _ = _ := by rw [drainDoneS_draining ha hd]; rfl

end Sys2Proof.Proofs
end

section
/-! The stationmaster's alive marks, restart, takeover and failure, and what becomes of the commands in flight; the
statement of 01_package_architecture.md on them. -/

namespace Sys2Proof.Machine

/-- What every step of a fold leaves as it was, the fold does. -/
theorem foldl_view {α β : Type} (f : State → α) {g : State → β → State} (h : ∀ s b, f (g s b) = f s) (l : List β)
    (s : State) : f (l.foldl g s) = f s := by
  rw [← List.foldl_hom f (g₂ := fun x _ => x) fun t b => (h t b).symm, List.foldl_fixed]

theorem raise_host (code src : Nat) (payload : List Byte) (s : State) : (raise code src payload s).host = s.host := by
  rw [raise_frame]

theorem raise_sm (code src : Nat) (payload : List Byte) (s : State) : (raise code src payload s).sm = s.sm := by
  rw [raise_frame]

-- Stationmaster state (R426, R428, R591).

theorem msix_mbx (v : Nat) (s : State) : (msix v s).host.mbx = s.host.mbx := by
  unfold msix
  repeat' split
  all_goals rfl

theorem pkgEvt_mbx (i : Nat) (s : State) : (pkgEvt i s).host.mbx = s.host.mbx := by
  unfold pkgEvt
  dsimp only
  split
  · rfl
  · rw [msix_mbx]

theorem setSm_mbx (d : SmState) (s : State) : (setSm d s).host.mbx = s.host.mbx := by
  unfold setSm
  split
  · rfl
  · rw [stateChanged, pkgEvt_mbx]

theorem setSm_sm (d : SmState) (s : State) : (setSm d s).sm = { s.sm with state := d } := by rw [setSm_frame]

theorem setSm_ctr (d : SmState) (s : State) : (setSm d s).ctr = s.ctr := by rw [setSm_frame]

-- Marks, expiries and the deadline (R36, R37).

theorem watchdogS_first {s : State} (hd : diesRun s = true) (hr : s.sm.state = .running) (hm : s.sm.lastMark ≠ some s.now)
    (h2 : secondExpiry s = false) : watchdogS s = setSm .restarting (bump Cnt.pkgSmWdt 0 1 { s with
      sm := { s.sm with lastExpiry := some s.now, awaitingMark := true } }) := by
  unfold watchdogS
  rw [if_pos ⟨hr, hd, hm⟩, h2]
  rfl

/-- `s` as D1 begins its takeover. -/
def takenOver (s : State) : State := setSm .takeover { s with sm := { s.sm with awaitingMark := false } }

theorem takenOver_smState (s : State) : (takenOver s).sm.state = .takeover := by rw [takenOver, setSm_sm]

theorem takenOver_now (s : State) : (takenOver s).now = s.now := by rw [takenOver, setSm_frame]

/-- Where the stationmaster runs on D0, D1 takes over, and nothing fails. -/
theorem startTakeover_onD0 {s : State} (h : s.sm.onD1 = false) :
    (if (startTakeover s).sm.state = .failed then failAll (startTakeover s) else startTakeover s) = takenOver s := by
  have hs : startTakeover s = takenOver s := by simp [startTakeover, takenOver, h]
  rw [hs, takenOver_smState]
  rfl

theorem watchdogS_second {s : State} (hd : diesRun s = true) (hr : s.sm.state = .running) (hm : s.sm.lastMark ≠ some s.now)
    (h2 : secondExpiry s = true) (h0 : s.sm.onD1 = false) : watchdogS s = takenOver (bump Cnt.pkgSmWdt 0 1 { s with
      sm := { s.sm with lastExpiry := some s.now, awaitingMark := true } }) := by
  unfold watchdogS
  rw [if_pos ⟨hr, hd, hm⟩, h2]
  exact startTakeover_onD0 h0

theorem reachTime_sm (t : Nat) (s : State) : (reachTime t s).sm = s.sm := by rw [reachTime, advance_frame]

theorem aliveDeadlineS_restarting {s : State} {e : Nat} (he : s.sm.lastExpiry = some e) (ha : s.sm.awaitingMark = true)
    (hr : s.sm.state = .restarting) (h0 : s.sm.onD1 = false) :
    aliveDeadlineS s = takenOver (reachTime (e + 2000000000) s) := by
  have hu : (reachTime (e + 2000000000) s).sm.onD1 = false := by rw [reachTime_sm, h0]
  unfold aliveDeadlineS
  rw [he]
  dsimp only
  rw [if_pos ⟨ha, .inl hr⟩, startTakeover_onD0 hu]

-- The commands in flight after a restart or takeover (R38, R443).

/-- A command in flight as the stationmaster that goes on from its checkpoint answers it. -/
def answeredSlot (c : Slot) : Slot := if notPerformed c then { c with done := some (plain St.notPerformed) } else c

/-- See answeredSlot. -/
def answeredMbx (m : Mailbox) : Mailbox := if m.phase = .executing then { m with slot := m.slot.map answeredSlot } else m

/-- Of what neither the answer of the sideband nor the events and counts of unperformed commands change, answering the
commands in flight leaves what answering those of mailboxes and orphans leaves. -/
theorem answerInFlight_view {α : Type} (f : State → α) (hside : ∀ c r t, f (answerSide c r t) = f t)
    (hbump : ∀ n t, f (bump Cnt.mbxNotPerformed 0 n t) = f t) (hraise : ∀ t, f (raise Ev.mbxNotPerformed 0 [] t) = f t)
    (s : State) : f (answerInFlight s) = f { s with host := { s.host with
      mbx := mapVals (fun _ m => answeredMbx m) s.host.mbx
      orphans := s.host.orphans.filter (fun c => c.waits) } } := by
  have hcount : ∀ n t, f (if n = 0 then t else
      (List.range n).foldl (fun t _ => raise Ev.mbxNotPerformed 0 [] t) (bump Cnt.mbxNotPerformed 0 n t)) = f t := by
    intro n t
    split
    · rfl
    · rw [foldl_view f fun t _ => hraise t, hbump]
  unfold answerInFlight
  dsimp only
  rw [hcount]
  split
  · split
    · exact hside _ _ _
    · rfl
  · rfl

theorem answerInFlight_sm (s : State) : (answerInFlight s).sm = s.sm :=
  answerInFlight_view (·.sm) (fun _ _ _ => rfl) (fun _ _ => rfl) (fun _ => raise_sm _ _ _ _) s

theorem answerInFlight_mbx (s : State) : (answerInFlight s).host.mbx = mapVals (fun _ m => answeredMbx m) s.host.mbx :=
  answerInFlight_view (·.host.mbx) (fun _ _ _ => rfl) (fun _ _ => rfl) (fun _ => by rw [raise_host]) s

theorem ctrGet_answerInFlight {id inst : Nat} (s : State) (hi : inst < 65536) (h1 : id ≠ Cnt.evrRaised)
    (h2 : id ≠ Cnt.evrSuppress) (h3 : id ≠ Cnt.mbxNotPerformed) :
    ctrGet (answerInFlight s) id inst = ctrGet s id inst :=
  answerInFlight_view (ctrGet · id inst) (fun _ _ _ => rfl)
    (fun n t => ctrGet_bump_other n t (by decide) hi fun e => h3 (Prod.mk.inj e).1)
    (fun t => ctrGet_raise [] t (by decide) hi h1 h2) s

theorem mapGet_mapVals {α β : Type} (f : Nat → α → β) (m : AMap α) (k : Nat) :
    mapGet (mapVals f m) k = (mapGet m k).map (f k) := by
  induction m with
  | nil => rfl
  | cons e m ih =>
    by_cases h : e.1 = k
    · simp [mapVals, mapGet, h]
    · simpa [mapVals, mapGet, h] using ih

theorem mailbox_answered {s t : State} (h : t.host.mbx = mapVals (fun _ m => answeredMbx m) s.host.mbx) (n : Nat) :
    mailbox t n = answeredMbx (mailbox s n) := by
  unfold mailbox mapGetD
  rw [h, mapGet_mapVals]
  cases mapGet s.host.mbx n with
  | none => rfl
  | some m => rfl

theorem slotOf_answered {s t : State} (h : t.host.mbx = mapVals (fun _ m => answeredMbx m) s.host.mbx) {n : Nat} {c : Slot}
    (hc : slotOf s (.mbx n) = some c) : slotOf t (.mbx n) = some (answeredSlot c) := by
  have hm := mailbox_answered h n
  have hp : (mailbox s n).phase = .executing := by
    by_contra hp
    rw [slotOf, if_neg hp] at hc
    cases hc
  rw [slotOf, if_pos hp] at hc
  simp [slotOf, hm, answeredMbx, hp, hc]

-- Failure (R39, R443).

theorem countCompletion_sm (n : Nat) (c : Slot) (r : Completion) (s : State) : (countCompletion n c r s).sm = s.sm := by
  unfold countCompletion
  dsimp only
  repeat' split
  all_goals rfl

theorem afterCompletion_sm (c : Slot) (r : Completion) (s : State) : (afterCompletion c r s).sm = s.sm := by
  unfold afterCompletion
  repeat' split
  all_goals rfl

theorem msix_sm (v : Nat) (s : State) : (msix v s).sm = s.sm := by rw [msix_frame]

/-- A completion that is written leaves SM_STATE alone: of the stationmaster it changes the checkpoint's number. -/
theorem writeCompletion_smState (n : Nat) (c : Slot) (r : Completion) (s : State) :
    (writeCompletion n c r s).sm.state = s.sm.state := by
  unfold writeCompletion
  dsimp only
  rw [afterCompletion_sm]
  split
  · rw [msix_sm, noteIdle, countCompletion_sm]
    rfl
  · rw [noteIdle, countCompletion_sm]
    rfl

theorem completeMbx_smState (n : Nat) (s : State) : (completeMbx n s).sm.state = s.sm.state := by
  unfold completeMbx
  dsimp only
  split
  · split
    · split
      · rfl
      · split
        · exact writeCompletion_smState _ _ _ _
        · rfl
    · rfl
  · rfl

theorem completePosted_smState (n st : Nat) (s : State) : (completePosted n st s).sm.state = s.sm.state :=
  completeMbx_smState n _

theorem failAll_smState (s : State) : (failAll s).sm.state = s.sm.state := by
  unfold failAll
  dsimp only
  rw [foldl_view fun t => t.sm.state]
  · split <;> rfl
  · intro t n
    split
    · exact completePosted_smState _ _ _
    · split
      · exact completeMbx_smState _ _
      · rfl
    · rfl

theorem smFail_smState (s : State) : (smFail s).sm.state = .failed := by rw [smFail, failAll_smState, setSm_sm]

-- The end of a restart (R36, R38, R39).

theorem restartDoneS_resumes {s : State} (h : s.sm.state = .restarting) :
    restartDoneS true true s = answerInFlight (setSm .running (noteSram true true s)) := by
  simp [restartDoneS, h]

theorem restartDoneS_badCheckpoint {s : State} (h : s.sm.state = .restarting) :
    restartDoneS true false s = smFail (noteSram true false s) := by
  simp [restartDoneS, h]

-- The end of a takeover (R37, R39, R557).

/-- The firmware that starts leaves the mailboxes, SM_STATE and the place of the stationmaster alone. -/
theorem bootFirmware_frame (s : State) : (bootFirmware s).host = s.host
    ∧ (bootFirmware s).sm = { s.sm with sram := (bootFirmware s).sm.sram } := by
  unfold bootFirmware
  split
  · exact ⟨rfl, rfl⟩
  · dsimp only
    split
    · rw [raise_host, raise_sm]
      exact ⟨rfl, rfl⟩
    · exact ⟨rfl, rfl⟩

theorem ctrGet_bootFirmware {id inst : Nat} (s : State) (hi : inst < 65536) (h1 : id ≠ Cnt.evrRaised)
    (h2 : id ≠ Cnt.evrSuppress) : ctrGet (bootFirmware s) id inst = ctrGet s id inst := by
  unfold bootFirmware
  split
  · rfl
  · dsimp only
    split
    · exact ctrGet_raise [] _ (by decide) hi h1 h2
    · rfl

/-- `s` with the stationmaster's place on D1, as the takeover's count and boot find it. -/
def movedToD1 (s : State) : State :=
  bump Cnt.pkgSmTakeover 0 1 { s with sm := { s.sm with onD1 := true, lastExpiry := none } }

theorem ckptPathWaits_up {s : State} (h0 : cplPhase s 0 = .up) (hd : s.cpl.draining = false) : ckptPathWaits s = false := by
  simp [ckptPathWaits, h0, hd]

theorem ckptPathLost_up {s : State} (h0 : cplPhase s 0 = .up) : ckptPathLost s = false := by
  simp [ckptPathLost, h0]

theorem takeoverDoneS_moves {s : State} (h : s.sm.state = .takeover) (hw : ckptPathWaits s = false)
    (hl : ckptPathLost s = false) (hb : (bootChoice s).isSome = true) : takeoverDoneS true true s =
      answerInFlight (setSm .running (bootFirmware (movedToD1 (noteSram s.sm.sram.imageOk true s)))) := by
  unfold takeoverDoneS
  rw [if_neg (by simp [h, hw])]
  have hl' : (!ckptPathLost s) = true := by rw [hl]; rfl
  exact if_pos ⟨rfl, rfl, hl', hb⟩

theorem takeoverDoneS_fails {s : State} {ok ckptOk : Bool} (h : s.sm.state = .takeover) (hw : ckptPathWaits s = false)
    (hf : ok = false ∨ ckptOk = false ∨ bootChoice s = none) :
    takeoverDoneS ok ckptOk s = smFail (noteSram s.sm.sram.imageOk ckptOk s) := by
  unfold takeoverDoneS
  rw [if_neg (by simp [h, hw])]
  refine if_neg ?_
  rintro ⟨hok, hck, -, hb⟩
  have hb' : (bootChoice s).isSome = true := hb
  rcases hf with hf | hf | hf
  · rw [hf] at hok
    cases hok
  · rw [hf] at hck
    cases hck
  · rw [hf] at hb'
    cases hb'

end Sys2Proof.Machine

namespace Sys2Proof.Proofs

open Sys2Proof.Machine

/-- Settles O19: one equation for the state that each row leaves; a restart and a takeover both end in `answerInFlight`,
whose effect on the slots is `slotOf_answered`, and every failure in `smFail`. What is operand of the two rows that end
them is assumption log 16; from when D1's expiries are judged, log 57. -/
theorem stationmasterRestartsAndMoves : Obligations.StationmasterRestartsAndMoves := by
  intro s hd
  refine ⟨fun hr => ?_, fun hr hm h2 => ?_, fun hr hm h2 h0 => ?_, fun hr => ?_, fun hr => ?_,
    fun e he ha hr h0 => ?_, fun ht hup hdr hb => ?_, fun ok ck ht hup hdr hf => ?_⟩
  · exact congrArg Host.Outcome.next (if_pos ⟨hr, hd⟩)
  · exact congrArg Host.Outcome.next (watchdogS_first hd hr hm h2)
  · exact congrArg Host.Outcome.next (watchdogS_second hd hr hm h2 h0)
  · refine ⟨_, congrArg Host.Outcome.next (restartDoneS_resumes hr), ?_, ?_, fun n c hc => slotOf_answered ?_ hc⟩
    · rw [answerInFlight_sm, setSm_sm]
    · rw [answerInFlight_sm, setSm_sm]
      rfl
    · rw [answerInFlight_mbx, setSm_mbx]
      rfl
  · exact ⟨_, congrArg Host.Outcome.next (restartDoneS_badCheckpoint hr), smFail_smState _⟩
  · refine ⟨_, congrArg Host.Outcome.next (aliveDeadlineS_restarting he ha hr h0), ?_, ?_⟩
    · rw [takenOver_smState]
    · rw [takenOver_now, reachTime_now]
  · obtain ⟨hhost, hsm⟩ := bootFirmware_frame (movedToD1 (noteSram s.sm.sram.imageOk true s))
    have hmoves := takeoverDoneS_moves ht (ckptPathWaits_up hup hdr) (ckptPathLost_up hup) hb
    refine ⟨_, congrArg Host.Outcome.next hmoves, ?_, ?_, ?_, fun n c hc => slotOf_answered ?_ hc⟩
    · rw [answerInFlight_sm, setSm_sm]
    · rw [answerInFlight_sm, setSm_sm, hsm]
      rfl
    · rw [ctrGet_answerInFlight _ (by decide) (by decide) (by decide) (by decide), ctrGet, setSm_ctr]
      exact ctrGet_bootFirmware _ (by decide) (by decide) (by decide)
    · rw [answerInFlight_mbx, setSm_mbx, hhost]
      rfl
  · exact ⟨_, congrArg Host.Outcome.next (takeoverDoneS_fails ht (ckptPathWaits_up hup hdr) hf), smFail_smState _⟩

end Sys2Proof.Proofs
end

section
/-! What reaches the bridge window: a write that is dropped, a report of the meter, 5 s without one; the statement of
01_package_architecture.md on it. -/

namespace Sys2Proof.Machine

/-- `t` is `s` but for what notices leave: counters, event records, MEM_EVENT, the host's registers, and which flags of
the meter were seen. -/
def noticeOnly (s t : State) : Prop :=
  t = { s with
    ctr := t.ctr, evr := t.evr, flash := t.flash, host := t.host
    win := { s.win with sealSeen := t.win.sealSeen, failSeen := t.win.failSeen } }

theorem noticeOnly.refl (s : State) : noticeOnly s s := rfl

theorem noticeOnly.trans {a b c : State} (h : noticeOnly a b) (g : noticeOnly b c) : noticeOnly a c := by
  unfold noticeOnly at *
  rw [g, h]

theorem noticeOnly.raise {r s : State} (code src : Nat) (payload : List Byte) (h : noticeOnly r s) :
    noticeOnly r (raise code src payload s) :=
  h.trans (by rw [raise_frame]; rfl)

/-- A change of SEAL_OPEN from the last report raises EV_MTR_SEAL (R569). -/
def noteSeal (bytes : List Byte) (s : State) : State :=
  if flag bytes 16 = s.win.sealSeen then s
  else raise Ev.mtrSeal 0 (toLE 4 (bit (flag bytes 16)) ++ slice bytes 88 4)
    { s with win := { s.win with sealSeen := flag bytes 16 } }

/-- After the seal, the first report with SELFCHECK_FAIL raises EV_MTR_SELFCHECK (R569). -/
theorem reportEvents_noteSeal (bytes : List Byte) (s : State) : reportEvents bytes s =
    if flag bytes 19 && !(noteSeal bytes s).win.failSeen then
      raise Ev.mtrSelfcheck 0 [] { noteSeal bytes s with win := { (noteSeal bytes s).win with failSeen := true } }
    else noteSeal bytes s := rfl

theorem noteSeal_notice (bytes : List Byte) (s : State) : noticeOnly s (noteSeal bytes s) := by
  unfold noteSeal
  split
  · exact .refl s
  · exact noticeOnly.raise _ _ _ rfl

/-- What the flags of a report raise changes notices alone (R569). -/
theorem reportEvents_notice (bytes : List Byte) (s : State) : noticeOnly s (reportEvents bytes s) := by
  rw [reportEvents_noteSeal]
  split
  · exact (noteSeal_notice bytes s).trans (noticeOnly.raise _ _ _ rfl)
  · exact noteSeal_notice bytes s

theorem ctrGet_noteSeal {id inst : Nat} (bytes : List Byte) (s : State) (hi : inst < 65536) (h1 : id ≠ Cnt.evrRaised)
    (h2 : id ≠ Cnt.evrSuppress) : ctrGet (noteSeal bytes s) id inst = ctrGet s id inst := by
  unfold noteSeal
  split
  · rfl
  · exact ctrGet_raise _ _ (by decide) hi h1 h2

theorem ctrGet_reportEvents {id inst : Nat} (bytes : List Byte) (s : State) (hi : inst < 65536) (h1 : id ≠ Cnt.evrRaised)
    (h2 : id ≠ Cnt.evrSuppress) : ctrGet (reportEvents bytes s) id inst = ctrGet s id inst := by
  rw [reportEvents_noteSeal]
  split
  · exact (ctrGet_raise _ _ (by decide) hi h1 h2).trans (ctrGet_noteSeal bytes s hi h1 h2)
  · exact ctrGet_noteSeal bytes s hi h1 h2

/-- A signature that does not verify is counted and raises EV_MTR_SIG_FAIL (R553). -/
def noteSignature (ok : Bool) (s : State) : State :=
  if ok then s else raise Ev.mtrSigFail 0 [] (bump Cnt.mtrSigFail 0 1 s)

theorem noteSignature_notice (ok : Bool) (s : State) : noticeOnly s (noteSignature ok s) := by
  unfold noteSignature
  split
  · exact .refl s
  · exact noticeOnly.raise _ _ _ rfl

theorem ctrGet_noteSignature {id inst : Nat} (ok : Bool) (s : State) (hi : inst < 65536) (h1 : id ≠ Cnt.evrRaised)
    (h2 : id ≠ Cnt.evrSuppress) (h3 : id ≠ Cnt.mtrSigFail) : ctrGet (noteSignature ok s) id inst = ctrGet s id inst := by
  unfold noteSignature
  split
  · rfl
  · exact (ctrGet_raise [] _ (by decide) hi h1 h2).trans
      (ctrGet_bump_other 1 s (by decide) hi fun e => h3 (Prod.mk.inj e).1)

/-- The bridge after its oldest report, of bytes `sent` with audit entries `entries`, has left it for the window. -/
def reportTaken (sent : List Byte) (entries : List AuditEntry) (rest : List (List Byte × List AuditEntry)) (s : State) :
    State :=
  storeReport sent entries (edVerify (edPublic s.meter.secret) (sent.take 256) (sent.drop 256))
    { s with meter := { s.meter with bridge := rest } }

theorem pkgEvt_notice (i : Nat) (s : State) : noticeOnly s (pkgEvt i s) := by
  rw [pkgEvt_frame]
  rfl

theorem pkgEvt_ctr (i : Nat) (s : State) : (pkgEvt i s).ctr = s.ctr := by rw [pkgEvt_frame]

section SentReport

variable {s : State} {sent : List Byte} {entries : List AuditEntry} {rest : List (List Byte × List AuditEntry)}
  (hd : diesRun s = true) (hb : s.meter.bridge = (sent, entries) :: rest)

include hd hb

/-- A report that comes as sent is stored and counted; what follows are notices. -/
theorem reportRxS_sent : reportRxS none s = pkgEvt 2 (reportEvents sent
      (noteSignature (edVerify (edPublic s.meter.secret) (sent.take 256) (sent.drop 256))
        (bump Cnt.mtrReportRx 0 1 (reportTaken sent entries rest s)))) := by
  have hd' : diesRun (reportTaken sent entries rest s) = true := hd
  unfold reportRxS
  rw [hb]
  exact if_pos hd'

theorem reportRxS_notice : noticeOnly (reportTaken sent entries rest s) (reportRxS none s) := by
  rw [reportRxS_sent hd hb]
  have hcount : noticeOnly (reportTaken sent entries rest s) (bump Cnt.mtrReportRx 0 1 (reportTaken sent entries rest s)) :=
    rfl
  exact ((hcount.trans (noteSignature_notice _ _)).trans (reportEvents_notice _ _)).trans (pkgEvt_notice _ _)

theorem ctrGet_reportRxS :
    ctrGet (reportRxS none s) Cnt.mtrReportRx 0 = ctrGet (bump Cnt.mtrReportRx 0 1 s) Cnt.mtrReportRx 0 := by
  rw [reportRxS_sent hd hb, ctrGet, pkgEvt_ctr]
  exact (ctrGet_reportEvents _ _ (by decide) (by decide) (by decide)).trans
    (ctrGet_noteSignature _ _ (by decide) (by decide) (by decide) (by decide))

end SentReport

end Sys2Proof.Machine

namespace Sys2Proof.Proofs

open Sys2Proof.Machine

/-- Settles O20: a report that comes as sent is `reportTaken`, after which only notices change (`reportRxS_notice`). That
the stale timer first moves time to its deadline is assumption log 3. -/
theorem bridgeIsOneWay : Obligations.BridgeIsOneWay := by
  intro s hd
  refine ⟨fun offset data hlen => ?_, fun sent entries rest hb => ?_, congrArg _ (if_pos hd)⟩
  · calc exec (.bridgeWindowWrite offset data) s
        = .next (bridgeWriteS s) := if_pos hlen
      _ = .next (bump Cnt.pkgMtrBridgeWr 0 1 s) := by rw [bridgeWriteS, if_pos hd]
  · have hrx := reportRxS_notice hd hb
    unfold noticeOnly at hrx
    refine ⟨reportRxS none s, rfl, ?_, ?_, ?_, ?_, ?_, ctrGet_reportRxS hd hb, ?_⟩
    · rw [hrx]; rfl
    · rw [hrx]; rfl
    · rw [hrx]
      exact mapGet_mapSet_same _ _ _
    · rw [hrx]; rfl
    · rw [hrx]; rfl
    · rw [hrx]; rfl

end Sys2Proof.Proofs
end

section
/-! The job of a package: what reading and changing it comes to, what stands while time passes, and what a timetable
message meets on its way in. The statements of 02_timetable.md share these rules. -/

namespace Sys2Proof.Machine

section Job

variable {s : State} {j : Job} (hj : s.job = some j)

include hj

theorem updJob_of_job (f : Job → Job) : updJob f s = { s with job := some (f j) } := by
  simp only [updJob, hj]

theorem isMaster_of_job : isMaster s = (j.master == pkgNo s) := by
  simp only [isMaster, hj]

theorem isMaster_own (hm : j.master = pkgNo s) : isMaster s = true := by
  rw [isMaster_of_job hj, hm, beq_self_eq_true]

theorem isMaster_other (hm : j.master ≠ pkgNo s) : isMaster s = false := by
  rw [isMaster_of_job hj, beq_eq_false_iff_ne]
  exact hm

theorem isMember_of_mem {p : Nat} (hp : p ∈ j.members) : isMember s p = true := by
  simp only [isMember, hj, List.contains_iff_mem, hp]

theorem epochOf_of_job : epochOf s = j.epoch := by
  simp only [epochOf, hj]

end Job

-- The passing of time.

theorem reachTime_job (t : Nat) (s : State) : (reachTime t s).job = s.job := by rw [reachTime, advance_frame]

theorem pkgNo_reachTime (t : Nat) (s : State) : pkgNo (reachTime t s) = pkgNo s := by
  rw [reachTime, advance_frame]
  rfl

-- Messages of the timetable (R59, R61, R76).

section Message

variable {i : Instr} {h : Hdr} {s : State} {j : Job} (a : addressed s i h) (hj : s.job = some j)

include a hj

/-- A message of an epoch that is not older than the job's has its effect. -/
theorem takeTimetable_inForce (f : Job → Hdr → State → State) (he : j.epoch ≤ h.epoch) :
    takeTimetable i f s = returnCredits i h (f j h s) := by
  rw [takeTimetable, receive_addressed _ a]
  simp only [hj, if_neg (Nat.not_lt.mpr he)]

/-- A message of an older epoch is dropped and counted (R76). -/
theorem takeTimetable_stale (f : Job → Hdr → State → State) (he : h.epoch < j.epoch) :
    takeTimetable i f s = returnCredits i h (bump Cnt.ttStaleEpochDrop 0 1 s) := by
  rw [takeTimetable, receive_addressed _ a]
  simp only [hj, if_pos he]

/-- A departure message of the job's epoch and next step has its effect while no departure is in hand. -/
theorem takeDeparture_next (f : Job → State → State) (hdev : s.dev = .running) (he : h.epoch = j.epoch)
    (hsrc : h.src = j.master) (hstep : h.step = j.next) (hsent : j.sent = none) :
    takeDeparture i f s = returnCredits i h (f j s) := by
  rw [takeDeparture, takeTimetable_inForce a hj _ (Nat.le_of_eq he.symm), if_neg (by omega), if_pos]
  simp [hdev, hsrc, hstep, hsent]

end Message

end Sys2Proof.Machine
end

section
/-! The timetable commands of a job; the statement of 02_timetable.md on them. -/

namespace Sys2Proof.Machine

theorem performNow_answers {s t : State} {src : CmdSrc} {op : Nat} {c : Slot} {r : Completion}
    {f : List Byte → State → State × Completion} (hc : performs s src op c) (hf : f c.payload s = (t, r)) :
    performNow op src f s = recorded src c r t := by
  rw [performNow_of f hc, hf]

/-- A command that nothing holds back is performed (R442). -/
theorem ite_heldBack {s : State} {src : CmdSrc} (hb : heldBack src s = false) (t : State) :
    (if heldBack src s then s else t) = t := by
  rw [hb]
  rfl

/-- CMD_TT_JOB_END is held back in QUIESCED alone, where it changes the device state (R442). -/
theorem execCmdTtJobEnd_free {s : State} {src : CmdSrc} (h : s.dev ≠ .quiesced ∨ heldBack src s = false) :
    exec (.cmdTtJobEnd src) s = .next (performNow 0x0204 src ttJobEnd s) := by
  refine congrArg Host.Outcome.next (if_neg ?_)
  rintro ⟨hd, hb⟩
  rcases h with h | h
  · exact h hd
  · rw [h] at hb
    cases hb

-- CMD_TT_JOB_START (R79, R86).

/-- The ways of the depot that the job's directories and replicas take are there (R358). -/
def startWaysFit (s : State) (p : List Byte) : Bool :=
  waysFit s (waysFor (if field p 112 16 = 0 then 32 else field p 112 16) s.pool.gthCfgNext.replicaMib (dirEntriesAll s))

section Start

variable {s : State} {c : Slot}

theorem jobStart_badParam (h : startOk s c.payload = false) : jobStart c s = .done s (failWith St.badParam 0) := by
  simp only [jobStart, h, Bool.not_false, if_true]

variable (hok : startOk s c.payload = true)

include hok

theorem jobStart_noWays (hw : startWaysFit s c.payload = false) : jobStart c s = .done s (failWith St.noSpace 0) := by
  rw [startWaysFit] at hw
  simp only [jobStart, hok, hw, Bool.not_true, Bool.not_false, Bool.false_eq_true, if_false, if_true]

variable (hw : startWaysFit s c.payload = true)

include hw

theorem jobStart_noRegions (hj : (startAreas (joinJob c.payload s)).bind startMirrors = none) :
    jobStart c s = .done s (failWith St.noSpace 0) := by
  rw [startWaysFit] at hw
  simp only [jobStart, hok, hw, hj, Bool.not_true, Bool.false_eq_true, if_false]

theorem jobStart_joins {t : State} (hj : (startAreas (joinJob c.payload s)).bind startMirrors = some t) :
    jobStart c s = .wait (setDev .running t) := by
  rw [startWaysFit] at hw
  simp only [jobStart, hok, hw, hj, Bool.not_true, Bool.false_eq_true, if_false]

end Start

-- The commands for the tick master (R79, R81, R87).

section AsMaster

variable {s t : State} {src : CmdSrc} {op : Nat} {c : Slot} {r : Completion} {f : List Byte → State → State × Completion}
  (hc : performs s src op c)

include hc

theorem performNow_own (hm : isMaster s = true) (hf : f c.payload s = (t, r)) :
    performNow op src (asMaster f) s = recorded src c r t :=
  performNow_answers hc ((if_pos hm).trans hf)

theorem performNow_other (hm : isMaster s = false) :
    performNow op src (asMaster f) s = recorded src c (failStep St.notMaster 6) s :=
  performNow_answers hc (if_neg (ne_true_of_eq_false hm))

end AsMaster

/-- The change that CMD_TT_SET_HEADWAY asks for (R87). -/
def headwayChange (p : List Byte) (j : Job) : HeadwayChange :=
  let n := field p 96 64
  let unsent := if j.sent.isSome then j.next + 1 else j.next
  { step := if n = 0 ∨ n < unsent then unsent else n
    headway := field p 0 32
    hold := field p 32 8
    lead := if field p 64 32 = 0 then autoLead j.measured else field p 64 32 }

/-- The change is within the ranges of R87 and keeps R52. -/
def headwayOk (p : List Byte) (j : Job) : Prop :=
  20000 ≤ field p 0 32 ∧ field p 0 32 ≤ 4000000000 ∧ field p 32 8 ≤ 128 ∧ field p 40 24 = 0
    ∧ paceOk (field p 0 32) (if field p 64 32 = 0 then autoLead j.measured else field p 64 32) j.measured = true

section Job

variable {s : State} {j : Job} (hj : s.job = some j)

include hj

theorem setHeadway_ok {p : List Byte} (h : headwayOk p j) :
    setHeadway p s = ({ s with job := some { j with change := j.change ++ [headwayChange p j] } }, okWith []) := by
  obtain ⟨hlo, hhi, hhold, hres, hpace⟩ := h
  simp only [setHeadway, hj]
  rw [if_neg, updJob_of_job hj]
  · rfl
  · simp [hlo, hhi, hhold, hres, hpace]

theorem setHeadway_bad {p : List Byte} (h : ¬ headwayOk p j) : setHeadway p s = (s, failWith St.badParam 0) := by
  simp only [setHeadway, hj]
  refine if_pos ?_
  by_contra hn
  simp only [not_or, Nat.not_lt, not_not, Bool.not_eq_true', Bool.not_eq_false] at hn
  exact h hn

theorem ttQuiesce_of_job (p : List Byte) :
    ttQuiesce p s = ({ s with job := some { j with quiesceReq := true } }, okWith []) := by
  rw [ttQuiesce, updJob_of_job hj]

theorem ttJobEnd_running (p : List Byte) (hm : j.master = pkgNo s) (hd : s.dev ≠ .quiesced) :
    ttJobEnd p s = ({ s with job := some { j with endReq := true } }, okWith []) := by
  simp [ttJobEnd, hj, isMaster_own hj hm, hd, updJob_of_job]

theorem ttJobEnd_other (p : List Byte) (hm : j.master ≠ pkgNo s) (hd : s.dev ≠ .quiesced ∨ j.noMaster = false) :
    ttJobEnd p s = (s, failStep St.notMaster 6) := by
  have hn : ¬ (s.dev = .quiesced ∧ j.noMaster = true) := by
    rintro ⟨hq, hno⟩
    rcases hd with hd | hd
    · exact hd hq
    · rw [hd] at hno
      cases hno
  simp [ttJobEnd, hj, isMaster_other hj hm, hn]

theorem ttJobEnd_paused (p : List Byte) (hm : j.master = pkgNo s) (hd : s.dev = .quiesced) (hno : j.noMaster = false) :
    ttJobEnd p s = (setDev .ready (leaveJob (finishMigs (sendJobCtrl 2 s))), okWith []) := by
  simp [ttJobEnd, hj, isMaster_own hj hm, hd, hno]

theorem ttJobEnd_noMaster (p : List Byte) (hd : s.dev = .quiesced) (hno : j.noMaster = true) :
    ttJobEnd p s = (setDev .ready (leaveJob (finishMigs s)), okWith []) := by
  simp [ttJobEnd, hj, hd, hno]

/-- CMD_TT_STATUS in a job, `prop` being the propagation time that this package measured (R592). -/
theorem ttStatus_of_job (p : List Byte) {prop : Nat} (hp : (if isMaster s then j.prop else 0) = prop) :
    let k := paceAt s.now j
    ttStatus p s = okWith (pack 64
      [(0, 64, s.now), (64, 64, s.step), (128, 64, j.nominal), (192, 32, j.epoch), (256, 64, ttStatusReg s),
       (320, 32, prop), (352, 32, k.lead), (384, 32, k.headway), (416, 8, k.hold), (448, 64, j.id)]) := by
  simp only [ttStatus, ttNextDep, epochOf_of_job hj, hj, hp]
  rfl

end Job

theorem ttResume_paused {s : State} (p : List Byte) (hd : s.dev = .quiesced) :
    ttResume p s = (reload (sendJobCtrl 1 (setDev .running s)), okWith []) :=
  if_pos hd

theorem ttStatus_noJob {s : State} (p : List Byte) (hj : s.job = none) :
    ttStatus p s = okWith (pack 64 [(0, 64, s.now), (64, 64, s.step), (128, 64, 0), (192, 32, 0), (256, 64, 0)]) := by
  simp [ttStatus, ttNextDep, epochOf, ttStatusReg, hj]

end Sys2Proof.Machine

namespace Sys2Proof.Proofs

open Sys2Proof.Machine

/-- Settles O21: one equation for what each command answers, at the tick master and at another member; those that change
the device state are performed once nothing holds them back (assumption log 56). ST_NO_SPACE for want of regions is
assumption log 68, the answer at departure 0 log 32, and the automatic TT_LEAD and the registers outside a job log 70. -/
theorem timetableCommands : Obligations.TimetableCommands := by
  intro s src c
  refine ⟨fun hc hb => ⟨fun t hok hw hj => ?_, fun hok hno => ?_, fun hbad => ?_⟩,
    fun j hj hm => ⟨fun hc => ⟨fun hok => ?_, fun hbad => ?_⟩, fun hc => ?_, fun hc hb hd => ?_, fun hc hd => ?_,
      fun hc hb hd hno => ?_, fun hc => ?_⟩,
    fun j hj hm => ⟨fun hc => ?_, fun hc => ?_, fun hc hb => ?_, fun hc hd => ?_, fun hc => ?_⟩,
    fun j hj hc hb hd hno => ?_, fun hj hc => ?_⟩
  -- CMD_TT_JOB_START
  · exact congrArg Host.Outcome.next ((ite_heldBack hb _).trans (performCmd_wait hc (jobStart_joins hok hw hj)))
  · refine congrArg Host.Outcome.next ((ite_heldBack hb _).trans (performCmd_done hc ?_))
    cases hw : startWaysFit s c.payload with
    | false => exact jobStart_noWays hok hw
    | true => exact jobStart_noRegions hok hw (hno.resolve_left fun h => Bool.false_ne_true (h.symm.trans hw))
  · exact congrArg Host.Outcome.next ((ite_heldBack hb _).trans (performCmd_done hc (jobStart_badParam hbad)))
  -- at the tick master
  · exact congrArg Host.Outcome.next (performNow_own hc (isMaster_own hj hm) (setHeadway_ok hj hok))
  · exact congrArg Host.Outcome.next (performNow_own hc (isMaster_own hj hm) (setHeadway_bad hj hbad))
  · exact congrArg Host.Outcome.next (performNow_own hc (isMaster_own hj hm) (ttQuiesce_of_job hj _))
  · exact congrArg Host.Outcome.next ((ite_heldBack hb _).trans
      (performNow_own hc (isMaster_own hj hm) (ttResume_paused _ hd)))
  · rw [execCmdTtJobEnd_free (.inl hd)]
    exact congrArg Host.Outcome.next (performNow_answers hc (ttJobEnd_running hj _ hm hd))
  · rw [execCmdTtJobEnd_free (.inr hb)]
    exact congrArg Host.Outcome.next (performNow_answers hc (ttJobEnd_paused hj _ hm hd hno))
  · refine congrArg Host.Outcome.next ((performQuery_of _ hc).trans ?_)
    rw [ttStatus_of_job hj _ (if_pos (isMaster_own hj hm))]
  -- at another member
  · exact congrArg Host.Outcome.next (performNow_other hc (isMaster_other hj hm))
  · exact congrArg Host.Outcome.next (performNow_other hc (isMaster_other hj hm))
  · exact congrArg Host.Outcome.next ((ite_heldBack hb _).trans (performNow_other hc (isMaster_other hj hm)))
  · rw [execCmdTtJobEnd_free (hd.imp_right And.left)]
    exact congrArg Host.Outcome.next (performNow_answers hc (ttJobEnd_other hj _ hm (hd.imp_right And.right)))
  · refine congrArg Host.Outcome.next ((performQuery_of _ hc).trans ?_)
    rw [ttStatus_of_job hj _ (if_neg (ne_true_of_eq_false (isMaster_other hj hm)))]
  -- with no master, and with no job
  · rw [execCmdTtJobEnd_free (.inr hb)]
    exact congrArg Host.Outcome.next (performNow_answers hc (ttJobEnd_noMaster hj _ hd hno))
  · refine congrArg Host.Outcome.next ((performQuery_of _ hc).trans ?_)
    rw [ttStatus_noJob _ hj]

end Sys2Proof.Proofs
end

section
/-! Joining a job: probes, joins, the loaded train, the join timeout and job control; the statement of 02_timetable.md on
them. -/

namespace Sys2Proof.Machine

theorem probeS_addressed {h : Hdr} {st : Nat} {s : State} (a : addressed s (.probe h st) h) :
    probeS h st s = returnCredits (.probe h st) h (sendPlain (.probeReply (replyHdr s h) st 0) s) :=
  receive_addressed _ a

section Job

variable {s : State} {j : Job} {h : Hdr} (hj : s.job = some j)

include hj

/-- The reply of a package still to answer is taken into the measurement (R55). -/
theorem probeReplyS_awaited {st rtt : Nat} (a : addressed s (.probeReply h st rtt) h) (hp : h.src ∈ j.probes) :
    probeReplyS h st rtt s = returnCredits (.probeReply h st rtt) h (tryFirst (judgeLead { s with
      job := some { j with probes := j.probes.filter (fun p => p != h.src), measured := Nat.max j.measured rtt } })) := by
  rw [probeReplyS, receive_addressed _ a]
  simp only [hj, if_pos (List.contains_iff_mem.mpr hp), updJob_of_job hj]

theorem joinS_loading (a : addressed s (.join h) h) (hm : j.master = pkgNo s) (hp : j.phase = .loading)
    (he : h.epoch = j.epoch) (hsrc : h.src ∈ j.members) : joinS h s =
      returnCredits (.join h) h (tryFirst { s with job := some { j with joined := setInsert h.src j.joined } }) := by
  rw [joinS, receive_addressed _ a]
  simp only [hj, updJob_of_job hj]
  rw [if_pos]
  simp [isMaster_own hj hm, isMember_of_mem hj hsrc, hp, he]

theorem trainLoadedS_member (hp : j.phase = .loading) (hl : j.loaded = false) (ho : j.onceDone = true)
    (h0 : outstanding s = 0) (hdev : s.dev = .running) (hm : j.master ≠ pkgNo s) : trainLoadedS s =
      sendPlain (.join (mkHdr s j.master 0)) { s with job := some { j with loaded := true } } := by
  have hu : isMaster { s with job := some { j with loaded := true } } = false := isMaster_other rfl hm
  simp only [trainLoadedS, hj, updJob_of_job hj]
  rw [if_neg (by simp [hp, hl, ho, h0, hdev]), if_neg (ne_true_of_eq_false hu)]
  simp only [mkHdr, epochOf, stepOf, hj]
  rfl

/-- Before departure 0 the join timeout gives the job up (R80). -/
theorem joinTimeoutS_unstarted (hp : j.phase = .loading) (hsent : j.sent = none) (hdev : s.dev = .running)
    (hs : j.started = false) : joinTimeoutS s =
      abortStart St.joinTimeout (raise Ev.ttJoinTimeout 0 [] (reachTime (j.startTime + j.joinNs) s)) := by
  simp only [joinTimeoutS, hj]
  rw [if_neg (by simp [hp, hsent, hdev]), if_pos (by rw [hs]; rfl)]

-- JOB_CTRL of the job (R599).

section Control

variable {op : Nat} (a : addressed s (.jobCtrl h j.id op) h)

include a

theorem jobCtrlS_reload (hop : op = 1) (hd : s.dev = .quiesced) :
    jobCtrlS h j.id op s = returnCredits (.jobCtrl h j.id op) h (reload (setDevHw .running s)) := by
  rw [jobCtrlS, receive_addressed _ a]
  simp [hj, hop, hd]

theorem jobCtrlS_end (hop : op = 2) (hd : s.dev = .quiesced) :
    jobCtrlS h j.id op s = returnCredits (.jobCtrl h j.id op) h (endJob s) := by
  rw [jobCtrlS, receive_addressed _ a]
  simp [hj, hop, hd]

theorem jobCtrlS_abort (hop : op = 0) (hd : s.dev = .running) (hs : j.started = false) :
    jobCtrlS h j.id op s = returnCredits (.jobCtrl h j.id op) h (abortStart St.joinTimeout s) := by
  rw [jobCtrlS, receive_addressed _ a]
  simp [hj, hop, hd, hs]

end Control

end Job

end Sys2Proof.Machine

namespace Sys2Proof.Proofs

open Sys2Proof.Machine

/-- Settles O22: one equation for the state that each message and timeout leaves. That a PROBE is answered in any state is
assumption log 33, that a member's ABORT answers ST_JOIN_TIMEOUT without an event logs 32 and 70, and how an odd round trip
is judged log 70. -/
theorem jobJoined : Obligations.JobJoined := by
  intro s h
  refine ⟨fun st a => ?_, fun j hj => ⟨fun st rtt a hp => ?_, fun a hm hp he hsrc => ?_, fun hp hl ho h0 hdev hm => ?_,
    fun hp hsent hdev hs => ?_, fun op a => ⟨fun hop hd => ?_, fun hop hd => ?_, fun hop hd hs => ?_⟩⟩⟩
  · exact congrArg Host.Outcome.next (probeS_addressed a)
  · exact congrArg Host.Outcome.next (probeReplyS_awaited hj a hp)
  · exact congrArg Host.Outcome.next (joinS_loading hj a hm hp he hsrc)
  · exact congrArg Host.Outcome.next (trainLoadedS_member hj hp hl ho h0 hdev hm)
  · exact congrArg Host.Outcome.next (joinTimeoutS_unstarted hj hp hsent hdev hs)
  · exact congrArg Host.Outcome.next (jobCtrlS_reload hj a hop hd)
  · exact congrArg Host.Outcome.next (jobCtrlS_end hj a hop hd)
  · exact congrArg Host.Outcome.next (jobCtrlS_abort hj a hop hd hs)

end Sys2Proof.Proofs
end

section
/-! What leads up to a departure: the cut-off, the decision point, the hold deadline, and the messages of a departure; the
statement of 02_timetable.md on them. -/

namespace Sys2Proof.Machine

/-- `s` at the decision point, `out` being the members outstanding (R68). -/
def decidedWith (out : List Nat) (j : Job) (s : State) : State :=
  { reachTime (j.nominal - j.lead / 2) s with job := some { j with decided := true, pending := out } }

/-- The members outstanding at the decision point: those late, and those that the map shows unreachable (R68, R477). -/
def outstandingAt (j : Job) (s : State) : List Nat :=
  setUnion j.pending (j.members.filter (unreachable (reachTime (j.nominal - j.lead / 2) s)))

section Points

variable {s : State} {j : Job} (hj : s.job = some j) (hdev : s.dev = .running)

include hj hdev

/-- At the cut-off (R58) the end of step is looked at, and a package that has not met it, in synchrony and sound, is late. -/
theorem cutoffS_inStep {u : State} {k : Job} (hp : j.phase = .inStep)
    (hu : markEnd (missGn (reachTime (j.nominal - j.lead) s)) = u) (hk : u.job = some k) :
    cutoffS s = if k.arrived && k.syncOk && !u.chk.failed then u else raiseLate u := by
  simp only [cutoffS, hj]
  rw [if_neg (by simp [hp, hdev]), hu]
  simp only [hk]

/-- The decision point at the master (R58, R68). -/
theorem decisionS_undecided (hm : j.master = pkgNo s) (hp : j.phase = .inStep) (hd : j.decided = false)
    (hsent : j.sent = none) (ht : j.takeover = none) :
    decisionS s =
      if outstandingAt j s = [] then sendDeparture j.nominal [] (decidedWith (outstandingAt j s) j s)
      else if j.hold = 0 then sendDeparture j.nominal (outstandingAt j s) (decidedWith (outstandingAt j s) j s)
      else bump Cnt.ttHold 0 1 { reachTime (j.nominal - j.lead / 2) s with
        job := some { j with decided := true, pending := outstandingAt j s, holding := true } } := by
  have hu : (reachTime (j.nominal - j.lead / 2) s).job = some j := by rw [reachTime_job, hj]
  simp only [decisionS, hj]
  rw [if_neg (by simp [isMaster_own hj hm, hdev, hp, hd, hsent, ht]), updJob_of_job hu]
  rfl

theorem holdDeadlineS_holding (hh : j.holding = true) (hsent : j.sent = none) :
    let early := j.nominal + holdLimit j - j.lead / 2
    let k := paceAt early j
    holdDeadlineS s = sendDeparture (j.nominal + holdLimit k) j.pending (reachTime
      (if early < j.nominal then early else Nat.max j.nominal (j.nominal + holdLimit k - k.lead / 2)) s) := by
  simp only [holdDeadlineS, hj]
  rw [if_neg (by simp [hh, hsent, hdev])]

end Points

-- The messages (R59, R61, R68).

section Received

variable {s : State} {j : Job} {h : Hdr} (hj : s.job = some j)

include hj

theorem lateS_outstanding (a : addressed s (.late h) h) (he : j.epoch ≤ h.epoch) (hm : j.master = pkgNo s)
    (hsent : j.sent = none) (hstep : h.step = s.step) (hsrc : h.src ∈ j.members) :
    lateS h s =
      returnCredits (.late h) h { s with job := some { j with pending := setInsert h.src j.pending } } := by
  rw [lateS, takeTimetable_inForce a hj _ he, if_pos, updJob_of_job hj]
  simp [isMaster_own hj hm, isMember_of_mem hj hsrc, hsent, hstep]

/-- An arrival takes its sender off the outstanding, and frees a held departure (R61, R68). -/
theorem arrivalS_step (a : addressed s (.arrival h) h) (he : j.epoch ≤ h.epoch) (hstep : h.step = s.step)
    (ht : j.takeover = none) : arrivalS h s = returnCredits (.arrival h) h
      (trySend { s with job := some { j with pending := j.pending.filter (fun p => p != h.src) } }) := by
  rw [arrivalS, takeTimetable_inForce a hj _ he, if_pos (beq_iff_eq.mpr hstep), updJob_of_job hj]
  simp only [ht, Option.map_none]

-- A message of an older epoch (R76).

section Stale

variable (he : h.epoch < j.epoch)

include he

theorem lateS_stale (a : addressed s (.late h) h) :
    lateS h s = returnCredits (.late h) h (bump Cnt.ttStaleEpochDrop 0 1 s) := by
  rw [lateS, takeTimetable_stale a hj _ he]

theorem arrivalS_stale (a : addressed s (.arrival h) h) :
    arrivalS h s = returnCredits (.arrival h) h (bump Cnt.ttStaleEpochDrop 0 1 s) := by
  rw [arrivalS, takeTimetable_stale a hj _ he]

theorem departureS_stale {fire n : Nat} {q e : Bool} {l : List Nat} (a : addressed s (.departure h fire q e n l) h) :
    departureS h fire q e n l s =
      returnCredits (.departure h fire q e n l) h (bump Cnt.ttStaleEpochDrop 0 1 s) := by
  rw [departureS, takeDeparture, takeTimetable_stale a hj _ he]

end Stale

-- Departure messages (R59, R391).

/-- A complete departure message is held until its fire time; one that is past fires at once (R59). -/
theorem holdDeparture_of_job (m : DepMsg) :
    let u : State := { s with job := some { j with sent := some m, partDep := none } }
    holdDeparture m s = if m.fireTime < s.now then fireDeparture m (bump Cnt.ttDepPast 0 1 u) else u := by
  rw [holdDeparture, updJob_of_job hj]

variable (hdev : s.dev = .running) (he : h.epoch = j.epoch) (hsrc : h.src = j.master) (hstep : h.step = j.next)
  (hsent : j.sent = none)

include hdev he hsrc hstep hsent

theorem leftContS_first {l : List Nat} (a : addressed s (.leftCont h l) h) (hpart : j.partDep = none) :
    leftContS h l s = returnCredits (.leftCont h l) h { s with job := some { j with leftCont := j.leftCont ++ l } } := by
  rw [leftContS, takeDeparture_next a hj _ hdev he hsrc hstep hsent]
  simp only [hpart, updJob_of_job hj]

section Departure

variable {fire n : Nat} {q e : Bool} {l : List Nat} (a : addressed s (.departure h fire q e n l) h)

include a

theorem departureS_complete (hn : n = (j.leftCont ++ l).length) :
    departureS h fire q e n l s = returnCredits (.departure h fire q e n l) h (holdDeparture
      { step := j.next, fireTime := fire, epoch := j.epoch, quiesce := q, ends := e, left := j.leftCont ++ l } s) := by
  rw [departureS, takeDeparture_next a hj _ hdev he hsrc hstep hsent, if_neg (not_not_intro hn.symm), he]

theorem departureS_incomplete (hn : n ≠ (j.leftCont ++ l).length) :
    departureS h fire q e n l s = returnCredits (.departure h fire q e n l) h { s with job := some { j with
      partDep := some ({ step := j.next, fireTime := fire, epoch := j.epoch, quiesce := q, ends := e, left := l }, n) } } := by
  rw [departureS, takeDeparture_next a hj _ hdev he hsrc hstep hsent, if_pos hn.symm, he, updJob_of_job hj]

end Departure

end Received

end Sys2Proof.Machine

namespace Sys2Proof.Proofs

open Sys2Proof.Machine

/-- Settles O23: one equation for the state that each point and message leaves. That half of an odd TT_LEAD is rounded down
is the model's choice (assumption log 70). -/
theorem departurePrepared : Obligations.DeparturePrepared := by
  intro s j h hj hdev
  refine ⟨fun hp u k hu hk => ?_, fun hm hp hd hsent ht => ?_, fun hh hsent => ?_, fun a he hm hsent hstep hsrc => ?_,
    fun a he hstep ht => ?_, fun he hsrc hstep hsent => ⟨fun l a hpart => ?_, fun fire q e n l a => ?_⟩,
    fun he => ⟨fun a => ?_, fun a => ?_, fun fire q e n l a => ?_⟩⟩
  · have hexec : exec .cutoff s = .next _ := congrArg Host.Outcome.next (cutoffS_inStep hj hdev hp hu hk)
    exact ⟨fun hc => hexec.trans (congrArg _ (if_pos hc)),
      fun hc => hexec.trans (congrArg _ (if_neg (ne_true_of_eq_false hc)))⟩
  · have hexec : exec .decisionPoint s = .next _ := congrArg Host.Outcome.next (decisionS_undecided hj hdev hm hp hd hsent ht)
    refine ⟨fun ho => ?_, fun ho hh => ?_, fun ho hh => ?_⟩
    · exact hexec.trans (congrArg _ (if_pos ho))
    · exact hexec.trans (congrArg _ ((if_neg ho).trans (if_pos hh)))
    · exact hexec.trans (congrArg _ ((if_neg ho).trans (if_neg hh)))
  · exact congrArg Host.Outcome.next (holdDeadlineS_holding hj hdev hh hsent)
  · exact congrArg Host.Outcome.next (lateS_outstanding hj a he hm hsent hstep hsrc)
  · exact congrArg Host.Outcome.next (arrivalS_step hj a he hstep ht)
  · exact congrArg Host.Outcome.next (leftContS_first hj hdev he hsrc hstep hsent a hpart)
  · refine ⟨fun hn => ?_, fun hn => ?_⟩
    · refine congrArg Host.Outcome.next ((departureS_complete hj hdev he hsrc hstep hsent a hn).trans ?_)
      exact congrArg _ (holdDeparture_of_job hj _)
    · exact congrArg Host.Outcome.next (departureS_incomplete hj hdev he hsrc hstep hsent a hn)
  · exact congrArg Host.Outcome.next (lateS_stale hj he a)
  · exact congrArg Host.Outcome.next (arrivalS_stale hj he a)
  · exact congrArg Host.Outcome.next (departureS_stale hj he a)

end Sys2Proof.Proofs
end

section
/-! A departure that fires within a job: the step that ends is recorded and committed, and the next begins; the statement of
02_timetable.md on it. -/

namespace Sys2Proof.Machine

/-- The step that departure `m` ends is recorded and counted, with the hold of a master that held (R59, R529). -/
def countDeparture (m : DepMsg) (j : Job) (s : State) : State :=
  let a := bump Cnt.ttDep 0 1 (recordPhase m s)
  sample 0x0001 0 j.offset
    (if j.decided && j.master == pkgNo s && j.takeover.isNone && j.nominal < m.fireTime then
      bump Cnt.ttHoldNs 0 (m.fireTime - j.nominal) a
    else a)

/-- The step that departure `m` ends is committed, what a departure clears is cleared, and the packages left behind are
judged, `former` having been replaced as master (R64, R67, R70). -/
def commitDeparture (m : DepMsg) (former : Option Nat) (s : State) : State :=
  declareAll m.left former (joinSpares (clearStep (promoteAll false
    (commitEnded m.left (deadNow (countLeft m.left s) m.left former) s))))

/-- The job moves to the step that departure `m` begins (R47). -/
def moveJob (m : DepMsg) (s : State) : State :=
  let u := dropOld m.step { s with step := m.step }
  updJob (fun k => { jobAfter u m k with next := m.step }) u

/-- A departure that ends a step of a job and begins the next: this package goes on, and the job does too (R59). -/
theorem fireDeparture_nextStep {m : DepMsg} {s : State} {j : Job} (hj : s.job = some j) (hp : j.phase = .inStep)
    (hstart : j.started = true) (hleft : m.left.contains (pkgNo s) = false) (hends : m.ends = false)
    (hq : m.quiesce = false) (hlimit : j.stepLimit = 0 ∨ m.step ≠ j.stepLimit)
    (hown : isMember (commitDeparture m j.replaced (countDeparture m j s)) (pkgNo s) = true) :
    fireDeparture m s = beginStep m.step (moveJob m (commitDeparture m j.replaced (countDeparture m j s))) := by
  have hgoes : ¬ (m.ends = true ∨ True ∧ j.stepLimit ≠ 0 ∧ m.step = j.stepLimit) := by
    rw [hends]
    rintro (h | ⟨-, h0, h⟩)
    · cases h
    · exact hlimit.elim h0 (· h)
  have hphase : (j.phase == .inStep) = true := by rw [hp]; rfl
  unfold fireDeparture
  simp only [hj, hleft, hphase, hstart, Bool.true_and, Bool.false_eq_true, if_false, if_true]
  rw [if_neg, if_neg hgoes, if_neg (ne_true_of_eq_false hq)]
  · rfl
  · show ¬ (!isMember (commitDeparture m j.replaced (countDeparture m j s)) (pkgNo s)) = true
    rw [hown]
    exact Bool.false_ne_true

theorem departureFireS_sent {m : DepMsg} {s : State} {j : Job} (hj : s.job = some j) (hdev : s.dev = .running)
    (hsent : j.sent = some m) : departureFireS s = fireDeparture m (reachTime m.fireTime s) := by
  simp only [departureFireS, hj, hsent, hdev, if_true]

theorem endOfStepS_running {s : State} (hdev : s.dev = .running) : endOfStepS s = markEnd s := if_pos hdev

end Sys2Proof.Machine

namespace Sys2Proof.Proofs

open Sys2Proof.Machine

/-- Settles O24: the departure fires on the state whose time has come (`fireDeparture_nextStep`), whose job, package number
and device state are those of before. -/
theorem departureFires : Obligations.DepartureFires := by
  intro s j hj hdev
  refine ⟨fun m hsent hp hstart hleft hends hq hlimit hown => ?_, ?_, fun d hd => ?_⟩
  · have hown' : pkgNo (reachTime m.fireTime s) = pkgNo s := pkgNo_reachTime _ _
    have hfire := fireDeparture_nextStep ((reachTime_job m.fireTime s).trans hj) hp hstart (by rw [hown', hleft]) hends hq
      hlimit
    unfold countDeparture at hfire
    rw [hown'] at hfire
    exact congrArg Host.Outcome.next ((departureFireS_sent hj hdev hsent).trans (hfire hown))
  · exact congrArg (fun t => Host.Outcome.next (trySend t)) (endOfStepS_running hdev)
  · exact onUnit_present _ (decide_eq_true hd)

end Sys2Proof.Proofs
end

section
/-! Losing the tick master: a deputy's deadline, its announcement and the answers to it, and no master at all; the statement
of 02_timetable.md on them. -/

namespace Sys2Proof.Machine

section Running

variable {s : State} {j : Job} (hj : s.job = some j) (hdev : s.dev = .running)

include hj hdev

/-- A deputy that follows no takeover of lower rank takes over at its deadline (R74). -/
theorem deputyDeadlineS_due (hsent : j.sent = none) (hp : j.phase = .inStep) (hpart : j.partDep = none)
    (hown : pkgNo s ∈ j.deputies) (hm : j.master ≠ pkgNo s) (hl : lowerAnnounced j (pkgNo s) = false) :
    let k := paceAt j.nominal j
    deputyDeadlineS s =
      takeOver j (reachTime (j.nominal + holdLimit k + (rankOf j (pkgNo s) + 1) * k.lead) s) := by
  simp only [deputyDeadlineS, hj]
  rw [if_neg]
  simp [hown, hm, hsent, hpart, hl, hp, hdev]

theorem answerWindowS_open {t : Takeover} (ht : j.takeover = some t) (hsent : j.sent = none) :
    let u := reachTime (t.time + (paceAt t.time j).lead) s
    answerWindowS s = sendDeparture (u.now + (paceAt u.now j).lead / 2) (j.members.filter (fun p =>
      if p = pkgNo s then !j.arrived else !t.answered.contains p || t.notReached.contains p)) u := by
  simp only [answerWindowS, hj, ht]
  rw [if_neg]
  simp [hsent, hdev]

/-- A member without a master stops at the last departure it fired (R77). -/
theorem noMasterS_due (hsent : j.sent = none) (hp : j.phase = .inStep) (hpart : j.partDep = none)
    (hm : j.master ≠ pkgNo s) : noMasterS s = raise Ev.ttNoMaster 0 [] (setDevHw .quiesced (stopStep
      { reachTime (noMasterAt j) s with job := some { j with noMaster := true, phase := .paused } })) := by
  simp only [noMasterS, hj]
  rw [if_neg, updJob_of_job ((reachTime_job _ s).trans hj)]
  simp [hm, hsent, hpart, hp, hdev]

section Message

variable {h : Hdr} {m r : Nat} {eos : Bool}

/-- An announcement of a newer epoch at a member is adopted (R75). -/
theorem takeoverS_adopted (a : addressed s (.takeover h m r false eos) h) (he : j.epoch < h.epoch)
    (hm : j.master ≠ pkgNo s) :
    takeoverS h m r false eos s = returnCredits (.takeover h m r false eos) h (adoptTakeover h s) := by
  rw [takeoverS, receive_addressed _ a]
  simp [hj, hdev, announced, he, hm]

/-- An answer reaches the deputy (R75). -/
theorem takeoverS_answer (a : addressed s (.takeover h m r true eos) h) :
    takeoverS h m r true eos s = returnCredits (.takeover h m r true eos) h (answered h eos s) := by
  rw [takeoverS, receive_addressed _ a]
  simp [hj, hdev]

end Message

end Running

section Job

variable {s : State} {j : Job} (hj : s.job = some j)

include hj

/-- The first takeover that a member adopts for a departure replaces the master it had (R75). -/
theorem adoptTakeover_first (h : Hdr) (hr : j.replaced = none) :
    adoptTakeover h s = releaseEpoch (answerTakeover (countTakeover (takeParent { s with job := some { j with
      epoch := h.epoch, replaced := some j.master, master := h.src, takeover := none, adopted := some s.now,
      sent := none, leftCont := [], partDep := none, holding := false } }))) := by
  rw [adoptTakeover, updJob_of_job hj]
  simp only [hr, Option.isSome_none, Bool.false_eq_true, if_false]

theorem answered_inForce {h : Hdr} {t : Takeover} (eos : Bool) (he : h.epoch = j.epoch) (ht : j.takeover = some t) :
    answered h eos s = { s with job := some { j with
      takeover := some { t with
        answered := setInsert h.src t.answered
        notReached := if eos then t.notReached else setInsert h.src t.notReached } } } := by
  simp only [answered, updJob_of_job hj, he, ht, if_true, Option.map_some]

end Job

end Sys2Proof.Machine

namespace Sys2Proof.Proofs

open Sys2Proof.Machine

/-- Settles O25: one equation for the state that each deadline and message leaves. That the deputy sends the departure when
its answer window ends is assumption log 33, half of an odd TT_LEAD log 70, and what a member without a master drops log 69. -/
theorem masterReplaced : Obligations.MasterReplaced := by
  intro s j h hj hdev hsent hp hpart
  refine ⟨fun hown hm hl => ?_, fun m r eos a he hm hr => ?_, fun m r eos t a he ht => ?_, fun t ht => ?_, fun hm => ?_⟩
  · exact congrArg Host.Outcome.next (deputyDeadlineS_due hj hdev hsent hp hpart hown hm hl)
  · refine congrArg Host.Outcome.next ((takeoverS_adopted hj hdev a he hm).trans ?_)
    exact congrArg _ (adoptTakeover_first hj h hr)
  · refine congrArg Host.Outcome.next ((takeoverS_answer hj hdev a).trans ?_)
    exact congrArg _ (answered_inForce hj eos he ht)
  · exact congrArg Host.Outcome.next (answerWindowS_open hj hdev ht hsent)
  · exact congrArg Host.Outcome.next (noMasterS_due hj hdev hsent hp hpart hm)

end Sys2Proof.Proofs
end

section
/-! Time transfer between packages, and the package's time references; the statement of 02_timetable.md on them. -/

namespace Sys2Proof.Machine

theorem timeXferTimerS_up {q : Nat} {s : State} (hup : (port s q).st = .up) : ∃ t2 t3, timeXferTimerS q s =
    queueAt q (.timeXfer { mkHdr s (port s q).nbrPkg 0 with hops := 1 } s.now t2 t3 0) { s with free := s.free + 2 } :=
  ⟨_, _, if_neg (not_not_intro hup)⟩

/-- An exchange with the parent in the tree, at a package that is not master, disciplines TCLK (R56). -/
theorem timeXferS_parent {h : Hdr} {t1 t2 t3 : Nat} {x : Int} {s : State} {j : Job} (hj : s.job = some j)
    (a : addressed s (.timeXfer h t1 t2 t3 x) h) (hm : j.master ≠ pkgNo s) (hp : j.parent = some h.src) :
    timeXferS h t1 t2 t3 x s = returnCredits (.timeXfer h t1 t2 t3 x) h (setOffset x s) := by
  rw [timeXferS, receive_addressed _ a]
  simp only [hj, if_pos (And.intro hm hp)]

section Offset

variable {s : State} {j : Job} {x : Int} (hj : s.job = some j)

include hj

theorem setOffset_near (hx : x.natAbs < 100) :
    setOffset x s = { s with job := some { j with offset := x, syncOk := true } } := by
  have hfar : ¬ 1000 < x.natAbs := by omega
  simp [setOffset, hj, updJob_of_job, hfar, hx]

theorem setOffset_between (hlo : 100 ≤ x.natAbs) (hhi : x.natAbs ≤ 1000) :
    setOffset x s = { s with job := some { j with offset := x } } := by
  simp [setOffset, hj, updJob_of_job, Nat.not_lt.mpr hhi, Nat.not_lt.mpr hlo]

theorem setOffset_farLost (hx : 1000 < x.natAbs) (hs : j.syncOk = false) :
    setOffset x s = { s with job := some { j with offset := x, syncLost := true } } := by
  simp [setOffset, hj, updJob_of_job, hx, hs]

/-- Synchrony that is lost is counted and recorded (R57). -/
theorem setOffset_farKept (hx : 1000 < x.natAbs) (hs : j.syncOk = true) :
    setOffset x s = raise Ev.ttSyncLost 0 [] (bump Cnt.ttSyncLost 0 1
      { s with job := some { j with offset := x, syncOk := false, syncLost := true } }) := by
  simp [setOffset, hj, updJob_of_job, hx, hs]

end Offset

theorem timerefLossS_held {s : State} (ht : s.pkg.timeref = true) : timerefLossS s =
    if isMaster s && diesRun s then
      raise Ev.pkgTimerefLoss 0 [] { s with pkg := { s.pkg with timeref := false, ppsSinceReturn := 0 } }
    else { s with pkg := { s.pkg with timeref := false, ppsSinceReturn := 0 } } :=
  if_pos ht

end Sys2Proof.Machine

namespace Sys2Proof.Proofs

open Sys2Proof.Machine

/-- Settles O26: a TIME_XFER from the parent is `setOffset`, told apart by how far the offset is. The two timestamps of the
neighbour are free values (assumption log 2). -/
theorem timeDisciplined : Obligations.TimeDisciplined := by
  intro s
  refine ⟨fun q hq hup => ?_, fun h t1 t2 t3 x j hj a hm hp => ?_, fun ht => ?_, fun ht => ?_, fun ht => ?_⟩
  · obtain ⟨t2, t3, hx⟩ := timeXferTimerS_up hup
    exact ⟨t2, t3, by rw [← hx]; exact onUnit_present _ (decide_eq_true hq)⟩
  · have hexec : exec (.timeXfer h t1 t2 t3 x) s = .next (returnCredits (.timeXfer h t1 t2 t3 x) h (setOffset x s)) :=
      congrArg Host.Outcome.next (timeXferS_parent hj a hm hp)
    refine ⟨fun hx => ?_, fun hlo hhi => ?_, fun hx hs => ?_, fun hx hs => ?_⟩
    · rw [hexec, setOffset_near hj hx]
    · rw [hexec, setOffset_between hj hlo hhi]
    · rw [hexec, setOffset_farLost hj hx hs]
    · rw [hexec, setOffset_farKept hj hx hs]
  · exact congrArg Host.Outcome.next (timerefLossS_held ht)
  · exact congrArg Host.Outcome.next (if_neg (ne_true_of_eq_false ht))
  · exact congrArg Host.Outcome.next (if_pos ht)

end Sys2Proof.Proofs
end

section
/-! Pooled reads, stores, accumulates and row updates at their home; the statement of 02_timetable.md on them. -/

namespace Sys2Proof.Machine

/-- What a current request of the pool does, it does on the state that has its digest, from the die of its port; it waits
where an access meets a retrain (R28, R371, R397). -/
theorem takesEffectOrWaits_of_perform {i : Instr} {h : Hdr} {s t : State} (hexec : exec i s = .next (takePacket i s))
    (hc : current s i h) (hp : poolAccess i = true) (ht : perform i (arrived i h s) = t) : takesEffectOrWaits i h s t := by
  subst ht
  have hi : hdrOf i = some h := hc.1.1
  have htake : takePacket i s = returnCredits i h
      (orHold (arrivalDie (digest false h.src i s) h) i (perform i) (digest false h.src i s)) := by
    rw [takePacket_current hc]
    simp only [handle, hi, hp, if_true]
  refine ⟨fun hm => ?_, fun hm => ?_⟩
  · rw [hexec, htake]
    exact congrArg (fun t => Host.Outcome.next (returnCredits i h t)) (if_neg (ne_true_of_eq_false hm))
  · rw [hexec, htake]
    exact congrArg (fun t => Host.Outcome.next (returnCredits i h t)) (if_pos hm)

-- Reads (R66, R173, R216, R217).

section Read

variable {b : State} {a n id : Nat} {r : Region}

theorem poolReadAt_refused (src : Nat)
    (hr : ∀ e, regionOfRange b a n = some e → (!e.2.pooled || !e.2.progR) = true) : poolReadAt src a n b = (.bad, b) := by
  unfold poolReadAt
  split
  · rfl
  · next e he => exact if_pos (hr _ he)

variable (hr : regionOfRange b a n = some (id, r)) (hp : r.pooled = true) (hread : r.progR = true)

include hr hp hread

theorem poolReadAt_flat (src : Nat) (ht : r.table = none) :
    poolReadAt src a n b = poolData a n (countRead (flatKey a) b) := by
  simp [poolReadAt, hr, hp, hread, ht]

theorem poolReadAt_rows (src : Nat) {t : Nat} {tb : Table} (ht : r.table = some t) (htb : table b t = some tb)
    (hhere : ∀ row ∈ rowsIn b tb r.base a n, rowRoute b tb row = .here) :
    poolReadAt src a n b = poolData a n (countReads t (rowsIn b tb r.base a n)
      ((rowsIn b tb r.base a n).foldl (fun s row => trackAccess t row src s) (awaitRows t (rowsIn b tb r.base a n) b))) := by
  have hnone : ((rowsIn b tb r.base a n).map (rowRoute b tb)).find? (fun x => x != .here) = none := by
    rw [List.find?_eq_none]
    intro x hx
    obtain ⟨row, hrow, rfl⟩ := List.mem_map.mp hx
    simp [hhere row hrow]
  simp [poolReadAt, hr, hp, hread, ht, htb, hnone]

end Read

theorem servePoolRead_bad {h : Hdr} {a n : Nat} {b : State} (hb : poolReadAt h.src a (n * 32) b = (.bad, b)) :
    servePoolRead h a n b = errTo h 2 b := by
  rw [servePoolRead, hb]

/-- A read that its home serves is answered with the bytes and marks that are read, and whether it is hot. -/
theorem servePoolRead_data {h : Hdr} {a n : Nat} {b : State} {c : State × Bool}
    (hb : poolReadAt h.src a (n * 32) b = poolData a (n * 32) c) :
    let x := homeRead false a (n * 32) c.1
    servePoolRead h a n b = sendPlain (.poolData (replyHdr x.2.2 h) c.2 (bitmap x.2.1) x.1) x.2.2 := by
  rw [servePoolRead, hb]
  rfl

-- Stores and accumulates (R62, R65, R208).

/-- Every home die of `n` bytes from `a` has room for the sectors that it takes (R65). -/
def writeFits (b : State) (a n : Nat) : Bool :=
  (setUnion [] ((unitsOf 32 a n).map (fun x => homeDie b (x * 32)))).all (fun k =>
    stageFits b k (countIf (fun x => homeDie b (x * 32) == k) (unitsOf 32 a n)))

section Write

variable {i : Instr} {h : Hdr} {b : State} {a id : Nat} {acc : Bool} {d : List Byte} {marks : List Bool} {r : Region}

theorem stageWrite_refused (hr : ∀ e, regionOfRange b a d.length = some e → (!e.2.pooled || !e.2.progW) = true) :
    stageWrite i h a acc d marks b = errTo h 2 b := by
  unfold stageWrite
  split
  · rfl
  · next e he => exact if_pos (hr _ he)

variable (hr : regionOfRange b a d.length = some (id, r)) (hp : r.pooled = true) (hw : r.progW = true)

include hr hp hw

theorem stageWrite_table {t : Nat} (ht : r.table = some t) : stageWrite i h a acc d marks b =
    ackTo h 1 (raise Ev.embBadRow (srcOf 11 t) [] (bump Cnt.embBadWr 0 1 b)) := by
  simp [stageWrite, hr, hp, hw, ht]

/-- A write to a region without a table is staged sector by sector, or waits for room (R62, R65). -/
theorem stageWrite_region (ht : r.table = none) :
    let v := touchHomes a d.length b
    stageWrite i h a acc d marks b = if writeFits v a d.length then
        ackTo h 0 { v with pool := { v.pool with staged := v.pool.staged ++ stagedOf h.step h.src a acc d marks } }
      else holdWrite i v := by
  simp only [stageWrite, hr, hp, hw, ht]
  rfl

end Write

-- Row updates (R208, R212, R395).

section RowUpdate

variable {i : Instr} {h : Hdr} {b : State} {origin row t part parts : Nat} {relayed : Bool} {elems : List W32}
  {d : List Byte} {tb : Table}

theorem applyRowUpdate_noTable (ht : table b t = none) : applyRowUpdate i h origin row t relayed elems b = errTo h 3 b := by
  simp only [applyRowUpdate, ht]

theorem applyRowUpdate_bad (ht : table b t = some tb) (hbad : tb.rows ≤ row ∨ elems.length ≠ tb.width) :
    applyRowUpdate i h origin row t relayed elems b = dropRowUpdate t h b := by
  have hb : badRow tb row elems = true := by simpa [badRow] using hbad
  simp only [applyRowUpdate, ht, hb, if_true]

/-- A row homed here is staged where it fits, whether or not it has a shadow too. -/
theorem applyRowUpdate_here (ht : table b t = some tb) (hrow : row < tb.rows) (hlen : elems.length = tb.width)
    (hhere : rowRoute b tb row = .here) : applyRowUpdate i h origin row t relayed elems b =
      whenFits i tb row elems (stageContrib t row h origin elems tb) b := by
  have hb : badRow tb row elems = false := by simp [badRow, hrow, hlen]
  simp only [applyRowUpdate, ht, hb, hhere, Bool.false_eq_true, if_false, ite_self]

/-- A contribution to a row without a migration of this step is staged, counted and acknowledged (R212). -/
theorem stageContrib_settled (hm : tb.migs.find? (fun m => m.row == row && m.start == h.step) = none) :
    stageContrib t row h origin elems tb b = ackTo h 0 (pushContrib
      { step := h.step, origin := origin, table := t, row := row, seq := 0, elems := elems, owed := none }
      (trackAccess t row origin b)) := by
  simp only [stageContrib, hm]

theorem recvRowUpdate_whole (hp : parts ≤ 1) : recvRowUpdate h row t part parts d b =
    applyRowUpdate (.rowUpdate h row t part parts d) h h.src row t false (words32 d) b :=
  if_pos hp

/-- The parts of the update of `src` under `tag` that are here once part `k` has come (R395). -/
def partsWith (src tag k : Nat) (elems : List W32) (b : State) : PartSet :=
  let old := (b.pool.parts.find? (fun p => p.src == src && p.tag == tag)).getD { src := src, tag := tag, parts := [] }
  { old with parts := mapSet old.parts k elems }

/-- A part that does not complete its update is kept with the others (R395). -/
theorem recvRowUpdate_part (hp : 1 < parts) (hj : joinParts (partsWith h.src h.tag part (words32 d) b) parts = none) :
    recvRowUpdate h row t part parts d b = { b with pool := { b.pool with
      parts := b.pool.parts.filter (fun p => !(p.src == h.src && p.tag == h.tag))
        ++ [partsWith h.src h.tag part (words32 d) b] } } := by
  unfold recvRowUpdate
  rw [if_neg (Nat.not_le.mpr hp)]
  dsimp only
  split
  · rfl
  · next elems he => cases hj.symm.trans he

end RowUpdate

end Sys2Proof.Machine

namespace Sys2Proof.Proofs

open Sys2Proof.Machine

/-- Settles O40: each request is current, so it does what its home does on the state that has its digest
(`takesEffectOrWaits_of_perform`); one equation for each thing that the home can find. That the reads of flat rows are
counted under the address read is assumption log 60, the staging area's use in sectors of a row's home die log 29. -/
theorem poolRequestsServed : Obligations.PoolRequestsServed := by
  intro s h
  refine ⟨fun a n hc => ⟨fun hno => ?_, fun id r hr hp hread => ⟨fun ht => ?_, fun t tb ht htb hhere => ?_⟩⟩,
    fun a d acc hc => ?_, fun row t part parts d hc => ⟨fun hp ht => ?_, fun tb hp ht => ⟨fun hbad => ?_,
      fun hrow hlen hhere => ?_⟩, fun hp hj => ?_⟩⟩
  -- reads
  · exact takesEffectOrWaits_of_perform rfl hc rfl (servePoolRead_bad (poolReadAt_refused h.src hno))
  · exact takesEffectOrWaits_of_perform rfl hc rfl (servePoolRead_data (poolReadAt_flat hr hp hread h.src ht))
  · exact takesEffectOrWaits_of_perform rfl hc rfl
      (servePoolRead_data (poolReadAt_rows hr hp hread h.src ht htb hhere))
  -- stores and accumulates
  · have hrow : ∀ t, stageWrite (if acc then .poolAccum h a d else .poolStore h a d) h a acc d []
        (arrived (if acc then .poolAccum h a d else .poolStore h a d) h s) = t →
        takesEffectOrWaits (if acc then .poolAccum h a d else .poolStore h a d) h s t := by
      intro t ht
      cases acc with
      | true => exact takesEffectOrWaits_of_perform rfl hc rfl ht
      | false => exact takesEffectOrWaits_of_perform rfl hc rfl ht
    refine ⟨fun hno => ?_, fun id r hr hp hw => ⟨fun t ht => ?_, fun ht => ⟨fun hf => ?_, fun hf => ?_⟩⟩⟩
    · exact hrow _ (stageWrite_refused hno)
    · exact hrow _ (stageWrite_table hr hp hw ht)
    · exact hrow _ ((stageWrite_region hr hp hw ht).trans (if_pos hf))
    · exact hrow _ ((stageWrite_region hr hp hw ht).trans (if_neg (ne_true_of_eq_false hf)))
  -- row updates
  · exact takesEffectOrWaits_of_perform rfl hc rfl ((recvRowUpdate_whole hp).trans (applyRowUpdate_noTable ht))
  · exact takesEffectOrWaits_of_perform rfl hc rfl ((recvRowUpdate_whole hp).trans (applyRowUpdate_bad ht hbad))
  · have hwhole := (recvRowUpdate_whole (h := h) (part := part) hp).trans (applyRowUpdate_here ht hrow hlen hhere)
    refine ⟨fun hf hm => ?_, fun hf => ?_⟩
    · exact takesEffectOrWaits_of_perform rfl hc rfl (hwhole.trans ((if_pos hf).trans (stageContrib_settled hm)))
    · exact takesEffectOrWaits_of_perform rfl hc rfl (hwhole.trans (if_neg (ne_true_of_eq_false hf)))
  · exact takesEffectOrWaits_of_perform rfl hc rfl (recvRowUpdate_part hp hj)

end Sys2Proof.Proofs
end

section
/-! Completion notices (R99, R111, R112): what a notice does at the dispatcher it reaches, or when an entry becomes free;
the statement of 03_graphs_dispatch.md on them. -/

namespace Sys2Proof.Machine

theorem onUnit_next {p : Bool} {t u : State} (hp : p = true) (ht : t = u) : onUnit p t = .next u :=
  (onUnit_present t hp).trans (congrArg Host.Outcome.next ht)

section Notice

variable {n : Notice} {s : State}

theorem applyNotice_waits (hc : 1 < mapGetD (disp s n.dst).counts n.idx 0) : applyNotice n s =
    setDisp n.dst { disp s n.dst with
      counts := mapSet (disp s n.dst).counts n.idx (mapGetD (disp s n.dst).counts n.idx 0 - 1) } s :=
  if_neg (Nat.not_le.mpr hc)

theorem applyNotice_readies (hc : mapGetD (disp s n.dst).counts n.idx 0 ≤ 1) : applyNotice n s =
    makeReady n.dst n.idx (setDisp n.dst { disp s n.dst with
      counts := mapSet (disp s n.dst).counts n.idx (mapGetD (disp s n.dst).counts n.idx 0 - 1) } s) :=
  if_pos hc

variable (hroom : (disp s n.dst).held.length < 1024)

include hroom

/-- A notice that readies nothing, or finds a free entry with nothing held before it, takes effect (R112). -/
theorem recvNotice_applied (h : 1 < mapGetD (disp s n.dst).counts n.idx 0
    ∨ readyFree (disp s n.dst) = true ∧ (disp s n.dst).held = []) : recvNotice n s = applyNotice n s := by
  rw [recvNotice, if_neg (Nat.not_le.mpr hroom), if_neg]
  rintro ⟨hc, hfull⟩
  rcases h with h | ⟨hfree, hheld⟩
  · omega
  · simp [hfree, hheld] at hfull

/-- A notice whose task becomes ready is held where no entry is free or others are held (R112). -/
theorem recvNotice_held (hc : mapGetD (disp s n.dst).counts n.idx 0 ≤ 1)
    (h : readyFree (disp s n.dst) = false ∨ (disp s n.dst).held ≠ []) : recvNotice n s = holdNotice n s := by
  rw [recvNotice, if_neg (Nat.not_le.mpr hroom), if_pos]
  exact ⟨hc, h.imp (fun hf => by rw [hf]; rfl) id⟩

end Notice

theorem completionNoticeS_arrives {src lc : Nat} {s : State} {n : Notice} {rest : List Notice}
    (hn : takeFirst (fun n : Notice => n.src == src && n.dst == lc) s.dsp.flight = some (n, rest)) :
    completionNoticeS src lc s = recvNotice n { s with dsp := { s.dsp with flight := rest } } := by
  rw [completionNoticeS, hn]

theorem noticeHeldS_free {lc : Nat} {s : State} {n : Notice} {rest : List Notice} (hheld : (disp s lc).held = n :: rest)
    (hfree : readyFree (disp s lc) = true) :
    noticeHeldS lc s = applyNotice n (setDisp lc { disp s lc with held := rest } s) := by
  simp only [noticeHeldS, hheld, hfree, if_true]

end Sys2Proof.Machine

namespace Sys2Proof.Proofs

open Sys2Proof.Machine

/-- Settles O27: the notice leaves the network (`completionNoticeS_arrives`), and the dispatcher applies or holds it as
its task's count, the free entries and the held notices tell. -/
theorem noticesReadyTasks : Obligations.NoticesReadyTasks := by
  intro src lc s n rest hsrc hlc
  have hunit : (decide (src < nLc s) && decide (lc < nLc s)) = true := by simp [hsrc, hlc]
  refine ⟨fun hn => ?_, fun hheld hfree => onUnit_next (decide_eq_true hlc) (noticeHeldS_free hheld hfree)⟩
  have harrive := completionNoticeS_arrives hn
  intro d u low hroom
  refine ⟨fun hc => ?_, fun hc hfree hheld => ?_, fun hc hfull => ?_⟩
  · exact onUnit_next hunit
      (harrive.trans ((recvNotice_applied (s := u) hroom (.inl hc)).trans (applyNotice_waits hc)))
  · exact onUnit_next hunit
      (harrive.trans ((recvNotice_applied (s := u) hroom (.inr ⟨hfree, hheld⟩)).trans (applyNotice_readies hc)))
  · exact onUnit_next hunit (harrive.trans (recvNotice_held (s := u) hroom hc hfull))

end Sys2Proof.Proofs
end

section
/-! What a dispatcher starts (R99, R102, R103, R109): the head of the highest nonempty ready list, by the kind of its task;
the statement of 03_graphs_dispatch.md on it. -/

namespace Sys2Proof.Machine

section Serve

variable {lc p : Nat} {s : State} {t : Task} {rest : List Task}

/-- Empty ready lists are passed over. -/
theorem serveFrom_empty (ps : List Nat) {l : List Nat} (he : ∀ q ∈ l, readyAt (disp s lc) q = []) :
    serveFrom lc s (l ++ ps) = serveFrom lc s ps := by
  induction l with
  | nil => rfl
  | cons q l ih =>
    rw [List.forall_mem_cons] at he
    rw [List.cons_append, serveFrom, he.1]
    exact ih he.2

variable (hhead : readyAt (disp s lc) p = t :: rest)

include hhead

theorem serveFrom_started (ps : List Nat) {v : State} (hv : serveHead lc p t rest s = .started v) :
    serveFrom lc s (p :: ps) = v := by
  simp only [serveFrom, hhead, hv]

/-- DISPATCH_TASK starts the head of the highest nonempty ready list where it can start. -/
theorem exec_dispatchTask_started {v : State} (hlc : lc < nLc s) (hcopy : underCopy s lc = false) (hp : p < 8)
    (he : ∀ q, q < p → readyAt (disp s lc) q = []) (hv : serveHead lc p t rest s = .started v) :
    exec (.dispatchTask lc) s = .next v := by
  have hrange : List.range 8 = List.range p ++ p :: (List.range (7 - p)).map (fun q => p + (q + 1)) := by
    rw [show 8 = p + (7 - p + 1) by omega, List.range_add, List.range_succ_eq_map, List.map_cons, List.map_map]
    rfl
  refine onUnit_next (decide_eq_true hlc) ?_
  rw [if_neg (ne_true_of_eq_false hcopy), hrange, serveFrom_empty _ (fun q hq => he q (List.mem_range.mp hq)),
    serveFrom_started hhead _ hv]

end Serve

-- The head of a ready list by its KIND (R91, R103).

section Head

variable {lc : Nat} {s : State} {t : Task} (p : Nat) (rest : List Task)

theorem serveHead_core {x : Nat} (hk : tdKind t.bytes = 0) (hx : freeCtx s lc = some x) : serveHead lc p t rest s =
    .started (beginCore lc x t (setDisp lc { disp s lc with ready := mapSet (disp s lc).ready p rest } s)) := by
  simp only [serveHead, hk, hx]

theorem serveHead_shunt (hk : tdKind t.bytes = 1)
    (hroom : (deque s (shunterLc s lc) (pickShunter s lc t)).length < 256) : serveHead lc p t rest s =
      let u := setDisp lc { disp s lc with ready := mapSet (disp s lc).ready p rest } s
      .started (setDeque (shunterLc s lc) (pickShunter s lc t) (deque s (shunterLc s lc) (pickShunter s lc t) ++ [t])
        (if t.spawned then u else setTaskState lc t.idx .running u)) := by
  simp only [serveHead, hk, if_neg (Nat.not_le.mpr hroom)]

theorem serveHead_coll (hk : tdKind t.bytes = 2) : serveHead lc p t rest s =
    let u := setDisp lc { disp s lc with ready := mapSet (disp s lc).ready p rest } s
    .started (startColl t (if t.spawned then u else setTaskState lc t.idx .running u)) := by
  simp only [serveHead, hk]

theorem serveHead_join (hk : tdKind t.bytes = 3) : serveHead lc p t rest s =
    .started (completeTask t (setDisp lc { disp s lc with ready := mapSet (disp s lc).ready p rest } s)) := by
  simp only [serveHead, hk]

end Head

end Sys2Proof.Machine

namespace Sys2Proof.Proofs

open Sys2Proof.Machine

/-- Settles O28: the head of the highest nonempty list is served (`exec_dispatchTask_started`), and what becomes of it is
one equation per KIND. A KIND 3 task is R91's JOIN. -/
theorem dispatchStartsHead : Obligations.DispatchStartsHead := by
  intro lc p s t rest hlc hcopy hp he hhead
  have hexec : ∀ {v}, serveHead lc p t rest s = .started v → exec (.dispatchTask lc) s = .next v :=
    exec_dispatchTask_started hhead hlc hcopy hp he
  intro u run i h k
  refine ⟨fun hk x hx => ?_, fun hk hroom => ?_, fun hk => ?_, fun hk => ?_⟩
  · have hcore := hexec (serveHead_core p rest hk hx)
    refine ⟨fun hw => ?_, fun _ => hcore⟩
    rw [hcore, beginCore, hw]
    rfl
  · exact hexec (serveHead_shunt p rest hk hroom)
  · exact hexec (serveHead_coll p rest hk)
  · exact hexec (serveHead_join p rest hk)

end Sys2Proof.Proofs
end

section
/-! The end of a CORE task, spawns, suspension and saving (R91, R106 to R113, R594); the statement of
03_graphs_dispatch.md on them. -/

namespace Sys2Proof.Machine

theorem mapSet_mapSet_same {α : Type} (m : AMap α) (k : Nat) (v w : α) : mapSet (mapSet m k v) k w = mapSet m k w := by
  induction m with
  | nil => simp [mapSet]
  | cons e m ih =>
    obtain ⟨k', v'⟩ := e
    rcases Nat.lt_trichotomy k k' with h | h | h
    · simp [mapSet, h]
    · simp [mapSet, h]
    · simp [mapSet, Nat.lt_asymm h, Nat.ne_of_gt h, ih]

theorem setCtx_setCtx_same (lc x : Nat) (c d : Ctx) (s : State) : setCtx lc x d (setCtx lc x c s) = setCtx lc x d s := by
  simp only [setCtx, mapSet_mapSet_same]

-- The completion of a task leaves every context alone.

theorem noteReadied_ctxs (cls n : Nat) (s : State) : (noteReadied cls n s).dsp.ctxs = s.dsp.ctxs := by
  unfold noteReadied
  repeat' split
  all_goals rfl

theorem makeReady_ctxs (lc idx : Nat) (s : State) : (makeReady lc idx s).dsp.ctxs = s.dsp.ctxs := by
  unfold makeReady
  split <;> rfl

theorem holdNotice_ctxs (n : Notice) (s : State) : (holdNotice n s).dsp.ctxs = s.dsp.ctxs := by
  unfold holdNotice
  dsimp only
  split <;> rfl

theorem armCore_ctxs (g : Graph) (classes : List Nat) (s : State) (lc : Nat) :
    (armCore g classes s lc).dsp.ctxs = s.dsp.ctxs := by
  unfold armCore
  dsimp only
  rw [foldl_view (fun s => s.dsp.ctxs), foldl_view (fun s => s.dsp.ctxs) (fun s t => noteReadied_ctxs _ 1 s)]
  · rfl
  · intro s t
    split
    · exact makeReady_ctxs lc t s
    · exact holdNotice_ctxs _ s

theorem armAll_ctxs (classes : List Nat) (s : State) : (armAll classes s).dsp.ctxs = s.dsp.ctxs := by
  unfold armAll
  split
  · exact foldl_view (fun s => s.dsp.ctxs) (armCore_ctxs _ classes) _ s
  · rfl

theorem afterOnce_ctxs (s : State) : (afterOnce s).dsp.ctxs = s.dsp.ctxs := by
  unfold afterOnce
  dsimp only
  repeat' split
  · rfl
  · exact armAll_ctxs _ _
  · rfl
  · rfl

theorem noteDone_dsp (cls : Nat) (s : State) : (noteDone cls s).dsp = s.dsp := by
  unfold noteDone
  split <;> rfl

theorem sendNotice_ctxs (src : Nat) (e : Nat × Nat) (s : State) : (sendNotice src e s).dsp.ctxs = s.dsp.ctxs := rfl

theorem setTaskState_ctxs (lc idx : Nat) (st : TaskState) (s : State) :
    (setTaskState lc idx st s).dsp.ctxs = s.dsp.ctxs := rfl

theorem completeTask_ctxs (t : Task) (s : State) : (completeTask t s).dsp.ctxs = s.dsp.ctxs := by
  have hdone : ∀ d, (noteDone t.cls (bump Cnt.dspTaskDone t.lc 1 (setDisp t.lc d s))).dsp.ctxs = s.dsp.ctxs := by
    intro d
    rw [noteDone_dsp]
    rfl
  unfold completeTask
  dsimp only
  rw [afterOnce_ctxs]
  repeat' split
  · rw [sendNotice_ctxs, hdone]
  · rw [hdone]
  · rw [foldl_view (fun s => s.dsp.ctxs) (fun s _ => sendNotice_ctxs _ _ s), setTaskState_ctxs, hdone]
  · rw [hdone]

theorem ctx_completeTask (t : Task) (s : State) (lc x : Nat) : ctx (completeTask t s) lc x = ctx s lc x := by
  rw [ctx, completeTask_ctxs]
  rfl

-- The end of a task (R91, R594).

theorem mayComplete_of_not_ending {s : State} {lc x : Nat} (h : (ctx s lc x).wait ≠ .ending) :
    mayComplete s lc x = false := by
  simp [mayComplete, h]

theorem foldl_endTask_of_not_ending {lc : Nat} {s : State} {l : List Nat} (h : ∀ y ∈ l, (ctx s lc y).wait ≠ .ending) :
    l.foldl (fun s x => if mayComplete s lc x then endTask lc x s else s) s = s := by
  induction l with
  | nil => rfl
  | cons y l ih =>
    rw [List.forall_mem_cons] at h
    rw [List.foldl_cons, mayComplete_of_not_ending h.1]
    exact ih h.2

section Context

variable {lc x : Nat} {s : State} {t : Task}

theorem endTask_of_task (ht : (ctx s lc x).task = some t) : endTask lc x s = completeTask t (setCtx lc x freshCtx s) := by
  simp only [endTask, ht]

theorem mayIssue_of_task (ht : (ctx s lc x).task = some t) (hw : (ctx s lc x).wait = .none)
    (hsusp : (ctx s lc x).suspending = false) : mayIssue (ctx s lc x) = true := by
  simp [mayIssue, ht, hw, hsusp]

variable (hx : x < 4) (ht : (ctx s lc x).task = some t)

include hx ht

/-- Where one context alone is at END and its task may complete, that task ends. -/
theorem finishEnding_alone (hmay : mayComplete s lc x = true) (hother : ∀ y, y < 4 → y ≠ x → (ctx s lc y).wait ≠ .ending) :
    finishEnding lc s = completeTask t (setCtx lc x freshCtx s) := by
  obtain ⟨before, after, hl⟩ := List.append_of_mem (List.mem_range.mpr hx)
  have hnodup : (before ++ x :: after).Nodup := hl ▸ List.nodup_range
  have hne : ∀ y, y ∈ before ∨ y ∈ after → y < 4 ∧ y ≠ x := by
    intro y hy
    refine ⟨List.mem_range.mp (hl ▸ by simp; tauto), ?_⟩
    rintro rfl
    rw [List.nodup_append, List.nodup_cons] at hnodup
    obtain ⟨-, ⟨hafter, -⟩, hbefore⟩ := hnodup
    exact hy.elim (fun h => hbefore y h y (by simp) rfl) hafter
  rw [finishEnding, hl, List.foldl_append, List.foldl_cons,
    foldl_endTask_of_not_ending fun y hy => hother y (hne y (.inl hy)).1 (hne y (.inl hy)).2, if_pos hmay,
    endTask_of_task ht]
  refine foldl_endTask_of_not_ending fun y hy => ?_
  obtain ⟨hy4, hyx⟩ := hne y (.inr hy)
  rw [ctx_completeTask, ctx_setCtx_other _ _ hx hy4 (by simp [hyx])]
  exact hother y hy4 hyx

/-- A task at whose END nothing is unretired and no access waits completes at once. -/
theorem atEnd_alone (hret : unretired s lc x = false) (hacc : ctxWaits s lc x = false)
    (hother : ∀ y, y < 4 → y ≠ x → (ctx s lc y).wait ≠ .ending) :
    atEnd lc x s = completeTask t (setCtx lc x freshCtx s) := by
  rw [atEnd, finishEnding_alone (t := t) hx, setCtx_setCtx_same]
  · rw [ctx_setCtx_same]
    exact ht
  · rw [mayComplete, ctx_setCtx_same, show unretired (setCtx lc x _ s) lc x = false from hret,
      show ctxWaits (setCtx lc x _ s) lc x = false from hacc]
    simp
  · intro y hy hyx
    rw [ctx_setCtx_other _ _ hx hy (by simp [hyx])]
    exact hother y hy hyx

end Context

-- What raising an event leaves to a context.

section Raise

variable (code src : Nat) (payload : List Byte) (s : State) (lc x : Nat)

theorem ctx_raise : ctx (raise code src payload s) lc x = ctx s lc x := by
  rw [raise_frame]
  rfl

theorem unretired_raise : unretired (raise code src payload s) lc x = unretired s lc x := by
  rw [raise_frame]
  rfl

theorem ctxWaits_raise : ctxWaits (raise code src payload s) lc x = ctxWaits s lc x := by
  rw [raise_frame]
  rfl

end Raise

section End

variable {lc x : Nat} {s : State} {t : Task} (hx : x < 4) (ht : (ctx s lc x).task = some t)
  (hw : (ctx s lc x).wait = .none) (hsusp : (ctx s lc x).suspending = false) (hret : unretired s lc x = false)
  (hacc : ctxWaits s lc x = false) (hother : ∀ y, y < 4 → y ≠ x → (ctx s lc y).wait ≠ .ending)

include hx ht hw hsusp hret hacc hother

theorem taskEndS_completes : taskEndS lc x s = completeTask t (setCtx lc x freshCtx s) := by
  rw [taskEndS, if_pos (mayIssue_of_task ht hw hsusp), atEnd_alone hx ht hret hacc hother]

theorem taskBadCodeS_completes : taskBadCodeS lc x s = completeTask t (setCtx lc x freshCtx
    (raise Ev.dspBadCode (srcOf 4 (4 * lc + x)) (pay64 (dspTaskId t)) (bump Cnt.dspBadCode lc 1 s))) := by
  simp only [taskBadCodeS, ht, mayIssue_of_task ht hw hsusp, if_true]
  refine atEnd_alone hx ?_ ?_ ?_ fun y hy hyx => ?_
  · rw [ctx_raise]
    exact ht
  · rw [unretired_raise]
    exact hret
  · rw [ctxWaits_raise]
    exact hacc
  · rw [ctx_raise]
    exact hother y hy hyx

end End

-- Spawning (R106, R107, R112).

section Spawn

variable {lc x template target joinTask : Nat} {s : State} {t : Task} (arg : Nat)

theorem spawnS_tries (ht : (ctx s lc x).task = some t) (hw : (ctx s lc x).wait = .none)
    (hsusp : (ctx s lc x).suspending = false) :
    spawnS lc x template target joinTask arg s = trySpawn lc x template target joinTask arg t s := by
  simp only [spawnS, ht, hw, hsusp, Bool.false_eq_true, if_false]

theorem trySpawn_dropped (hbad : spawnBad s t template target joinTask = true) :
    trySpawn lc x template target joinTask arg t s =
      raise Ev.dspSpawnDrop (srcOf 4 (4 * lc + x)) [] (bump Cnt.dspSpawnDrop lc 1 s) :=
  if_pos hbad

variable (hok : spawnBad s t template target joinTask = false)

include hok

theorem trySpawn_performed (hfree : readyFree (disp s target) = true) (hheld : (disp s target).held = [])
    (hstalls : (disp s target).stalls = []) :
    trySpawn lc x template target joinTask arg t s = performSpawn lc t template target joinTask arg s := by
  simp only [trySpawn, hok, hfree, hheld, hstalls, Bool.false_eq_true, if_false, and_self, if_true]

theorem trySpawn_stalled (hfull : readyFree (disp s target) = false) :
    trySpawn lc x template target joinTask arg t s =
      let z : SpawnStall :=
        { lc := lc, x := x, template := template, target := target, joinTask := joinTask, arg := arg, since := s.now }
      bump Cnt.dspReadyFull target 1 (setCtx lc x { ctx s lc x with wait := .spawn z }
        (setDisp target { disp s target with stalls := (disp s target).stalls ++ [z] } s)) := by
  simp only [trySpawn, hok, hfull, Bool.false_eq_true, if_false, false_and]
  rfl

end Spawn

theorem performSpawn_of_graph {g : Graph} {s : State} (lc template target joinTask arg : Nat) (t : Task)
    (hg : jobGraph s = some g) :
    let d := disp s target
    let n : Task :=
      { lc := target
        idx := template
        uid := s.dsp.nextUid + 1
        spawned := true
        cls := t.cls
        bytes := templateBytes g target template
        arg := arg
        join := some (target, joinTask)
        piece := none
        saved := none
        since := 0 }
    performSpawn lc t template target joinTask arg s = noteReadied t.cls 1 (bump Cnt.dspSpawn lc 1 (pushReady target n
      (setDisp target { d with counts := mapUpd d.counts joinTask 0 (fun k => k + 1), outstanding := d.outstanding + 1 }
        { s with dsp := { s.dsp with nextUid := s.dsp.nextUid + 1 } }))) := by
  simp only [performSpawn, hg]

/-- The first stalled spawn takes the free entry (R112). -/
theorem spawnResumeS_performs {k : Nat} {s : State} {t : Task} {z : SpawnStall} {rest : List SpawnStall}
    (ht : (ctx s z.lc z.x).task = some t) (hstalls : (disp s k).stalls = z :: rest) (hfree : readyFree (disp s k) = true)
    (hheld : (disp s k).held = []) :
    let u := setCtx z.lc z.x { ctx s z.lc z.x with wait := .none } (setDisp k { disp s k with stalls := rest } s)
    spawnBad u t z.template z.target z.joinTask = false →
      spawnResumeS k s = performSpawn z.lc t z.template z.target z.joinTask z.arg u := by
  intro u hok
  unfold spawnResumeS
  dsimp only
  split
  · next hnone => cases hstalls.symm.trans hnone
  · next hcons =>
    obtain ⟨rfl, rfl⟩ := List.cons.inj (hstalls.symm.trans hcons)
    rw [if_pos ⟨hfree, hheld⟩]
    split
    · next hnone => cases ht.symm.trans hnone
    · next htask =>
      obtain rfl := Option.some.inj (ht.symm.trans htask)
      exact if_neg (ne_true_of_eq_false hok)

-- What the passing of time leaves to a logical core.

section Time

variable (n : Nat) (s : State) (lc x : Nat)

theorem hostCore_reachTime : hostCore (reachTime n s) lc = hostCore s lc := by
  rw [reachTime, advance_frame]
  rfl

theorem ctx_reachTime : ctx (reachTime n s) lc x = ctx s lc x := by
  rw [reachTime, advance_frame]
  rfl

theorem freeCtx_reachTime : freeCtx (reachTime n s) lc = freeCtx s lc := by
  rw [reachTime, advance_frame]
  rfl

theorem freeSave_reachTime : freeSave (reachTime n s) lc = freeSave s lc := by
  rw [reachTime, advance_frame]
  rfl

theorem coreWaiting_reachTime (p : Nat) : coreWaiting (reachTime n s) lc p = coreWaiting s lc p := by
  rw [reachTime, advance_frame]
  rfl

theorem anyCoreReady_reachTime : anyCoreReady (reachTime n s) lc = anyCoreReady s lc := by
  rw [reachTime, advance_frame]
  rfl

theorem awaitsRead_reachTime : awaitsRead (reachTime n s) lc x = awaitsRead s lc x := by
  rw [reachTime, advance_frame]
  rfl

end Time

-- Suspending and saving (R108, R109, R113).

section Suspend

variable {lc x : Nat} {s : State}

theorem spawnTimeoutS_yields {z : SpawnStall} (hz : stallOf s lc x = some z) (hsave : (freeSave s lc).isSome = true)
    (hready : anyCoreReady s lc = true) :
    spawnTimeoutS lc x s = beginSuspend lc x true (reachTime (z.since + cclkNs s lc 256) s) := by
  simp only [spawnTimeoutS, hz, freeSave_reachTime, anyCoreReady_reachTime, hsave, hready, and_self, if_true]

theorem expireQuantum_reachTime {n : Nat} {t : Task} (hsusp : (ctx s lc x).suspending = false)
    (hw : (ctx s lc x).wait ≠ .ending) : expireQuantum lc x t (reachTime n s) =
      if coreWaiting s lc (tdPriority t.bytes) && (freeCtx s lc).isNone && (freeSave s lc).isSome && !awaitsRead s lc x then
        beginSuspend lc x false (reachTime n s)
      else setCtx lc x { ctx s lc x with quantumAt := (reachTime n s).now } (reachTime n s) := by
  simp only [expireQuantum, ctx_reachTime, coreWaiting_reachTime, freeCtx_reachTime, freeSave_reachTime,
    awaitsRead_reachTime, hsusp, hw, Bool.false_eq_true, or_self, if_false]

/-- Clearing a wait changes no dispatcher. -/
theorem disp_clearWait (k : Nat) : disp (clearWait lc x s) k = disp s k := by
  unfold clearWait closeWait
  repeat' split
  all_goals rfl

variable {t : Task} (ht : (ctx s lc x).task = some t)

include ht

/-- Where no host serves the logical core beside others, the quantum's expiry concerns the running task alone. -/
theorem quantumS_expires {g : Graph} (hg : jobGraph s = some g) (hhost : hostCore s lc = none) :
    quantumS lc x s =
      expireQuantum lc x t (reachTime ((ctx s lc x).quantumAt + cclkNs s lc (imgQuantum g)) s) := by
  simp only [quantumS, hg, ht, Option.isSome_some, if_true, hostCore_reachTime, hhost]

theorem suspensionDoneS_saves {i : Nat} (hsusp : (ctx s lc x).suspending = true) (hret : unretired s lc x = false)
    (hacc : ctxWaits s lc x = false) (hi : freeSave s lc = some i) : suspensionDoneS lc x s =
    pushTail lc { t with saved := some i } (setCtx lc x freshCtx (setDisp lc
      { disp s lc with slots := mapSet (disp s lc).slots i (stateToSave (ctx s lc x)) } (clearWait lc x s))) := by
  rw [suspensionDoneS, if_pos (by simp [hsusp, hret, hacc])]
  simp only [saveTask, ht, hi, disp_clearWait]

end Suspend

end Sys2Proof.Machine

namespace Sys2Proof.Proofs

open Sys2Proof.Machine

/-- Settles O29: one equation per row and outcome. A task that ends alone is the only one that `finishEnding` completes
(`atEnd_alone`); the row of a timer acts on the state at the timer's end, in which time alone has passed. The payload of
EV_DSP_BAD_CODE is the model's layout (assumption log 65). -/
theorem tasksEndAndSpawn : Obligations.TasksEndAndSpawn := by
  intro lc x s t hlc hx ht
  have hunit : (decide (lc < nLc s) && decide (x < 4)) = true := by simp [hlc, hx]
  refine ⟨fun hw hsusp => ⟨fun hret hacc hother => ⟨?_, ?_⟩, fun template target joinTask arg =>
      ⟨fun hbad => ?_, fun g hg hok hfree hheld hstalls => ?_, fun hok hfull => ?_⟩⟩,
    fun k z rest hk hstalls hzl hzx hfree hheld => ?_, fun z hz hsave hready => ?_,
    fun g hg hhost hsusp hw => ?_, fun i hsusp hret hacc hi => ?_⟩
  -- the end of a task
  · exact onUnit_next hunit (taskEndS_completes hx ht hw hsusp hret hacc hother)
  · exact onUnit_next hunit (taskBadCodeS_completes hx ht hw hsusp hret hacc hother)
  -- SPAWN
  · exact onUnit_next hunit ((spawnS_tries arg ht hw hsusp).trans (trySpawn_dropped arg hbad))
  · exact onUnit_next hunit ((spawnS_tries arg ht hw hsusp).trans
      ((trySpawn_performed arg hok hfree hheld hstalls).trans (performSpawn_of_graph _ _ _ _ _ _ hg)))
  · exact onUnit_next hunit ((spawnS_tries arg ht hw hsusp).trans (trySpawn_stalled arg hok hfull))
  -- a stalled spawn
  · subst hzl hzx
    exact fun hok => onUnit_next (decide_eq_true hk) (spawnResumeS_performs ht hstalls hfree hheld hok)
  · exact onUnit_next hunit (spawnTimeoutS_yields hz hsave hready)
  -- the quantum
  · exact onUnit_next hunit ((quantumS_expires ht hg hhost).trans (expireQuantum_reachTime hsusp hw))
  -- the save slot
  · exact onUnit_next hunit (suspensionDoneS_saves ht hsusp hret hacc hi)

end Sys2Proof.Proofs
end

section
/-! The graph commands (R122 to R124, R593): what each answers and changes; the statement of 03_graphs_dispatch.md on
them. -/

namespace Sys2Proof.Machine

theorem graphOpen_ok {p : List Byte} {s : State} (hlo : 1024 ≤ field p 0 32) (hhi : field p 0 32 ≤ 1073741824)
    (hunit : field p 0 32 % 64 = 0) (hroom : s.dsp.graphs.length < 8) :
    let h := s.dsp.nextHandle
    graphOpen p s = ({ s with dsp := { s.dsp with
        graphs := mapSet s.dsp.graphs h { size := field p 0 32, units := [], committed := false, bases := [] }
        nextHandle := if h + 1 < 2 ^ 32 then h + 1 else 1 } }, okWith (toLE 4 h)) := by
  simp only [graphOpen]
  rw [if_neg (by omega), if_neg (by omega)]
  rfl

section Open

variable {p : List Byte} {s : State} {g : Graph} (hg : mapGet s.dsp.graphs (field p 0 32) = some g)

include hg

theorem graphData_ok (hopen : g.committed = false) (hoff : field p 32 32 % 64 = 0) (hunit : field p 64 32 % 64 = 0)
    (hlo : 64 ≤ field p 64 32) (hhi : field p 64 32 ≤ 524288) (hfit : field p 32 32 + field p 64 32 ≤ g.size) :
    graphData p s = (setGraph (field p 0 32) { g with
      units := (List.range (field p 64 32 / 64)).foldl
        (fun m k => mapSet m (field p 32 32 / 64 + k) (slice p (12 + 64 * k) 64)) g.units } s, okWith []) := by
  simp only [graphData, hg]
  refine if_neg ?_
  rw [hopen]
  simp only [Bool.false_eq_true, false_or]
  omega

/-- A graph that passes checks 2 to 8 of R124 is committed. -/
theorem graphCommit_ok (hopen : g.committed = false) (hfault : graphFault s g = none) {bases : AMap Nat}
    (h8 : check8 s g = some bases) :
    let g' : Graph := { g with committed := true, bases := bases }
    graphCommit p s =
      (raise Ev.dspGraphCommit 0 [] (placeGraph (field p 0 32) g' (setGraph (field p 0 32) g' s)), okWith []) := by
  simp only [graphCommit, hg, hopen, hfault, h8, Bool.false_eq_true, if_false]

/-- A graph that fails one of checks 2 to 7 stays as it is. -/
theorem graphCommit_fault (hopen : g.committed = false) {k off : Nat} (hfault : graphFault s g = some (k, off)) :
    graphCommit p s = (s, badGraph k off) := by
  simp only [graphCommit, hg, hopen, hfault, Bool.false_eq_true, if_false]

theorem graphUnload_free (hjob : graphInJob s (field p 0 32) = false) : graphUnload p s =
    ({ s with dsp := { s.dsp with graphs := mapDel s.dsp.graphs (field p 0 32) } }, okWith []) := by
  simp only [graphUnload, hg, hjob, Bool.false_eq_true, if_false]

theorem graphUnload_inJob (hjob : graphInJob s (field p 0 32) = true) :
    graphUnload p s = (s, failWith St.inUse 0) := by
  simp only [graphUnload, hg, hjob, if_true]

theorem graphInfo_open (hopen : g.committed = false) :
    graphInfo p s = okWith (pack 32 [(0, 32, field p 0 32), (64, 32, g.size)]) := by
  simp only [graphInfo, hg, hopen, Bool.false_eq_true, if_false]

theorem graphInfo_committed (hcom : g.committed = true) : graphInfo p s =
    okWith (pack 32 [(0, 32, field p 0 32), (32, 2, if graphInJob s (field p 0 32) then 2 else 1),
        (40, 7, imgLcCount g), (47, 1, bit (imgFixed g)), (64, 32, g.size), (96, 32, imgQuantum g),
        (128, 64, field (imgHeader g) 128 64)]
      ++ (List.range (imgLcCount g)).flatMap (fun k =>
        pack 8 [(0, 16, taskCount g k), (16, 16, templateCount g k), (32, 16, reserveKib g k)])) := by
  simp only [graphInfo, hg, hcom, if_true]

end Open

end Sys2Proof.Machine

namespace Sys2Proof.Proofs

open Sys2Proof.Machine

/-- Settles O30: one equation per command and outcome. That sections are placed where check 8 found room, is the model's
choice (assumption log 34). -/
theorem graphCommands : Obligations.GraphCommands := by
  intro s src c
  refine ⟨fun hc hlo hhi hunit hroom => ?_, fun g hg => ⟨fun hc hopen hoff hunit hlo hhi hfit => ?_,
    fun hc hopen hfault bases h8 => ?_, fun hc hopen k off hfault => ?_, fun hc hjob => ?_, fun hc hjob => ?_,
    fun hc hopen => ?_, fun hc hcom => ?_⟩⟩
  · exact congrArg Host.Outcome.next (performNow_answers hc (graphOpen_ok hlo hhi hunit hroom))
  · exact congrArg Host.Outcome.next (performNow_answers hc (graphData_ok hg hopen hoff hunit hlo hhi hfit))
  · exact congrArg Host.Outcome.next (performNow_answers hc (graphCommit_ok hg hopen hfault h8))
  · exact congrArg Host.Outcome.next (performNow_answers hc (graphCommit_fault hg hopen hfault))
  · exact congrArg Host.Outcome.next (performNow_answers hc (graphUnload_free hg hjob))
  · exact congrArg Host.Outcome.next (performNow_answers hc (graphUnload_inJob hg hjob))
  · exact congrArg Host.Outcome.next ((performQuery_of _ hc).trans (by rw [graphInfo_open hg hopen]))
  · exact congrArg Host.Outcome.next ((performQuery_of _ hc).trans (by rw [graphInfo_committed hg hcom]))

end Sys2Proof.Proofs
end

section
/-! The sampler's commands (R132, R156 to R159, R595), and when the accesses of a row let it take effect (R28, R371); the
statement of 04_sampling.md on the commands. -/

namespace Sys2Proof.Machine

/-- A row that runs once its accesses can be made: what it leaves where it meets no retrain is what `f` makes of the state
that it finds. -/
theorem takesEffect_of_whenOpen {i : Instr} {d : Nat} {f : State → State} {s t : State}
    (hexec : exec i s = .next (whenOpen d f s)) (ht : f (rowBegun d s) = t) : takesEffect i s t := by
  subst ht
  exact ⟨fun hm => hexec.trans (congrArg Host.Outcome.next (if_neg (ne_true_of_eq_false hm))),
    fun hm => hexec.trans (congrArg Host.Outcome.next (if_pos hm))⟩

-- The checks of R158.

section Checks

variable {p : List Byte} {s : State}

theorem adjSet_good (h : adjBad s p = 0) : adjSet p s = (setAdj (field p 0 4) (some (slice p 0 48)) s, okWith []) :=
  if_neg (not_not_intro h)

theorem adjSet_bad (h : adjBad s p ≠ 0) : adjSet p s = (s, failWith St.badParam (adjBad s p)) := if_pos h

theorem adjClear_good (h : field p 4 28 = 0) : adjClear p s = (setAdj (field p 0 4) none s, okWith []) :=
  if_neg (not_not_intro h)

theorem seedsSet_good (h : seedsBad s p = 0) : seedsSet p s = ({ s with dsp := { s.dsp with
      seeds := mapSet s.dsp.seeds (field p 0 4)
        (slotSet s (mapGetD s.dsp.seeds (field p 0 4) emptySlot) (some (slice p 0 20))) } }, okWith []) :=
  if_neg (not_not_intro h)

theorem seedsSet_bad (h : seedsBad s p ≠ 0) : seedsSet p s = (s, failWith St.badParam (seedsBad s p)) := if_pos h

end Checks

/-- How a probe samples its row (R159). -/
def probeHow (p : List Byte) : SmpHow :=
  { jobId := field p 0 64
    m := field p 64 64
    l := field p 176 4
    stream := field p 180 3
    fanout := leFanout (field p 160 16)
    mode := leMode (field p 160 16)
    lc := 0
    via := 0 }

/-- What a probe answers: the counts, the positions and the neighbours (R159). -/
def probeAnswer (r : Chosen) : Completion :=
  okWith (toLE 4 r.edges.length ++ toLE 4 r.dropped ++ entries 4 (r.edges.map (fun x => x.2.1))
    ++ entries 4 (r.edges.map (fun x => x.2.2)))

theorem smpProbe_good {p : List Byte} {s : State} (hfan : leFanout (field p 160 16) ≠ 0) (hlo : 1 ≤ field p 176 4)
    (hhi : field p 176 4 ≤ 8) (hres : field p 183 9 = 0) :
    let r := probeRow (probeHow p) (field p 160 16) (field p 128 32) s
    smpProbe p s = (r.2, probeAnswer r.1) := by
  refine if_neg ?_
  rintro (h | h | h | h)
  · exact hfan h
  · omega
  · omega
  · exact h hres

end Sys2Proof.Machine

namespace Sys2Proof.Proofs

open Sys2Proof.Machine

/-- Settles O34: one equation per command and outcome of its checks; a probe also waits for its accesses
(`takesEffect_of_whenOpen`). -/
theorem samplerCommands : Obligations.SamplerCommands := by
  intro s src c
  refine ⟨fun hc => ⟨fun hgood => ?_, fun hbad => ?_⟩, fun hc hres => ?_, fun hc => ⟨fun hgood => ?_, fun hbad => ?_⟩,
    fun hc => ?_, fun hc => ?_⟩
  · exact congrArg Host.Outcome.next (performNow_answers hc (adjSet_good hgood))
  · exact congrArg Host.Outcome.next (performNow_answers hc (adjSet_bad hbad))
  · exact congrArg Host.Outcome.next (performNow_answers hc (adjClear_good hres))
  · exact congrArg Host.Outcome.next (performNow_answers hc (seedsSet_good hgood))
  · exact congrArg Host.Outcome.next (performNow_answers hc (seedsSet_bad hbad))
  · exact congrArg Host.Outcome.next (performQuery_of smpInfo hc)
  · intro e hfan hlo hhi hres
    have hbegun : performs (rowBegun 0 s) src 0x0404 c := hc
    exact takesEffect_of_whenOpen rfl (performNow_answers hbegun (smpProbe_good hfan hlo hhi hres))

end Sys2Proof.Proofs
end

section
/-! The reservoirs of a cut row (R138, R151); the statement of 04_sampling.md on them. -/

namespace Sys2Proof.Machine

-- Sorting by insertion.

theorem sortBy_ins_eq_orderedInsert {α : Type} (le : α → α → Bool) (x : α) (l : List α) :
    sortBy.ins le x l = l.orderedInsert (fun a b => le a b = true) x := by
  induction l with
  | nil => rfl
  | cons y l ih => rw [sortBy.ins, ih, List.orderedInsert_cons]

theorem sortBy_eq_insertionSort {α : Type} (le : α → α → Bool) (l : List α) :
    sortBy le l = l.insertionSort (fun a b => le a b = true) := by
  induction l with
  | nil => rfl
  | cons x l ih => rw [sortBy, ih, sortBy_ins_eq_orderedInsert, List.insertionSort_cons]

section Insert

variable {α : Type} (r : α → α → Prop) [DecidableRel r]

/-- What is first after an insertion depends on what was first before it alone. -/
theorem take_orderedInsert (x : α) (l : List α) (f : Nat) :
    ((l.take f).orderedInsert r x).take f = (l.orderedInsert r x).take f := by
  induction l generalizing f with
  | nil => rw [List.take_nil]
  | cons y l ih =>
    cases f with
    | zero => rfl
    | succ f =>
      have hy : (y :: l.take f).take f = (y :: l).take f := by
        rw [← List.take_succ_cons, List.take_take, Nat.min_eq_left f.le_succ]
      rw [List.take_succ_cons, List.orderedInsert_cons, List.orderedInsert_cons]
      split
      · rw [List.take_succ_cons, List.take_succ_cons, hy]
      · rw [List.take_succ_cons, List.take_succ_cons, ih]

theorem take_foldr_orderedInsert (b l : List α) (f : Nat) :
    (b.foldr (List.orderedInsert r) (l.take f)).take f = (b.foldr (List.orderedInsert r) l).take f := by
  induction b with
  | nil => rw [List.foldr_nil, List.foldr_nil, List.take_take, Nat.min_self]
  | cons x b ih =>
    rw [List.foldr_cons, List.foldr_cons, ← take_orderedInsert, ih, take_orderedInsert]

theorem insertionSort_append (b l : List α) :
    (b ++ l).insertionSort r = b.foldr (List.orderedInsert r) (l.insertionSort r) := List.foldr_append

variable [Std.Total r] [IsTrans α r]

/-- Sorting what is first of a sorted list together with others gives what is first of all of them sorted. -/
theorem take_insertionSort_append_take (a b : List α) (f : Nat) :
    ((b ++ (a.insertionSort r).take f).insertionSort r).take f = ((b ++ a).insertionSort r).take f := by
  have hsorted : ((a.insertionSort r).take f).Pairwise r := (List.pairwise_insertionSort r a).take
  rw [insertionSort_append, insertionSort_append, hsorted.insertionSort_eq, take_foldr_orderedInsert]

theorem insertionSort_perm {l m : List α} (hp : l.Perm m)
    (hanti : ∀ a b, a ∈ l → b ∈ l → r a b → r b a → a = b) : l.insertionSort r = m.insertionSort r := by
  have hl := l.perm_insertionSort r
  have hm := m.perm_insertionSort r
  refine (hl.trans (hp.trans hm.symm)).eq_of_pairwise (fun a b ha hb => ?_) (List.pairwise_insertionSort r l)
    (List.pairwise_insertionSort r m)
  exact hanti a b (hl.mem_iff.mp ha) (hp.mem_iff.mpr (hm.mem_iff.mp hb))

end Insert

-- The order of R138.

/-- Edges with their keys, in the order of R138: by key, then by position. -/
def edgeLe (x y : Nat × Nat × Nat) : Bool := x.1 < y.1 || (x.1 == y.1 && x.2.1 ≤ y.2.1)

theorem edgeLe_iff (x y : Nat × Nat × Nat) : edgeLe x y = true ↔ x.1 < y.1 ∨ x.1 = y.1 ∧ x.2.1 ≤ y.2.1 := by
  simp [edgeLe]

theorem edgeLe_total : Std.Total (fun x y => edgeLe x y = true) :=
  ⟨fun x y => by rw [edgeLe_iff, edgeLe_iff]; omega⟩

theorem edgeLe_trans : IsTrans _ (fun x y => edgeLe x y = true) :=
  ⟨fun x y z => by rw [edgeLe_iff, edgeLe_iff, edgeLe_iff]; omega⟩

theorem position_eq_of_edgeLe {x y : Nat × Nat × Nat} (hxy : edgeLe x y = true) (hyx : edgeLe y x = true) :
    x.2.1 = y.2.1 := by
  rw [edgeLe_iff] at hxy hyx
  omega

theorem smallest_eq_insertionSort (f : Nat) (l : List (Nat × Nat × Nat)) :
    smallest f l = (l.insertionSort (fun x y => edgeLe x y = true)).take f :=
  congrArg (List.take f) (sortBy_eq_insertionSort edgeLe l)

theorem mem_of_mem_smallest {f : Nat} {l : List (Nat × Nat × Nat)} {x : Nat × Nat × Nat} (h : x ∈ smallest f l) :
    x ∈ l := by
  rw [smallest_eq_insertionSort] at h
  exact (List.mem_insertionSort _).mp (List.mem_of_mem_take h)

/-- No two of the edges are at one position, so they have one order alone. -/
theorem smallest_perm (f : Nat) {l m : List (Nat × Nat × Nat)} (hp : l.Perm m)
    (hpos : ∀ x ∈ l, ∀ y ∈ l, x.2.1 = y.2.1 → x = y) : smallest f l = smallest f m := by
  have := edgeLe_total
  have := edgeLe_trans
  rw [smallest_eq_insertionSort, smallest_eq_insertionSort, insertionSort_perm _ hp
    (fun x y hx hy hxy hyx => hpos x hx y hy (position_eq_of_edgeLe hxy hyx))]

theorem smallest_append_smallest (f : Nat) (a b : List (Nat × Nat × Nat)) :
    smallest f (b ++ smallest f a) = smallest f (b ++ a) := by
  have := edgeLe_total
  have := edgeLe_trans
  simp only [smallest_eq_insertionSort, take_insertionSort_append_take]

end Sys2Proof.Machine

namespace Sys2Proof.Proofs

open Sys2Proof.Machine

/-- Settles O32: the edges of the chunk are inserted among those kept so far, and what is kept then depends on what was
kept before alone (`smallest_append_smallest`). -/
theorem chunksChooseAsAnUncutRow : Obligations.ChunksChooseAsAnUncutRow := by
  intro f a b hnodup
  have hpos : ∀ x ∈ a ++ b, ∀ y ∈ a ++ b, x.2.1 = y.2.1 → x = y :=
    fun x hx y hy hxy => List.inj_on_of_nodup_map hnodup hx hy hxy
  have hkept : ∀ x ∈ smallest f a ++ b, x ∈ a ++ b := fun x hx =>
    List.mem_append.mpr ((List.mem_append.mp hx).imp_left mem_of_mem_smallest)
  calc smallest f (smallest f a ++ b)
      = smallest f (b ++ smallest f a) :=
        smallest_perm f List.perm_append_comm (fun x hx y hy => hpos x (hkept x hx) y (hkept y hy))
    _ = smallest f (b ++ a) := smallest_append_smallest f a b
    _ = smallest f (a ++ b) := (smallest_perm f List.perm_append_comm hpos).symm

end Sys2Proof.Proofs
end

section
/-! Stealing (R153, R154): the scan of a shunter without work, and its timers; the statement of 04_sampling.md on them. -/

namespace Sys2Proof.Machine

theorem nLc_reachTime (n : Nat) (s : State) : nLc (reachTime n s) = nLc s := by
  rw [reachTime, advance_frame]
  rfl

/-- Time moves none of what a scan depends on. -/
theorem mayScan_reachTime (n lc i : Nat) (s : State) : mayScan (reachTime n s) lc i = mayScan s lc i := by
  rw [reachTime, advance_frame]
  rfl

/-- The deques met, `met`, in which fixed-order mode alone withholds a task, are counted at the thief's core (R118,
assumption log 41). -/
def countBlocked (lc : Nat) (met : List (Nat × Nat × Nat)) (s : State) : State :=
  let n := countIf (fun v => blockedAt s v.2.1 v.2.2) met
  if n = 0 then s else bump Cnt.dspStealBlock lc n s

theorem stealFrom_countBlocked (lc : Nat) (met : List (Nat × Nat × Nat)) (s : State) (k x : Nat) :
    stealFrom (countBlocked lc met s) k x = stealFrom s k x := by
  dsimp only [countBlocked]
  split
  · rfl
  · rfl

/-- The counter of a steal, by the step of R153 at which its victim was found. -/
def stealCounter (k : Nat) : Nat :=
  if k = 1 then Cnt.smpStealCore else if k = 2 then Cnt.smpStealDie else Cnt.smpStealXdie

section Scan

variable {lc i : Nat} {s : State}

theorem mayScan_of_idle (hq : deque s lc i = []) (ht : shunterTask s lc i = none)
    (ha : s.dsp.asleep.contains (8 * lc + i) = false) (hown : shunterLc s lc = lc) (hcopy : underCopy s lc = false) :
    mayScan s lc i = true := by
  rw [mayScan, hq, ht, ha, hown, hcopy, beq_self_eq_true lc]
  rfl

theorem scanVictims_steals {v : Nat × Nat × Nat} {t : Task} {rest : List Task}
    (hv : (victims s lc i).find? (fun v => (stealFrom s v.2.1 v.2.2).isSome) = some v)
    (ht : stealFrom s v.2.1 v.2.2 = some (t, rest)) :
    scanVictims lc i s = setDeque lc i [t] (setDeque v.2.1 v.2.2 rest (bump (stealCounter v.1) lc 1
      (countBlocked lc ((victims s lc i).takeWhile (fun x => x != v)) s))) := by
  have hfrom := (stealFrom_countBlocked lc ((victims s lc i).takeWhile (fun x => x != v)) s v.2.1 v.2.2).trans ht
  simp only [countBlocked] at hfrom
  simp only [scanVictims, hv, hfrom]
  rfl

theorem scanVictims_fails (hv : (victims s lc i).find? (fun v => (stealFrom s v.2.1 v.2.2).isSome) = none) :
    let u := countBlocked lc (victims s lc i) s
    let first := match mapGet u.dsp.idle (8 * lc + i) with
      | some e => e.1
      | none => u.now
    scanVictims lc i s = bump Cnt.smpStealFail lc 1 { u with dsp := { u.dsp with
      idle := mapSet u.dsp.idle (8 * lc + i) (first, u.now) } } := by
  simp only [scanVictims, hv]
  rfl

end Scan

section Timers

variable {lc i : Nat} {s : State} {e : Nat × Nat} (he : mapGet s.dsp.idle (8 * lc + i) = some e)

include he

/-- The retry timer scans at its time as the shunter does by itself (R154). -/
theorem stealRetryS_scans : stealRetryS lc i s = stealS lc i (reachTime (e.2 + fclkNs 64) s) := by
  rw [stealRetryS, he]
  rfl

theorem shunterSleepS_sleeps (hscan : mayScan s lc i = true) :
    let u := reachTime (e.1 + fclkNs 1024) s
    shunterSleepS lc i s = { u with dsp := { u.dsp with
      asleep := setInsert (8 * lc + i) u.dsp.asleep, idle := mapDel u.dsp.idle (8 * lc + i) } } := by
  rw [shunterSleepS, he]
  exact if_pos ((mayScan_reachTime _ lc i s).trans hscan)

end Timers

end Sys2Proof.Machine

namespace Sys2Proof.Proofs

open Sys2Proof.Machine

/-- Settles O33: the shunter may scan (`mayScan_of_idle`), and the scan steals or fails as the first victim with a
stealable task tells. That a withheld deque is counted at the thief is the model's choice (assumption log 41), and so
is the order within a cycle (assumption log 66). -/
theorem shuntersSteal : Obligations.ShuntersSteal := by
  intro lc i s hlc hi hq ht ha hown hcopy
  have hscan : mayScan s lc i = true := mayScan_of_idle hq ht ha hown hcopy
  have hunit : (decide (lc < nLc s) && decide (i < 8)) = true := by simp [hlc, hi]
  have hsteal : stealS lc i s = scanVictims lc i s := if_pos hscan
  refine ⟨fun v t rest hv hfrom => ?_, fun hv => ?_, fun e he => ⟨?_, ?_⟩⟩
  · exact onUnit_next hunit (hsteal.trans (scanVictims_steals hv hfrom))
  · exact onUnit_next hunit (hsteal.trans (scanVictims_fails hv))
  · have hthen : (decide (lc < nLc (reachTime (e.2 + fclkNs 64) s)) && decide (i < 8)) = true := by
      rw [nLc_reachTime, hunit]
    exact ⟨_, onUnit_present _ hthen, onUnit_next hunit (stealRetryS_scans he)⟩
  · exact onUnit_next hunit (shunterSleepS_sleeps he hscan)

end Sys2Proof.Proofs
end

section
/-! Sample tasks and their pieces (R133, R136, R142, R147, R150 to R153); the statement of 04_sampling.md on them. -/

namespace Sys2Proof.Machine

section Newest

variable {lc i : Nat} {s : State} {t : Task} {rest : List Task} (hq : (deque s lc i).reverse = t :: rest)

include hq

/-- The newest task of the deque runs where its FUNC is the row's (R153, R163). -/
theorem runFunction_newest {func : Nat} (f : Task → List Byte → State → State) (hp : t.piece = none)
    (hfunc : field (sectionRead s t.lc (tdCode t.bytes) 128) 0 8 = func) : runFunction lc i func f s =
      f t (sectionRead s t.lc (tdCode t.bytes) 128) (emptyNonPooled lc (setDeque lc i rest.reverse s)) := by
  simp only [runFunction, hq, hp, hfunc, Option.isSome_none, Bool.false_eq_true, if_false, if_true]

section Piece

variable {id : Nat} {j : SmpJob} (hp : t.piece = some id) (hj : sampleJob s t.uid = some j)

include hp hj

theorem samplePieceS_unlisted (hn : j.pieces.find? (fun p => p.id == id) = none) :
    samplePieceS lc i s = completeTask t (emptyNonPooled lc (setDeque lc i rest.reverse s)) := by
  simp only [samplePieceS, hq, hp, hj, hn]

theorem samplePieceS_listed {p : SmpPiece} (hl : j.pieces.find? (fun p => p.id == id) = some p) :
    let r := runPiece (8 * lc + i) p (dropPiece j id) (emptyNonPooled lc (setDeque lc i rest.reverse s))
    samplePieceS lc i s = driveSample 9 r.1 (completeTask t r.2) := by
  simp only [samplePieceS, hq, hp, hj, hl]

end Piece

end Newest

/-- The logical core of a shunter, from the key of its deque. -/
theorem shunterKey_div {i : Nat} (lc : Nat) (hi : i < 8) : (8 * lc + i) / 8 = lc := by omega

end Sys2Proof.Machine

namespace Sys2Proof.Proofs

open Sys2Proof.Machine

/-- Settles O31: SAMPLE runs the newest task (`runFunction_newest`), as `beginSample` where the descriptor passes R136 and
as `badSample` where it fails; one equation for each thing a piece finds. Each takes effect once its accesses can be made
(`takesEffect_of_whenOpen`, assumption log 59). -/
theorem sampleTasksRun : Obligations.SampleTasksRun := by
  intro lc i s t rest hlc hi hq
  have hunit : (decide (lc < nLc s) && decide (i < 8)) = true := by simp [hlc, hi]
  have hbegun : (deque (rowBegun (lcDie s lc) s) lc i).reverse = t :: rest := hq
  intro d u m
  refine ⟨fun hp hfunc hok => ?_, fun hp hfunc hbad => ?_, fun id j hp hj => ⟨fun hn => ?_, fun p hl => ?_⟩⟩
  · have hruns : sampleS lc i (rowBegun (lcDie s lc) s) = beginSample (8 * lc + i) t d m u :=
      (runFunction_newest hbegun _ hp hfunc).trans (if_pos hok)
    refine takesEffect_of_whenOpen (onUnit_present _ hunit) (hruns.trans ?_)
    rw [beginSample, shunterKey_div lc hi]
  · exact takesEffect_of_whenOpen (onUnit_present _ hunit)
      ((runFunction_newest hbegun _ hp hfunc).trans (if_neg (ne_true_of_eq_false hbad)))
  · exact takesEffect_of_whenOpen (onUnit_present _ hunit) (samplePieceS_unlisted hbegun hp hj hn)
  · exact takesEffect_of_whenOpen (onUnit_present _ hunit) (samplePieceS_listed hbegun hp hj hl)

end Sys2Proof.Proofs
end

section
/-! The functions of chapter 5 on a shunter: a gather, a scatter, a merge, a drain or a compression begins, completes as
bad, or runs one of its pieces (R163 to R195); the statements of 05_gather_scatter.md on them. -/

namespace Sys2Proof.Machine

section Shunter

variable {lc i func : Nat} {f : FuncRun → State → State} {s : State}

/-- The row of a shunter function leaves what the shunter makes of its deque, once its accesses can be made (R28, R371). -/
theorem takesEffect_of_shunter {row : Instr} {t : State} (hlc : lc < nLc s) (hi : i < 8)
    (hexec : exec row s = onShunter lc i func f s) (ht : runShunter lc i func f (rowBegun (lcDie s lc) s) = t) :
    takesEffect row s t :=
  takesEffect_of_whenOpen (hexec.trans (onUnit_present _ (by simp [hlc, hi]))) ht

/-- The rows of chapter 5 that run on a shunter, each with its FUNC. -/
def functionRows (lc i : Nat) : List (Nat × Instr) :=
  [(2, .gather lc i), (3, .scatter lc i), (5, .spmm lc i), (6, .haccDrain lc i), (7, .compress24 lc i)]

theorem exec_functionRow {row : Instr} (s : State) (h : (func, row) ∈ functionRows lc i) :
    ∃ f, exec row s = onShunter lc i func f s := by
  simp only [functionRows, List.mem_cons, Prod.mk.injEq, List.not_mem_nil, or_false] at h
  obtain ⟨rfl, rfl⟩ | ⟨rfl, rfl⟩ | ⟨rfl, rfl⟩ | ⟨rfl, rfl⟩ | ⟨rfl, rfl⟩ := h
  · exact ⟨beginGather, rfl⟩
  · exact ⟨beginScatter, rfl⟩
  · exact ⟨beginSpmm, rfl⟩
  · exact ⟨beginDrain, rfl⟩
  · exact ⟨beginCompress, rfl⟩

/-- The newest task is a piece of the function: it leaves its task's list, runs and completes (R152, R166). -/
theorem runShunter_piece {t : Task} {j : FuncJob} {p : SmpPiece} (hn : newestPiece s lc i func = some (t, j, p)) :
    runShunter lc i func f s = closeFunc j.no (completeTask t (runFuncPiece (8 * lc + i) j.no p
      (setFunc { j with pieces := j.pieces.filter (fun q => q.id != p.id) }
        (emptyNonPooled lc (setDeque lc i (deque s lc i).dropLast s))))) := by
  simp only [runShunter, hn]

section Task

variable {t : Task} {rest : List Task} (hq : (deque s lc i).reverse = t :: rest) (hp : t.piece = none)

include hq hp

theorem newestPiece_task : newestPiece s lc i func = none := by
  simp only [newestPiece, hq, hp]

/-- The newest task runs the function of its FUNC (R153, R163). -/
theorem runShunter_task (hfunc : field (sectionRead s t.lc (tdCode t.bytes) 128) 0 8 = func) :
    let u := emptyNonPooled lc (setDeque lc i rest.reverse s)
    runShunter lc i func f s =
      f (funcRun (8 * lc + i) t (sectionRead s t.lc (tdCode t.bytes) 128) (taskStep u t)) u := by
  simp only [runShunter, newestPiece_task hq hp, runFunction_newest hq _ hp hfunc]

/-- A reserved FUNC fails R165 whatever the row (assumption log 41). -/
theorem runShunter_reserved (hfunc : funcCodes.contains (field (sectionRead s t.lc (tdCode t.bytes) 128) 0 8) = false)
    (hrow : funcCodes.contains func = true) :
    runShunter lc i func f s = badFunction t (emptyNonPooled lc (setDeque lc i rest.reverse s)) := by
  have hne : field (sectionRead s t.lc (tdCode t.bytes) 128) 0 8 ≠ func := by
    intro he
    rw [he, hrow] at hfunc
    exact Bool.noConfusion hfunc
  simp only [runShunter, newestPiece_task hq hp, runFunction, hq, hp, hne, hfunc, Option.isSome_none, Bool.not_false,
    Bool.false_eq_true, if_false, if_true]

/-- The row of a function of chapter 5 leaves what its newest task leaves as it begins. -/
theorem takesEffect_of_task {row : Instr} {v : State} (hlc : lc < nLc s) (hi : i < 8)
    (hexec : exec row s = onShunter lc i func f s)
    (hfunc : field (sectionRead s t.lc (tdCode t.bytes) 128) 0 8 = func)
    (hbegins :
      let u := emptyNonPooled lc (setDeque lc i rest.reverse (rowBegun (lcDie s lc) s))
      f (funcRun (8 * lc + i) t (sectionRead s t.lc (tdCode t.bytes) 128) (taskStep u t)) u = v) :
    takesEffect row s v := by
  have hbegun : (deque (rowBegun (lcDie s lc) s) lc i).reverse = t :: rest := hq
  exact takesEffect_of_shunter hlc hi hexec ((runShunter_task hbegun hp hfunc).trans hbegins)

end Task

end Shunter

-- How each function begins.

section Begin

variable {f : FuncRun} {s : State}

theorem beginGather_badFields (h : gatherFieldsOk f.d = false) : beginGather f s = badGather f s := by
  unfold beginGather
  rw [h]
  rfl

section Gather

variable {q0 : GatherAsk} (hfields : gatherFieldsOk f.d = true) (hsource : gatherSource s f.d = some q0)
  (htrain : flag f.d 10 = true → inReservation s f.lc (f.addr 384) 128 = true)

include hfields hsource htrain

/-- A gather that passes R165 and R167 counts its requests and begins over its unique rows. -/
theorem beginGather_ok :
    let r := gatherRequests f q0 s
    let l := readRequests f.lc r.1 r.2
    let uniq := setUnion [] (l.1.filterMap Request.rowOf)
    Nat.max 64 (cdiv (16 * r.1.reqs) 1024) ≤ field f.d 192 32 →
    inReservation s f.lc r.1.reqAddr (r.1.width * r.1.reqs) = true →
    areasOk s f.lc (gatherAreas f r.1 uniq.length) = true →
    beginGather f s = startFunc f (.gather (gatherInput f r.1 l.1 uniq))
      (if field f.d 512 64 = 0 then 0 else uniq.length) (countGather f r.1 l.1 uniq.length l.2) := by
  intro r l uniq hwork hreqs hareas
  have hhead : (flag f.d 10 && !inReservation s f.lc (f.addr 384) 128) = false := by
    cases h : flag f.d 10
    · rfl
    · rw [htrain h]; rfl
  have hroom : ¬ (field f.d 192 32 < Nat.max 64 (cdiv (16 * r.1.reqs) 1024)
      ∨ (!inReservation s f.lc r.1.reqAddr (r.1.width * r.1.reqs)) = true) := by
    rw [hreqs, Bool.not_true]
    exact fun h => h.elim (Nat.not_lt.mpr hwork) Bool.false_ne_true
  unfold beginGather
  rw [hfields, if_pos rfl, hsource]
  refine (if_neg (ne_true_of_eq_false hhead)).trans ((if_neg hroom).trans (if_neg ?_))
  rw [hareas]
  exact Bool.false_ne_true

end Gather

section Scatter

variable (hr : inReservation s f.lc (f.addr 320) 64 = true)

include hr

theorem beginScatter_bad (h : scatterOk s f (readWaybill f.lc (f.addr 320) s).1 = false) :
    beginScatter f s = badFunction f.task (readWaybill f.lc (f.addr 320) s).2 := by
  simp only [beginScatter, hr, h, Bool.not_true, Bool.not_false, Bool.false_eq_true, if_false, if_true]

/-- A scatter that passes R190 counts the requests that name no row and begins over its unique rows. -/
theorem beginScatter_ok (h : scatterOk s f (readWaybill f.lc (f.addr 320) s).1 = true) :
    let r := readWaybill f.lc (f.addr 320) s
    let skips := countIf (fun x => x == 0xFFFFFFFF) r.1.inv
    beginScatter f s = startFunc f (.scatter r.1) r.1.uniq.length
      (if skips = 0 then r.2 else bump Cnt.gthScatterSkip f.lc skips r.2) := by
  simp only [beginScatter, hr, h, Bool.not_true, Bool.false_eq_true, if_false]

end Scatter

theorem beginSpmm_bad (h : spmmFieldsOk s f.lc f.d = false) : beginSpmm f s = badFunction f.task s := by
  simp only [beginSpmm, h, Bool.not_false, if_true]

theorem beginSpmm_ok {q : SpmmIn} {v : State} (h : spmmFieldsOk s f.lc f.d = true)
    (hq : (if flag f.d 10 then spmmMerge f s else spmmTrain f s) = some (q, v))
    (hareas : areasOk s f.lc (spmmAreas f q) = true) :
    beginSpmm f s = startFunc f (.spmm q.dests []) q.dests.length v := by
  simp only [beginSpmm, h, hq, hareas, Bool.not_true, Bool.false_eq_true, if_false]

theorem beginDrain_badFields (h : commonOk f.d 8 false = false) :
    beginDrain f s = badFunction f.task (haccLate f.lc s) := by
  simp only [beginDrain, h, Bool.false_and, Bool.not_false, if_true]

/-- The areas of a drain of `n` keys (R165, R188). -/
def drainAreas (f : FuncRun) (w n : Nat) : List (Nat × Nat) :=
  [f.work, (f.addr 320, 8 * n), (f.addr 384, n * (haccEntryBytes w - 16)), (f.addr 448, 4)]

/-- A drain that passes R165 and R188 takes the lowest keys, at most its bound, out of the accumulator. -/
theorem beginDrain_ok :
    let v := haccLate f.lc s
    let out := (haccKeys v f.lc).take (field f.d 256 32)
    commonOk f.d 8 false = true → 1 ≤ field f.d 256 32 → field f.d 256 32 ≤ 16777216 → field f.d 288 32 = 0 →
    field f.d 512 512 = 0 → areasOk v f.lc (drainAreas f (hacc v f.lc).width out.length) = true →
    beginDrain f s = startFunc f (.drain (out.map (fun k => (k, (haccValue v f.lc k).getD [])))
      (out.length < (haccKeys v f.lc).length) (hacc v f.lc).width) out.length (haccRemove f.lc out v) := by
  intro v out hcommon hlo hhi hres hend hareas
  have hchecks : (commonOk f.d 8 false && 1 ≤ field f.d 256 32 && field f.d 256 32 ≤ 16777216 && field f.d 288 32 == 0
      && field f.d 512 512 == 0 && areasOk v f.lc (drainAreas f (hacc v f.lc).width out.length)) = true := by
    simp only [hcommon, hlo, hhi, hres, hend, hareas, decide_true, beq_self_eq_true, Bool.and_self]
  refine if_neg (ne_true_of_eq_false ?_)
  exact congrArg not hchecks

theorem beginCompress_badFields (h : commonOk f.d 12 false = false) : beginCompress f s = badFunction f.task s := by
  simp only [beginCompress, h, Bool.false_and, Bool.not_false, if_true]

/-- The areas of a compression of `n` rows of `k` elements (R165, R193). -/
def compressAreas (f : FuncRun) (fmt n k : Nat) : List (Nat × Nat) :=
  let g := cdiv k 4
  [f.work, (f.addr 320, (n - 1) * field f.d 512 32 + cdiv (k * fmtBits fmt) 8),
    (f.addr 384, n * up64 (cdiv (2 * g * fmtBits fmt) 8)), (f.addr 448, n * up64 (cdiv g 2))]

theorem beginCompress_ok (hcommon : commonOk f.d 12 false = true) (hfmt : field f.d 8 4 ≤ 10)
    (hnlo : 1 ≤ field f.d 256 32) (hnhi : field f.d 256 32 ≤ 16777216) (hklo : 1 ≤ field f.d 288 32)
    (hkhi : field f.d 288 32 ≤ 65536) (hstride : field f.d 512 32 % 32 = 0) (hres : field f.d 544 480 = 0)
    (hareas : areasOk s f.lc (compressAreas f (field f.d 8 4) (field f.d 256 32) (field f.d 288 32)) = true) :
    beginCompress f s = startFunc f .compress (field f.d 256 32) s := by
  refine if_neg ?_
  simp only [compressAreas] at hareas
  simp only [hcommon, hfmt, hnlo, hnhi, hklo, hkhi, hstride, hres, hareas, decide_true, beq_self_eq_true, Bool.and_self,
    Bool.not_true, Bool.false_eq_true, not_false_eq_true]

end Begin

end Sys2Proof.Machine

namespace Sys2Proof.Proofs

open Sys2Proof.Machine

/-- Settles O35: a piece by `runShunter_piece`; of a task the equation of how its function begins. When the requests of a
gather are read is the model's choice (assumption log 42), and that a reserved FUNC is bad (assumption log 41). -/
theorem gatherScatterMerge : Obligations.GatherScatterMerge := by
  intro lc i s hlc hi b
  refine ⟨fun func row t j p hrow hn => ?_, fun t rest hq hp => ?_⟩
  · obtain ⟨f, hexec⟩ := exec_functionRow s hrow
    exact takesEffect_of_shunter hlc hi hexec (runShunter_piece hn)
  · intro d u f bad begins
    have starts {inp : FuncInput} {rows : Nat} {v w : State} (h : w = startFunc f inp rows v) : w = begins inp rows v := h
    refine ⟨fun hres => ?_, fun hfunc hbad => ?_, fun q0 hfunc hfields hsource htrain => ?_, fun hfunc hr =>
      ⟨fun hbad => ?_, fun hok => ?_⟩, fun hfunc => ⟨fun hbad => ?_, fun q v hfields hin hareas => ?_⟩⟩
    · have hbegun : (deque (rowBegun (lcDie s lc) s) lc i).reverse = t :: rest := hq
      exact takesEffect_of_shunter hlc hi rfl (runShunter_reserved hbegun hp hres rfl)
    · exact takesEffect_of_task hq hp hlc hi rfl hfunc (beginGather_badFields hbad)
    · intro q hwork hreqs l rows uniq hareas
      exact takesEffect_of_task hq hp hlc hi rfl hfunc
        (starts (beginGather_ok hfields hsource htrain hwork hreqs hareas))
    · exact takesEffect_of_task hq hp hlc hi rfl hfunc (beginScatter_bad hr hbad)
    · exact takesEffect_of_task hq hp hlc hi rfl hfunc (starts (beginScatter_ok hr hok))
    · exact takesEffect_of_task hq hp hlc hi rfl hfunc (beginSpmm_bad hbad)
    · exact takesEffect_of_task hq hp hlc hi rfl hfunc (starts (beginSpmm_ok hfields hin hareas))

/-- Settles O36: the newest task runs its function (`takesEffect_of_task`), and a drain or a compression begins or is bad.
Padding and the odd nibble are free values (assumption log 42). -/
theorem drainAndCompress : Obligations.DrainAndCompress := by
  intro lc i s t rest hlc hi hq hp d u f bad begins
  have starts {inp : FuncInput} {rows : Nat} {v w : State} (h : w = startFunc f inp rows v) : w = begins inp rows v := h
  refine ⟨fun hfunc => ?_, fun hfunc => ?_, fun rows w r v key x hx => ?_⟩
  · intro v most h out n k areas
    refine ⟨fun hbad => ?_, fun hcommon hlo hhi hres hend hareas => ?_⟩
    · exact takesEffect_of_task hq hp hlc hi rfl hfunc (beginDrain_badFields hbad)
    · exact takesEffect_of_task hq hp hlc hi rfl hfunc (starts (beginDrain_ok hcommon hlo hhi hres hend hareas))
  · intro fmt n k g areas
    refine ⟨fun hbad => ?_, fun hcommon hfmt hnlo hnhi hklo hkhi hstride hres hareas => ?_, fun _ _ => rfl⟩
    · exact takesEffect_of_task hq hp hlc hi rfl hfunc (beginCompress_badFields hbad)
    · exact takesEffect_of_task hq hp hlc hi rfl hfunc
        (starts (beginCompress_ok hcommon hfmt hnlo hnhi hklo hkhi hstride hres hareas))
  · intro pad
    simp only [drainRow, hx]
    rfl

end Sys2Proof.Proofs
end

section
/-! The hash accumulator: its configuration, its opening, and what becomes of a contribution (R181 to R189); the statements
of 05_gather_scatter.md on them. -/

namespace Sys2Proof.Machine

theorem takeFirst_eq_none {α : Type} {p : α → Bool} {l : List α} (h : l.any p = false) : takeFirst p l = none := by
  induction l with
  | nil => rfl
  | cons x l ih =>
    obtain ⟨hx, hl⟩ := Bool.or_eq_false_iff.mp (List.any_cons.symm.trans h)
    simp [takeFirst, hx, ih hl]

theorem setHacc_setHacc_same (lc : Nat) (a b : Hacc) (s : State) : setHacc lc b (setHacc lc a s) = setHacc lc b s := by
  simp only [setHacc, mapSet_mapSet_same]

@[simp] theorem hacc_bump (id inst n : Nat) (s : State) (k : Nat) : hacc (bump id inst n s) k = hacc s k := rfl

/-- A drop is counted and recorded, and leaves every accumulator alone (R182, R186). -/
@[simp] theorem hacc_haccDrop (lc : Nat) (s : State) (k : Nat) : hacc (haccDrop lc s) k = hacc s k := by
  rw [haccDrop, raise_frame]
  rfl

section Contribution

variable {lc : Nat} {e : HaccEntry} {s : State}

-- What a contribution meets (R182, R187, R189).

theorem haccAdd_closed (hw : (hacc s lc).width = 0) : haccAdd lc e s = haccDrop lc s := if_pos hw

section Open

variable (hw : (hacc s lc).width ≠ 0) (hlen : e.elems.length = (hacc s lc).width)

include hw hlen

theorem haccAdd_draining (hd : draining s lc = true) : haccAdd lc e s =
    bump Cnt.gthHaccLate lc 1 (setHacc lc { hacc s lc with late := (hacc s lc).late ++ [e] } s) := by
  simp only [haccAdd, hw, hlen, hd, ne_eq, not_true_eq_false, if_false, if_true]

theorem haccAdd_open (hd : draining s lc = false) (hlate : (hacc s lc).late = []) : haccAdd lc e s = haccTake lc s e := by
  have hnone : haccLate lc s = s := by simp [haccLate, hlate]
  simp only [haccAdd, hw, hlen, hd, hnone, ne_eq, not_true_eq_false, Bool.false_eq_true, if_false]

end Open

-- Its way into the accumulator (R184 to R187).

theorem haccTake_present {y : HaccEntry} {rest : List HaccEntry} (hf : fixedOrder s = false)
    (hy : takeFirst (fun x : HaccEntry => x.key == e.key) (hacc s lc).entries = some (y, rest)) : haccTake lc s e =
      setHacc lc { hacc s lc with entries := rest ++ [combineEntry (hacc s lc).op y e] } s := by
  simp only [haccTake, hf, hy, Bool.false_eq_true, if_false]

theorem haccTake_newWay (h : fixedOrder s = true ∨ (hacc s lc).entries.any (fun x => x.key == e.key) = false) :
    haccTake lc s e = haccInsert lc e s := by
  rcases h with hf | habsent
  · exact if_pos hf
  · simp only [haccTake, takeFirst_eq_none habsent, ite_self]

theorem haccInsert_free
    (h : countIf (fun x => haccSet (hacc s lc).width x.key == haccSet (hacc s lc).width e.key) (hacc s lc).entries < 16) :
    haccInsert lc e s = setHacc lc { hacc s lc with entries := (hacc s lc).entries ++ [e] } s := by
  simp only [haccInsert, h, if_true]

section Full

variable {y : HaccEntry} {rest : List HaccEntry}
  (hfull : 16 ≤ countIf (fun x => haccSet (hacc s lc).width x.key == haccSet (hacc s lc).width e.key) (hacc s lc).entries)
  (hy : takeFirst (fun x : HaccEntry => haccSet (hacc s lc).width x.key == haccSet (hacc s lc).width e.key)
    (hacc s lc).entries = some (y, rest))

include hfull hy

/-- The oldest entry of a full set is spilled where the log has room (R184). -/
theorem haccInsert_spills (hroom : (hacc s lc).spill.length < haccSpillRoom s (hacc s lc).width) :
    haccInsert lc e s = setHacc lc { hacc s lc with entries := rest ++ [e], spill := (hacc s lc).spill ++ [y] }
      (bump Cnt.gthHaccSpill lc 1 s) := by
  have hevict : haccEvict lc (haccSet (hacc s lc).width e.key) s = bump Cnt.gthHaccSpill lc 1
      (setHacc lc { hacc s lc with entries := rest, spill := (hacc s lc).spill ++ [y] } s) := by
    simp only [haccEvict, hy, Nat.not_le.mpr hroom, if_false]
  simp only [haccInsert, Nat.not_lt.mpr hfull, if_false, hevict, hacc_bump, hacc_setHacc_same]
  exact setHacc_setHacc_same lc _ _ (bump Cnt.gthHaccSpill lc 1 s)

/-- The oldest entry of a full set is dropped where the log is full, and the contribution is in (R186). -/
theorem haccInsert_drops (hlog : haccSpillRoom s (hacc s lc).width ≤ (hacc s lc).spill.length) :
    haccInsert lc e s = setHacc lc { hacc s lc with entries := rest ++ [e] }
      (haccDrop lc (setHacc lc { hacc s lc with entries := rest } s)) := by
  have hevict : haccEvict lc (haccSet (hacc s lc).width e.key) s =
      haccDrop lc (setHacc lc { hacc s lc with entries := rest } s) := by
    simp only [haccEvict, hy, hlog, if_true]
  simp only [haccInsert, Nat.not_lt.mpr hfull, if_false, hevict, hacc_haccDrop, hacc_setHacc_same]

end Full

end Contribution

-- The rows of the cores (R181, R182, R189).

section Rows

variable {lc : Nat} {s : State}

theorem haccOpenS_runs (hrun : coreTaskRuns s lc = true) : haccOpenS lc s =
    (freshEntries s (hacc s lc)).foldl (haccTake lc)
      (setHacc lc { hacc s lc with entries := [], spill := [], seqs := [] } s) := by
  simp only [haccOpenS, hrun, Bool.not_true, Bool.false_eq_true, if_false]

theorem haccOpenS_idle (hrun : coreTaskRuns s lc = false) : haccOpenS lc s = s := by
  simp only [haccOpenS, hrun, Bool.not_false, if_true]

theorem haccCfgS_sets {width op : Nat} (hrun : coreTaskRuns s lc = true) (hw : width ≤ 256) (hop : op ≤ 3) :
    haccCfgS lc width op s = setHacc lc { hacc s lc with width := width, op := op } s := by
  refine if_neg ?_
  rw [hrun]
  simp [hw, hop]

theorem haccCfgS_ignored {width op : Nat} (h : 256 < width ∨ 3 < op ∨ coreTaskRuns s lc = false) :
    haccCfgS lc width op s = s :=
  if_pos (h.imp_right (Or.imp_right (fun hrun => by rw [hrun]; rfl)))

theorem exec_haccContribution {c j : Nat} (key : Nat) (elems : List W32) (task piece seq : Nat) (hlc : lc < nLc s)
    (hc : c < nLc s) (hj : j < 8) : exec (.haccContribution lc key elems task piece seq c j) s =
      .next (haccAdd lc (haccContrib s (16 * c + j) key elems task piece seq) s) :=
  onUnit_present _ (by simp [hlc, hc, hj])

end Rows

end Sys2Proof.Machine

namespace Sys2Proof.Proofs

open Sys2Proof.Machine

/-- Settles O37: one equation per row and outcome; a contribution goes by `haccAdd`, `haccTake` and `haccInsert`. What an
opening keeps of its cycle is the model's choice, as are recent use and the room of the spill log (assumption log 39); so
is a WIDTH of 257 to 511 that changes nothing, of which R182 is silent. -/
theorem hashAccumulatorTakesRows : Obligations.HashAccumulatorTakesRows := by
  intro lc c j key task piece seq elems s hlc hc hj h x e mine i
  have hunit : decide (lc < nLc s) = true := decide_eq_true hlc
  have hexec : exec i s = .next (haccAdd lc e s) := exec_haccContribution key elems task piece seq hlc hc hj
  have hwidth (hlen : elems.length = h.width) : e.elems.length = h.width := (List.length_map ..).trans hlen
  refine ⟨fun hrun => ⟨?_, fun width op => ⟨fun hw hop => ?_, fun hbad => ?_⟩⟩,
    fun hidle => ⟨?_, fun width op => ?_⟩, fun hw => ?_, fun hw hlen hd => ?_,
    fun hw hlen hd hlate => ⟨fun y rest hf hy => ?_, fun hnew => ⟨fun hfree => ?_, fun y rest hfull hy => ?_⟩⟩⟩
  · exact onUnit_next hunit (haccOpenS_runs hrun)
  · exact onUnit_next hunit (haccCfgS_sets hrun hw hop)
  · exact onUnit_next hunit (haccCfgS_ignored (hbad.imp_right .inl))
  · exact onUnit_next hunit (haccOpenS_idle hidle)
  · exact onUnit_next hunit (haccCfgS_ignored (.inr (.inr hidle)))
  · rw [hexec, haccAdd_closed hw]
    rfl
  · rw [hexec, haccAdd_draining hw (hwidth hlen) hd]
  · rw [hexec, haccAdd_open hw (hwidth hlen) hd hlate, haccTake_present (e := e) hf hy]
    rfl
  · rw [hexec, haccAdd_open hw (hwidth hlen) hd hlate, haccTake_newWay hnew, haccInsert_free (e := e) hfree]
  · intro log hroom
    rw [hexec, haccAdd_open hw (hwidth hlen) hd hlate, haccTake_newWay hnew, haccInsert_spills (e := e) hfull hy hroom]

/-- Settles O38: the contribution enters a full set with no room in the log (`haccInsert_drops`). That full means the room
which the bytes of an entry leave in the log, is the model's choice (assumption log 39). -/
theorem evictionIntoAFullLog : Obligations.EvictionIntoAFullLog := by
  intro lc c j key task piece seq elems s x rest hlc hc hj h hw hlen hd hlate hnew hfull hx hlog
  let e := haccContrib s (16 * c + j) key elems task piece seq
  have hwidth : e.elems.length = h.width := (List.length_map ..).trans hlen
  have hexec := exec_haccContribution key elems task piece seq hlc hc hj
  rw [haccAdd_open hw hwidth hd hlate, haccTake_newWay hnew, haccInsert_drops (e := e) hfull hx hlog] at hexec
  refine ⟨_, hexec, ?_, ?_, ?_, fun k hk => ?_, rfl, rfl⟩
  · rw [hacc_setHacc_same]
  · rw [hacc_setHacc_same]
  · rw [hacc_setHacc_same]
  · rw [hacc_setHacc_other _ _ hk, hacc_haccDrop, hacc_setHacc_other _ _ hk]

end Sys2Proof.Proofs
end

section
/-! What a requester does with the answers to its pool requests, and with silence (R172, R174, R223, R398); the statement of
05_gather_scatter.md on them. -/

namespace Sys2Proof.Machine

/-- What a current packet that makes no access does, it does on the state that has its digest, and the credits of its port
go back (R393, R397). -/
theorem exec_current_of_perform {i : Instr} {h : Hdr} {s t : State} (hexec : exec i s = .next (takePacket i s))
    (hc : current s i h) (hp : poolAccess i = false) (ht : perform i (digest false h.src i s) = t) :
    exec i s = .next (returnCredits i h t) := by
  subst ht
  have hi : hdrOf i = some h := hc.1.1
  rw [hexec, takePacket_current hc]
  simp only [handle, hi, hp, Bool.false_eq_true, if_false]

section Answered

variable {h : Hdr} {p : Pend} {u : State} (hf : findPend u h.tag = some p)

-- Data (R172, R173).

section Data

variable (poison : Nat) (d : List Byte)

include hf

theorem recvPoolData_found (hot : Bool) : recvPoolData h hot poison d u =
    takeData p hot ((List.range (d.length / 32)).map (fun k => poison.testBit k)) d u := by
  simp only [recvPoolData, hf]

theorem recvPoolData_demand {r : Requester} {g n : Nat} (hk : p.kind = .demand r g n) :
    recvPoolData h false poison d u = landRead r g (slice d (gLocal g - gLocal g / 32 * 32) n)
      ((List.range (d.length / 32)).map (fun k => poison.testBit k)) (dropPend p.tag u) := by
  simp only [recvPoolData_found hf, takeData, hk, Bool.false_eq_true, if_false]

theorem recvPoolData_gather {no k off : Nat} {j : FuncJob} {g : GatherIn} (hk : p.kind = .gather no k off)
    (hg : gatherOf u no = some (j, g)) : recvPoolData h false poison d u =
      closeFunc no (landGatherRow no k off (d.take (g.rowBytes - off))
        ((List.range (d.length / 32)).map (fun k => poison.testBit k)) (dropPend p.tag u)) := by
  simp only [recvPoolData_found hf, takeData, hk, hg, Bool.false_eq_true, if_false]

end Data

-- Acknowledgements (R49, R222).

section Ack

include hf

theorem recvPoolAck_ends (st : Nat)
    (hk : (∃ c, p.kind = .write c) ∨ (∃ t r, p.kind = .rowUpdate t r) ∨ (∃ t r, p.kind = .mig t r)) :
    recvPoolAck h st u = dropPend p.tag u := by
  obtain ⟨c, hk⟩ | ⟨t, r, hk⟩ | ⟨t, r, hk⟩ := hk
  · simp only [recvPoolAck, hf, hk]
  · simp only [recvPoolAck, hf, hk]
  · simp only [recvPoolAck, hf, hk]

theorem recvPoolAck_forwarded (st : Nat) {src tag : Nat} (hk : p.kind = .fwd src tag) :
    recvPoolAck h st u = ackTo (senderHdr u src tag) st (dropPend p.tag u) := by
  simp only [recvPoolAck, hf, hk]

end Ack

-- Errors (R174, R398, R482).

theorem recvPoolErr_replaced {reason epoch : Nat} (hr : reason = 1) (he : epochOf u < epoch) :
    recvPoolErr h reason epoch u = enterQuarantine u :=
  if_pos ⟨hr, he⟩

include hf in
theorem recvPoolErr_found {reason epoch : Nat} (hr : ¬ (reason = 1 ∧ epochOf u < epoch)) :
    recvPoolErr h reason epoch u = failRequest p reason u := by
  simp only [recvPoolErr, hr, hf, if_false]

section Failed

variable {reason : Nat}

theorem failRequest_demand {r : Requester} {g n : Nat} (hk : p.kind = .demand r g n) : failRequest p reason u =
    if reason = 2 then badRead r (replyOf u r).base (replyOf u r).data.length (dropReads r u)
    else remoteReadFail r (replyOf u r).base (replyOf u r).data.length u := by
  simp only [failRequest, hk, failRead]

theorem failRequest_gather {no k off : Nat} (hk : p.kind = .gather no k off) :
    failRequest p reason u = closeFunc no (dropGatherRow no k false (dropPend p.tag u)) := by
  simp only [failRequest, hk]

theorem failRequest_write {c : Option Nat} (hk : p.kind = .write c) :
    failRequest p reason u = refuseWrite p.tag reason u := by
  simp only [failRequest, hk]

end Failed

-- A read sent again to the home that a forwarding reply names (R223).

/-- Request `p` is now to package `home`. -/
def redirected (p : Pend) (home : Nat) (u : State) : State :=
  { u with fab := { u.fab with pend := u.fab.pend.map (fun x => if x.tag = p.tag then { x with dst := home } else x) } }

/-- The read of `n` sectors from `off` in row `row` of table `t` by request `p`, at the home and slot named. -/
def readAtHome (p : Pend) (t row off n home slot : Nat) (tb : Table) (v : State) : Instr :=
  .poolRead (mkHdr v home p.tag)
    (remoteRowAddr tb t (if slot = noSlot then tb.firstHome row else home) home row slot + off) n

theorem resendRead_sent {t row off n home slot : Nat} {tb : Table} (hhome : home ≠ pkgNo u)
    (hmember : isMember u home = true)
    (hsent : (sendPacket (readAtHome p t row off n home slot tb (redirected p home u)) (redirected p home u)).2 = true) :
    resendRead p t row off n home slot tb u =
      (sendPacket (readAtHome p t row off n home slot tb (redirected p home u)) (redirected p home u)).1 := by
  simp only [resendRead, hhome, hmember, Bool.not_true, Bool.false_eq_true, if_false]
  exact if_pos hsent

section Forward

variable (home slot : Nat)

include hf

theorem recvPoolFwd_gather {no k off t : Nat} {j : FuncJob} {g : GatherIn} {tb : Table} (hk : p.kind = .gather no k off)
    (hg : gatherOf u no = some (j, g)) (ht : g.table = some t) (htb : table u t = some tb) : recvPoolFwd h home slot u =
      resendRead p t (g.uniq.getD k 0) off (sectorCount 0 (Nat.min 4096 (g.rowBytes - off))) home slot tb u := by
  simp only [recvPoolFwd, hf, hk, hg, ht, htb, Option.bind_some, Option.map_some]

theorem recvPoolFwd_demand {r : Requester} {g n t o row : Nat} {tb : Table} (hk : p.kind = .demand r g n)
    (ht : remoteTableAt u (gPkg g) (gLocal g) = some (t, tb, o))
    (hone : (rowParts tb (gLocal g - o) (gLocal g) n).length ≤ 1)
    (hrow : rowAtIndex tb (gPkg g) (o / rowStride tb.payload) = some row) : recvPoolFwd h home slot u =
      resendRead p t row (o % rowStride tb.payload / 32 * 32) (sectorCount (gLocal g) n) home slot tb u := by
  simp only [recvPoolFwd, hf, hk, resendDemand, ht, Nat.not_lt.mpr hone, hrow, if_false]

end Forward

end Answered

-- Silence (R174, R398).

section Timeout

variable {tag : Nat} {p : Pend} {s : State} (hf : findPend s tag = some p)

include hf

theorem remoteTimeoutS_demand {r : Requester} {g n : Nat} (hk : p.kind = .demand r g n) :
    let u := reachTime (p.time + s.pool.gthCfg.timeoutUs * 1000) s
    remoteTimeoutS tag s = remoteReadFail r (replyOf u r).base (replyOf u r).data.length u := by
  simp only [remoteTimeoutS, hf, hk, failRead]

theorem remoteTimeoutS_gather {no k off : Nat} (hk : p.kind = .gather no k off) : remoteTimeoutS tag s =
    closeFunc no (dropGatherRow no k false (dropPend tag
      (reachTime (p.time + s.pool.gthCfg.timeoutUs * 1000) s))) := by
  simp only [remoteTimeoutS, hf, hk]

end Timeout

end Sys2Proof.Machine

namespace Sys2Proof.Proofs

open Sys2Proof.Machine

/-- Settles O41: each answer acts on the state with its digest (`exec_current_of_perform`), by the equation of the request
that it answers. That an acknowledgement of a reserved STATUS ends the request, and that a read goes again under its TAG,
are the model's reading (assumption log 52). -/
theorem poolRepliesTaken : Obligations.PoolRepliesTaken := by
  intro s h p
  refine ⟨fun poison d => ?_, fun st => ?_, fun reason epoch => ?_, fun home slot => ?_, fun hf => ⟨?_, ?_⟩⟩
  · intro i hc u hf marks
    refine ⟨fun r g n hk => ?_, fun no k off j g hk hg => ?_⟩
    · exact exec_current_of_perform rfl hc rfl (recvPoolData_demand hf poison d hk)
    · exact exec_current_of_perform rfl hc rfl (recvPoolData_gather hf poison d hk hg)
  · intro i hc u hf
    refine ⟨fun hk => ?_, fun src tag hk => ?_⟩
    · exact exec_current_of_perform rfl hc rfl (recvPoolAck_ends hf st hk)
    · exact exec_current_of_perform rfl hc rfl (recvPoolAck_forwarded hf st hk)
  · intro i hc u
    refine ⟨fun hr he => ?_, fun hr hf => ⟨fun r g n hk => ?_, fun no k off hk => ?_, fun c hk => ?_⟩⟩
    · exact exec_current_of_perform rfl hc rfl (recvPoolErr_replaced hr he)
    · exact exec_current_of_perform rfl hc rfl ((recvPoolErr_found hf hr).trans (failRequest_demand hk))
    · exact exec_current_of_perform rfl hc rfl ((recvPoolErr_found hf hr).trans (failRequest_gather hk))
    · exact exec_current_of_perform rfl hc rfl ((recvPoolErr_found hf hr).trans (failRequest_write hk))
  · intro i hc u hf hhome hmember again
    refine ⟨fun no k off j g t tb hk hg ht htb hsent => ?_, fun r g n t tb o row hk ht hone hrow hsent => ?_⟩
    · exact exec_current_of_perform rfl hc rfl ((recvPoolFwd_gather hf home slot hk hg ht htb).trans
        (resendRead_sent hhome hmember hsent))
    · exact exec_current_of_perform rfl hc rfl ((recvPoolFwd_demand hf home slot hk ht hone hrow).trans
        (resendRead_sent hhome hmember hsent))
  · exact fun r g n hk => congrArg Host.Outcome.next (remoteTimeoutS_demand hf hk)
  · exact fun no k off hk => congrArg Host.Outcome.next (remoteTimeoutS_gather hf hk)

end Sys2Proof.Proofs
end

section
/-! What the messages of a migration do at its target, at the old home and at the other packages of the table (R218 to
R222); the statement of 06_embedding_pool.md on them. -/

namespace Sys2Proof.Machine

section Message

variable {h : Hdr} {row t : Nat} {tb : Table} {u : State} (ht : table u t = some tb)

include ht

-- At the target (R219, R220).

/-- `tb` with slot `slot` given to a row that comes from package `src` in step `n`, which has no copy yet (R220). -/
def withShadow (src n row slot : Nat) (back : Bool) (tb : Table) : Table :=
  { tb with
    shadows := tb.shadows.filter (fun z => z.row != row) ++
      [{ row := row, source := src, start := n, slot := slot, image := none, marks := [] }]
    usedSlots := if back then tb.usedSlots else setInsert slot tb.usedSlots
    gone := tb.gone.filter (fun e => e.1 != slot) }

theorem recvSlotRequest_granted {slot rg : Nat}
    (hslot : (if tb.defaultHome row == pkgNo u then some noSlot else freeSlot tb) = some slot)
    (hregion : tb.region = some rg) :
    let v := setTable t (withShadow h.src h.step row slot (tb.defaultHome row == pkgNo u) tb) u
    recvSlotRequest h row t u = sendPlain (.slotGrant (replyHdr v h) row t slot) v := by
  simp only [recvSlotRequest, withShadow, ht, hslot, hregion]

theorem recvSlotRequest_refused
    (hno : ((tb.defaultHome row == pkgNo u) = false ∧ freeSlot tb = none) ∨ tb.region = none) :
    recvSlotRequest h row t u = sendPlain (.slotRefusal (replyHdr u h) row t) u := by
  simp only [recvSlotRequest, ht]
  rcases hno with ⟨haway, hfull⟩ | hregion
  · simp only [haway, hfull, Bool.false_eq_true, if_false]
  · rw [hregion]
    cases (if tb.defaultHome row == pkgNo u then some noSlot else freeSlot tb) with
    | none => rfl
    | some slot => rfl

/-- `tb` with the copy of a row that package `src` sends in step `n`, in the shadow that its request made (R220). -/
def withCopy (src n row : Nat) (image : List Byte) (marks : List Bool) (tb : Table) : Table :=
  { tb with shadows := tb.shadows.map (fun x =>
      if x.row = row ∧ x.source = src ∧ x.start = n then { x with image := some image, marks := marks } else x) }

theorem recvRowCopy_of_table (i : Instr) (image : List Byte) (poison : Nat) :
    let v := touchHomes ((rowStore u tb row).getD 0) image.length u
    let marks := (List.range (cdiv image.length 32)).map (fun k => poison.testBit k)
    recvRowCopy i h row t image poison u =
      if stageFits v (rowDie v tb row) (cdiv image.length 32) then
        ackTo h 0 (setTable t (withCopy h.src h.step row image marks tb) v)
      else holdWrite i v := by
  simp only [recvRowCopy, ht]
  rfl

/-- A contribution with a sequence number is staged for a shadow of its step, where it fits (R222). -/
theorem recvForwarded_shadow (i : Instr) {origin seq : Nat} {d : List Byte} (hseq : 0 < seq) (hrow : row < tb.rows)
    (hlen : (words32 d).length = tb.width)
    (hshadow : tb.shadows.any (fun x => x.row == row && x.start == h.step) = true) :
    recvForwarded i h row t origin seq d u = whenFits i tb row (words32 d) (fun v => ackTo h 0 (pushContrib
      { step := h.step, origin := origin, table := t, row := row, seq := seq, elems := words32 d, owed := none } v)) u := by
  have hgood : badRow tb row (words32 d) = false := by simp [badRow, hrow, hlen]
  simp only [recvForwarded, if_neg hseq.ne', stageForShadow, ht, hgood, hshadow, Bool.not_true, Bool.or_self,
    Bool.false_eq_true, if_false]

-- At the other packages (R221).

theorem recvDirChange_of_table (home slot : Nat) : recvDirChange h row t home slot u =
    ackTo h 0 (setTable t { tb with dirNext := tb.dirNext ++
      [{ step := h.step, origin := h.src, row := row, home := home, slot := slot }] } u) := by
  simp only [recvDirChange, ht]

-- At the old home (R220, R222).

theorem recvSlotRefusal_of_pend (hp : (findPend u h.tag).isSome = true) : recvSlotRefusal h row t u =
    ackOwed t row (bump Cnt.embMigRefuse 0 1 (setTable t
      { tb with migs := tb.migs.filter (fun m => m.row != row || m.st != .reserving) } (dropPend h.tag u))) := by
  obtain ⟨p, hfind⟩ := Option.isSome_iff_exists.mp hp
  have htable : table (dropPend h.tag u) t = some tb := ht
  simp only [recvSlotRefusal, hfind, refuseMig, htable]

theorem recvSlotGrant_grants {slot a : Nat} {p : Pend} {m : Migration} (hp : findPend u h.tag = some p)
    (hm : tb.migs.find? (fun m => m.row == row && m.st == .reserving && m.start == p.step) = some m)
    (ha : commitAddr (dropPend h.tag u) tb row = some a) (hstep : p.step = u.step) :
    recvSlotGrant h row t slot u = grantMig t a slot h.src m tb (dropPend h.tag u) := by
  simp only [recvSlotGrant, hp, ht, hm, ha]
  exact if_pos hstep

end Message

/-- The migration that a search by row finds is one of that row. -/
theorem row_of_find_reserving {migs : List Migration} {m : Migration} {row n : Nat}
    (hm : migs.find? (fun m => m.row == row && m.st == .reserving && m.start == n) = some m) : m.row = row := by
  have hfound := List.find?_some hm
  simp only [Bool.and_eq_true, beq_iff_eq] at hfound
  exact hfound.1.1

section Grant

variable {t a slot target : Nat} {m : Migration} {tb tb' : Table} {j : Job}

/-- `tb` once migration `m` is COPYING to slot `slot` of package `target`, with `n` sequence numbers given, and its
directory change is staged by package `own` (R220 to R222). -/
def grantedTable (own slot target n : Nat) (m : Migration) (tb : Table) : Table :=
  { tb with
    migs := tb.migs.map (fun y =>
      if y.row = m.row then { y with st := .copying, newSlot := slot, seqNo := n } else y)
    dirNext := tb.dirNext ++ [{ step := m.start, origin := own, row := m.row, home := target, slot := slot }] }

/-- `s` once the row's copy has gone to `target`, its bytes and marks those of `r` (R220). -/
def sentCopy (t row target : Nat) (r : List Byte × List Bool) (s : State) : State :=
  (sendReq target (.mig t row) (fun g => .rowCopy g row t r.1 (bitmap r.2)) s).1

/-- `s` once the directory change has gone to every member of `members` but this package (R221, assumption log 30). -/
def sentChanges (t row target slot : Nat) (members : List Nat) (s : State) : State :=
  (members.filter (fun q => q != pkgNo s)).foldl
    (fun s q => (sendReq q (.mig t row) (fun g => .directoryChange g row t target slot) s).1) s

/-- In a job, the old home commits the row, stamps and reads it, and sends copy, changes and staged contributions. -/
theorem grantMig_sends (s : State) :
    let r := takeMigImage tb a m.start (commitRow t m.row s)
    let w := r.2.2
    let mine := rowContribs w t m.row m.start
    table w t = some tb' →
    let y := sentCopy t m.row target (r.1, r.2.1)
      (setTable t (grantedTable (pkgNo w) slot target mine.length m tb') w)
    y.job = some j →
    grantMig t a slot target m tb s =
      forwardStaged t m.row target mine (clearOwed t m.row (sentChanges t m.row target slot j.members y)) := by
  intro r w mine htable y hjob
  unfold y sentCopy grantedTable at hjob
  have hcommitted : table (takeMigImage tb a m.start (commitRow t m.row s)).2.2 t = some tb' := htable
  simp only [grantMig, hcommitted]
  rw [hjob]
  rfl

end Grant

end Sys2Proof.Machine

namespace Sys2Proof.Proofs

open Sys2Proof.Machine

/-- Settles O42: each message is current, so it does what its package makes of it on the state that has its digest, one
equation per message and outcome; a grant goes by `grantMig_sends`. That the directory change goes to every other member
of the job, and when held contributions are acknowledged, is the model's reading (assumption log 30). -/
theorem rowsMigrate : Obligations.RowsMigrate := by
  intro s h row t tb
  refine ⟨fun hc ht => ⟨fun slot rg hslot hregion => ?_, fun hno => ?_⟩, fun hc hp ht => ?_, fun image poison hc ht => ?_,
    fun home slot hc ht => ?_, fun origin seq d hc hseq ht hrow hlen hshadow hfits => ?_,
    fun slot hc p m a hp ht hm ha hstep => ?_⟩
  · exact exec_current_of_perform rfl hc rfl (recvSlotRequest_granted ht hslot hregion)
  · exact exec_current_of_perform rfl hc rfl (recvSlotRequest_refused ht hno)
  · exact exec_current_of_perform rfl hc rfl (recvSlotRefusal_of_pend ht hp)
  · refine ⟨fun hfits => ?_, fun hfull => ?_⟩
    · exact takesEffectOrWaits_of_perform rfl hc rfl ((recvRowCopy_of_table ht _ image poison).trans (if_pos hfits))
    · exact takesEffectOrWaits_of_perform rfl hc rfl
        ((recvRowCopy_of_table ht _ image poison).trans (if_neg (ne_true_of_eq_false hfull)))
  · exact exec_current_of_perform rfl hc rfl (recvDirChange_of_table ht home slot)
  · exact takesEffectOrWaits_of_perform rfl hc rfl
      ((recvForwarded_shadow ht _ hseq hrow hlen hshadow).trans (if_pos hfits))
  · intro v r w tb' htable mine c x y j hjob
    obtain rfl : m.row = row := row_of_find_reserving hm
    exact takesEffectOrWaits_of_perform rfl hc rfl
      ((recvSlotGrant_grants ht hp hm ha hstep).trans (grantMig_sends _ htable hjob))

end Sys2Proof.Proofs
end

section
/-! The update engine's commit of a row (R213, R216); the statement of 06_embedding_pool.md on it. -/

namespace Sys2Proof.Machine

section Commit

variable {t row : Nat} {tb : Table} {s : State}

/-- `s` once a row of table `t` awaits its commit no more and its contributions of the step committed are taken (R213). -/
def takenForCommit (t row : Nat) (tb : Table) (s : State) : State :=
  let v := setTable t { tb with committing := tb.committing.filter (fun r => r != row) } s
  { v with pool := { v.pool with contribs := v.pool.contribs.filter (fun c =>
      !(c.table == t && c.row == row && c.step == s.pool.commitStep)) } }

theorem commitRow_updates {c : Contrib} {cs : List Contrib} {a : Nat} (ht : table s t = some tb)
    (hawaits : tb.committing.contains row = true) (hcs : rowContribs s t row s.pool.commitStep = c :: cs)
    (ha : commitAddr (takenForCommit t row tb s) tb row = some a) : commitRow t row s =
      updateRow t row s.pool.commitStep a (sumContribs (c :: cs)) tb (takenForCommit t row tb s) := by
  unfold takenForCommit at ha ⊢
  simp only [commitRow, ht, hawaits, hcs, ha, Bool.not_true, Bool.false_eq_true, if_false, reduceCtorEq]

/-- EMB_ROW_COMMIT makes its accesses from the die of the row's update engine (R213, R371). -/
theorem takesEffect_of_commitRow {w : State} (ht : table s t = some tb)
    (hw : commitRow t row (rowBegun (rowDie s tb row) s) = w) : takesEffect (.embRowCommit t row) s w := by
  have hdie : engineDie s t row = rowDie s tb row := by simp only [engineDie, ht]
  exact takesEffect_of_whenOpen rfl (hdie.symm ▸ hw)

end Commit

/-- A row whose LAST_STEP is unset or before step `n` holds no update of `n` yet (R216). -/
theorem not_duplicate {last n : Nat} (hopen : last = max64 ∨ last < n) : ¬(last ≠ max64 ∧ n ≤ last) := by
  rintro ⟨hset, hle⟩
  exact hopen.elim hset (Nat.not_lt.mpr hle)

/-- The LAST_STEP of the row of `tb` at `a`, as its update reads it (R216). -/
def lastStepAt (tb : Table) (a : Nat) (s : State) : Nat :=
  lastStep (rowHeader tb.payload (homeRead false a (rowStride tb.payload) s).1)

-- A row whose image is free of poison (R213, R216).

section Update

variable {t row n a : Nat} {sum : List W32} {tb : Table} {s : State}
  (hclean : (homeRead false a (rowStride tb.payload) s).2.1.any id = false)

include hclean

theorem updateRow_duplicate (hset : lastStepAt tb a s ≠ max64) (hle : n ≤ lastStepAt tb a s) :
    let x := homeRead false a (rowStride tb.payload) s
    updateRow t row n a sum tb s = raise Ev.embDupCommit (srcOf 11 t) [] (bump Cnt.embDupCommit 0 1 x.2.2) := by
  simp only [updateRow, hclean, Bool.false_eq_true, if_false]
  exact if_pos ⟨hset, hle⟩

variable (hopen : lastStepAt tb a s = max64 ∨ lastStepAt tb a s < n)

include hopen

theorem updateRow_nonfinite :
    let x := homeRead false a (rowStride tb.payload) s
    updatedRow tb (hyperAt tb n) (jobId x.2.2) t row n sum x.1 = none → updateRow t row n a sum tb s =
      raise Ev.embNonfinite (srcOf 11 t) [] (bump Cnt.embUpdNonfinite 0 1 x.2.2) := by
  intro x hnone
  unfold lastStepAt at hopen
  simp only [updateRow, hclean, Bool.false_eq_true, if_false, if_neg (not_duplicate hopen), x, hnone]

theorem updateRow_written {new : List Byte} :
    let x := homeRead false a (rowStride tb.payload) s
    updatedRow tb (hyperAt tb n) (jobId x.2.2) t row n sum x.1 = some new → updateRow t row n a sum tb s =
      bump Cnt.embUpdRow 0 1 (commitWrite a new x.2.2) := by
  intro x hnew
  unfold lastStepAt at hopen
  simp only [updateRow, hclean, Bool.false_eq_true, if_false, if_neg (not_duplicate hopen), x, hnew]

end Update

end Sys2Proof.Machine

namespace Sys2Proof.Proofs

open Sys2Proof.Machine

/-- Settles O43: the commit is an update with the sum of the row's contributions (`commitRow_updates`), told apart by the
LAST_STEP of the row's image and by whether its new values are finite. -/
theorem rowsCommitted : Obligations.RowsCommitted := by
  intro s t row tb c cs a ht hawaits n v u hcs ha x last sum hclean
  have hcommit : commitRow t row (rowBegun (rowDie s tb row) s) = updateRow t row n a sum tb u :=
    commitRow_updates (s := rowBegun (rowDie s tb row) s) ht hawaits hcs ha
  refine ⟨fun hset hle => ?_, fun hopen => ⟨fun hnone => ?_, fun new hnew => ?_⟩⟩
  · exact takesEffect_of_commitRow ht (hcommit.trans (updateRow_duplicate hclean hset hle))
  · exact takesEffect_of_commitRow ht (hcommit.trans (updateRow_nonfinite hclean hopen hnone))
  · exact takesEffect_of_commitRow ht (hcommit.trans (updateRow_written hclean hopen hnew))

end Sys2Proof.Proofs
end

section
/-! The commands of tables and the gather parameters (R199, R200, R229 to R235, R596): what each answers and changes; the
statement of 06_embedding_pool.md on them. -/

namespace Sys2Proof.Machine

-- How a command is performed (R38, R371).

/-- A query answers what its function makes of the state, and changes nothing else. -/
theorem performQuery_answers {s : State} {src : CmdSrc} {op : Nat} {c : Slot} {r : Completion}
    {f : List Byte → State → Completion} (hc : performs s src op c) (hf : f c.payload s = r) :
    performQuery op src f s = recorded src c r s := by
  rw [performQuery_of f hc, hf]

/-- A command that makes accesses is performed on the state that it finds, from die 0, once they can be made (R371). -/
theorem takesEffect_of_performNow {i : Instr} {s t : State} {src : CmdSrc} {op : Nat} {c : Slot} {r : Completion}
    {f : List Byte → State → State × Completion} (hexec : exec i s = .next (whenOpen 0 (performNow op src f) s))
    (hc : performs s src op c) (hf : f c.payload (rowBegun 0 s) = (t, r)) : takesEffect i s (recorded src c r t) := by
  have hbegun : performs (rowBegun 0 s) src op c := hc
  exact takesEffect_of_whenOpen hexec (performNow_answers hbegun hf)

-- CMD_EMB_TABLE_CREATE (R229, R230).

section Create

variable {p : List Byte} {s : State}

theorem embCreate_badParam (h : createOk p = false) : embCreate p s = (s, failWith St.badParam 1) := by
  simp only [embCreate, h, Bool.not_false, if_true]

theorem embCreate_inUse (h : createOk p = true) {tb : Table} (ht : table s (field p 0 16) = some tb) :
    embCreate p s = (s, failWith St.inUse 2) := by
  simp only [embCreate, h, ht, Bool.not_true, Bool.false_eq_true, if_false, Option.isSome_some, if_true]

theorem embCreate_creates (h : createOk p = true) (ht : table s (field p 0 16) = none)
    (hways : waysFit s (waysFor (jobMib s).1 (jobMib s).2 (dirEntriesAll s + field p 160 32)) = true) {id : Option Nat}
    {u : State} (hregion : tableRegion p s = some (id, u)) : embCreate p s =
      (raise Ev.embTable (srcOf 11 (field p 0 16)) [] (reserveWays (setTable (field p 0 16) (freshTable p id) u)),
        okWith []) := by
  simp only [embCreate, h, ht, hways, hregion, Bool.not_true, Bool.false_eq_true, if_false, Option.isSome_none]

end Create

section Named

variable {p : List Byte} {s : State} {tb : Table} (ht : table s (field p 0 16) = some tb)

include ht

-- CMD_EMB_TABLE_DESTROY (R596).

/-- A region that a table may have had is gone. -/
def dropRegion (r : Option Nat) (s : State) : State :=
  match r with
  | some id => destroyRegion id s
  | none => s

theorem embDestroy_destroys (hres : field p 16 16 = 0) :
    let u := tb.heirs.foldl (fun s h => dropRegion h.region s) (dropRegion tb.region (unbind (field p 0 16) s))
    embDestroy p s = (raise Ev.embTable (srcOf 11 (field p 0 16)) []
      (reserveWays { u with pool := { u.pool with tables := mapDel u.pool.tables (field p 0 16) } }), okWith []) := by
  simp only [embDestroy, ht, hres, ne_eq, not_true_eq_false, if_false]
  rfl

-- CMD_EMB_WRITE_ROWS and CMD_EMB_READ_ROWS (R231, R232).

/-- `s` with the `n` rows that a CMD_EMB_WRITE_ROWS payload gives written, at `w` bytes an entry (R231). -/
def writeEntries (p : List Byte) (tb : Table) (w n : Nat) (s : State) : State :=
  (List.range n).foldl (fun s k => match rowAddr s tb (entryRow p w k) with
    | some a => homeWrite a (slice p (8 + w * k + 8) (w - 8)) s
    | none => s) s

section Write

variable (hres : field p 16 16 = 0) (hlen : p.length ≤ 524288)

include hres hlen

theorem embWriteRows_writes (hhome : firstForeign s tb p (8 + rowStride tb.payload) (field p 32 32) = none) :
    embWriteRows p s =
      (writeEntries p tb (8 + rowStride tb.payload) (field p 32 32) (commitTable (field p 0 16) s), okWith []) := by
  simp only [embWriteRows, ht, hhome]
  exact if_neg (by omega)

theorem embWriteRows_foreign {k : Nat}
    (hforeign : firstForeign s tb p (8 + rowStride tb.payload) (field p 32 32) = some k) :
    embWriteRows p s = (s, badEntry k) := by
  simp only [embWriteRows, ht, hforeign]
  exact if_neg (by omega)

end Write

section Read

variable (hres : field p 16 16 = 0) (hlen : field p 32 32 * (8 + rowStride tb.payload) ≤ 524288)

include hres hlen

theorem embReadRows_reads (hhome : firstForeign s tb p 8 (field p 32 32) = none) :
    let x := (List.range (field p 32 32)).foldl (fun acc k => rowEntry tb acc (entryRow p 8 k))
      ([], commitTable (field p 0 16) s)
    embReadRows p s = (x.2, okWith x.1) := by
  simp only [embReadRows, ht, hhome]
  exact if_neg (by omega)

theorem embReadRows_foreign {k : Nat} (hforeign : firstForeign s tb p 8 (field p 32 32) = some k) :
    embReadRows p s = (s, badEntry k) := by
  simp only [embReadRows, ht, hforeign]
  exact if_neg (by omega)

end Read

-- CMD_EMB_SET_HYPER and CMD_EMB_MIGRATE (R233, R234).

theorem embSetHyper_applies (hres : field p 16 48 = 0) (hlr : finite32 p 64 true = true)
    (hwd : finite32 p 96 true = true) (hgs : finite32 p 128 false = true) :
    let word := fun lo => BitVec.ofNat 32 (field p lo 32)
    let e : Nat × HyperSet :=
      (Nat.max (field p 160 64) (firstOpenStep s), { lr := word 64, wd := word 96, gs := word 128 })
    embSetHyper p s = (setTable (field p 0 16) { tb with hyperNext := tb.hyperNext ++ [e] } s, okWith []) := by
  simp only [embSetHyper, ht, hres, hlr, hwd, hgs, ne_eq, not_true_eq_false, Bool.not_true, Bool.false_eq_true, or_self,
    if_false]

theorem embMigrate_queues (hres : field p 28 36 = 0) (hen : tb.migEnable = true) (hrow : field p 64 64 < tb.rows)
    (hhome : tb.home (field p 64 64) = pkgNo s) (hother : field p 16 12 ≠ pkgNo s)
    (hmember : isMember s (field p 16 12) = true) : embMigrate p s =
      (setTable (field p 0 16) { tb with queued := tb.queued ++ [(field p 64 64, field p 16 12)] } s, okWith []) := by
  simp only [embMigrate, ht, hres, hen, hhome, hother, hmember, Nat.not_le.mpr hrow, ne_eq, not_true_eq_false,
    Bool.not_true, Bool.false_eq_true, or_self, if_false]

-- CMD_EMB_DIR_READ and CMD_EMB_INFO (R235, R596).

theorem embDirRead_answers (hres : field p 16 16 = 0) (hlo : 1 ≤ field p 64 32) (hhi : field p 64 32 ≤ 32768) :
    embDirRead p s = okWith (((tb.dir.drop (field p 32 32)).take (field p 64 32)).flatMap (fun e =>
      pack 16 [(0, 40, e.row), (40, 12, e.home), (64, 32, e.slot)])) := by
  simp only [embDirRead, ht]
  refine if_neg ?_
  omega

theorem embInfo_answers (hres : field p 16 16 = 0) :
    let hy := hyperAt tb (firstOpenStep s)
    let b := splice (splice (splice tb.payload 24 (toLE 4 hy.lr.toNat)) 40 (toLE 4 hy.wd.toNat)) 44 (toLE 4 hy.gs.toNat)
    embInfo p s = okWith (padTo 576 b ++ pack 24 [
      (0, 32, rowStride tb.payload),
      (32, 32, if tb.homes.contains (pkgNo s) then tb.migSlots - tb.usedSlots.length else 0),
      (64, 64, localRows tb.payload tb.homes (pkgNo s)), (128, 32, tb.dir.length), (160, 1, bit tb.bind.isSome),
      (161, 1, bit (tb.bind == some true))]) := by
  simp only [embInfo, ht, hres, ne_eq, not_true_eq_false, if_false]

end Named

-- CMD_GTH_CONFIG (R199).

section GatherConfig

variable {p : List Byte} {s : State}

theorem gthConfig_sets {g : GthCfg} (h : gthCfgOf p = some g) :
    gthConfig p s = ({ s with pool := { s.pool with gthCfgNext := g } }, okWith []) := by
  simp only [gthConfig, h]

theorem gthConfig_badParam (h : gthCfgOf p = none) : gthConfig p s = (s, failWith St.badParam 0) := by
  simp only [gthConfig, h]

end GatherConfig

end Sys2Proof.Machine

namespace Sys2Proof.Proofs

open Sys2Proof.Machine

/-- Settles O44: one equation per command and outcome; the commands that write or read rows also wait for their accesses
(`takesEffect_of_performNow`). -/
theorem tableCommands : Obligations.TableCommands := by
  intro s src c
  refine ⟨fun hc hok ht hways id u hregion => ?_, fun hc hbad => ?_, fun tb ht => ⟨fun hc hok => ?_, fun hc hres => ?_,
    ⟨fun hc hres hlen => ⟨fun hhome => ?_, fun k hforeign => ?_⟩,
      fun hc hres hlen => ⟨fun hhome => ?_, fun k hforeign => ?_⟩⟩,
    fun hc hres hlr hwd hgs => ?_, fun hc hres hen hrow hhome hother hmember => ?_, fun hc hres hlo hhi => ?_,
    fun hc hres => ?_⟩, fun hc => ⟨fun g hg => ?_, fun hbad => ?_⟩, fun hc => ?_⟩
  -- creating
  · exact congrArg Host.Outcome.next (performNow_answers hc (embCreate_creates hok ht hways hregion))
  · exact congrArg Host.Outcome.next (performNow_answers hc (embCreate_badParam hbad))
  · exact congrArg Host.Outcome.next (performNow_answers hc (embCreate_inUse hok ht))
  -- destroying
  · exact congrArg Host.Outcome.next (performNow_answers hc (embDestroy_destroys ht hres))
  -- writing and reading rows
  · exact takesEffect_of_performNow rfl hc (embWriteRows_writes (s := rowBegun 0 s) ht hres hlen hhome)
  · exact takesEffect_of_performNow rfl hc (embWriteRows_foreign (s := rowBegun 0 s) ht hres hlen hforeign)
  · exact takesEffect_of_performNow rfl hc (embReadRows_reads (s := rowBegun 0 s) ht hres hlen hhome)
  · exact takesEffect_of_performNow rfl hc (embReadRows_foreign (s := rowBegun 0 s) ht hres hlen hforeign)
  -- tuning and migrating
  · exact congrArg Host.Outcome.next (performNow_answers hc (embSetHyper_applies ht hres hlr hwd hgs))
  · exact congrArg Host.Outcome.next
      (performNow_answers hc (embMigrate_queues ht hres hen hrow hhome hother hmember))
  -- answering
  · exact congrArg Host.Outcome.next (performQuery_answers hc (embDirRead_answers ht hres hlo hhi))
  · exact congrArg Host.Outcome.next (performQuery_answers hc (embInfo_answers ht hres))
  -- gather parameters
  · exact congrArg Host.Outcome.next (performNow_answers hc (gthConfig_sets hg))
  · exact congrArg Host.Outcome.next (performNow_answers hc (gthConfig_badParam hbad))
  · exact congrArg Host.Outcome.next (performQuery_of gthInfo hc)

end Sys2Proof.Proofs
end

section
/-! The instructions of the matrix arrays and the tensor table (R266, R267, R273 to R275, R284, R288, R463): how an MMA is
issued and retires, what waits for it, and what the tensor commands answer; the statement of 08_matrix_arrays.md on them. -/

namespace Sys2Proof.Machine

-- Issuing an MMA (R274, R275).

/-- What stands in the queue for an MMA of context `x` with descriptor `d`, issued in state `u` (R275). -/
def mmaEntry (x : Nat) (faults : List TileFault) (t : Task) (d : List Byte) (u : State) : EngInst :=
  { no := u.eng.nextNo
    x := x
    task := t
    desc := d
    fmts := mmFmts u d
    fexp := mmFexp u d (mmFmts u d)
    mark := u.mem.written.length
    accMark := u.eng.accWritten.length
    faults := faults }

/-- State `u` with that entry at the end of the queue of its array, and the next instruction's number risen. -/
def mmaQueued (lc x : Nat) (faults : List TileFault) (t : Task) (d : List Byte) (u : State) : State :=
  let e := engKey lc (mmArray d)
  takeNumber (setEngine e { engine u e with queue := (engine u e).queue ++ [mmaEntry x faults t d u] } u)

/-- The head of a queue starts with all its tiles, at once (assumption log 37). -/
theorem mmStart_of_head {e : Nat} {s : State} {i : EngInst} {rest : List EngInst} (hq : (engine s e).queue = i :: rest) :
    mmStart e s = runTiles e (mmTiles i.desc i.fmts) i.faults s := by
  simp only [mmStart, hq]

/-- In an empty queue the entry is the head. -/
theorem queue_mmaQueued_of_empty (lc x : Nat) (faults : List TileFault) (t : Task) {d : List Byte} {u : State}
    (hempty : (engine u (engKey lc (mmArray d))).queue = []) :
    (engine (mmaQueued lc x faults t d u) (engKey lc (mmArray d))).queue = [mmaEntry x faults t d u] := by
  show (engine (setEngine _ _ u) _).queue = _
  rw [engine_setEngine_same, hempty, List.nil_append]

section Issue

variable {lc x desc : Nat} {faults : List TileFault} {t : Task} {s : State}

theorem mmaS_issues (ht : (ctx s lc x).task = some t) (hw : (ctx s lc x).wait = .none)
    (hsusp : (ctx s lc x).suspending = false) : mmaS lc x desc faults s = mmaIssue lc x desc faults t s := by
  simp only [mmaS, ht, mayIssue_of_task ht hw hsusp, if_true]

variable {d : List Byte} {marks : List Bool} {v u : State} (hread : coreRead lc desc 128 s = (d, marks, v))
  (hpoison : consumePoison lc marks v = u)

include hread hpoison

theorem mmaIssue_full (hfull : 8 ≤ (engine u (engKey lc (mmArray d))).queue.length) :
    mmaIssue lc x desc faults t s = setCtx lc x { ctx u lc x with wait := .issue (.mma lc x desc faults) } u := by
  simp only [mmaIssue, hread, hpoison, if_pos hfull]

variable (hroom : (engine u (engKey lc (mmArray d))).queue.length < 8)

include hroom

theorem mmaIssue_bad (hbad : mmReason u lc d (mmFmts u d) ≠ 0) :
    mmaIssue lc x desc faults t s = mmBad lc x (mmArray d) (mmReason u lc d (mmFmts u d)) u := by
  simp only [mmaIssue, hread, hpoison, if_neg (Nat.not_le.mpr hroom), if_pos hbad]

variable (hgood : mmReason u lc d (mmFmts u d) = 0)

include hgood

theorem mmaIssue_good : mmaIssue lc x desc faults t s =
    if (engine u (engKey lc (mmArray d))).queue = [] then
      mmStart (engKey lc (mmArray d)) (mmaQueued lc x faults t d u)
    else mmaQueued lc x faults t d u := by
  simp only [mmaIssue, hread, hpoison, if_neg (Nat.not_le.mpr hroom), if_neg (not_not_intro hgood), mmaQueued, mmaEntry]

theorem mmaIssue_starts (hempty : (engine u (engKey lc (mmArray d))).queue = []) : mmaIssue lc x desc faults t s =
    runTiles (engKey lc (mmArray d)) (mmTiles d (mmFmts u d)) faults (mmaQueued lc x faults t d u) := by
  rw [mmaIssue_good hread hpoison hroom hgood, if_pos hempty,
    mmStart_of_head (queue_mmaQueued_of_empty lc x faults t hempty), mmaEntry]

theorem mmaIssue_queues (hbusy : (engine u (engKey lc (mmArray d))).queue ≠ []) :
    mmaIssue lc x desc faults t s = mmaQueued lc x faults t d u := by
  rw [mmaIssue_good hread hpoison hroom hgood, if_neg hbusy]

end Issue

-- Retiring an MMA (R463), and waiting for it (R275).

section Retire

variable {lc a : Nat} (busy stallA stallB wait : Nat) {s : State} {i : EngInst} {rest : List EngInst}
  (hq : (engine s (engKey lc a)).queue = i :: rest)

include hq

theorem mmaRetireS_unsettled (hset : tilesSettled s (engKey lc a) = false) :
    mmaRetireS lc a busy stallA stallB wait s = s := by
  simp only [mmaRetireS, hq, hset, Bool.false_eq_true, if_false]

theorem mmaRetireS_settled (hset : tilesSettled s (engKey lc a) = true) :
    mmaRetireS lc a busy stallA stallB wait s = mmaFinish lc a busy stallA stallB wait i rest s := by
  simp only [mmaRetireS, hq, hset, if_true]

end Retire

section Wait

variable {lc x a : Nat} {s : State}

theorem mxWaitS_waits {t : Task} (ht : (ctx s lc x).task = some t) (hw : (ctx s lc x).wait = .none)
    (hsusp : (ctx s lc x).suspending = false) (hown : queuedFor s (engKey lc a) x = true) :
    mxWaitS lc x a s = setCtx lc x { ctx s lc x with wait := .array a } s :=
  if_pos ⟨mayIssue_of_task ht hw hsusp, hown⟩

theorem mxWaitS_passes (hown : queuedFor s (engKey lc a) x = false) : mxWaitS lc x a s = s :=
  if_neg fun h => ne_true_of_eq_false hown h.2

end Wait

-- The tensor table (R266, R267).

section Tensor

variable {p : List Byte} {s : State}

theorem tensorSet_empties (hres : field p 0 12 ≠ 4095) (hzero : field p 12 52 = 0) (himage : leNat (slice p 8 64) = 0) :
    tensorSet p s = (clearTensorCounters (field p 0 12)
      { s with eng := { s.eng with tensors := mapDel s.eng.tensors (field p 0 12) } }, okWith []) :=
  if_pos ⟨hres, hzero, himage⟩

/-- An image that is not all zero is judged by the checks of R267. -/
theorem tensorSet_judges (himage : leNat (slice p 8 64) ≠ 0) : tensorSet p s =
    if tensorBad s p ≠ 0 then (s, failWith St.badParam (tensorBad s p))
    else (clearTensorCounters (field p 0 12) { s with eng := { s.eng with
      tensors := mapSet s.eng.tensors (field p 0 12) (newTensor (slice p 8 64)) } }, okWith []) :=
  if_neg fun h => himage h.2.2

theorem tensorSet_renews (himage : leNat (slice p 8 64) ≠ 0) (hok : tensorBad s p = 0) : tensorSet p s =
    (clearTensorCounters (field p 0 12) { s with eng := { s.eng with
      tensors := mapSet s.eng.tensors (field p 0 12) (newTensor (slice p 8 64)) } }, okWith []) := by
  rw [tensorSet_judges himage, if_neg (not_not_intro hok)]

theorem tensorSet_refuses (himage : leNat (slice p 8 64) ≠ 0) (hbad : tensorBad s p ≠ 0) :
    tensorSet p s = (s, failWith St.badParam (tensorBad s p)) := by
  rw [tensorSet_judges himage, if_pos hbad]

theorem tensorInfo_answers (hres : field p 0 12 ≠ 4095) (hzero : field p 12 52 = 0) : tensorInfo p s =
    let t := mapGetD s.eng.tensors (field p 0 12) emptyTensor
    okWith (tensorImage t ++ Sys2Proof.Config.tensorInfoTail
      (tensorCounters.map (fun id => ctrGet s id (field p 0 12))) t.lastConv t.lastSats) :=
  if_neg (not_or.mpr ⟨hres, not_not_intro hzero⟩)

end Tensor

end Sys2Proof.Machine

namespace Sys2Proof.Proofs

open Sys2Proof.Machine

/-- Settles O45: one equation per row and outcome, each on a unit that the device has. That all tiles of an instruction
execute when it starts is the model's choice (assumption log 37), and so is the layout of EV_MX_BAD_INSTR's payload
(assumption log 18). -/
theorem matrixInstructions : Obligations.MatrixInstructions := by
  intro lc x a s hlc hx ha
  have hctx : (decide (lc < nLc s) && decide (x < 4)) = true := by simp [hlc, hx]
  have harray : (decide (lc < nLc s) && decide (a < 2)) = true := by simp [hlc, ha]
  have hboth : (decide (lc < nLc s) && decide (x < 4) && decide (a < 2)) = true := by simp [hlc, hx, ha]
  refine ⟨fun desc faults t ht hw hsusp => ?_, fun i rest busy stallA stallB wait hq => ⟨fun hset => ?_, fun hset => ?_⟩,
    fun ht hw hsusp => ⟨fun hown => ?_, fun hown => ?_⟩, fun src c => ⟨fun hc hres hzero himage => ?_,
      fun hc himage => ⟨fun hok => ?_, fun hbad => ?_⟩, fun hc hres hzero => ?_⟩⟩
  -- MMA
  · have hissue := mmaS_issues (desc := desc) (faults := faults) ht hw hsusp
    refine ⟨fun hfull => ?_, fun hroom hbad => ?_, fun hroom hgood => ⟨fun hempty => ?_, fun hbusy => ?_⟩⟩
    · exact onUnit_next hctx (hissue.trans (mmaIssue_full rfl rfl hfull))
    · exact onUnit_next hctx (hissue.trans (mmaIssue_bad rfl rfl hroom hbad))
    · exact onUnit_next hctx (hissue.trans (mmaIssue_starts rfl rfl hroom hgood hempty))
    · exact onUnit_next hctx (hissue.trans (mmaIssue_queues rfl rfl hroom hgood hbusy))
  -- MMA_RETIRE
  · exact onUnit_next harray (mmaRetireS_unsettled busy stallA stallB wait hq hset)
  · exact onUnit_next harray (mmaRetireS_settled busy stallA stallB wait hq hset)
  -- MX_WAIT
  · obtain ⟨t, ht⟩ := Option.ne_none_iff_exists'.mp ht
    exact onUnit_next hboth (mxWaitS_waits ht hw hsusp hown)
  · exact onUnit_next hboth (mxWaitS_passes hown)
  -- CMD_MX_TENSOR_SET and CMD_MX_TENSOR_INFO
  · exact congrArg Host.Outcome.next (performNow_answers hc (tensorSet_empties hres hzero himage))
  · exact congrArg Host.Outcome.next (performNow_answers hc (tensorSet_renews himage hok))
  · exact congrArg Host.Outcome.next (performNow_answers hc (tensorSet_refuses himage hbad))
  · exact congrArg Host.Outcome.next (performQuery_answers hc (tensorInfo_answers hres hzero))

end Sys2Proof.Proofs
end

section
/-! The instructions of the vector engine (R104, R304, R305, R309, R463): how an ELEM, a PERM and a MOVE are issued and
retire, and what waits for them; the statement of 09_vector_engine.md on them. -/

namespace Sys2Proof.Machine

-- Issuing a VOP (R104, R304, R309).

/-- What stands in the queue for a VOP of context `x` with descriptor `d`, whose formats are `fmts`, issued in state `u`
(R304). -/
def vopEntry (x : Nat) (faults : List TileFault) (t : Task) (d : List Byte) (fmts : List Nat) (u : State) : EngInst :=
  { no := u.eng.nextNo
    x := x
    task := t
    desc := d
    fmts := fmts
    fexp := 0
    mark := u.mem.written.length
    accMark := u.eng.accWritten.length
    faults := faults }

/-- State `u` with entry `q` at the end of the engine's queue, its context the holder, and the next instruction's number
risen; `g` is the engine as the VOP found it. -/
def vopQueued (lc : Nat) (g : Engine) (q : EngInst) (u : State) : State :=
  takeNumber (setEngine (engKey lc 2) { g with queue := g.queue ++ [q], holder := some q.x } u)

/-- The head of the queue starts with all its tiles, at once (assumption log 37). -/
theorem veStart_of_head {lc : Nat} {s : State} {i : EngInst} {rest : List EngInst}
    (hq : (engine s (engKey lc 2)).queue = i :: rest) :
    veStart lc s = runTiles (engKey lc 2) (veTiles i.desc) i.faults s := by
  simp only [veStart, hq]

theorem queue_vopQueued (lc : Nat) (g : Engine) (q : EngInst) (u : State) :
    (engine (vopQueued lc g q u) (engKey lc 2)).queue = g.queue ++ [q] := by
  show (engine (setEngine _ _ u) _).queue = _
  rw [engine_setEngine_same]

theorem opMatches_iff {op : Nat} {d : List Byte} : opMatches op d = true ↔ veOp d = op ∨ 2 < veOp d := by
  simp [opMatches]

section Issue

variable {op lc x desc : Nat} {held : Instr} {faults : List TileFault} {t : Task} {s : State}

theorem vopS_issues (ht : (ctx s lc x).task = some t) (hw : (ctx s lc x).wait = .none)
    (hsusp : (ctx s lc x).suspending = false) :
    vopS op lc x desc held faults s = vopIssue op lc x desc held faults t s := by
  simp only [vopS, ht, mayIssue_of_task ht hw hsusp, if_true]

theorem vopIssue_held {y : Nat} (hholder : (engine s (engKey lc 2)).holder = some y) (hother : y ≠ x) :
    vopIssue op lc x desc held faults t s = setCtx lc x { ctx s lc x with wait := .issue held } s := by
  simp only [vopIssue, hholder]
  exact if_pos (Or.inl (bne_iff_ne.mpr hother))

theorem vopIssue_full (hfull : 8 ≤ (engine s (engKey lc 2)).queue.length) :
    vopIssue op lc x desc held faults t s = setCtx lc x { ctx s lc x with wait := .issue held } s :=
  if_pos (Or.inr hfull)

section Free

variable {d : List Byte} {marks : List Bool} {v u : State}
  (hfree : (engine s (engKey lc 2)).holder = none ∨ (engine s (engKey lc 2)).holder = some x)
  (hroom : (engine s (engKey lc 2)).queue.length < 8) (hread : coreRead lc desc 256 s = (d, marks, v))
  (hpoison : consumePoison lc marks v = u) (hop : veOp d = op ∨ 2 < veOp d)

include hfree hroom hread hpoison hop

/-- An engine with room that no other context holds reads the descriptor of an instruction that is the row's, and judges
it by R309. -/
theorem vopIssue_judges : vopIssue op lc x desc held faults t s =
    if veReason s lc d (veFmts s d) ≠ 0 then veBad' lc x (veReason s lc d (veFmts s d)) u
    else if (engine s (engKey lc 2)).queue = [] then
      veStart lc (vopQueued lc (engine s (engKey lc 2)) (vopEntry x faults t d (veFmts s d) u) u)
    else vopQueued lc (engine s (engKey lc 2)) (vopEntry x faults t d (veFmts s d) u) u := by
  have hroom' : ¬ 8 ≤ (engine s (engKey lc 2)).queue.length := Nat.not_le.mpr hroom
  have hop' : opMatches op d = true := opMatches_iff.mpr hop
  rcases hfree with hnone | hown
  · simp only [vopIssue, hnone, Bool.false_eq_true, hroom', or_self, if_false, hread, hop', Bool.not_true, hpoison,
      vopQueued, vopEntry]
  · simp only [vopIssue, hown, bne_self_eq_false, Bool.false_eq_true, hroom', or_self, if_false, hread, hop', Bool.not_true, hpoison,
      vopQueued, vopEntry]

theorem vopIssue_bad (hbad : veReason s lc d (veFmts s d) ≠ 0) :
    vopIssue op lc x desc held faults t s = veBad' lc x (veReason s lc d (veFmts s d)) u := by
  rw [vopIssue_judges hfree hroom hread hpoison hop, if_pos hbad]

variable (hgood : veReason s lc d (veFmts s d) = 0)

include hgood

theorem vopIssue_starts (hempty : (engine s (engKey lc 2)).queue = []) : vopIssue op lc x desc held faults t s =
    runTiles (engKey lc 2) (veTiles d) faults
      (vopQueued lc (engine s (engKey lc 2)) (vopEntry x faults t d (veFmts s d) u) u) := by
  have hhead : (engine (vopQueued lc (engine s (engKey lc 2)) (vopEntry x faults t d (veFmts s d) u) u)
      (engKey lc 2)).queue = [vopEntry x faults t d (veFmts s d) u] := by
    rw [queue_vopQueued, hempty, List.nil_append]
  rw [vopIssue_judges hfree hroom hread hpoison hop, if_neg (not_not_intro hgood), if_pos hempty, veStart_of_head hhead,
    vopEntry]

theorem vopIssue_queues (hbusy : (engine s (engKey lc 2)).queue ≠ []) : vopIssue op lc x desc held faults t s =
    vopQueued lc (engine s (engKey lc 2)) (vopEntry x faults t d (veFmts s d) u) u := by
  rw [vopIssue_judges hfree hroom hread hpoison hop, if_neg (not_not_intro hgood), if_neg hbusy]

end Free

/-- ELEM, PERM and MOVE are the VOPs of OP 0, 1 and 2, and MOVE has no tiles that a fault could meet. -/
theorem exec_vop {i : Instr} (hi : (op = 0 ∧ i = .elem lc x desc faults) ∨ (op = 1 ∧ i = .perm lc x desc faults)
    ∨ (op = 2 ∧ faults = [] ∧ i = .move lc x desc)) :
    exec i s = onUnit (lc < nLc s && x < 4) (vopS op lc x desc i faults s) := by
  rcases hi with ⟨rfl, rfl⟩ | ⟨rfl, rfl⟩ | ⟨rfl, rfl, rfl⟩
  · rfl
  · rfl
  · rfl

end Issue

-- Retiring a VOP (R305, R463), and waiting for it (R304).

section Retire

variable {lc : Nat} (busy drain wait : Nat) {s : State} {q : EngInst} {rest : List EngInst}
  (hq : (engine s (engKey lc 2)).queue = q :: rest)

include hq

theorem veRetireS_held (hheld : tilesSettled s (engKey lc 2) = false ∨ waitsForMma s lc q = true) :
    veRetireS lc busy drain wait s = s := by
  simp only [veRetireS, hq]
  refine if_neg fun hgo => ?_
  obtain ⟨hset, hmma⟩ := (Bool.and_eq_true _ _).mp hgo
  rcases hheld with hunset | hwaits
  · exact ne_true_of_eq_false hunset hset
  · exact ne_true_of_eq_false ((Bool.not_eq_true' _).mp hmma) hwaits

theorem veRetireS_settled (hset : tilesSettled s (engKey lc 2) = true) (hmma : waitsForMma s lc q = false) :
    veRetireS lc busy drain wait s = veFinish lc busy drain wait q rest s := by
  simp only [veRetireS, hq, hset, hmma, Bool.not_false, Bool.and_true, if_true]

end Retire

section Wait

variable {lc x : Nat} {s : State}

theorem veWaitS_waits {t : Task} (ht : (ctx s lc x).task = some t) (hw : (ctx s lc x).wait = .none)
    (hsusp : (ctx s lc x).suspending = false) (hown : queuedFor s (engKey lc 2) x = true) :
    veWaitS lc x s = setCtx lc x { ctx s lc x with wait := .vector } s :=
  if_pos ⟨mayIssue_of_task ht hw hsusp, hown⟩

theorem veWaitS_passes (hown : queuedFor s (engKey lc 2) x = false) : veWaitS lc x s = s :=
  if_neg fun h => ne_true_of_eq_false hown h.2

end Wait

end Sys2Proof.Machine

namespace Sys2Proof.Proofs

open Sys2Proof.Machine

/-- Settles O46: one equation per row and outcome, each on a unit that the device has. Which OP makes an instruction the
row's is the model's choice (assumption log 38), and so are the execution of all tiles when an instruction starts
(assumption log 37) and the layout of EV_VE_BAD_INSTR's payload (assumption log 18). -/
theorem vectorInstructions : Obligations.VectorInstructions := by
  intro lc x s hlc hx
  have hengine : decide (lc < nLc s) = true := decide_eq_true hlc
  have hctx : (decide (lc < nLc s) && decide (x < 4)) = true := by simp [hlc, hx]
  refine ⟨fun op desc faults i t hi ht hw hsusp => ?_, fun q rest busy drain wait hq =>
    ⟨fun hheld => ?_, fun hset hmma => ?_⟩, fun ht hw hsusp => ⟨fun hown => ?_, fun hown => ?_⟩⟩
  -- ELEM, PERM and MOVE
  · have hissue := vopS_issues (op := op) (desc := desc) (held := i) (faults := faults) ht hw hsusp
    rw [exec_vop hi]
    refine ⟨?_, fun hfree hroom hop => ⟨fun hbad => ?_, fun hgood => ⟨fun hempty => ?_, fun hbusy => ?_⟩⟩⟩
    · rintro (⟨y, hholder, hother⟩ | hfull)
      · exact onUnit_next hctx (hissue.trans (vopIssue_held hholder hother))
      · exact onUnit_next hctx (hissue.trans (vopIssue_full hfull))
    · exact onUnit_next hctx (hissue.trans (vopIssue_bad hfree hroom rfl rfl hop hbad))
    · exact onUnit_next hctx (hissue.trans (vopIssue_starts hfree hroom rfl rfl hop hgood hempty))
    · exact onUnit_next hctx (hissue.trans (vopIssue_queues hfree hroom rfl rfl hop hgood hbusy))
  -- VE_RETIRE
  · exact onUnit_next hengine (veRetireS_held busy drain wait hq hheld)
  · exact onUnit_next hengine (veRetireS_settled busy drain wait hq hset hmma)
  -- VE_WAIT
  · obtain ⟨t, ht⟩ := Option.ne_none_iff_exists'.mp ht
    exact onUnit_next hctx (veWaitS_waits ht hw hsusp hown)
  · exact onUnit_next hctx (veWaitS_passes hown)

end Sys2Proof.Proofs
end

section
/-! Signal lines (R324 to R333, R338, R339): what a signal instruction of a running task does, how lines register their
values and take messages of the tree, how stalls and waits end, and what the commands answer; the statements of
10_signal_lines.md. -/

namespace Sys2Proof.Machine

-- Signal instructions (R327, R328).

/-- Each signal instruction is a row that judges its operation by R328. -/
theorem exec_signal {lc x l : Nat} {op : SigOp} {i : Instr} (s : State)
    (hi : (op = .set ∧ i = .sigSet lc x l) ∨ (op = .clr ∧ i = .sigClr lc x l)
      ∨ (∃ r, op = .arrive ∧ i = .sigArrive lc x l r) ∨ (∃ v o, op = .wait v ∧ i = .sigWait lc x l v o)
      ∨ (∃ r, op = .read ∧ i = .sigRead lc x l r)) :
    ∃ f, exec i s = onUnit (lc < nLc s && x < 4) (sigInstr lc x l op f s) := by
  rcases hi with ⟨rfl, rfl⟩ | ⟨rfl, rfl⟩ | ⟨r, rfl, rfl⟩ | ⟨v, o, rfl, rfl⟩ | ⟨r, rfl, rfl⟩
  · exact ⟨sigPut lc x l true, rfl⟩
  · exact ⟨sigPut lc x l false, rfl⟩
  · exact ⟨arriveS lc x l r, rfl⟩
  · exact ⟨waitS lc x l v o, rfl⟩
  · exact ⟨readS lc x l r, rfl⟩

section Issue

variable {lc x l : Nat} {op : SigOp} {f : State → State} {s : State} {t : Task} (ht : (ctx s lc x).task = some t)
  (hw : (ctx s lc x).wait = .none) (hsusp : (ctx s lc x).suspending = false)

include ht hw hsusp

theorem sigInstr_judges : sigInstr lc x l op f s =
    if sigReason s lc l t.cls op = 0 then f s else sigBadInstr lc x l (sigReason s lc l t.cls op) s := by
  simp only [sigInstr, ht, hw, hsusp, Bool.false_eq_true, if_false]

theorem sigInstr_bad (hbad : sigReason s lc l t.cls op ≠ 0) :
    sigInstr lc x l op f s = sigBadInstr lc x l (sigReason s lc l t.cls op) s := by
  rw [sigInstr_judges ht hw hsusp, if_neg hbad]

theorem sigInstr_good (hgood : sigReason s lc l t.cls op = 0) : sigInstr lc x l op f s = f s := by
  rw [sigInstr_judges ht hw hsusp, if_pos hgood]

end Issue

section Effect

variable (lc x l : Nat) (s : State)

theorem sigPut_sets : sigPut lc x l true s = sigDone lc x l (lastValue (sigLine s l)) none (setLine l
    { sigLine s l with contrib :=
        if (sigLine s l).contrib.testBit lc then (sigLine s l).contrib else (sigLine s l).contrib + 2 ^ lc } s) := by
  simp only [sigPut, if_true]
  split
  · next hset => rw [Nat.sub_add_cancel (Nat.ge_two_pow_of_testBit hset)]
  · rfl

variable {l s}

/-- Fewer than twice the expected count stand: the arrival has room (R330). -/
theorem arriveS_registers (r : Nat) (hroom : mapGetD (sigLine s l).counts lc 0 < 2 * sgExpect (sigLine s l).cfg lc) :
    arriveS lc x l r s = registerArrival lc x l r s :=
  if_pos (decide_eq_true hroom)

theorem arriveS_stalls (r : Nat) (hfull : 2 * sgExpect (sigLine s l).cfg lc ≤ mapGetD (sigLine s l).counts lc 0) :
    arriveS lc x l r s =
      bump Cnt.sigArriveStall lc 1 (setCtx lc x { ctx s lc x with wait := .arrive l r s.now } s) :=
  if_neg (mt of_decide_eq_true (Nat.not_lt.mpr hfull))

theorem waitS_completes {value : Nat} (timeout : Nat) (hmet : lineMeets (sigLine s l) value = true) :
    waitS lc x l value timeout s =
      emptyNonPooled lc (sigDone lc x l (lastValue (sigLine s l)) none (bump Cnt.sigWait lc 1 s)) :=
  if_pos hmet

theorem waitS_waits {value : Nat} (timeout : Nat) (hunmet : lineMeets (sigLine s l) value = false) :
    waitS lc x l value timeout s = setCtx lc x { ctx s lc x with
      wait := .sig l value s.now (if timeout = 0 then none else some (s.now + timeout)) } (bump Cnt.sigWait lc 1 s) :=
  if_neg (ne_true_of_eq_false hunmet)

end Effect

end Sys2Proof.Machine

namespace Sys2Proof.Proofs

open Sys2Proof.Machine

/-- Settles O47: the row judges its operation by R328 (`sigInstr_judges`), and a good one has its effect, one equation per
row and outcome. That VALUE of a bad instruction is free, that a bad SIG_WAIT is not counted and how a destination register
is named are the model's choices (assumption log 36), and so is the layout of EV_SIG_BAD_INSTR's payload (assumption
log 18). -/
theorem signalInstructions : Obligations.SignalInstructions := by
  intro lc x l s t hlc hx ht hw hsusp
  have hunit : (decide (lc < nLc s) && decide (x < 4)) = true := by simp [hlc, hx]
  refine ⟨fun op i hi hbad => ?_, fun hgood => ?_, fun hgood => ?_,
    fun r hgood => ⟨fun hroom => ?_, fun hfull => ?_⟩, fun value timeout hgood => ⟨fun hmet => ?_, fun hunmet => ?_⟩,
    fun r hgood => ?_⟩
  -- a bad instruction
  · obtain ⟨f, hexec⟩ := exec_signal s hi
    rw [hexec]
    exact onUnit_next hunit (sigInstr_bad ht hw hsusp hbad)
  -- SIG_SET and SIG_CLR
  · exact onUnit_next hunit ((sigInstr_good ht hw hsusp hgood).trans (sigPut_sets lc x l s))
  · exact onUnit_next hunit (sigInstr_good ht hw hsusp hgood)
  -- SIG_ARRIVE
  · exact onUnit_next hunit ((sigInstr_good ht hw hsusp hgood).trans (arriveS_registers lc x r hroom))
  · exact onUnit_next hunit ((sigInstr_good ht hw hsusp hgood).trans (arriveS_stalls lc x r hfull))
  -- SIG_WAIT
  · exact onUnit_next hunit ((sigInstr_good ht hw hsusp hgood).trans (waitS_completes lc x timeout hmet))
  · exact onUnit_next hunit ((sigInstr_good ht hw hsusp hgood).trans (waitS_waits lc x timeout hunmet))
  -- SIG_READ
  · exact onUnit_next hunit (sigInstr_good ht hw hsusp hgood)

end Sys2Proof.Proofs

namespace Sys2Proof.Machine

-- BARRIER lines (R331).

/-- The prefetch lines that a wait's end empties are no part of a context. -/
theorem ctx_emptyNonPooled (lc : Nat) (s : State) (k x : Nat) : ctx (emptyNonPooled lc s) k x = ctx s k x := by
  unfold emptyNonPooled emptyStaging
  dsimp only
  split <;> rfl

section Barrier

variable {g : SigLine} (hmode : field g.cfg 8 2 = 2)

include hmode

/-- The comparison of R331 in integers: G may have wrapped past the value waited for. -/
theorem lineMeets_barrier {value : Nat} (hvalue : value < 65536) :
    lineMeets g value = true ↔ ((g.gen : Int) - value) % 65536 < 32768 := by
  rw [lineMeets, if_pos (show sgMode g.cfg = 2 from hmode), decide_eq_true_eq]
  omega

theorem lastValue_barrier : lastValue g = g.gen := if_pos hmode

end Barrier

end Sys2Proof.Machine

namespace Sys2Proof.Proofs

open Sys2Proof.Machine

/-- Settles O48, from what SIG_WAIT and SIG_READ do on any line (`signalInstructions`) and the comparison that a BARRIER
line makes (`lineMeets_barrier`). -/
theorem barrierWaitsAndReads : Obligations.BarrierWaitsAndReads := by
  intro lc x l s t hlc hx ht hw hsusp hmode
  obtain ⟨-, -, -, -, hwait, hread⟩ := signalInstructions lc x l s t hlc hx ht hw hsusp
  refine ⟨fun g timeout hg hgood => ?_, fun v g t0 fin hg hv hwaits => ?_, fun r hgood => ?_⟩
  · obtain ⟨hmeets, hholds⟩ := hwait g timeout hgood
    rw [← lineMeets_barrier hmode hg]
    cases hline : lineMeets (sigLine s l) g with
    | true =>
      refine ⟨_, hmeets hline, ?_⟩
      rw [ctx_emptyNonPooled, ctx_setCtx_same]
      simp [hw]
    | false =>
      refine ⟨_, hholds hline, ?_⟩
      rw [ctx_setCtx_same]
      simp
  · rw [waitMet, hwaits]
    exact lineMeets_barrier hv hg
  · refine ⟨_, hread r hgood, ?_⟩
    rw [ctx_setCtx_same, lastValue_barrier hmode]
    exact mapGet_mapSet_same _ r _

end Sys2Proof.Proofs

namespace Sys2Proof.Machine

-- The registered values (R324, R329).

/-- A BARRIER line after a completion: the next generation, every count fallen by its expected count (R329). -/
def nextGeneration (g : SigLine) : SigLine :=
  { g with
    gen := (g.gen + 1) % 65536
    counts := mapVals (fun c a => a - sgExpect g.cfg c) g.counts }

theorem completeGen_setLine (l : Nat) (g : SigLine) (s : State) :
    completeGen l (setLine l g s) = bump Cnt.sigGen l 1 (setLine l (nextGeneration g) (setLine l g s)) := by
  rw [completeGen, sigLine_setLine_same]
  rfl

theorem registerLine_eq (l : Nat) (s : State) : registerLine l s =
    let g := { sigLine s l with value := pkgLineValue s (sigLine s l) }
    if sgJob g.cfg then combineLine l s
    else if g.value ∧ sgMode g.cfg = 2 then bump Cnt.sigGen l 1 (setLine l (nextGeneration g) (setLine l g s))
    else setLine l g s := by
  simp only [registerLine, completeGen_setLine]

-- Line messages (R338, R339, R397).

section Message

variable {i : Instr} {h : Hdr} {s : State}

theorem takeLine_oldEpoch (a : addressed s i h) (he : h.epoch < epochOf s) :
    takeLine i s = returnCredits i h (bump Cnt.sigStaleEpochDrop 0 1 s) :=
  (receive_addressed _ a).trans (congrArg (returnCredits i h) (if_pos he))

theorem takeLine_judges (a : addressed s i h) (he : epochOf s ≤ h.epoch) :
    takeLine i s = returnCredits i h (judgeStep i h s) :=
  (receive_addressed _ a).trans (congrArg (returnCredits i h) (if_neg (Nat.not_lt.mpr he)))

variable (hk : stepKind i = .line)

include hk

theorem judgeStep_oldLine (hstep : h.step < stepOf s) : judgeStep i h s = bump Cnt.sigStaleStepDrop 0 1 s := by
  have hnear : ¬ stepOf s + 2 ≤ h.step := by omega
  simp only [judgeStep, if_neg hnear, hk, if_pos hstep]

theorem judgeStep_currentLine (hstep : h.step = stepOf s) : judgeStep i h s = handle i s := by
  have hnear : ¬ stepOf s + 2 ≤ h.step := by omega
  have hnotOld : ¬ h.step < stepOf s := by omega
  simp only [judgeStep, if_neg hnear, hk, if_neg hnotOld, if_pos hstep]

theorem takeLine_current (c : current s i h) : takeLine i s = returnCredits i h (handle i s) := by
  obtain ⟨a, -, -, -, -, hline⟩ := c
  obtain ⟨hstep, hepoch⟩ := hline (.inl hk)
  rw [takeLine_judges a hepoch, judgeStep_currentLine hk hstep]

end Message

section Take

variable {l : Nat} {s : State} (hmode : sgMode (sigLine s l).cfg ≠ 0) (hjob : sgJob (sigLine s l).cfg = true)

include hmode hjob

theorem sigUpTake_inUse (h : Hdr) (v : Bool) : sigUpTake h l v s = judgeWaits (combineLine l
    (setLine l { sigLine s l with children := mapSet (sigLine s l).children h.src v } s)) :=
  if_pos ⟨hmode, hjob⟩

theorem sigDownTake_inUse (value : Nat) : sigDownTake l value s = judgeWaits (broadcastSig l value
    (if sgMode (sigLine s l).cfg = 2 then completeGen l s
      else setLine l { sigLine s l with value := value == 1 } s)) :=
  if_neg (by simp [hmode, hjob])

end Take

-- Stalled arrivals and deadlines (R330, R333, R334).

section Retry

variable {lc x l r since : Nat} {s : State} (hw : (ctx s lc x).wait = .arrive l r since)

include hw

theorem closeWait_of_arrive : closeWait lc x s = bump Cnt.sigWaitNs lc (s.now - since) s := by
  simp only [closeWait, hw]

theorem arriveRetryS_registers (hcopy : underCopy s lc = false)
    (hroom : mapGetD (sigLine s l).counts lc 0 < 2 * sgExpect (sigLine s l).cfg lc) :
    let v := registerArrival lc x l r (setCtx lc x { ctx s lc x with wait := .none }
      (bump Cnt.sigWaitNs lc (s.now - since) s))
    arriveRetryS lc x s = if coreStopped s lc then bump Cnt.sigWake lc 1 v else v := by
  have hfree : arrivalRoom s lc l = true := decide_eq_true hroom
  simp only [arriveRetryS, hw, hfree, hcopy, closeWait_of_arrive hw, Bool.not_false, Bool.and_true, if_true]
  rfl

end Retry

section Deadline

variable {lc x l value since : Nat} {s : State}

theorem endWait_of_sig {deadline : Option Nat} (status : Nat) (hw : (ctx s lc x).wait = .sig l value since deadline) :
    endWait lc x status s = setCtx lc x { ctx s lc x with
      wait := .none
      sigLast := packLast status l (lastValue (sigLine s l)) } (bump Cnt.sigWaitNs lc (s.now - since) s) := by
  simp only [endWait, closeWait, hw]
  rfl

variable {time : Nat} (hw : (ctx s lc x).wait = .sig l value since (some time)) (hcopy : underCopy s lc = false)

include hw hcopy

/-- A change that D0 registers in the cycle of the deadline has ended the wait (R78, R333). -/
theorem waitTimeoutS_met (hnone : (ctx (registerLines (reachTime time s)) lc x).wait = .none) :
    waitTimeoutS lc x s = registerLines (reachTime time s) := by
  simp only [waitTimeoutS, hw, hcopy, inSigWait, hnone, Bool.false_eq_true, if_false, Bool.not_false, if_true]

theorem waitTimeoutS_expires {u : State} (hu : registerLines (reachTime time s) = u)
    (hstill : (ctx u lc x).wait = .sig l value since (some time)) :
    let y := raise Ev.sigTimeout (srcOf 4 (4 * lc + x)) [] (bump Cnt.sigWaitTimeout lc 1 (endWait lc x 1 u))
    waitTimeoutS lc x s = if coreStopped u lc then bump Cnt.sigWake lc 1 y else y := by
  simp only [waitTimeoutS, hw, hcopy, hu, inSigWait, hstill, Bool.false_eq_true, if_false, Bool.not_true]

end Deadline

-- CMD_SIG_CONFIG (R326).

section Config

variable {p : List Byte} {s : State}

theorem sigConfig_sets (hgood : sigConfigBad s p = 0) : sigConfig p s = (raise Ev.sigConfig 0 (pay64 (field p 0 5))
    (setLine (field p 0 5) { sigLine s (field p 0 5) with next := some (slice p 0 40) } s), okWith []) :=
  if_neg (not_not_intro hgood)

theorem sigConfig_refuses (hbad : sigConfigBad s p ≠ 0) :
    sigConfig p s = (s, failWith St.badParam (sigConfigBad s p)) :=
  if_pos hbad

end Config

end Sys2Proof.Machine

namespace Sys2Proof.Proofs

open Sys2Proof.Machine

/-- Settles O49: one equation per row and outcome. The lines are registered as `registerLine_eq` says; a message of the tree
is judged by its epoch and step (`takeLine_oldEpoch`, `judgeStep_oldLine`, `takeLine_current`). That the lines are
registered at a wait's deadline, and that a value reaches every core as it is registered, are the model's choices
(assumption log 36), and so is the layout of EV_SIG_CONFIG's payload (assumption log 18). -/
theorem signalLinesMove : Obligations.SignalLinesMove := by
  intro s
  have hunit : ∀ {lc x : Nat}, lc < nLc s → x < 4 → (decide (lc < nLc s) && decide (x < 4)) = true :=
    fun hlc hx => by simp [hlc, hx]
  refine ⟨?_, fun h l value => ⟨fun hc hmode hjob => ?_, fun a => ⟨fun he => ?_, fun he hstep => ?_⟩⟩,
    fun h l value hc hmode hjob => ?_, fun lc x l r since hlc hx hw hcopy hroom => ?_,
    fun lc x l value since time hlc hx hw hcopy => ⟨fun hnone => ?_, fun hstill => ?_⟩,
    fun src c => ⟨fun hc => ⟨fun hgood => ?_, fun hbad => ?_⟩, fun hc => ?_⟩⟩
  -- SIG_VALUE_REGISTER
  · exact congrArg (fun u => Host.Outcome.next (judgeWaits u)) (List.foldl_ext _ _ s fun u l _ => registerLine_eq l u)
  -- SIG_UP
  · exact congrArg Host.Outcome.next ((takeLine_current rfl hc).trans
      (congrArg (returnCredits _ h) (sigUpTake_inUse hmode hjob h value)))
  · exact congrArg Host.Outcome.next (takeLine_oldEpoch a he)
  · exact congrArg Host.Outcome.next ((takeLine_judges a he).trans
      (congrArg (returnCredits _ h) (judgeStep_oldLine rfl hstep)))
  -- SIG_DOWN
  · exact congrArg Host.Outcome.next ((takeLine_current rfl hc).trans
      (congrArg (returnCredits _ h) (sigDownTake_inUse hmode hjob value)))
  -- SIG_ARRIVE_RETRY
  · exact onUnit_next (hunit hlc hx) (arriveRetryS_registers hw hcopy hroom)
  -- SIG_WAIT_TIMEOUT
  · exact onUnit_next (hunit hlc hx) (waitTimeoutS_met hw hcopy hnone)
  · refine onUnit_next (hunit hlc hx) ((waitTimeoutS_expires hw hcopy rfl hstill).trans ?_)
    rw [endWait_of_sig 1 hstill]
  -- CMD_SIG_CONFIG and CMD_SIG_INFO
  · exact congrArg Host.Outcome.next (performNow_answers hc (sigConfig_sets hgood))
  · exact congrArg Host.Outcome.next (performNow_answers hc (sigConfig_refuses hbad))
  · exact congrArg Host.Outcome.next (performQuery_answers hc rfl)

end Sys2Proof.Proofs
end

section
/-! What memory holds through the operations that read, buffer and send: its bytes, its regions and the service of its
channels, which a write alone changes (R350, R361, R371). -/

namespace Sys2Proof.Machine

-- What becomes of a packet of this package leaves memory alone (R385 to R391).

theorem raise_mem (code src : Nat) (payload : List Byte) (s : State) : (raise code src payload s).mem = s.mem := by
  rw [raise_frame]

@[simp] theorem putFrames_mem (q : Nat) (l : List TxFrame) (s : State) : (putFrames q l s).mem = s.mem := rfl

@[simp] theorem transmit_mem (q n0 : Nat) (i : Instr) (s : State) : (transmit q n0 i s).mem = s.mem := rfl

@[simp] theorem sendPackets_mem (q n0 : Nat) (s : State) : (sendPackets q n0 s).mem = s.mem := by
  refine foldl_view (fun s => s.mem) (fun t _ => ?_) _ s
  split
  · exact transmit_mem _ _ _ _
  · rfl

@[simp] theorem sendControl_mem (q : Nat) (s : State) : (sendControl q s).mem = s.mem := by
  unfold sendControl
  dsimp only
  split <;> rfl

@[simp] theorem pumpPort_mem (q : Nat) (s : State) : (pumpPort q s).mem = s.mem := by
  unfold pumpPort
  dsimp only
  split
  · rfl
  · rw [putFrames_mem, sendPackets_mem, sendControl_mem]
    split <;> rfl

@[simp] theorem queueAt_mem (q : Nat) (i : Instr) (s : State) : (queueAt q i s).mem = s.mem := pumpPort_mem q _

theorem unroutable_mem (i : Instr) (s : State) : (unroutable i s).mem = s.mem := raise_mem _ _ _ _

@[simp] theorem routeFrom_mem (o : Nat) (i : Instr) (s : State) : (routeFrom o i s).1.mem = s.mem := by
  unfold routeFrom
  split
  · rfl
  · split
    · exact unroutable_mem i s
    · split
      · rfl
      · exact queueAt_mem _ _ s

@[simp] theorem routePacket_mem (i : Instr) (s : State) : (routePacket i s).1.mem = s.mem := by
  unfold routePacket
  split
  · rfl
  · exact routeFrom_mem _ i s

@[simp] theorem digest_mem (sent : Bool) (peer : Nat) (i : Instr) (s : State) : (digest sent peer i s).mem = s.mem := by
  unfold digest
  split
  · rfl
  · dsimp only
    split <;> rfl

@[simp] theorem sendPacket_mem (i : Instr) (s : State) : (sendPacket i s).1.mem = s.mem := by
  unfold sendPacket
  split
  · rfl
  · dsimp only
    split
    · rfl
    · split
      · rw [digest_mem, routePacket_mem]
      · exact routePacket_mem i s

@[simp] theorem sendPlain_mem (i : Instr) (s : State) : (sendPlain i s).mem = s.mem := sendPacket_mem i s

@[simp] theorem sendReq_mem (dst : Nat) (kind : PendKind) (f : Hdr → Instr) (s : State) :
    (sendReq dst kind f s).1.mem = s.mem := by
  unfold sendReq
  dsimp only
  split
  · rfl
  · split
    · exact sendPacket_mem _ (freshTag s).2
    · exact sendPacket_mem _ (freshTag s).2

-- A pooled write of this package is answered or held back (R49, R65, R398).

theorem ackTo_mem (h : Hdr) (status : Nat) (s : State) : (ackTo h status s).mem = s.mem := by
  unfold ackTo
  split
  · rfl
  · exact sendPlain_mem _ s

theorem refuseWrite_mem (tag reason : Nat) (s : State) : (refuseWrite tag reason s).mem = s.mem := by
  unfold refuseWrite
  split
  · rfl
  · dsimp only
    split
    · split
      · exact raise_mem _ _ _ _
      · rfl
    · split <;> rfl
    · rfl

theorem errTo_mem (h : Hdr) (reason : Nat) (s : State) : (errTo h reason s).mem = s.mem := by
  unfold errTo
  split
  · exact refuseWrite_mem _ reason s
  · exact sendPlain_mem _ s

-- Contents and places.

/-- Where memory is and whether it serves: its regions and the service of its channels (R350, R371). -/
def places (s : State) : AMap Region × AMap ChanState := (s.mem.regions, s.mem.chans)

/-- The bytes of memory with their places. -/
def contents (s : State) : List Host.Cell × AMap Region × AMap ChanState := (s.mem.cells, places s)

/-- The byte at a local address. -/
def memByte (s : State) (y : Nat) : Byte := cellByte s.mem.cells y

theorem contents_of_mem {s t : State} (h : t.mem = s.mem) : contents t = contents s := by
  rw [contents, places, h]
  rfl

theorem places_of_contents {s t : State} (h : contents t = contents s) : places t = places s := (Prod.mk.inj h).2

theorem memByte_of_contents {s t : State} (h : contents t = contents s) (y : Nat) : memByte t y = memByte s y :=
  congrArg (fun c => cellByte c y) (Prod.mk.inj h).1

section Places

variable {s t : State} (h : places t = places s)

include h

theorem regionAt_of_places (a : Nat) : regionAt t a = regionAt s a := by
  rw [regionAt, (Prod.mk.inj h).1]
  rfl

theorem chanAt_of_places (a : Nat) : chanAt t a = chanAt s a := by
  rw [chanAt, regionAt_of_places h]
  rfl

theorem chanState_of_places (p : Nat) : chanState t p = chanState s p := by
  rw [chanState, (Prod.mk.inj h).2]
  rfl

theorem sectorFailed_of_places (sec : Nat) : sectorFailed t sec = sectorFailed s sec := by
  unfold sectorFailed
  rw [chanAt_of_places h]
  split
  · rw [chanState_of_places h]
  · rfl

end Places

theorem contents_bump (id inst n : Nat) (s : State) : contents (bump id inst n s) = contents s := rfl

theorem contents_raise (code src : Nat) (payload : List Byte) (s : State) :
    contents (raise code src payload s) = contents s := contents_of_mem (raise_mem code src payload s)

theorem contents_raiseAll (code : Nat) (srcs : List Nat) (s : State) : contents (raiseAll code srcs s) = contents s :=
  foldl_view contents (fun t src => contents_raise code src [] t) srcs s

-- Accesses that must wait (R28, R371).

theorem contents_touch (a n : Nat) (s : State) : contents (touch a n s) = contents s := by
  unfold touch
  split
  · split <;> rfl
  · rfl

theorem contents_touchRoute (src dst : Nat) (s : State) : contents (touchRoute src dst s) = contents s := by
  unfold touchRoute
  split <;> rfl

theorem contents_touchHomes (a n : Nat) (s : State) : contents (touchHomes a n s) = contents s := by
  unfold touchHomes
  split
  · exact foldl_view contents (fun t _ => contents_touchRoute _ _ t) _ s
  · rfl

-- The depot and the write-combining buffer (R357 to R363).

theorem contents_depotRead (d line need hint : Nat) (pf : Bool) (s : State) :
    contents (depotRead d line need hint pf s) = contents s := by
  unfold depotRead
  dsimp only
  split <;> rfl

theorem contents_depotWrite (d line secs : Nat) (s : State) : contents (depotWrite d line secs s) = contents s := by
  unfold depotWrite
  dsimp only
  split <;> rfl

theorem contents_landSector (sec : Nat) (whole : Bool) (s : State) : contents (landSector sec whole s) = contents s := by
  unfold landSector
  dsimp only
  split
  · exact contents_depotWrite _ _ _ s
  · split <;> exact contents_depotWrite _ _ _ s

theorem contents_flushSector (sec m : Nat) (s : State) : contents (flushSector sec m s) = contents s := by
  unfold flushSector
  split
  · rfl
  · exact contents_depotWrite _ _ _ s

theorem contents_flushLine (l : WcbLine) (s : State) : contents (flushLine l s) = contents s := by
  unfold flushLine
  dsimp only
  rw [contents_flushSector, contents_flushSector]
  rfl

theorem contents_settleReads (a n : Nat) (s : State) : contents (settleReads a n s) = contents s := by
  unfold settleReads
  dsimp only
  rw [foldl_view contents (fun t l => contents_flushLine l t), foldl_view contents (fun t d => contents_bump _ d 1 t)]

theorem contents_countMerges (a n : Nat) (s : State) : contents (countMerges a n s) = contents s :=
  foldl_view contents (fun t _ => contents_bump _ _ 1 t) _ s

theorem contents_depotReads (pf : Bool) (a n : Nat) (s : State) : contents (depotReads pf a n s) = contents s := by
  refine foldl_view contents (fun t line => ?_) _ s
  split
  · exact contents_depotRead _ _ _ _ _ t
  · rfl

/-- A read changes no byte (R357, R363, R368). -/
theorem contents_homeRead (pf : Bool) (a n : Nat) (s : State) : contents (homeRead pf a n s).2.2 = contents s := by
  unfold homeRead
  dsimp only
  rw [foldl_view contents (fun t _ => contents_bump _ _ 1 t), contents_depotReads, contents_settleReads, contents_touch]

-- Prefetch staging buffers (R364 to R366).

theorem contents_setStaging (lc : Nat) (l : List PfLine) (s : State) : contents (setStaging lc l s) = contents s := rfl

theorem contents_setTrackers (lc : Nat) (l : List Tracker) (s : State) : contents (setTrackers lc l s) = contents s := rfl

theorem contents_emptyStaging (lc : Nat) (p : PfLine → Bool) (s : State) :
    contents (emptyStaging lc p s) = contents s := by
  unfold emptyStaging
  dsimp only
  split <;> rfl

theorem contents_snoopWrite (lc a n : Nat) (s : State) : contents (snoopWrite lc a n s) = contents s := by
  unfold snoopWrite
  dsimp only
  split
  · rfl
  · rw [contents_bump, contents_emptyStaging]

theorem contents_issuePrefetch (lc id : Nat) (g : Int) (s : State) : contents (issuePrefetch lc id g s) = contents s := by
  unfold issuePrefetch
  dsimp only
  split
  · rfl
  · split
    · rfl
    · rw [contents_bump, contents_setStaging]
      split
      · split
        · rfl
        · split <;> rfl
      · rfl

theorem contents_fetchAgain (lc id : Nat) (g : Int) (s : State) : contents (fetchAgain lc id g s) = contents s := by
  unfold fetchAgain
  split
  · split
    · exact contents_issuePrefetch lc id g s
    · rfl
  · rfl

theorem contents_trainGranule (lc id g : Nat) (s : State) : contents (trainGranule lc id g s) = contents s := by
  unfold trainGranule
  dsimp only
  split
  · split
    · rfl
    · split
      · rw [foldl_view contents (fun t _ => contents_issuePrefetch _ _ _ t), contents_setTrackers]
      · split
        · rw [contents_issuePrefetch, foldl_view contents (fun t _ => contents_fetchAgain _ _ _ t), contents_setTrackers]
        · rfl
  · rfl

theorem contents_trainRead (lc a n : Nat) (s : State) : contents (trainRead lc a n s) = contents s := by
  refine foldl_view contents (fun t g => ?_) _ s
  split
  · split
    · exact contents_trainGranule _ _ _ t
    · rfl
  · rfl

theorem contents_fillStaging (lc g : Nat) (s : State) : contents (fillStaging lc g s) = contents s := by
  unfold fillStaging
  split
  · exact contents_homeRead _ _ _ s
  · rfl

theorem contents_meetStaging (lc g : Nat) (s : State) : contents (meetStaging lc g s).2 = contents s := by
  unfold meetStaging
  split
  · rfl
  · next l _ =>
    have hfill : contents (if l.ready then s else fillStaging lc g (bump Cnt.pfLate lc 1 s)) = contents s := by
      split
      · rfl
      · rw [contents_fillStaging, contents_bump]
    dsimp only
    rw [contents_setStaging]
    split
    · exact hfill
    · rw [contents_bump, hfill]

theorem contents_demandGranule (lc a n g : Nat) (s : State) : contents (demandGranule lc a n g s).2.2 = contents s := by
  have hmeet := contents_meetStaging lc g s
  unfold demandGranule
  dsimp only
  split
  · next hm => rwa [hm] at hmeet
  · next hm =>
    rw [hm] at hmeet
    rw [contents_homeRead, hmeet]

theorem contents_demandRead (lc a n : Nat) (s : State) : contents (demandRead lc a n s).2.2 = contents s := by
  unfold demandRead
  dsimp only
  rw [contents_trainRead]
  generalize unitsOf 256 a n = l
  suffices hfold : ∀ acc : List Byte × List Bool × State, contents (l.foldl (fun acc g =>
      let t := demandGranule lc a n g acc.2.2
      (acc.1 ++ t.1, acc.2.1 ++ t.2.1, t.2.2)) acc).2.2 = contents acc.2.2 from hfold ([], [], s)
  induction l with
  | nil => exact fun _ => rfl
  | cons g l ih => exact fun acc => (ih _).trans (contents_demandGranule lc a n g acc.2.2)

-- What the codes find (R356, R367, R370).

theorem contents_poisonSram (p : SramPlace) (s : State) : contents (poisonSram p s) = contents s := by
  cases p <;> rfl

theorem contents_applyFinding (f : EccFinding) (s : State) : contents (applyFinding f s) = contents s := by
  cases f with
  | onDie a | correctable a =>
    unfold applyFinding
    dsimp only
    split <;> rfl
  | uncorrectable a =>
    unfold applyFinding
    dsimp only
    split
    · rw [contents_raise]
      rfl
    · rfl
  | sramCorrected a | bufferCorrected p => rfl
  | sramUncorrectable a => exact contents_raise _ _ _ _
  | bufferUncorrectable p =>
    unfold applyFinding
    dsimp only
    rw [contents_raise, contents_bump, contents_poisonSram]

theorem contents_applyFindings (l : List EccFinding) (s : State) : contents (applyFindings l s) = contents s :=
  foldl_view contents (fun t f => contents_applyFinding f t) l s

theorem pkgNo_raise (code src : Nat) (payload : List Byte) (s : State) : pkgNo (raise code src payload s) = pkgNo s := by
  rw [raise_frame]
  rfl

theorem pkgNo_applyFinding (f : EccFinding) (s : State) : pkgNo (applyFinding f s) = pkgNo s := by
  cases f with
  | onDie a | correctable a =>
    unfold applyFinding
    dsimp only
    split <;> rfl
  | uncorrectable a =>
    unfold applyFinding
    dsimp only
    split
    · rw [pkgNo_raise]
      rfl
    · rfl
  | sramCorrected a | bufferCorrected p => rfl
  | sramUncorrectable a => exact pkgNo_raise _ _ _ _
  | bufferUncorrectable p =>
    unfold applyFinding
    dsimp only
    rw [pkgNo_raise]
    cases p <;> rfl

theorem pkgNo_applyFindings (l : List EccFinding) (s : State) : pkgNo (applyFindings l s) = pkgNo s :=
  foldl_view pkgNo (fun t f => pkgNo_applyFinding f t) l s

-- Accesses by a unit (R349, R361, R368, R398).

theorem contents_freeBytes (n : Nat) (s : State) : contents (freeBytes n s).2 = contents s := by
  induction n generalizing s with
  | zero => rfl
  | succ n ih => exact (ih _).trans rfl

theorem contents_maskHeld (a : Nat) (b : List Byte) (s : State) : contents (maskHeld a b s).2 = contents s := by
  unfold maskHeld
  dsimp only
  split
  · rfl
  · exact contents_freeBytes _ s

theorem contents_setReply (r : Requester) (p : ReadReply) (s : State) : contents (setReply r p s) = contents s := rfl

theorem contents_countConsumed (r : Requester) (n : Nat) (s : State) : contents (countConsumed r n s) = contents s := by
  unfold countConsumed
  split
  · split
    · exact contents_raiseAll _ _ _
    · rfl
  · rfl

theorem contents_countBad (r : Requester) (s : State) : contents (countBad r s) = contents s := by
  unfold countBad
  split
  · exact contents_raise _ _ _ _
  · rfl

theorem contents_noteWrite (key a n who : Nat) (s : State) : contents (noteWrite key a n who s) = contents s := by
  unfold noteWrite
  split <;> rfl

theorem contents_readPlain (r : Requester) (a n : Nat) (s : State) : contents (readPlain r a n s).2.2 = contents s := by
  have hplain : contents (match requesterLc r with
      | some lc => demandRead lc a n s
      | none => homeRead false a n s).2.2 = contents s := by
    split
    · exact contents_demandRead _ a n s
    · exact contents_homeRead false a n s
  unfold readPlain
  split
  · rfl
  · dsimp only
    split
    · exact (contents_maskHeld _ _ _).trans hplain
    · exact hplain

theorem contents_remoteReadFail (r : Requester) (g n : Nat) (s : State) :
    contents (remoteReadFail r g n s) = contents s := by
  unfold remoteReadFail
  dsimp only
  rw [contents_setReply, contents_countConsumed]
  unfold dropReads
  split <;> rfl

theorem contents_sendReq (dst : Nat) (kind : PendKind) (f : Hdr → Instr) (s : State) :
    contents (sendReq dst kind f s).1 = contents s := contents_of_mem (sendReq_mem dst kind f s)

theorem contents_sendPiece (r : Requester) (pkg g n : Nat) (s : State) (e : Nat × Nat) :
    contents (sendPiece r pkg g n s e) = contents s := by
  unfold sendPiece
  dsimp only
  split
  · rfl
  · split
    · exact contents_sendReq _ _ _ s
    · rw [contents_remoteReadFail]
      exact contents_sendReq _ _ _ s

theorem contents_badRead (r : Requester) (g n : Nat) (s : State) : contents (badRead r g n s) = contents s :=
  contents_countBad r s

theorem contents_readRemote (r : Requester) (g n : Nat) (s : State) : contents (readRemote r g n s) = contents s := by
  unfold readRemote
  dsimp only
  split
  · exact contents_badRead r g n s
  · split
    · exact contents_remoteReadFail r g n s
    · split
      · rw [contents_setReply, contents_countConsumed, contents_bump]
      · exact foldl_view contents (contents_sendPiece r _ g n) _ _

-- Pooled writes through the staging area (R62, R65).

theorem contents_stageWrite (i : Instr) (h : Hdr) (addr : Nat) (accum : Bool) (data : List Byte) (marks : List Bool)
    (s : State) : contents (stageWrite i h addr accum data marks s) = contents s := by
  unfold stageWrite
  split
  · exact contents_of_mem (errTo_mem h 2 s)
  · split
    · exact contents_of_mem (errTo_mem h 2 s)
    · split
      · exact (contents_of_mem (ackTo_mem h 1 _)).trans (contents_raise _ _ _ _)
      · dsimp only
        split
        · exact (contents_of_mem (ackTo_mem h 0 _)).trans (contents_touchHomes addr _ s)
        · exact contents_touchHomes addr _ s

theorem contents_stageHere (a : Nat) (accum : Bool) (data : List Byte) (marks : List Bool) (s : State) :
    contents (stageHere a accum data marks s) = contents s := by
  unfold stageHere
  dsimp only
  rw [contents_stageWrite]
  rfl

theorem contents_wholeSectors (a : Nat) (data : List Byte) (s : State) :
    contents (wholeSectors a data s).2.2 = contents s := by
  unfold wholeSectors
  dsimp only
  rw [contents_freeBytes, contents_freeBytes]

end Sys2Proof.Machine
end

section
/-! What a write at its home writes, byte by byte (R361, R362, R369, R372). -/

namespace Sys2Proof.Machine

/-- `t` holds what a write of `data` from `a` leaves of `s` where it has reached the addresses that satisfy `p`: there the
bytes of `data`, but for sectors of failed channels; elsewhere what stood there (R361, R372). -/
structure Wrote (a : Nat) (data : List Byte) (p : Nat → Prop) (s t : State) : Prop where
  places : places t = places s
  written : ∀ y, a ≤ y → y < a + data.length → p y → sectorFailed s (y / 32) = false →
    memByte t y = data.getD (y - a) 0
  stands : ∀ y, ¬(a ≤ y ∧ y < a + data.length ∧ p y ∧ sectorFailed s (y / 32) = false) → memByte t y = memByte s y

section Write

variable {a : Nat} {data : List Byte} {p q : Nat → Prop} {s t u : State}

/-- Where the write covers no byte of a channel that serves, nothing is written. -/
theorem Wrote.of_contents (h : contents t = contents s)
    (hp : ∀ y, a ≤ y → y < a + data.length → p y → sectorFailed s (y / 32) = true) : Wrote a data p s t where
  places := places_of_contents h
  written y hlo hhi hy hf := by simp [hp y hlo hhi hy] at hf
  stands y _ := memByte_of_contents h y

/-- Two parts of one write, in turn. -/
theorem Wrote.trans (h : Wrote a data p s t) (g : Wrote a data q t u) : Wrote a data (fun y => p y ∨ q y) s u where
  places := g.places.trans h.places
  written y hlo hhi hy hf := by
    have hf' : sectorFailed t (y / 32) = false := (sectorFailed_of_places h.places _).trans hf
    by_cases hq : q y
    · exact g.written y hlo hhi hq hf'
    · rw [g.stands y fun hc => hq hc.2.2.1]
      exact h.written y hlo hhi (hy.resolve_right hq) hf
  stands y hy := by
    rw [g.stands y, h.stands y]
    · exact fun ⟨hlo, hhi, hp, hf⟩ => hy ⟨hlo, hhi, .inl hp, hf⟩
    · rw [sectorFailed_of_places h.places]
      exact fun ⟨hlo, hhi, hq, hf⟩ => hy ⟨hlo, hhi, .inr hq, hf⟩

/-- A part is what it covers of the write. -/
theorem Wrote.congr (h : Wrote a data p s t) (hpq : ∀ y, a ≤ y → y < a + data.length → (p y ↔ q y)) :
    Wrote a data q s t where
  places := h.places
  written y hlo hhi hq := h.written y hlo hhi ((hpq y hlo hhi).mpr hq)
  stands y hy := h.stands y fun ⟨hlo, hhi, hp, hf⟩ => hy ⟨hlo, hhi, (hpq y hlo hhi).mp hp, hf⟩

/-- The lines that a write touches, in turn. -/
theorem Wrote.foldl {α : Type} {f : State → α → State} {p : α → Nat → Prop} (hf : ∀ s x, Wrote a data (p x) s (f s x))
    (l : List α) (s : State) : Wrote a data (fun y => ∃ x ∈ l, p x y) s (l.foldl f s) := by
  induction l generalizing s with
  | nil => exact .of_contents rfl (by simp)
  | cons x l ih => exact ((hf s x).trans (ih (f s x))).congr fun y _ _ => by simp

/-- Of `data`, written from `a`, the bytes from address `lo` up to `hi`. -/
def bytesBetween (a : Nat) (data : List Byte) (lo hi : Nat) : List Byte := (data.drop (lo - a)).take (hi - lo)

theorem bytesBetween_length {lo hi : Nat} (hlo : a ≤ lo) (hhi : hi ≤ a + data.length) :
    (bytesBetween a data lo hi).length = hi - lo := by
  rw [bytesBetween, List.length_take, List.length_drop]
  omega

theorem bytesBetween_getD {lo hi y : Nat} (hlo : a ≤ lo) (hy : lo ≤ y) (hhi : y < hi) :
    (bytesBetween a data lo hi).getD (y - lo) 0 = data.getD (y - a) 0 := by
  rw [bytesBetween, List.getD_eq_getElem?_getD, List.getD_eq_getElem?_getD, List.getElem?_take_of_lt (by omega),
    List.getElem?_drop]
  congr 2
  omega

theorem bytesBetween_append {lo mid hi : Nat} (hlo : a ≤ lo) (hmid : lo ≤ mid) (hhi : mid ≤ hi) :
    bytesBetween a data lo mid ++ bytesBetween a data mid hi = bytesBetween a data lo hi := by
  have hdrop : data.drop (mid - a) = (data.drop (lo - a)).drop (mid - lo) := by
    rw [List.drop_drop]
    congr 1
    omega
  have hlen : hi - lo = (mid - lo) + (hi - mid) := by omega
  rw [bytesBetween, bytesBetween, bytesBetween, hdrop, hlen, List.take_add]

/-- The bytes of a write from `lo` up to `hi`, all in channels that serve, put at their place. -/
theorem wrote_putBytes {lo hi : Nat} (hlo : a ≤ lo) (hhi : hi ≤ a + data.length)
    (hserve : ∀ y, lo ≤ y → y < hi → sectorFailed s (y / 32) = false)
    (h : contents t = contents (putBytes lo (bytesBetween a data lo hi) s)) :
    Wrote a data (fun y => lo ≤ y ∧ y < hi) s t := by
  have hbyte : ∀ y, memByte t y = if lo ≤ y ∧ y < lo + (hi - lo) then (bytesBetween a data lo hi).getD (y - lo) 0
      else memByte s y := fun y => by
    rw [memByte_of_contents h, ← bytesBetween_length hlo hhi]
    exact cellByte_write _ _ _ y
  have hplaces : places t = places s := (places_of_contents h).trans rfl
  refine ⟨hplaces, fun y _ _ ⟨hly, hyh⟩ _ => ?_, fun y hy => ?_⟩
  · rw [hbyte, if_pos (by omega), bytesBetween_getD hlo hly hyh]
  · rw [hbyte, if_neg]
    rintro ⟨hly, hyh⟩
    exact hy ⟨by omega, by omega, ⟨hly, by omega⟩, hserve y hly (by omega)⟩

-- The write-combining buffer takes note of a write; its bytes are put at their place (R362).

theorem contents_putBytes_congr (lo : Nat) (piece : List Byte) (h : contents t = contents s) :
    contents (putBytes lo piece t) = contents (putBytes lo piece s) :=
  Prod.ext (congrArg (fun c => cellsWrite c lo piece) (Prod.mk.inj h).1) (Prod.mk.inj h).2

theorem contents_wcbWrite (lo : Nat) (piece : List Byte) (s : State) :
    contents (wcbWrite lo piece s) = contents (putBytes lo piece s) := by
  have hmerge : contents (putBytes lo piece (countMerges lo piece.length s)) = contents (putBytes lo piece s) :=
    contents_putBytes_congr lo piece (contents_countMerges lo piece.length s)
  rw [← hmerge]
  unfold wcbWrite
  dsimp only
  split
  · split
    · exact contents_flushLine _ _
    · rfl
  · split
    · split
      · exact contents_flushLine _ _
      · rfl
    · rfl

theorem contents_sectorWrite {lo : Nat} (piece : List Byte) (h : sectorFailed s (lo / 32) = false) :
    contents (sectorWrite lo piece s) = contents (putBytes lo piece s) := by
  unfold sectorWrite
  simp only [h, Bool.false_eq_true, if_false]
  split
  · rw [contents_landSector]
    exact contents_putBytes_congr lo piece (foldl_view contents (fun t l => contents_flushLine l t) _ s)
  · split
    · exact contents_wcbWrite lo piece s
    · exact contents_landSector _ _ _

-- One sector, one line, the whole write.

theorem sectorPiece_eq (a : Nat) (data : List Byte) (sec : Nat) : sectorPiece a data sec =
    (max a (sec * 32), bytesBetween a data (max a (sec * 32)) (min (a + data.length) (sec * 32 + 32))) := rfl

/-- A write has bytes in a sector where it does not end before it and does not begin after it. -/
theorem sectorPiece_eq_nil_iff (a : Nat) (data : List Byte) (sec : Nat) :
    (sectorPiece a data sec).2 = [] ↔ min (a + data.length) (sec * 32 + 32) ≤ max a (sec * 32) := by
  rw [sectorPiece_eq, ← List.length_eq_zero_iff, bytesBetween_length (Nat.le_max_left _ _) (Nat.min_le_left _ _)]
  omega

/-- The part of a write in one sector. -/
theorem wrote_sector (a : Nat) (data : List Byte) (sec : Nat) (s : State) :
    let x := sectorPiece a data sec
    Wrote a data (fun y => y / 32 = sec) s (if x.2 = [] then s else sectorWrite x.1 x.2 s) := by
  intro x
  split
  · next hnil =>
    have hempty := (sectorPiece_eq_nil_iff a data sec).mp hnil
    exact .of_contents rfl fun y hlo hhi hy => by omega
  · next hsome =>
    have hsome := mt (sectorPiece_eq_nil_iff a data sec).mpr hsome
    have hsec : x.1 / 32 = sec := show max a (sec * 32) / 32 = sec by omega
    cases hf : sectorFailed s sec with
    | true =>
      refine .of_contents ?_ fun y _ _ hy => by rw [hy, hf]
      simp only [sectorWrite, hsec, hf, if_true]
    | false =>
      have hput := contents_sectorWrite x.2 (hsec ▸ hf)
      refine (wrote_putBytes (Nat.le_max_left _ _) (Nat.min_le_left _ _) (fun y hlo hhi => ?_) hput).congr fun y hlo hhi => ?_
      · have hy : y / 32 = sec := by omega
        rw [hy, hf]
      · omega

/-- A write that covers neither sector of a line whole, and some of both: one write of the buffer (R362). -/
theorem wrote_bothSectors {line : Nat} (hx : (sectorPiece a data (2 * line)).2 ≠ [])
    (hy : (sectorPiece a data (2 * line + 1)).2 ≠ []) (hfx : sectorFailed s (2 * line) = false)
    (hfy : sectorFailed s (2 * line + 1) = false) :
    Wrote a data (fun y => y / 64 = line) s (wcbWrite (sectorPiece a data (2 * line)).1
      ((sectorPiece a data (2 * line)).2 ++ (sectorPiece a data (2 * line + 1)).2) s) := by
  rw [ne_eq, sectorPiece_eq_nil_iff] at hx hy
  have hend : min (a + data.length) (2 * line * 32 + 32) = (2 * line + 1) * 32 := by omega
  have hbegin : max a ((2 * line + 1) * 32) = (2 * line + 1) * 32 := by omega
  rw [sectorPiece_eq, sectorPiece_eq, hend, hbegin, bytesBetween_append (Nat.le_max_left _ _) (by omega) (by omega)]
  refine (wrote_putBytes (Nat.le_max_left _ _) (Nat.min_le_left _ _) (fun y hlo hhi => ?_)
    (contents_wcbWrite _ _ s)).congr fun y hlo hhi => ?_
  · have hsec : y / 32 = 2 * line ∨ y / 32 = 2 * line + 1 := by omega
    rcases hsec with hsec | hsec
    · rw [hsec, hfx]
    · rw [hsec, hfy]
  · omega

theorem wrote_line (a : Nat) (data : List Byte) (line : Nat) (s : State) :
    Wrote a data (fun y => y / 64 = line) s (lineWrite a data line s) := by
  unfold lineWrite
  dsimp only
  split
  · next h =>
    simp only [Bool.and_eq_true, bne_iff_ne, Bool.not_eq_true'] at h
    obtain ⟨⟨⟨⟨⟨hx, _⟩, hy, _⟩, _⟩, hfx⟩, hfy⟩ := h
    exact wrote_bothSectors hx hy hfx hfy
  · refine ((wrote_sector a data (2 * line) s).trans (wrote_sector a data (2 * line + 1) _)).congr fun y _ _ => ?_
    omega

theorem contents_meetChannel (s : State) (p : Nat) : contents (meetChannel s p) = contents s := by
  unfold meetChannel
  split <;> rfl

theorem contents_countChanDrops (a n : Nat) (s : State) : contents (countChanDrops a n s) = contents s :=
  foldl_view contents contents_meetChannel _ s

theorem mem_unitsOf {w a n y : Nat} (hlo : a ≤ y) (hhi : y < a + n) : y / w ∈ unitsOf w a n := by
  have h1 := Nat.div_le_div_right (c := w) hlo
  have h2 : y / w ≤ (a + n - 1) / w := Nat.div_le_div_right (by omega)
  rw [unitsOf, if_neg (by omega), List.mem_map]
  exact ⟨y / w - a / w, List.mem_range.mpr (by omega), by omega⟩

/-- A write at the home writes its bytes, those of failed channels excepted, and nothing else (R361, R372). -/
theorem wrote_homeWrite (a : Nat) (data : List Byte) (s : State) :
    Wrote a data (fun _ => True) s (homeWrite a data s) := by
  have hbefore : contents (countChanDrops a data.length (touch a data.length s)) = contents s := by
    rw [contents_countChanDrops, contents_touch]
  have hstart : Wrote a data (fun _ => False) s (countChanDrops a data.length (touch a data.length s)) :=
    .of_contents hbefore fun _ _ _ h => h.elim
  refine (hstart.trans (Wrote.foldl (fun s line => wrote_line a data line s) (unitsOf 64 a data.length) _)).congr
    fun y hlo hhi => iff_of_true (.inr ⟨y / 64, mem_unitsOf hlo hhi, rfl⟩) trivial

/-- The byte at an address after a write at the home. -/
theorem memByte_homeWrite (a : Nat) (data : List Byte) (s : State) (y : Nat) : memByte (homeWrite a data s) y =
    if a ≤ y ∧ y < a + data.length ∧ sectorFailed s (y / 32) = false then data.getD (y - a) 0 else memByte s y := by
  have h := wrote_homeWrite a data s
  split
  · next hc => exact h.written y hc.1 hc.2.1 trivial hc.2.2
  · next hc => exact h.stands y fun ⟨hlo, hhi, _, hf⟩ => hc ⟨hlo, hhi, hf⟩

end Write

end Sys2Proof.Machine
end

section
/-! Reads and writes by a unit of the device (R349, R351, R361 to R372, R398, R478): which wait, which are refused, and what
the others read and write; the statement of 11_memory.md on them. -/

namespace Sys2Proof.Machine

-- At the port (R28, R371, R471).

section Port

variable {r : Requester} {i : Instr} {g n k : Nat} {s : State}

theorem atPort_fenced (hf : (requesterLc r).bind (mapGet s.chk.movedFrom) = some k) :
    atPort r i s = bump Cnt.fncDiscard k 1 s := by
  rw [atPort, hf]

theorem atPort_served (hf : (requesterLc r).bind (mapGet s.chk.movedFrom) = none) : atPort r i s = runAccess i s := by
  rw [atPort, hf]

theorem mustWait_iff (hg : g < 2 ^ 54) : mustWait s r g n i = true ↔
    gPkg g = pkgNo s ∧ (accessBlocked s (requesterDie s r) (gLocal g) n = true ∨ behindWaiting s i = true) := by
  have hop : g < opBase := hg
  simp only [mustWait, hop, decide_true, Bool.true_and, Bool.and_eq_true, beq_iff_eq, Bool.or_eq_true]

theorem not_mustWait_op (hg : 2 ^ 54 ≤ g) : ¬ mustWait s r g n i = true := by
  have hop : ¬ g < opBase := Nat.not_lt.mpr hg
  simp only [mustWait, hop, decide_false, Bool.false_and, Bool.false_eq_true, not_false_eq_true]

/-- An access of a unit that the device has, at the port of a core that is not fenced. -/
theorem onPort_runs {t : State} (hr : requesterIn s r = true)
    (hf : (requesterLc r).bind (mapGet s.chk.movedFrom) = none) (ht : runAccess i s = t) :
    onUnit (requesterIn s r) (atPort r i s) = .next t :=
  onUnit_next hr ((atPort_served hf).trans ht)

end Port

-- What a unit is told and what is counted for it (R349, R368).

theorem countConsumed_reader {r : Requester} {lc : Nat} (hlc : requesterLc r = some lc) (hr : consumesPoison r = true)
    (n : Nat) (s : State) : countConsumed r n s = if n = 0 then s else
      raiseAll Ev.memPoisonConsume (List.replicate n (srcOf 3 lc)) (bump Cnt.memPoisonConsume lc n s) := by
  by_cases hn : n = 0 <;> simp [countConsumed, hlc, hr, hn]

theorem countConsumed_other {r : Requester} (hr : consumesPoison r = false) (n : Nat) (s : State) :
    countConsumed r n s = s := by
  unfold countConsumed
  split
  · simp [hr]
  · rfl

/-- A load or a stream consumes poison as zero and is counted for it; another unit's read is not (R368). -/
theorem countConsumed_eq (r : Requester) (n : Nat) (s : State) : countConsumed r n s = match r with
    | .core lc (.ctx _) | .core lc .vector =>
      if n = 0 then s
      else raiseAll Ev.memPoisonConsume (List.replicate n (srcOf 3 lc)) (bump Cnt.memPoisonConsume lc n s)
    | _ => s := by
  match r with
  | .core lc (.ctx x) => exact countConsumed_reader (r := .core lc (.ctx x)) rfl rfl n s
  | .core lc .vector => exact countConsumed_reader (r := .core lc .vector) rfl rfl n s
  | .core lc (.shunter i) => exact countConsumed_other (r := .core lc (.shunter i)) rfl n s
  | .stationmaster => exact countConsumed_other (r := .stationmaster) rfl n s

theorem replyOf_setReply (r : Requester) (p : ReadReply) (s : State) :
    mapGet (setReply r p s).mem.replies (requesterKey r) = some p := mapGet_mapSet_same _ _ _

theorem marked_unpoisoned (n : Nat) : marked (List.replicate n false) = 0 := by
  simp [marked, countIf]

theorem countConsumed_zero (r : Requester) (s : State) : countConsumed r 0 s = s := by
  unfold countConsumed
  split
  · simp
  · rfl

-- Reads.

section Read

variable {r : Requester} {g n : Nat} {found : List EccFinding} {s u : State}

/-- A read of the fabric address space goes to where R478 aims, after what the codes found. -/
theorem doRead_aimed (hg : g < 2 ^ 54) (hb : aimed s g < 2 ^ 54)
    (hu : applyFindings (findingsOf r (aimed s g) n found) s = u) : doRead r g n found s =
      if gPkg (aimed s g) ≠ pkgNo s then readRemote r (aimed s g) n u
      else if accessOk u r false (gLocal (aimed s g)) n then readHere r (aimed s g) n u
      else badRead r (aimed s g) n u := by
  have hop : g < opBase := hg
  have hbop : ¬ opBase ≤ aimed s g := Nat.not_le.mpr hb
  subst hu
  simp only [doRead, hop, hbop, if_true, if_false, pkgNo_applyFindings]

/-- A read of an operand cache. -/
theorem doRead_op (hg : 2 ^ 54 ≤ g) : doRead r g n found s = readOp r g n (applyFindings (findingsOf r g n found) s) := by
  have hop : ¬ g < opBase := Nat.not_lt.mpr hg
  have hop' : opBase ≤ g := hg
  simp only [doRead, hop, hop', if_true, if_false]

theorem tableHere_none {a : Nat} (h : ∀ e, regionAt u a = some e → e.2.table = none) : tableHere u a = none := by
  unfold tableHere
  split
  · next e he => rw [h _ he]; rfl
  · rfl

/-- A read of memory here that holds no table. -/
theorem readHere_plain (h : ∀ e, regionAt u (gLocal g) = some e → e.2.table = none) :
    let x := readPlain r (gLocal g) n u
    readHere r g n u = setReply r { base := g, data := x.1, poison := x.2.1, bad := false, pending := 0 }
      (countConsumed r (marked x.2.1) x.2.2) := by
  rw [readHere, tableHere_none h]

theorem contents_readHere_plain (h : ∀ e, regionAt u (gLocal g) = some e → e.2.table = none) :
    contents (readHere r g n u) = contents u := by
  rw [readHere_plain h, contents_setReply, contents_countConsumed, contents_readPlain]

/-- A read of a table's rows here. -/
theorem readHere_rows {e : Nat × Region} {t : Nat} {tb : Table} (he : regionAt u (gLocal g) = some e)
    (ht : e.2.table = some t) (htb : table u t = some tb) : readHere r g n u = readTable r g n t e.2.base tb u := by
  have hhere : tableHere u (gLocal g) = some (e.2.base, t, tb) := by
    simp only [tableHere, he, ht, Option.bind_some, htb, Option.map_some]
  rw [readHere, hhere]

/-- A read of the bridge window (R41, R347). -/
theorem readPlain_bridge {a : Nat} (ha : bridgeBase ≤ a) :
    readPlain r a n u = (winRead u.win (a - bridgeBase) n, List.replicate (sectorCount a n) false, u) := if_pos ha

theorem readHere_bridge (ha : bridgeBase ≤ gLocal g) (h : ∀ e, regionAt u (gLocal g) = some e → e.2.table = none) :
    readHere r g n u = setReply r
      { base := g
        data := winRead u.win (gLocal g - bridgeBase) n
        poison := List.replicate (sectorCount (gLocal g) n) false
        bad := false
        pending := 0 } u := by
  rw [readHere_plain h, readPlain_bridge ha]
  dsimp only
  rw [marked_unpoisoned, countConsumed_zero]

/-- A read of scratchpad, or of a region without a table (R348, R361 to R368). -/
theorem readPlain_memory {a : Nat} (ha : a < bridgeBase) :
    let x := match requesterLc r with
      | some lc => demandRead lc a n u
      | none => homeRead false a n u
    let m := if scratchBase ≤ a then maskHeld ((a - scratchBase) % scratchBytes) x.1 x.2.2 else (x.1, x.2.2)
    readPlain r a n u = (m.1, x.2.1, m.2) := by
  intro x m
  refine (if_neg (Nat.not_le.mpr ha)).trans ?_
  by_cases hs : scratchBase ≤ a
  · simp only [m, hs, if_true]
    rfl
  · simp only [m, hs, if_false]
    rfl

-- Reads of another package's memory (R173, R398).

theorem readRemote_outOfRange (h : 2 ^ 41 < gLocal g + n) : readRemote r g n u = badRead r g n u := if_pos h

theorem readRemote_noMember (hrange : gLocal g + n ≤ 2 ^ 41) (hm : isMember u (gPkg g) = false) :
    readRemote r g n u = remoteReadFail r g n u := by
  simp only [readRemote, Nat.not_lt.mpr hrange, hm, Bool.not_false, if_true, if_false]

-- Reads of the operand cache (R301, R302).

theorem readOp_reaches {lc : Nat} (hr : opReacher r = some lc) (hin : inOpCache (g - opBase) n = true) (hn : n ≠ 0) :
    let x := opRead u lc (g - opBase) n
    readOp r g n u = setReply r { base := g, data := x.1, poison := x.2, bad := false, pending := 0 }
      (countConsumed r (marked x.2) u) := by
  have hn' : (n != 0) = true := bne_iff_ne.mpr hn
  simp only [readOp, hr, hin, hn', Bool.and_self, if_true]

theorem readOp_refused (h : opReacher r = none ∨ inOpCache (g - opBase) n = false ∨ n = 0) :
    readOp r g n u = badRead r g n u := by
  unfold readOp
  split
  · next lc hlc =>
    refine if_neg ?_
    rcases h with h | h | h
    · simp [hlc] at h
    · simp [h]
    · simp [h]
  · rfl

-- The row of a read that waits for nothing.

section Row

variable (hr : requesterIn s r = true) (hf : (requesterLc r).bind (mapGet s.chk.movedFrom) = none)

include hr hf

theorem exec_read_op {t : State} (hg : 2 ^ 54 ≤ g) (ht : readOp r g n (applyFindings (findingsOf r g n found) s) = t) :
    exec (.memoryReadRequest r g n found) s = .next t :=
  onPort_runs hr hf ((if_neg (not_mustWait_op hg)).trans ((doRead_op hg).trans ht))

variable (hg : g < 2 ^ 54) (hfree : ¬ mustWait s r g n (.memoryReadRequest r g n found) = true) (hb : aimed s g < 2 ^ 54)
    (hu : applyFindings (findingsOf r (aimed s g) n found) s = u)

include hg hfree hb hu

theorem exec_read_refused (hhere : gPkg (aimed s g) = pkgNo s)
    (hno : accessOk u r false (gLocal (aimed s g)) n = false) :
    exec (.memoryReadRequest r g n found) s = .next (badRead r (aimed s g) n u) :=
  onPort_runs hr hf ((if_neg hfree).trans ((doRead_aimed hg hb hu).trans
    ((if_neg (not_not_intro hhere)).trans (if_neg (ne_true_of_eq_false hno)))))

theorem exec_read_here {t : State} (hhere : gPkg (aimed s g) = pkgNo s)
    (hok : accessOk u r false (gLocal (aimed s g)) n = true) (ht : readHere r (aimed s g) n u = t) :
    exec (.memoryReadRequest r g n found) s = .next t :=
  onPort_runs hr hf ((if_neg hfree).trans ((doRead_aimed hg hb hu).trans
    ((if_neg (not_not_intro hhere)).trans ((if_pos hok).trans ht))))

theorem exec_read_away {t : State} (haway : gPkg (aimed s g) ≠ pkgNo s) (ht : readRemote r (aimed s g) n u = t) :
    exec (.memoryReadRequest r g n found) s = .next t :=
  onPort_runs hr hf ((if_neg hfree).trans ((doRead_aimed hg hb hu).trans ((if_pos haway).trans ht)))

end Row

end Read

-- Writes.

section Write

variable {r : Requester} {g a : Nat} {data : List Byte} {s : State}

/-- A write to the fabric address space goes to where R478 aims. -/
theorem doWrite_aimed (hg : g < 2 ^ 54) (hb : aimed s g < 2 ^ 54) : doWrite r g data s =
    if gPkg (aimed s g) ≠ pkgNo s then writeThere r (aimed s g) data s
    else if !accessOk s r true (gLocal (aimed s g)) data.length then countBad r s
    else if bridgeBase ≤ gLocal (aimed s g) then bump Cnt.pkgMtrBridgeWr 0 1 s
    else writeHere r (gLocal (aimed s g)) data s := by
  have hop : g < opBase := hg
  have hbop : ¬ opBase ≤ aimed s g := Nat.not_le.mpr hb
  simp only [doWrite, hop, hbop, if_true, if_false]

/-- A write to an operand cache. -/
theorem doWrite_op (hg : 2 ^ 54 ≤ g) : doWrite r g data s = writeOp r g data s := by
  have hop : ¬ g < opBase := Nat.not_lt.mpr hg
  have hop' : opBase ≤ g := hg
  simp only [doWrite, hop, hop', if_true, if_false]

/-- `s` as a write of `n` bytes from `a` by unit `r` finds it: the lines of its core's staging buffer that it meets are
gone, and where a task writes scratchpad is noted (R116, R366). -/
def writeNoted (r : Requester) (a n : Nat) (s : State) : State :=
  match requesterLc r with
  | some lc =>
    let v := snoopWrite lc a n s
    if scratchBase ≤ a then noteWrite 0 a n 0 v else v
  | none => s

theorem contents_writeNoted (r : Requester) (a n : Nat) (s : State) : contents (writeNoted r a n s) = contents s := by
  unfold writeNoted
  split
  · dsimp only
    split
    · rw [contents_noteWrite, contents_snoopWrite]
    · exact contents_snoopWrite _ a n s
  · rfl

/-- A write to memory that is not pooled, or by the stationmaster, is made at its home (R351). -/
theorem writeHere_home (h : ∀ e, regionAt s a = some e → e.2.pooled = true → r = .stationmaster) :
    writeHere r a data s = homeWrite a data (writeNoted r a data.length s) := by
  cases he : regionAt s a with
  | none =>
    simp only [writeHere, he]
    rfl
  | some e =>
    have hpooled : (e.2.pooled && r != .stationmaster) = false := by
      cases hp : e.2.pooled with
      | false => rfl
      | true => rw [h e he hp]; rfl
    simp only [writeHere, he, hpooled]
    rfl

section Pooled

variable {e : Nat × Region} {lc : Nat} (he : regionAt s a = some e) (hp : e.2.pooled = true)
    (hlc : requesterLc r = some lc)

include he hp hlc

/-- A program's write to a pooled region is not made while the package sits out (R70). -/
theorem writeHere_sitsOut (hs : sitsOut s = true) : writeHere r a data s = s := by
  have hr : (r != .stationmaster) = true := bne_iff_ne.mpr fun h => by rw [h] at hlc; cases hlc
  simp only [writeHere, he, hp, hr, hs, Bool.and_self, if_true]

/-- A program's write to a pooled region is staged, in whole sectors (R62, R351). -/
theorem writeHere_staged (hs : sitsOut s = false) :
    let w := wholeSectors a data (writeNoted r a data.length s)
    writeHere r a data s = (poolPieces w.1 w.2.1.length).foldl
      (fun s e => stageHere e.1 false (slice w.2.1 (e.1 - w.1) e.2) [] s) w.2.2 := by
  have hr : (r != .stationmaster) = true := bne_iff_ne.mpr fun h => by rw [h] at hlc; cases hlc
  simp only [writeHere, he, hp, hr, hs, Bool.and_false, Bool.and_self, Bool.false_eq_true, if_true, if_false]
  rfl

end Pooled

-- Writes to another package's memory (R62, R395).

theorem writeThere_refused (h : 2 ^ 41 < gLocal g + data.length ∨ data = []) : writeThere r g data s = countBad r s :=
  if_pos h

section There

variable (hrange : gLocal g + data.length ≤ 2 ^ 41) (hdata : data ≠ [])

include hrange hdata

theorem writeThere_sitsOut (hs : sitsOut s = true) : writeThere r g data s = s := by
  simp only [writeThere, Nat.not_lt.mpr hrange, hdata, or_self, if_false, hs, if_true]

theorem writeThere_sent (hs : sitsOut s = false) :
    let w := wholeSectors (gLocal g) data s
    writeThere r g data s = (poolPieces w.1 w.2.1.length).foldl (fun s e => (sendReq (gPkg g) (.write (requesterLc r))
      (fun h => .poolStore h e.1 (slice w.2.1 (e.1 - w.1) e.2)) s).1) w.2.2 := by
  simp only [writeThere, Nat.not_lt.mpr hrange, hdata, or_self, if_false, hs, Bool.false_eq_true]
  rfl

end There

-- Writes to the operand cache (R301, R302).

theorem writeOp_reaches {lc : Nat} (hr : opReacher r = some lc) (hin : inOpCache (g - opBase) data.length = true)
    (hdata : data ≠ []) : writeOp r g data s = opWrite lc (g - opBase) data { s with mem := { s.mem with
      written := (lc + 1, g - opBase, data.length, 0) :: s.mem.written } } := by
  have hdata' : (data != []) = true := bne_iff_ne.mpr hdata
  have hlen : data.length ≠ 0 := fun h => hdata (List.length_eq_zero_iff.mp h)
  simp only [writeOp, hr, hin, hdata', Bool.and_self, if_true, noteWrite, hlen, if_false]

theorem writeOp_refused (h : opReacher r = none ∨ inOpCache (g - opBase) data.length = false ∨ data = []) :
    writeOp r g data s = countBad r s := by
  unfold writeOp
  split
  · next lc hlc =>
    refine if_neg ?_
    rcases h with h | h | h
    · simp [hlc] at h
    · simp [h]
    · simp [h]
  · rfl

theorem sitsOut_of_job (h : ∃ j, s.job = some j ∧ j.sittingOut = true) : sitsOut s = true := by
  obtain ⟨j, hj, hs⟩ := h
  rw [sitsOut, hj]
  exact hs

theorem not_sitsOut_of_job (h : ∀ j, s.job = some j → j.sittingOut = false) : sitsOut s = false := by
  unfold sitsOut
  split
  · next j hj => exact h j hj
  · rfl

-- The row of a write that waits for nothing.

section Row

variable (hr : requesterIn s r = true) (hf : (requesterLc r).bind (mapGet s.chk.movedFrom) = none)

include hr hf

theorem exec_write_op {t : State} (hg : 2 ^ 54 ≤ g) (ht : writeOp r g data s = t) :
    exec (.memoryWriteRequest r g data) s = .next t :=
  onPort_runs hr hf ((if_neg (not_mustWait_op hg)).trans ((doWrite_op hg).trans ht))

variable (hg : g < 2 ^ 54) (hfree : ¬ mustWait s r g data.length (.memoryWriteRequest r g data) = true)
    (hb : aimed s g < 2 ^ 54)

include hg hfree hb

theorem exec_write_away {t : State} (haway : gPkg (aimed s g) ≠ pkgNo s) (ht : writeThere r (aimed s g) data s = t) :
    exec (.memoryWriteRequest r g data) s = .next t :=
  onPort_runs hr hf ((if_neg hfree).trans ((doWrite_aimed hg hb).trans ((if_pos haway).trans ht)))

variable (hhere : gPkg (aimed s g) = pkgNo s)

include hhere

theorem exec_write_refused (hno : accessOk s r true (gLocal (aimed s g)) data.length = false) :
    exec (.memoryWriteRequest r g data) s = .next (countBad r s) :=
  onPort_runs hr hf ((if_neg hfree).trans ((doWrite_aimed hg hb).trans
    ((if_neg (not_not_intro hhere)).trans (if_pos (by rw [hno]; rfl)))))

variable (hok : accessOk s r true (gLocal (aimed s g)) data.length = true)

include hok

theorem exec_write_bridge (ha : bridgeBase ≤ gLocal (aimed s g)) :
    exec (.memoryWriteRequest r g data) s = .next (bump Cnt.pkgMtrBridgeWr 0 1 s) :=
  onPort_runs hr hf ((if_neg hfree).trans ((doWrite_aimed hg hb).trans
    ((if_neg (not_not_intro hhere)).trans ((if_neg (by rw [hok]; decide)).trans (if_pos ha)))))

theorem exec_write_here {t : State} (ha : gLocal (aimed s g) < bridgeBase)
    (ht : writeHere r (gLocal (aimed s g)) data s = t) : exec (.memoryWriteRequest r g data) s = .next t :=
  onPort_runs hr hf ((if_neg hfree).trans ((doWrite_aimed hg hb).trans ((if_neg (not_not_intro hhere)).trans
    ((if_neg (by rw [hok]; decide)).trans ((if_neg (Nat.not_le.mpr ha)).trans ht)))))

end Row

end Write

end Sys2Proof.Machine

namespace Sys2Proof.Proofs

open Sys2Proof.Machine

/-- Settles O50: which branch of the port, of the read and of the write an access takes, and that no read and no write that
is staged or sent changes a byte (`contents`), where one made at its home changes exactly its own
(`memByte_homeWrite`). That a pooled write of a package that sits out is not made is assumption log 63, that save slots and
accumulator bytes read as free values log 67. -/
theorem memoryReadsAndWrites : Obligations.MemoryReadsAndWrites := by
  intro r g s hr b a own fence counted consumed bytes
  have hconsumed : ∀ k u, countConsumed r k u = consumed k u := countConsumed_eq r
  refine ⟨fun n found => ?_, fun data => ?_⟩
  · intro i u refused
    have hbytes : ∀ {t : State}, contents t = contents u → ∀ y, bytes t y = bytes s y := fun h =>
      memByte_of_contents (h.trans (contents_applyFindings _ s))
    refine ⟨fun k hk => onUnit_next hr (atPort_fenced hk), fun hf hg => ⟨fun hown => ?_, fun hown hhere hb => ?_,
      fun hown haway hb => ?_⟩, fun hf hg => ?_⟩
    · exact onPort_runs hr hf (if_pos ((mustWait_iff hg).mpr hown))
    -- reads of this package's memory
    · have hfree := mt (mustWait_iff hg).mp hown
      refine ⟨exec_read_refused hr hf hg hfree hb rfl hhere, fun hok ha hflat => ?_, fun e t tb hok he ht htb => ?_,
        fun hok ha hflat => ?_⟩
      · intro x m w
        have hw : readHere r b n u = w := by
          rw [readHere_plain hflat, readPlain_memory ha, hconsumed]
          rfl
        exact ⟨exec_read_here hr hf hg hfree hb rfl hhere hok hw, hbytes (hw ▸ contents_readHere_plain hflat)⟩
      · exact exec_read_here hr hf hg hfree hb rfl hhere hok (readHere_rows he ht htb)
      · exact ⟨_, exec_read_here hr hf hg hfree hb rfl hhere hok (readHere_bridge ha hflat), replyOf_setReply r _ u,
          hbytes rfl⟩
    -- reads of another package's
    · have hfree := mt (mustWait_iff hg).mp hown
      refine ⟨fun hout => ?_, fun hin hm => ⟨_, ?_, replyOf_setReply r _ _, hbytes (contents_remoteReadFail r b n u)⟩,
        fun hin hm => ⟨_, ?_, hbytes (contents_readRemote r b n u)⟩⟩
      · exact exec_read_away hr hf hg hfree hb rfl haway (readRemote_outOfRange hout)
      · exact exec_read_away hr hf hg hfree hb rfl haway (readRemote_noMember hin hm)
      · exact exec_read_away hr hf hg hfree hb rfl haway rfl
    -- reads of the operand cache
    · intro v c
      refine ⟨fun lc hlc hin hn => ?_, fun hno => exec_read_op hr hf hg (readOp_refused hno)⟩
      intro x
      rw [← hconsumed]
      exact exec_read_op hr hf hg (readOp_reaches hlc hin hn)
  · intro i
    refine ⟨fun k hk => onUnit_next hr (atPort_fenced hk), fun hf hg => ⟨fun hown => ?_, fun hown hhere hb => ?_,
      fun hown haway hb => ?_⟩, fun hf hg => ?_⟩
    · exact onPort_runs hr hf (if_pos ((mustWait_iff hg).mpr hown))
    -- writes to this package's memory
    · intro v
      have hv : contents v = contents s := contents_writeNoted r a data.length s
      have hfree := mt (mustWait_iff hg).mp hown
      refine ⟨exec_write_refused hr hf hg hfree hb hhere, exec_write_bridge hr hf hg hfree hb hhere,
        fun hok ha hhome => ⟨?_, fun y => ?_⟩, fun e lc hok ha he hp hlc => ⟨fun hs => ?_, fun hs => ⟨?_, ?_⟩⟩⟩
      · exact exec_write_here hr hf hg hfree hb hhere hok ha (writeHere_home hhome)
      · refine (memByte_homeWrite a data v y).trans ?_
        rw [sectorFailed_of_places (places_of_contents hv), memByte_of_contents hv]
        rfl
      · exact exec_write_here hr hf hg hfree hb hhere hok ha (writeHere_sitsOut he hp hlc (sitsOut_of_job hs))
      · exact exec_write_here hr hf hg hfree hb hhere hok ha (writeHere_staged he hp hlc (not_sitsOut_of_job hs))
      · refine memByte_of_contents ?_
        rw [foldl_view contents fun t e => contents_stageHere _ _ _ _ t, contents_wholeSectors, hv]
    -- writes to another package's
    · have hfree := mt (mustWait_iff hg).mp hown
      refine ⟨fun hout => ?_, fun hin hdata => ⟨fun hs => ?_, fun hs => ⟨?_, ?_⟩⟩⟩
      · exact exec_write_away hr hf hg hfree hb haway (writeThere_refused hout)
      · exact exec_write_away hr hf hg hfree hb haway (writeThere_sitsOut hin hdata (sitsOut_of_job hs))
      · exact exec_write_away hr hf hg hfree hb haway (writeThere_sent hin hdata (not_sitsOut_of_job hs))
      · refine memByte_of_contents ?_
        rw [foldl_view contents fun t e => contents_sendReq _ _ _ t, contents_wholeSectors]
    -- writes to the operand cache
    · exact ⟨fun lc hlc hin hdata => exec_write_op hr hf hg (writeOp_reaches hlc hin hdata),
        fun hno => exec_write_op hr hf hg (writeOp_refused hno)⟩

end Sys2Proof.Proofs
end

section
/-! Buffers, channels, stacks and the memory commands (R352, R362, R366, R370 to R379, R597, R598): when each moves on, and
what each command answers and changes; the statements of 11_memory.md on them. -/

namespace Sys2Proof.Machine

-- Time and telemetry leave memory alone (R9, R527).

theorem reachTime_mem (t : Nat) (s : State) : (reachTime t s).mem = s.mem := by rw [reachTime, advance_frame]

theorem telemetry_mem (id inst : Nat) (x : Int) (s : State) : (telemetry id inst x s).mem = s.mem := by
  unfold telemetry
  dsimp only
  split
  · unfold sample
    dsimp only
    split <;> rfl
  · rfl

-- The write-combining buffer (R362, R371).

theorem find_of_takeFirst {α : Type} {p : α → Bool} {l rest : List α} {x : α} (h : takeFirst p l = some (x, rest)) :
    l.find? p = some x := by
  induction l generalizing rest with
  | nil => cases h
  | cons y l ih =>
    rw [takeFirst] at h
    split at h
    · next hy =>
      cases h
      exact List.find?_cons_of_pos hy
    · next hy =>
      rw [List.find?_cons_of_neg hy]
      split at h
      · next ht =>
        cases h
        exact ih ht
      · cases h

/-- A pending line that is idle goes to the depot, where its channel does not retrain. -/
theorem wcbIdleS_flushes {s : State} {l : WcbLine} {line : Nat} (hl : s.mem.wcb.find? (fun x => x.line == line) = some l)
    (hup : ∀ p, chanAt s (line * 64) = some p → chanState s p = .up) :
    wcbIdleS line s = flushLine l (reachTime (l.last + 2000) s) := by
  have hplaces : places (reachTime (l.last + 2000) s) = places s :=
    places_of_contents (contents_of_mem (reachTime_mem _ s))
  unfold wcbIdleS
  simp only [hl]
  rw [chanAt_of_places hplaces]
  cases hc : chanAt s (line * 64) with
  | none => rfl
  | some p =>
    rw [Option.map_some, chanState_of_places hplaces, hup p hc]

-- Prefetch (R366).

theorem fillStaging_fills {lc g : Nat} {s : State} (h : (stagingOf s lc).any (fun l => l.granule == g && !l.ready) = true) :
    let r := homeRead true (g * 256) 256 s
    fillStaging lc g s = setStaging lc ((stagingOf r.2.2 lc).map (fun l =>
      if l.granule = g then { l with ready := true, data := r.1, poison := r.2.1 } else l)) r.2.2 := if_pos h

-- Channels (R370 to R372).

section Channel

variable {p : Nat} {s : State}

theorem scrubS_serves (found : List EccFinding) (hin : chanIn s p = true) (hup : chanState s p = .up) :
    scrubS p found s = found.foldl (fun s f => match chanAt s (findingAddr f) with
      | some q => if q = p then applyFinding f s else s
      | none => freeFrameFinding p s f) s := by
  have hc : (chanIn s p && chanState s p == .up) = true := by rw [hin, hup]; rfl
  exact if_pos hc

theorem chanRetrainS_starts (hin : chanIn s p = true) (hup : chanState s p = .up) :
    chanRetrainS p s = startChanRetrain p s := by
  have hc : (chanIn s p && chanState s p == .up) = true := by rw [hin, hup]; rfl
  exact if_pos hc

variable {since : Nat} (hs : chanState s p = .retraining since)

include hs

theorem chanDoneS_serves : chanDoneS p s = finishAll (retryWaiting (setChan p .up (dropHeld p s))) := by
  rw [chanDoneS, hs]

theorem chanTimeoutS_fails :
    let w := setChan p .failed (discardChannel p (reachTime (since + 10000000) s))
    let x := addSoft (softEntry 6 (p / 256) (p / 128) (p % 128) 0 false false w) w
    chanTimeoutS p s =
      finishAll (retryWaiting (raise Ev.memChFail (srcOf 6 p) [] (bump Cnt.memChFail 0 1 x))) := by
  rw [chanTimeoutS, hs]

end Channel

/-- The lines and the held writes of a channel that failed are discarded, and counted where there were any (R372). -/
theorem discardChannel_eq (p : Nat) (u : State) :
    let mineW := u.mem.wcb.filter (fun l => chanAt u (l.line * 64) == some p)
    let mineD := (depotLines u (p / 256)).filter (fun l => chanAt u (l.line * 128) == some p && l.dirty)
    let k := mineW.length + mineD.length + mapGetD u.mem.held p 0
    let v := setDepot (p / 256) ((depotLines u (p / 256)).filter (fun l => chanAt u (l.line * 128) != some p))
      { u with mem := { u.mem with
        wcb := u.mem.wcb.filter (fun l => chanAt u (l.line * 64) != some p)
        held := mapDel u.mem.held p } }
    discardChannel p u = if k = 0 then v else bump Cnt.memChFailDrop p k v := by
  have hdirty : countIf (fun l => l.dirty) ((depotLines u (p / 256)).filter (fun l => chanAt u (l.line * 128) == some p))
      = ((depotLines u (p / 256)).filter (fun l => chanAt u (l.line * 128) == some p && l.dirty)).length := by
    rw [countIf, List.filter_filter]
    simp only [Bool.and_comm]
  unfold discardChannel
  simp only [hdirty]

-- Stacks (R373, R374).

/-- A temperature steps its stack, by the state and the parameters that telemetry leaves as they were. -/
theorem stackTempS_steps {j : Nat} {temp : Int} {s : State} (hd : diesRun s = true) :
    let u := telemetry 0x0002 j temp s
    let d := stackAt u.mem.cfg (stackState s j) temp
    let v := { u with mem := { u.mem with stk := mapSet u.mem.stk j d } }
    stackTempS j temp s =
      if (stackState s j).step = 0 ∧ 0 < d.step then raise Ev.memThrottle (srcOf 5 j) [] v else v := by
  have hc : stackState (telemetry 0x0002 j temp s) j = stackState s j := by
    rw [stackState, telemetry_mem]
    rfl
  intro u d v
  rw [stackTempS, if_pos hd, setStackTemp, hc]

-- CMD_MEM_ALLOC (R376, R377).

section Alloc

variable {p : List Byte} {s t : State}

theorem memAlloc_badParam (h : allocFieldsOk s p = false) : memAlloc p s = (s, failWith St.badParam 1) := by
  simp only [memAlloc, h, Bool.not_false, if_true]

section Fields

variable (h : allocFieldsOk s p = true) (hset : (allocAsk p).spread = true ∨ (dieSet s (allocAsk p).die).isSome = true)
    (hroom : s.mem.regions.length < 4096)

include h hset hroom

/-- Past checks 1 to 3 of R377 the answer is what the allocator says. -/
theorem memAlloc_checked {o : Option (Nat × Region × State)} (ho : createRegion (allocAsk p) s = o) :
    memAlloc p s = (o.elim (s, failWith St.noSpace 4) fun x => (x.2.2, okWith (allocResp x.1 x.2.1))) := by
  have hdie : ¬(!(allocAsk p).spread ∧ (dieSet s (allocAsk p).die).isNone) := by
    rcases hset with hset | hset
    · simp [hset]
    · simp [Option.isSome_iff_ne_none.mp hset]
  simp only [memAlloc, h, Bool.not_true, Bool.false_eq_true, if_false, hdie, Nat.not_le.mpr hroom, ho]
  cases o <;> rfl

theorem memAlloc_noSpace (hnone : createRegion (allocAsk p) s = none) :
    memAlloc p s = (s, failWith St.noSpace 4) := memAlloc_checked h hset hroom hnone

theorem memAlloc_creates {k : Nat} {r : Region} (hsome : createRegion (allocAsk p) s = some (k, r, t)) :
    memAlloc p s = (t, okWith (allocResp k r)) := memAlloc_checked h hset hroom hsome

end Fields

end Alloc

section Create

variable {q : RegionAsk} {s t : State} {k : Nat} {r : Region}

/-- A region is created where the allocator places it, its bytes zero and free of poison (R350, R377). -/
theorem createRegion_eq (h : createRegion q s = some (k, r, t)) : placeRegion s q = some r ∧
    t = { s with mem := { s.mem with
      regions := mapSet s.mem.regions k r
      cells := cellsClear s.mem.cells r.base r.size
      poison := s.mem.poison.filter (fun x => !(decide (r.base ≤ x * 32) && decide (x * 32 < r.base + r.size))) } } := by
  unfold createRegion at h
  split at h
  · next hplace =>
    obtain ⟨rfl, rfl, rfl⟩ : _ ∧ _ ∧ _ := by simpa only [Option.some.injEq, Prod.mk.injEq] using h
    exact ⟨hplace, rfl⟩
  · cases h

theorem le_cdiv_mul (a : Nat) {b : Nat} (hb : 0 < b) : a ≤ cdiv a b * b := by
  have hdiv := Nat.div_add_mod (a + b - 1) b
  have hmod := Nat.mod_lt (a + b - 1) hb
  rw [cdiv, Nat.mul_comm]
  omega

/-- What fits has the size asked for, in whole units (R353). -/
theorem fitIn_size {c n size : Nat} {fit : Nat × Nat × Nat} (h : fitIn s c n size = some fit) :
    size ≤ fit.2.1 * unitBytes n := by
  unfold fitIn at h
  dsimp only at h
  split at h
  · cases h
    exact le_cdiv_mul size (unitBytes_pos n)
  · cases h

theorem placeOnDie_size {d : Nat} {far : Bool} (h : placeOnDie s q d far = some r) : q.size ≤ r.size := by
  unfold placeOnDie at h
  split at h
  · cases h
  · obtain ⟨fit, hfit, rfl⟩ := Option.map_eq_some_iff.mp h
    exact fitIn_size hfit

theorem placeRegion_size (h : placeRegion s q = some r) : q.size ≤ r.size := by
  unfold placeRegion at h
  dsimp only at h
  split at h
  · obtain ⟨fit, hfit, rfl⟩ := Option.map_eq_some_iff.mp h
    exact fitIn_size hfit
  · split at h
    · split at h
      · next hhome =>
        cases h
        exact placeOnDie_size hhome
      · split at h
        · exact placeOnDie_size h
        · cases h
    · exact placeOnDie_size h

end Create

-- CMD_MEM_FREE (R375, R378).

section Free

variable {p : List Byte} {s : State}

theorem memFree_absent (h : mapGet s.mem.regions (field p 0 12) = none) : memFree p s = (s, failWith St.badParam 0) := by
  simp only [memFree, h]

variable {r : Region} (h : mapGet s.mem.regions (field p 0 12) = some r) (hres : field p 12 4 = 0)
    (hdev : r.device = false)

include h hres hdev

theorem memFree_inUse (hn : regionNamed s r = true) : memFree p s = (s, failWith St.inUse 0) := by
  simp only [memFree, h, hres, hdev, hn, ne_eq, not_true_eq_false, Bool.false_eq_true, or_self, if_false, if_true]

theorem memFree_destroys (hn : regionNamed s r = false) :
    memFree p s = (destroyRegion (field p 0 12) s, okWith []) := by
  simp only [memFree, h, hres, hdev, hn, ne_eq, not_true_eq_false, Bool.false_eq_true, or_self, if_false]

end Free

-- CMD_MEM_WRITE and CMD_MEM_READ (R378).

theorem slice_length (b : List Byte) (off n : Nat) : (slice b off n).length = n := by
  simp [slice, zeros]

section Bytes

variable {p : List Byte} {s : State}

theorem memWrite_badRange (h : rangeOk s (field p 0 64) (field p 64 32) = none) :
    memWrite p s = (s, failWith St.badParam 0) := by
  simp only [memWrite, h]

/-- `s` as CMD_MEM_READ finds it for region `r`: the rows of the table that the region stores are committed (R216). -/
def readFrom (r : Region) (s : State) : State :=
  match r.table with
  | some t => commitTable t s
  | none => s

theorem memRead_badRange (h : rangeOk s (field p 0 64) (field p 64 32) = none) :
    memRead p s = (s, failWith St.badParam 0) := by
  simp only [memRead, h]

variable {r : Region} (h : rangeOk s (field p 0 64) (field p 64 32) = some r)

include h

theorem memWrite_table (ht : r.table.isSome = true) : memWrite p s = (s, failWith St.badParam 0) := by
  simp only [memWrite, h, ht, if_true]

theorem memWrite_writes (ht : r.table = none) :
    memWrite p s = (homeWrite (field p 0 64) (slice p 12 (field p 64 32)) s, okWith []) := by
  simp only [memWrite, h, ht, Option.isSome_none, Bool.false_eq_true, if_false]

/-- A read of a region that holds no guest's image, after a table's rows are committed (R378). -/
theorem memRead_reads (hguest : ∀ e ∈ (readFrom r s).chk.guestRegions, mapGet (readFrom r s).mem.regions e ≠ some r) :
    let x := homeRead false (field p 0 64) (field p 64 32) (readFrom r s)
    memRead p s = (x.2.2, okWith (x.1 ++ toLE (cdiv x.2.1.length 8) (bitmap x.2.1))) := by
  have hno : ¬ (readFrom r s).chk.guestRegions.any (fun id => mapGet (readFrom r s).mem.regions id == some r) = true := by
    rw [Bool.not_eq_true, List.any_eq_false]
    exact fun e he heq => hguest e he (eq_of_beq heq)
  unfold readFrom at hno ⊢
  cases ht : r.table with
  | none =>
    simp only [ht] at hno
    simp only [memRead, h, ht, if_neg hno]
  | some t =>
    simp only [ht] at hno
    simp only [memRead, h, ht, if_neg hno]

end Bytes

-- CMD_MEM_REGIONS, CMD_MEM_CONFIG, CMD_MEM_RETRAIN and CMD_MEM_MARGIN (R371, R378, R379, R597).

section Parameters

variable {p : List Byte} {s : State}

theorem memRegions_answers (hres : field p 12 4 = 0) (hlo : 1 ≤ field p 16 16)
    (hhi : field p 0 12 + field p 16 16 ≤ 4096) : memRegions p s =
      okWith ((List.range (field p 16 16)).flatMap (fun i => regionEntry s (field p 0 12 + i))) := by
  refine if_neg ?_
  omega

theorem memRegions_badParam (h : field p 12 4 ≠ 0 ∨ field p 16 16 = 0 ∨ 4096 < field p 0 12 + field p 16 16) :
    memRegions p s = failWith St.badParam 0 := by
  refine if_pos ?_
  omega

theorem memConfig_badParam (h : memConfigOk p = false) : memConfig p s = (s, failWith St.badParam 0) := by
  simp only [memConfig, h, Bool.not_false, if_true]

/-- The parameters that a CMD_MEM_CONFIG payload gives. -/
def memCfgOf (p : List Byte) : MemCfg :=
  { thermalMode := field p 0 1
    tThr := field p 8 8
    pfDepth := field p 16 7
    scrubHours := field p 32 8
    retrainErrs := field p 40 8 }

theorem memConfig_sets (h : memConfigOk p = true) :
    let u := { s with mem := { s.mem with
      cfg := { s.mem.cfg with thermalMode := (memCfgOf p).thermalMode, tThr := (memCfgOf p).tThr }
      cfgNext := memCfgOf p } }
    memConfig p s = (u.mem.stk.foldl (fun v e => setStackTemp e.1 e.2.temp v) u, okWith []) := by
  simp only [memConfig, h, Bool.not_true, Bool.false_eq_true, if_false]
  rfl

theorem memRetrain_unnamed (h : namedChan s p = none) : memRetrain p s = (s, failWith St.badParam 0) := by
  simp only [memRetrain, h]

theorem memMargin_unnamed (passes : List Bool) (h : namedChan s p = none) :
    memMargin passes p s = failWith St.badParam 0 := by
  simp only [memMargin, h]

variable {k : Nat} (h : namedChan s p = some k)

include h

theorem memRetrain_inUse (hr : retraining s k = true) : memRetrain p s = (s, failWith St.inUse 0) := by
  simp only [memRetrain, h, hr, if_true]

theorem memRetrain_failed (hf : chanState s k = .failed) :
    memRetrain p s = (bump Cnt.memRetrain k 1 (raise Ev.memRetrain (srcOf 6 k) [] s), okWith []) := by
  have hr : retraining s k = false := by rw [retraining, hf]
  simp only [memRetrain, h, hr, hf, Bool.false_eq_true, if_false, if_true]

theorem memRetrain_starts (hup : chanState s k = .up) : memRetrain p s = (startChanRetrain k s, okWith []) := by
  have hr : retraining s k = false := by rw [retraining, hup]
  simp only [memRetrain, h, hr, hup, Bool.false_eq_true, if_false, reduceCtorEq]

theorem memMargin_answers (passes : List Bool) (hlo : 1 ≤ field p 17 7) (hhi : field p 17 7 ≤ 64)
    (hres : field p 24 8 = 0) (hr : retraining s k = false) :
    let m := 2 * field p 17 7 + 1
    memMargin passes p s = okWith (toLE (cdiv m 8) (bitmap ((List.range m).map (fun i => passes.getD i false)))) := by
  have hok : ¬(field p 17 7 = 0 ∨ 64 < field p 17 7 ∨ field p 24 8 ≠ 0) := by omega
  simp only [memMargin, h, hok, hr, Bool.false_eq_true, if_false]

end Parameters

end Sys2Proof.Machine

namespace Sys2Proof.Proofs

open Sys2Proof.Machine

/-- Settles O8: that no two regions overlap is among what every step keeps (`step_keeps`); a new region is placed apart from
every other (`placeRegion_sound`). -/
theorem regionsNeverOverlap : Obligations.RegionsNeverOverlap := by
  intro s t hs h
  exact (step_keeps h).apart hs

/-- Settles O3: no byte is listed at reset, no region, and the meter is powered with VAUX applied. -/
theorem resetIsSound : Obligations.ResetIsSound := ⟨rfl, List.Pairwise.nil, rfl, nofun⟩

/-- Settles O51: one equation per event, command and outcome; the fill and the commands that write or read bytes also wait
for their accesses (`takesEffect_of_whenOpen`). That a finding outside every region is counted at the scrubbed channel is
assumption log 25, that RETRAIN of a failed channel only counts log 50. -/
theorem memoryEventsAndCommands : Obligations.MemoryEventsAndCommands := by
  intro s
  refine ⟨fun l rest hl hup => ?_, fun lc g hlc hany => ?_, fun p found hp hin hup => ?_, fun p hp hin hup => ?_,
    fun p since hp hs => ⟨?_, ?_⟩, fun j temp hj hd => ?_, fun src c => ?_⟩
  · exact congrArg Host.Outcome.next (wcbIdleS_flushes (find_of_takeFirst hl) hup)
  · exact takesEffect_of_whenOpen (onUnit_next (decide_eq_true hlc) rfl) (fillStaging_fills (s := rowBegun _ s) hany)
  · exact onUnit_next (decide_eq_true hp) (scrubS_serves found hin hup)
  · exact onUnit_next (decide_eq_true hp) (chanRetrainS_starts hin hup)
  · exact onUnit_next (decide_eq_true hp) (chanDoneS_serves hs)
  · refine onUnit_next (decide_eq_true hp) ((chanTimeoutS_fails hs).trans ?_)
    rw [discardChannel_eq]
  · exact onUnit_next (decide_eq_true hj) (stackTempS_steps hd)
  intro p a n id bytes bad
  refine ⟨fun hc => ⟨fun hno => ?_, fun hok hset hroom => ⟨fun hnone => ?_, fun k r t hsome => ⟨?_, ?_, ?_, fun y => ?_⟩⟩⟩,
    fun hc => ⟨fun hnone => ?_, fun r hr hres hdev => ⟨fun hn => ?_, fun hn => ?_⟩⟩,
    fun hc => ⟨fun hnone => ?_, fun r hr => ⟨fun ht => ?_, fun ht => ⟨?_, fun y => ?_⟩⟩⟩,
    fun hc => ⟨fun hnone => ?_, fun r hr hguest => ⟨?_, fun y => ?_⟩⟩,
    fun hc => ⟨fun hres hlo hhi => ?_, fun hno => ?_⟩, fun hc => ⟨fun hno => ?_, fun hok => ?_⟩,
    fun hc => ⟨fun hnone => ?_, fun k hk => ⟨fun hr => ?_, fun hf => ?_, fun hup => ?_⟩⟩,
    fun passes hc => ⟨fun hnone => ?_, fun k hk hlo hhi hres hr => ?_⟩, fun hc => ?_⟩
  -- ALLOC
  · exact congrArg Host.Outcome.next (performNow_answers hc (memAlloc_badParam hno))
  · exact congrArg Host.Outcome.next (performNow_answers hc (memAlloc_noSpace hok hset hroom hnone))
  · exact congrArg Host.Outcome.next (performNow_answers hc (memAlloc_creates hok hset hroom hsome))
  · rw [(createRegion_eq hsome).2]
    exact mapGet_mapSet_same _ k r
  · exact placeRegion_size (createRegion_eq hsome).1
  · rw [(createRegion_eq hsome).2]
    exact cellByte_clear _ _ _ y
  -- FREE
  · exact congrArg Host.Outcome.next (performNow_answers hc (memFree_absent hnone))
  · exact congrArg Host.Outcome.next (performNow_answers hc (memFree_inUse hr hres hdev hn))
  · exact congrArg Host.Outcome.next (performNow_answers hc (memFree_destroys hr hres hdev hn))
  -- WRITE
  · exact takesEffect_of_performNow rfl hc (memWrite_badRange (s := rowBegun 0 s) hnone)
  · exact takesEffect_of_performNow rfl hc (memWrite_table (s := rowBegun 0 s) hr ht)
  · exact takesEffect_of_performNow rfl hc (memWrite_writes (s := rowBegun 0 s) hr ht)
  · refine (memByte_homeWrite a (slice p 12 n) (rowBegun 0 s) y).trans ?_
    rw [slice_length]
    rfl
  -- READ
  · exact takesEffect_of_performNow rfl hc (memRead_badRange (s := rowBegun 0 s) hnone)
  · exact takesEffect_of_performNow rfl hc (memRead_reads (s := rowBegun 0 s) hr hguest)
  · exact memByte_of_contents (contents_homeRead false a n _) y
  -- REGIONS and CONFIG
  · exact congrArg Host.Outcome.next (performQuery_answers hc (memRegions_answers hres hlo hhi))
  · exact congrArg Host.Outcome.next (performQuery_answers hc (memRegions_badParam hno))
  · exact congrArg Host.Outcome.next (performNow_answers hc (memConfig_badParam hno))
  · exact congrArg Host.Outcome.next (performNow_answers hc (memConfig_sets hok))
  -- RETRAIN, MARGIN and STATUS
  · exact congrArg Host.Outcome.next (performNow_answers hc (memRetrain_unnamed hnone))
  · exact congrArg Host.Outcome.next (performNow_answers hc (memRetrain_inUse hk hr))
  · exact congrArg Host.Outcome.next (performNow_answers hc (memRetrain_failed hk hf))
  · exact congrArg Host.Outcome.next (performNow_answers hc (memRetrain_starts hk hup))
  · exact congrArg Host.Outcome.next (performQuery_answers hc (memMargin_unnamed passes hnone))
  · exact congrArg Host.Outcome.next (performQuery_answers hc (memMargin_answers hk passes hlo hhi hres hr))
  · exact congrArg Host.Outcome.next (performQuery_answers hc rfl)

end Sys2Proof.Proofs
end

section
/-! What every step keeps of fuses, soft fault map, clear log, memory, meter and queue; where a command may stop; what a
stale command, a completion and an event leave behind; the statements of 13_host_mailboxes.md to 18_package_power.md on
them. -/

namespace Sys2Proof.Machine

-- Where a command stops (R3, R579).

/-- Answer `r` is a next state, or the fault of an absent unit. -/
def Answers (r : Result) : Prop := (∃ t, r = .next t) ∨ r = .fault .absentUnit

theorem Answers.next (t : State) : Answers (.next t) := .inl ⟨t, rfl⟩

theorem Answers.onUnit (present : Bool) (t : State) : Answers (onUnit present t) := by
  cases present
  · exact .inr rfl
  · exact .inl ⟨t, rfl⟩

/-- A row that names a unit may fault where the ordering code does not hold it (assumption log 6); every other row but the
JTAG instruction answers a next state. -/
theorem exec_answers (s : State) : ∀ i : Instr, (∀ j, i ≠ .jtagInstruction j) → Answers (exec i s) := by
  intro i hj
  cases i
  case couplingUnitReceive | couplingLaneFault | couplingRetrainDone | couplingRerouteDrainDone | timeXferTimer
      | stagingWritebackDone | completionNotice | dispatchTask | noticeHeldApply | taskEnd | taskBadCode | spawn
      | spawnStallResume | spawnStallTimeout | quantumExpiry | suspensionDone | sample | samplePieceRun | shunterSteal
      | stealRetryTimer | shunterSleepTimer | gather | scatter | spmm | haccDrain | compress24 | haccContribution
      | haccCfgWrite | haccOpen | mma | mmaRetire | mxWait | elem | perm | move | veRetire | veWait | sigSet | sigClr
      | sigArrive | sigArriveRetry | sigWait | sigRead | sigWaitTimeout | memoryReadRequest | memoryWriteRequest
      | prefetchFill | patrolScrub | channelRetrainStart | channelRetrainDone | channelRetrainTimeout | stackTempReport
      | linkCodewordReceive | linkLayerControlSlot | linkAckTimeout | portTrainingDone | hello | portHelloTimeout
      | portLaneFault | portRetrainTimeout | reduceScatter | gnorm | mbxWindowWrite | mbxOpen | mbxClose | mbxAbort
      | mbxPost | mbxTakeUp | mbxPostTimeout | mbxCompletion | checkExecutionDone | retestDone | sidingCopyDone
      | dieTempReport | cclkChangeDone =>
    exact .onUnit _ _
  case jtagInstruction j => exact absurd rfl (hj j)
  case bridgeWindowWrite offset data =>
    show Answers (if offset + data.length ≤ 65536 then _ else _)
    split
    · exact .next _
    · exact .next _
  all_goals exact .next _

/-- A JTAG instruction is refused only where it asks for debug of a part whose DBG_LOCK is intact (assumption log 7). -/
theorem execJtag_cases (j : JtagInstr) (s : State) : Answers (exec (.jtagInstruction j) s)
    ∨ (exec (.jtagInstruction j) s = .refused .privateDebug ∧ j = .privateDebug ∧ s.fuse.dbgLockBlown = false) := by
  show Answers (execJtagInstruction j s) ∨ (execJtagInstruction j s = _ ∧ _)
  unfold execJtagInstruction
  split
  · exact .inl (.next _)
  · split
    · next h =>
      obtain ⟨hj, hl⟩ := h
      exact .inr ⟨rfl, hj, by simpa using hl⟩
    · exact .inl (.next _)

-- A stale command (R442).

/-- Recording a completion on a row begun leaves, once the row is done, what it leaves without the row's marks. -/
theorem recorded_rowBegun (src : CmdSrc) (c : Slot) (r : Completion) (d : Nat) (s : State) :
    rowDone s (recorded src c r (rowBegun d s)) = recorded src c r s := by
  cases src <;> rfl

theorem recorded_mem (src : CmdSrc) (c : Slot) (r : Completion) (t : State) : (recorded src c r t).mem = t.mem := by
  cases src <;> rfl

/-- A row that makes its accesses from die `d` runs on the state with the marks of a row begun. -/
theorem runVia_rowBegun (d : Nat) (f : State → State) (s : State) : runVia d f s = f (rowBegun d s) := rfl

/-- CMD_BRG_ALLOW_DEGRADED is held back in LIMITED alone, where it changes the device state (R442, assumption log 56). -/
theorem execCmdBrgAllowDegraded_free {s : State} {src : CmdSrc} (h : s.dev ≠ .limited ∨ heldBack src s = false) :
    exec (.cmdBrgAllowDegraded src) s = .next (performNow 0x0E02 src allowDegraded s) := by
  refine congrArg Host.Outcome.next (if_neg ?_)
  rintro ⟨hd, hb⟩
  rcases h with h | h
  · exact h hd
  · rw [h] at hb
    cases hb

section Stale

variable {s : State} {src : CmdSrc} {op : Nat} {c : Slot}

/-- `src` executes an unperformed command of opcode `op` that was judged in a state that the hardware has left, and the
stationmaster runs (R442). -/
structure Stale (s : State) (src : CmdSrc) (op : Nat) (c : Slot) : Prop where
  slot : slotOf s src = some c
  due : runnable op c = true
  stale : c.stale = true
  running : s.sm.state = .running

theorem Stale.performCmd (h : Stale s src op c) (f : Slot → State → Performed) :
    .next (performCmd op src f s) = (.next (recorded src c (plain St.badState) s) : Result) :=
  congrArg _ (performCmd_stale f h.slot h.due h.stale h.running)

theorem Stale.heldBack (h : Stale s src op c) : heldBack src s = false := by
  simp [Machine.heldBack, h.slot, h.stale]

theorem Stale.performNow (h : Stale s src op c) (f : List Byte → State → State × Completion) :
    .next (performNow op src f s) = (.next (recorded src c (plain St.badState) s) : Result) :=
  h.performCmd _

theorem Stale.performQuery (h : Stale s src op c) (f : List Byte → State → Completion) :
    .next (performQuery op src f s) = (.next (recorded src c (plain St.badState) s) : Result) :=
  h.performNow _

/-- A command that makes accesses makes none where it is stale, so that it waits for none. -/
theorem Stale.whenOpen (h : Stale s src op c) (f : List Byte → State → State × Completion) :
    .next (whenOpen 0 (Machine.performNow op src f) s) = (.next (recorded src c (plain St.badState) s) : Result) := by
  have hb : Machine.performNow op src f (rowBegun 0 s) = recorded src c (plain St.badState) (rowBegun 0 s) :=
    performCmd_stale _ h.slot h.due h.stale h.running
  have hm : (recorded src c (plain St.badState) (rowBegun 0 s)).mem.met = false := by rw [recorded_mem]; rfl
  unfold Machine.whenOpen
  rw [runVia_rowBegun, hb]
  exact congrArg _ ((if_neg (ne_true_of_eq_false hm)).trans (recorded_rowBegun src c _ 0 s))

/-- Whatever its row does, a stale command is answered alone: one arm per way in which a row performs its command. -/
theorem exec_stale (h : Stale s src op c) : ∀ i, commandRow i = some (op, src) →
    exec i s = .next (recorded src c (plain St.badState) s) := by
  intro i hi
  cases i <;> cases hi
  case cmdTtStatus | cmdDspGraphInfo | cmdSmpInfo | cmdGthInfo | cmdEmbDirRead | cmdEmbInfo | cmdMxTensorInfo | cmdSigInfo
      | cmdMemRegions | cmdMemMargin | cmdMemStatus | cmdLnkStatus | cmdRdDigestRead | cmdMbxNop | cmdMbxInfo | cmdChkStatus
      | cmdFncStatus | cmdFncHistoryRead | cmdBrgStatus | cmdBrgFaultMapRead | cmdEvrRead | cmdEvrHistRead
      | cmdEvrCountersRead | cmdEvrPhaseRead | cmdMtrReportRead | cmdMtrAuditRead | cmdPkgPowerStatus
      | cmdPkgThermalStatus =>
    exact h.performQuery _
  case cmdTtJobStart => exact (congrArg Host.Outcome.next (ite_heldBack h.heldBack _)).trans (h.performCmd jobStart)
  case cmdTtResume => exact (congrArg Host.Outcome.next (ite_heldBack h.heldBack _)).trans (h.performNow _)
  case cmdTtJobEnd => exact (execCmdTtJobEnd_free (.inr h.heldBack)).trans (h.performNow _)
  case cmdBrgAllowDegraded => exact (execCmdBrgAllowDegraded_free (.inr h.heldBack)).trans (h.performNow _)
  case cmdChkFieldTest => exact h.performCmd chkFieldTest
  case cmdSmpProbe | cmdEmbWriteRows | cmdEmbReadRows | cmdMemWrite | cmdMemRead => exact h.whenOpen _
  all_goals exact h.performNow _

end Stale

-- A change of device state by the hardware (R442).

theorem slotOf_msix (v : Nat) (s : State) (src : CmdSrc) : slotOf (msix v s) src = slotOf s src := by
  unfold msix
  repeat' split
  all_goals rfl

theorem slotOf_pkgEvt (i : Nat) (s : State) (src : CmdSrc) : slotOf (pkgEvt i s) src = slotOf s src := by
  unfold pkgEvt
  dsimp only
  split
  · rfl
  · rw [slotOf_msix]
    rfl

theorem slotOf_setDev (d : DevState) (s : State) (src : CmdSrc) : slotOf (setDev d s) src = slotOf s src := by
  unfold setDev
  split
  · rfl
  · rw [stateChanged, slotOf_pkgEvt]
    rfl

theorem staleSlot_unperformed {c : Slot} (h : c.done = none) : staleSlot c = { c with stale := true } := by
  rw [staleSlot, h]
  rfl

theorem mailbox_staleAll (s : State) (n : Nat) :
    mailbox (staleAll s) n = { mailbox s n with slot := (mailbox s n).slot.map staleSlot } := by
  unfold mailbox mapGetD
  rw [show (staleAll s).host.mbx = mapVals (fun _ m => { m with slot := m.slot.map staleSlot }) s.host.mbx from rfl,
    mapGet_mapVals]
  cases mapGet s.host.mbx n with
  | none => rfl
  | some m => rfl

theorem slotOf_staleAll (s : State) (src : CmdSrc) : slotOf (staleAll s) src = (slotOf s src).map staleSlot := by
  cases src with
  | mbx n =>
    simp only [slotOf, mailbox_staleAll]
    split
    · rfl
    · rfl
  | sideband => rfl
  | orphan i => exact List.getElem?_map


-- What raising an event counts and records (R520).

/-- The two outcomes of raising an event: its record joins the queue, or its suppression is counted. -/
theorem raise_cases (code src : Nat) (payload : List Byte) (s : State) :
    (((bucketDue s code).tokens ≠ 0 ∧ s.evr.queue.length < 4096)
        ∧ (raise code src payload s).ctr = (bump Cnt.evrRaised code 1 s).ctr
        ∧ (raise code src payload s).evr.queue = s.evr.queue ++
          [{ seq := 0, code := code, sev := evSev code, src := src, time := s.now, payload := payload }])
    ∨ (¬((bucketDue s code).tokens ≠ 0 ∧ s.evr.queue.length < 4096)
        ∧ (raise code src payload s).ctr = (bump Cnt.evrSuppress code 1 (bump Cnt.evrRaised code 1 s)).ctr
        ∧ (raise code src payload s).evr.queue = s.evr.queue) := by
  unfold raise
  rw [noteMemEvent_eq]
  rcases (enqueue_cases code src s.now payload (countRaising code src s)).1 with ⟨hb, hl, hc, hq⟩ | ⟨hn, hc, hq⟩
  · exact .inl ⟨⟨hb, hl⟩, hc, hq⟩
  · exact .inr ⟨hn, hc, hq⟩

theorem ctrGet_raise_raised (code src : Nat) (payload : List Byte) (s : State) :
    ctrGet (raise code src payload s) Cnt.evrRaised code = ctrGet (bump Cnt.evrRaised code 1 s) Cnt.evrRaised code := by
  have hkey : ctrKey Cnt.evrRaised code ≠ ctrKey Cnt.evrSuppress code := fun e =>
    absurd (Nat.add_right_cancel e) (by decide)
  rcases raise_cases code src payload s with ⟨-, hc, -⟩ | ⟨-, hc, -⟩
  · exact congrArg (mapGetD · _ 0) hc
  · exact (congrArg (mapGetD · _ 0) hc).trans (ctrGet_bump_key 1 (bump Cnt.evrRaised code 1 s) hkey)

end Sys2Proof.Machine

namespace Sys2Proof.Proofs

open Sys2Proof.Machine

/-- Settles O4: fuses are among what every step keeps (`step_keeps`). -/
theorem fusesNeverBlown : Obligations.FusesNeverBlown :=
  fun _ _ h => (step_keeps h).fuse

/-- Settles O5: the items of the soft fault map are among what every step keeps. -/
theorem softFaultMapKeepsItems : Obligations.SoftFaultMapKeepsItems :=
  fun _ _ h => (step_keeps h).soft

/-- Settles O6: the clear log as far as written is among what every step keeps. -/
theorem clearLogNeverErased : Obligations.ClearLogNeverErased :=
  fun _ _ h => (step_keeps h).clears

/-- Settles O7: memory in canonical form is among what every step keeps; that an unlisted byte reads 0 is assumption
log 13. -/
theorem memoryStaysCanonical : Obligations.MemoryStaysCanonical :=
  fun _ _ hw h => (step_keeps h).mem hw

/-- Settles O9: a settled meter and its ENERGY are among what every step keeps. -/
theorem energyNeverFalls : Obligations.EnergyNeverFalls :=
  fun _ _ hm h => (step_keeps h).energy hm

/-- Settles O11: the queue is among what every command keeps (`exec_keeps`). -/
theorem queueUntouched : Obligations.QueueUntouched :=
  fun c _ _ h => (exec_keeps (Keeps.refl _) c _ h).pending

/-- Settles O12: the JTAG instruction apart (`execJtag_cases`), every row answers a next state or faults for an absent unit
(`exec_answers`). The two stops are the model's own: assumption logs 6 and 7. -/
theorem onlyTwoStops : Obligations.OnlyTwoStops := by
  intro i s
  by_cases hj : ∃ j, i = .jtagInstruction j
  · obtain ⟨j, rfl⟩ := hj
    rcases execJtag_cases j s with (h | h) | ⟨h, rfl, hl⟩
    · exact .inl h
    · exact .inr (.inl h)
    · exact .inr (.inr ⟨h, rfl, hl⟩)
  · rcases exec_answers s i (fun j e => hj ⟨j, e⟩) with h | h
    · exact .inl h
    · exact .inr (.inl h)

/-- Settles O13: every row of the command tables answers a stale command alone (`exec_stale`), and a hardware change of state
marks every slot (`slotOf_staleAll`). -/
theorem staleCommandHasNoEffect : Obligations.StaleCommandHasNoEffect := by
  refine ⟨fun i op src c s hi hc hd hst hr => exec_stale ⟨hc, hd, hst, hr⟩ i hi, fun d s src c hd hc hdone => ?_⟩
  rw [setDevHw, if_neg hd, slotOf_setDev, slotOf_staleAll, hc, Option.map_some, staleSlot_unperformed hdone]

/-- Settles O16: by the two outcomes of a raising (`raise_cases`) and its frame. -/
theorem eventRaised : Obligations.EventRaised := by
  intro code src payload s
  refine ⟨ctrGet_raise_raised code src payload s, ?_, raise_frame code src payload s⟩
  rcases raise_cases code src payload s with ⟨h, hc, hq⟩ | ⟨h, hc, hq⟩
  · rw [if_pos h]
    exact ⟨hq, hc⟩
  · rw [if_neg h]
    exact ⟨hq, hc⟩

/-- Settles O14: a mailbox's slot is read back after it is set (`mailbox_set_same`); the other two sources by the definition
of `putSlot`. -/
theorem completionRecorded : Obligations.CompletionRecorded :=
  fun _ _ t => ⟨fun n => ⟨mailbox_set_same n _ t, fun _ hm => mailbox_set_other _ t hm, rfl⟩, rfl, fun _ => rfl⟩

end Sys2Proof.Proofs
end

section
/-! How a pool or collective packet is judged: quarantine, fields, epoch and step (R397); the statement of
12_links_collectives.md on it. -/

namespace Sys2Proof.Machine

/-- The row of a pool or collective packet receives it. -/
theorem exec_poolPacket {i : Instr} (s : State) (h : poolPacket i = true) : exec i s = .next (takePacket i s) := by
  cases i <;> cases h <;> rfl

section Received

variable {i : Instr} {h : Hdr} {s : State}

theorem takePacket_quarantined (hh : hdrOf i = some h) (hd : diesRun s = true) (hq : s.dev = .quarantined) :
    takePacket i s = returnCredits i h (bump Cnt.fncQuarDrop 0 1 s) := by
  simp [takePacket, receive, hh, hd, hq]

theorem takePacket_badFields (hh : hdrOf i = some h) (hd : diesRun s = true) (hq : s.dev ≠ .quarantined)
    (hp : packetOk i = false) : takePacket i s = returnCredits i h (bump Cnt.lnkBadPkt 0 1 s) := by
  simp [takePacket, receive, hh, hd, hq, hp, badPacketS]

theorem takePacket_addressed (a : addressed s i h) : takePacket i s = returnCredits i h (judgeEpoch s.now i h s) :=
  receive_addressed _ a

theorem judgeEpoch_older (t : Nat) (hj : epochJudged s = true) (he : h.epoch < epochOf s) : judgeEpoch t i h s =
    let u := bump Cnt.lnkStaleEpochDrop 0 1 s
    if isRequest i then sendPlain (.poolErr (replyHdr u h) 1 (epochOf u)) u else u := by
  simp [judgeEpoch, hj, he]

theorem judgeEpoch_newer (t : Nat) (hj : epochJudged s = true) (he : epochOf s < h.epoch) : judgeEpoch t i h s =
    { s with fab := { s.fab with heldEpoch := s.fab.heldEpoch ++ [(t, i)] } } := by
  simp [judgeEpoch, hj, he, Nat.lt_asymm he]

theorem judgeStep_ahead (hs : stepOf s + 2 ≤ h.step) :
    judgeStep i h s = raise Ev.ttStepSkew 0 [] (bump Cnt.ttStaleStepDrop 0 1 s) := if_pos hs

/-- What is staged, and a read, is dropped where its step has ended (R66). -/
theorem judgeStep_late (hs : h.step < stepOf s) (hk : stepKind i = .staged ∨ stepKind i = .read) :
    judgeStep i h s = bump Cnt.ttStaleStepDrop 0 1 s := by
  unfold judgeStep
  rw [if_neg (by omega)]
  rcases hk with hk | hk
  · rw [hk]
    exact if_pos hs
  · rw [hk]
    exact if_pos hs

/-- A read of the next step is held (R66). -/
theorem judgeStep_readAhead (hs : h.step = stepOf s + 1) (hk : stepKind i = .read) : judgeStep i h s = holdStep i s := by
  unfold judgeStep
  rw [if_neg (by omega), hk]
  exact (if_neg (by omega)).trans (if_neg (by omega))

end Received

end Sys2Proof.Machine

namespace Sys2Proof.Proofs

open Sys2Proof.Machine

/-- Settles O39: each outcome is one branch of `receive`, `judgeEpoch` or `judgeStep`. Which packets are requests is
assumption log 28. -/
theorem packetsJudged : Obligations.PacketsJudged := by
  intro i h s hp hh hd
  rw [exec_poolPacket s hp]
  refine ⟨fun hq => ?_, fun hq hbad => ?_, fun a => ⟨fun hj he => ?_, fun hj he => ?_, fun he => ?_⟩⟩
  · rw [takePacket_quarantined hh hd hq]
  · rw [takePacket_badFields hh hd hq hbad]
  · rw [takePacket_addressed a, judgeEpoch_older _ hj he]
    rfl
  · rw [takePacket_addressed a, judgeEpoch_newer _ hj he]
  · rw [takePacket_inForce a he]
    have hstep := stepOf_digest false h.src i s
    refine ⟨fun hs => ?_, fun hs hk => ?_, fun hs hk => ?_⟩
    · rw [judgeStep_ahead (by omega)]
    · rw [judgeStep_late (by omega) hk]
    · rw [judgeStep_readAhead (by omega) hk]
      rfl

end Sys2Proof.Proofs
end

section
/-! The link layer of a port in UP, the states of a port, the map of ports, and the link commands (R385 to R392, R412 to
R415); the statement of 12_links_collectives.md on them. -/

namespace Sys2Proof.Machine

section InUp

variable {q : Nat} {s : State}

-- Codewords, control slots, silence and lanes of a port in UP (R385, R386, R388).

theorem codewordS_clean (f : Frame) (hu : (port s q).st = .up) : codewordS q .clean f s = takeFrame q f s :=
  if_neg (not_not_intro hu)

theorem codewordS_corrected (f : Frame) (hu : (port s q).st = .up) :
    codewordS q .corrected f s = takeFrame q f (bump Cnt.lnkFecCorr q 1 s) := if_neg (not_not_intro hu)

theorem codewordS_uncorrectable (f : Frame) (hu : (port s q).st = .up) :
    codewordS q .uncorrectable f s = badCodeword q f.fseq s := if_neg (not_not_intro hu)

/-- The retry buffer of a port after control slot `sl`: what it acknowledges is freed. -/
def retryAfter (p : Port) (sl : LlcSlot) : List TxFrame :=
  match sl.ack with
  | some a => ackFrames a p.retry
  | none => p.retry

/-- The frames that control slot `sl` asks for again. -/
def askedAgain (p : Port) (sl : LlcSlot) : List TxFrame :=
  match sl.nak with
  | some a => resentFrom a (retryAfter p sl)
  | none => []

theorem controlSlotS_up (sl : LlcSlot) (hu : (port s q).st = .up) : controlSlotS q sl s =
    pumpPort q (resend q (askedAgain (port s q) sl) (setPort q { port s q with
      retry := retryAfter (port s q) sl
      credits := addCredits (port s q).credits sl.credits
      ackFrom := if sl.ack.isSome || sl.nak.isSome then s.now else (port s q).ackFrom } s)) :=
  if_neg (not_not_intro hu)

theorem ackTimeoutS_unacknowledged (hu : (port s q).st = .up) (hr : (port s q).retry ≠ []) : ackTimeoutS q s =
    resend q (port s q).retry (setPort q { port s q with ackFrom := (reachTime ((port s q).ackFrom + 20000) s).now }
      (reachTime ((port s q).ackFrom + 20000) s)) := if_pos ⟨hu, hr⟩

theorem laneFaultS_lost {lanes : Nat} (hu : (port s q).st = .up) (hl : lanes % 256 &&& (port s q).lanes ≠ (port s q).lanes) :
    laneFaultS q lanes s = startRetrain q s := if_pos ⟨hu, hl⟩

theorem laneFaultS_kept {lanes : Nat} (hl : lanes % 256 &&& (port s q).lanes = (port s q).lanes) :
    laneFaultS q lanes s = s := if_neg fun h => h.2 hl

end InUp

section Training

variable {q : Nat} {s : State}

-- A port comes up (R388).

/-- The lanes that port `q`, which comes up with the lanes `l`, lost in a retrain. -/
def lanesLost (q l : Nat) (u : State) : List Nat :=
  if (port u q).st = .retraining then
    (List.range 8).filter (fun i => (port u q).lanes.testBit i && !l.testBit i)
  else []

/-- Port `q` of `u` has entered UP with the lanes `l`, those it lost counted and recorded. -/
def enteredUp (q l : Nat) (u : State) : State :=
  let v := enterPort q .up 0 u
  let w := setPort q { port v q with lanes := l } v
  if lanesLost q l u = [] then w
  else raiseAll Ev.lnkLaneLoss ((lanesLost q l u).map (fun _ => srcOf 7 q)) (bump Cnt.lnkLaneLoss q (lanesLost q l u).length w)

/-- What port `q` of `u` sends once it is up with the lanes `l`: after a retrain the frames that waited, else its credits. -/
def cameUp (q l : Nat) (u : State) : State :=
  pumpPort q (if (port u q).st = .retraining then resend q (port u q).retry (enteredUp q l u)
    else offerCredits q (enteredUp q l u))

theorem tryUp_trained {l : Nat} (ht : (port s q).trained = some l) :
    tryUp q s = if (port s q).matched then cameUp q l s else s := by
  unfold tryUp
  dsimp only
  rw [ht]
  cases hm : (port s q).matched with
  | false => rfl
  | true => exact (apply_ite (pumpPort q) _ _ _).symm

theorem tryUp_untrained (ht : (port s q).trained = none) : tryUp q s = s := by
  unfold tryUp
  dsimp only
  rw [ht]

theorem port_sendHello (k : Nat) : port (sendHello q s) k = port s k := rfl

-- The lanes of a port in training (R388, R390).

theorem trainingDoneS_trains {lanes : Nat} (hst : (port s q).st = .training ∨ (port s q).st = .retraining)
    (hl : 6 ≤ laneCount (goodLanes s q lanes)) :
    let u := sendHello q (setPort q { port s q with
      trained := some (goodLanes s q lanes)
      lanes := if (port s q).st = .training then goodLanes s q lanes else (port s q).lanes } s)
    trainingDoneS q lanes s = if (port s q).matched then cameUp q (goodLanes s q lanes) u else u := by
  intro u
  have hu : port u q = { port s q with
      trained := some (goodLanes s q lanes)
      lanes := if (port s q).st = .training then goodLanes s q lanes else (port s q).lanes } :=
    (port_sendHello q).trans (port_setPort_same _ _ _)
  have hdone : trainingDoneS q lanes s = tryUp q u := by
    unfold trainingDoneS
    dsimp only
    rw [if_neg (not_and_or.mpr (hst.imp not_not_intro not_not_intro)), if_pos hl]
  rw [hdone, tryUp_trained (by rw [hu]), hu]

theorem trainingDoneS_short {lanes : Nat} (hst : (port s q).st = .training ∨ (port s q).st = .retraining)
    (hl : laneCount (goodLanes s q lanes) < 6) :
    trainingDoneS q lanes s = if (port s q).st = .training then
        portDown q 3 false (setPort q { port s q with lanes := goodLanes s q lanes } s)
      else setPort q { port s q with trained := none } s := by
  unfold trainingDoneS
  dsimp only
  rw [if_neg (not_and_or.mpr (hst.imp not_not_intro not_not_intro)), if_neg (Nat.not_le.mpr hl)]

-- HELLO (R388, R390).

/-- Port `q` of `s` knows its neighbour: package `src`, by its port `nbrPort`. -/
def heardFrom (q src nbrPort : Nat) (s : State) : State :=
  setPort q { port s q with nbrPkg := src, nbrPort := nbrPort } s

theorem port_heardFrom (src nbrPort : Nat) :
    port (heardFrom q src nbrPort s) q = { port s q with nbrPkg := src, nbrPort := nbrPort } := port_setPort_same _ _ _

/-- The fields of a HELLO that port `q` of `s` takes for a match. -/
def helloGood (s : State) (q src : Nat) (coords : List Nat) (code dim : Nat) (plus portB : Bool) : Prop :=
  coords = (List.range 4).map (coordOf src) ∧ expectedNbr s q = some src
    ∧ code = codeByte s.fuse.code ∧ dim = (portFace s q).1 ∧ plus ≠ (portFace s q).2.1 ∧ portB = (portFace s q).2.2

theorem helloGood_iff {src : Nat} {coords : List Nat} {code dim : Nat} {plus portB : Bool} {nbrPort : Nat} :
    helloGood s q src coords code dim plus portB ↔
      (coords == (List.range 4).map (coordOf src)
        && helloMatches (heardFrom q src nbrPort s) q src code dim plus portB) = true := by
  simp only [helloGood, helloMatches, Bool.and_eq_true, beq_iff_eq, bne_iff_ne, and_assoc]
  exact Iff.rfl

theorem helloS_good {h : Hdr} {coords : List Nat} {code dim : Nat} {plus portB : Bool} (nbrPort : Nat)
    (hst : (port s q).st = .training ∨ (port s q).st = .retraining) (hg : helloGood s q h.src coords code dim plus portB) :
    let u := heardFrom q h.src nbrPort s
    helloS h q coords code dim plus portB nbrPort s = tryUp q (setPort q { port u q with matched := true } u) := by
  unfold helloS
  dsimp only
  rw [if_neg (not_and_or.mpr (hst.imp not_not_intro not_not_intro))]
  exact if_pos (helloGood_iff.mp hg)

theorem trained_matched (src nbrPort : Nat) :
    (port (setPort q { port (heardFrom q src nbrPort s) q with matched := true } (heardFrom q src nbrPort s)) q).trained
      = (port s q).trained := by
  rw [port_setPort_same, port_heardFrom]

/-- A port whose lanes have not locked yet waits for them (R388). -/
theorem helloS_awaitsLanes {h : Hdr} {coords : List Nat} {code dim : Nat} {plus portB : Bool} (nbrPort : Nat)
    (hst : (port s q).st = .training ∨ (port s q).st = .retraining) (hg : helloGood s q h.src coords code dim plus portB)
    (ht : (port s q).trained = none) :
    let u := heardFrom q h.src nbrPort s
    helloS h q coords code dim plus portB nbrPort s = setPort q { port u q with matched := true } u := by
  intro u
  rw [helloS_good nbrPort hst hg]
  exact tryUp_untrained ((trained_matched _ _).trans ht)

/-- A port that has its lanes comes up (R388). -/
theorem helloS_comesUp {h : Hdr} {coords : List Nat} {code dim l : Nat} {plus portB : Bool} (nbrPort : Nat)
    (hst : (port s q).st = .training ∨ (port s q).st = .retraining) (hg : helloGood s q h.src coords code dim plus portB)
    (ht : (port s q).trained = some l) :
    let u := heardFrom q h.src nbrPort s
    helloS h q coords code dim plus portB nbrPort s = cameUp q l (setPort q { port u q with matched := true } u) := by
  intro u
  rw [helloS_good nbrPort hst hg, tryUp_trained ((trained_matched _ _).trans ht), port_setPort_same]
  exact if_pos rfl

theorem helloS_bad {h : Hdr} {coords : List Nat} {code dim : Nat} {plus portB : Bool} (nbrPort : Nat)
    (hst : (port s q).st = .training ∨ (port s q).st = .retraining) (hg : ¬ helloGood s q h.src coords code dim plus portB) :
    helloS h q coords code dim plus portB nbrPort s = helloMismatch q (heardFrom q h.src nbrPort s) := by
  unfold helloS
  dsimp only
  rw [if_neg (not_and_or.mpr (hst.imp not_not_intro not_not_intro))]
  exact if_neg fun e => hg (helloGood_iff.mpr e)

theorem helloMismatch_of {st : PortSt} (h : (port s q).st = st) : helloMismatch q s = rerouteAll q (enterPort q .disabled 2
    (raise Ev.lnkMismatch (srcOf 7 q) [] (bump Cnt.lnkMismatch q 1
      (if st = .retraining then raise Ev.lnkDown (srcOf 7 q) [] (bump Cnt.lnkDown q 1 s) else s)))) := by
  subst h
  rfl

-- Windows that end (R388).

theorem portDown_uncounted (reason : Nat) : portDown q reason false s = rerouteAll q (enterPort q .down reason s) := rfl

theorem portDown_counted (reason : Nat) : portDown q reason true s =
    rerouteAll q (enterPort q .down reason (raise Ev.lnkDown (srcOf 7 q) [] (bump Cnt.lnkDown q 1 s))) := rfl

theorem helloTimeoutS_training (hst : (port s q).st = .training) : helloTimeoutS q s = rerouteAll q (enterPort q .down
    (if (port s q).trained.isSome then 4 else 3) (reachTime ((port s q).since + 2000000000) s)) := by
  rw [← portDown_uncounted]
  exact if_pos hst

theorem retrainTimeoutS_retraining (hst : (port s q).st = .retraining) :
    let u := reachTime ((port s q).since + 100000000) s
    retrainTimeoutS q s = rerouteAll q (enterPort q .down (if (port s q).trained.isSome then 4 else 3)
      (raise Ev.lnkDown (srcOf 7 q) [] (bump Cnt.lnkDown q 1 u))) := by
  intro u
  rw [← portDown_counted]
  exact if_pos hst

end Training

-- The map of ports in DOWN or DISABLED (R392).

theorem linkStateS_frame (pkg dim : Nat) (plus portB : Bool) (st : Nat) (s : State) :
    linkStateS pkg dim plus portB st s =
      { s with fab := { s.fab with downMap := (linkStateS pkg dim plus portB st s).fab.downMap } } := by
  unfold linkStateS
  dsimp only
  repeat' split
  all_goals rfl

theorem linkStateS_contains {s : State} (pkg dim : Nat) (plus portB : Bool) (st : Nat) (n : PortName)
    (hj : s.job.isSome = true) : (linkStateS pkg dim plus portB st s).fab.downMap.contains n =
      if n = { pkg := pkg, dim := dim, plus := plus, portB := portB } then (st == 0 || st == 4)
      else s.fab.downMap.contains n := by
  have hn : ¬ s.job.isNone = true := by simp [Option.isNone_iff_eq_none, Option.isSome_iff_ne_none.mp hj]
  unfold linkStateS
  dsimp only
  rw [if_neg hn]
  generalize hm : ({ pkg := pkg, dim := dim, plus := plus, portB := portB } : PortName) = m
  by_cases hst : st = 0 ∨ st = 4
  · rw [if_pos hst]
    by_cases hin : s.fab.downMap.contains m = true
    · rw [if_pos hin]
      split
      · next e =>
        subst e
        rcases hst with rfl | rfl <;> exact hin
      · rfl
    · rw [if_neg hin]
      have hd : (st == 0 || st == 4) = true := by simpa using hst
      by_cases e : n = m <;> simp [e, hd]
  · rw [if_neg hst]
    have hd : (st == 0 || st == 4) = false := by simpa using hst
    by_cases e : n = m <;> simp [e, hd]

-- A future epoch that does not come (R397, R482).

theorem futureEpochS_drops {s : State} {t : Nat} {i : Instr} {h : Hdr} {rest : List (Nat × Instr)}
    (hl : s.fab.heldEpoch = (t, i) :: rest) (hh : hdrOf i = some h) : futureEpochS h.tag s =
      enterQuarantine (bump Cnt.lnkFutureEpochDrop 0 1
        (reachTime (t + 1000000) { s with fab := { s.fab with heldEpoch := rest } })) := by
  unfold futureEpochS
  simp only [hl, takeFirst, hh, beq_self_eq_true, if_true]

-- The link commands (R412 to R415).

section Commands

variable {b : List Byte} {s : State}

theorem lnkTopoSet_badParam (h : topoOk s b = false) : lnkTopoSet b s = (s, failWith St.badParam 0) := by
  simp [lnkTopoSet, h]

theorem lnkTopoSet_inUse (h : topoOk s b = true) (ht : s.pool.tables ≠ []) : lnkTopoSet b s = (s, failWith St.inUse 0) := by
  simp [lnkTopoSet, h, ht]

theorem lnkTopoSet_sets (h : topoOk s b = true) (ht : s.pool.tables = []) :
    let u := { s with flash := { s.flash with topo := some (topoOf b) } }
    lnkTopoSet b s = ((List.range (nPorts u)).foldl recheckPort u, okWith []) := by
  simp [lnkTopoSet, h, ht]

theorem lnkRetrain_badParam (h : nPorts s ≤ field b 0 4 ∨ field b 4 28 ≠ 0
      ∨ ((port s (field b 0 4)).st = .disabled ∧ (port s (field b 0 4)).reason = 1)) :
    lnkRetrain b s = (s, failWith St.badParam 0) :=
  if_pos (h.imp_right (Or.imp_right (And.imp_right .inr)))

/-- CMD_LNK_RETRAIN of a populated port that is not disabled for want of a neighbour goes by the port's state. -/
theorem lnkRetrain_named (hq : field b 0 4 < nPorts s) (hres : field b 4 28 = 0)
    (hok : (port s (field b 0 4)).st = .disabled →
      (port s (field b 0 4)).reason ≠ 1 ∧ (expectedNbr s (field b 0 4)).isSome = true) :
    lnkRetrain b s = match (port s (field b 0 4)).st with
      | .training | .retraining => (s, failWith St.inUse 0)
      | .up => (startRetrain (field b 0 4) s, okWith [])
      | _ => (startTraining (field b 0 4) s, okWith []) := by
  refine if_neg ?_
  rintro (h | h | ⟨hd, h | h⟩)
  · exact absurd hq (Nat.not_lt.mpr h)
  · exact h hres
  · rw [← Option.not_isSome] at h
    exact absurd (hok hd).2 (by simpa using h)
  · exact (hok hd).1 h

section Named

variable (hq : field b 0 4 < nPorts s) (hres : field b 4 28 = 0)

include hq hres

theorem lnkRetrain_training (h : (port s (field b 0 4)).st = .training ∨ (port s (field b 0 4)).st = .retraining) :
    lnkRetrain b s = (s, failWith St.inUse 0) := by
  rw [lnkRetrain_named hq hres fun hd => h.elim (fun h => nomatch hd.symm.trans h) (fun h => nomatch hd.symm.trans h)]
  rcases h with h | h
  · rw [h]
  · rw [h]

theorem lnkRetrain_up (h : (port s (field b 0 4)).st = .up) :
    lnkRetrain b s = (startRetrain (field b 0 4) s, okWith []) := by
  rw [lnkRetrain_named hq hres (fun hd => nomatch hd.symm.trans h), h]

theorem lnkRetrain_down (h : (port s (field b 0 4)).st = .down) :
    lnkRetrain b s = (startTraining (field b 0 4) s, okWith []) := by
  rw [lnkRetrain_named hq hres (fun hd => nomatch hd.symm.trans h), h]

theorem lnkRetrain_disabled (h : (port s (field b 0 4)).st = .disabled) (hr : (port s (field b 0 4)).reason ≠ 1)
    (he : (expectedNbr s (field b 0 4)).isSome = true) :
    lnkRetrain b s = (startTraining (field b 0 4) s, okWith []) := by
  rw [lnkRetrain_named hq hres fun _ => ⟨hr, he⟩, h]

end Named

end Commands

end Sys2Proof.Machine

namespace Sys2Proof.Proofs

open Sys2Proof.Machine

/-- Settles O52: one equation per row, state of the port and outcome. The credits that a port offers are assumption log 27,
control slots sent at once log 71; the record of CMD_LNK_STATUS and REASON 0 of CMD_LNK_TOPO_SET are log 50. -/
theorem linkLayerAndPorts : Obligations.LinkLayerAndPorts := by
  intro q s p retrain deliver again goUp disable
  refine ⟨fun hq hup => ?_, fun hq hst => ?_, fun h pkg dim plus portB st => ?_, fun _ => rfl,
    fun t i h rest hl hh => ?_, fun src c => ?_⟩
  · have hpop : decide (q < nPorts s) = true := decide_eq_true hq
    refine ⟨fun f => ⟨?_, ?_, ?_⟩, fun sl => ?_, fun hr => ?_, fun lanes => ⟨fun hl => ?_, fun hl => ?_⟩⟩
    · exact onUnit_next hpop (codewordS_clean f hup)
    · exact onUnit_next hpop (codewordS_corrected f hup)
    · exact onUnit_next hpop (codewordS_uncorrectable f hup)
    · exact onUnit_next hpop (controlSlotS_up sl hup)
    · exact onUnit_next hpop (ackTimeoutS_unacknowledged hup hr)
    · exact onUnit_next hpop (laneFaultS_lost hup hl)
    · exact onUnit_next hpop (laneFaultS_kept hl)
  · have hpop : decide (q < nPorts s) = true := decide_eq_true hq
    refine ⟨fun lanes => ⟨fun hl => ?_, fun hl => ?_⟩, fun h coords code dim plus portB nbrPort => ?_,
      fun ht => ?_, fun ht => ?_⟩
    · exact onUnit_next hpop (trainingDoneS_trains hst hl)
    · exact onUnit_next hpop (trainingDoneS_short hst hl)
    · refine ⟨fun hg ht => ?_, fun l hg ht => ?_, fun hg => ?_⟩
      · exact onUnit_next hpop (helloS_awaitsLanes nbrPort hst hg ht)
      · exact onUnit_next hpop (helloS_comesUp nbrPort hst hg ht)
      · exact onUnit_next hpop ((helloS_bad nbrPort hst hg).trans (helloMismatch_of (by rw [port_heardFrom])))
    · exact onUnit_next hpop (helloTimeoutS_training ht)
    · exact onUnit_next hpop (retrainTimeoutS_retraining ht)
  · intro i ha hj
    exact ⟨_, congrArg Host.Outcome.next (receive_addressed _ ha), linkStateS_frame _ _ _ _ _ s,
      fun n => linkStateS_contains _ _ _ _ _ n hj⟩
  · exact congrArg Host.Outcome.next (futureEpochS_drops hl hh)
  · intro b
    refine ⟨fun hc => ⟨fun h => ?_, fun h ht => ?_, fun h ht => ?_⟩, fun hc => ?_,
      fun hc hq => ⟨fun h => ?_, fun hn hres => ?_⟩⟩
    · exact congrArg Host.Outcome.next (performNow_answers hc (lnkTopoSet_badParam h))
    · exact congrArg Host.Outcome.next (performNow_answers hc (lnkTopoSet_inUse h ht))
    · exact congrArg Host.Outcome.next (performNow_answers hc (lnkTopoSet_sets h ht))
    · exact congrArg Host.Outcome.next (performQuery_answers hc rfl)
    · subst hq
      exact congrArg Host.Outcome.next (performNow_answers hc (lnkRetrain_badParam h))
    · subst hq
      refine ⟨fun h => ?_, fun h => ?_, fun h => ?_, fun h hr he => ?_⟩
      · exact congrArg Host.Outcome.next (performNow_answers hc (lnkRetrain_training hn hres h))
      · exact congrArg Host.Outcome.next (performNow_answers hc (lnkRetrain_up hn hres h))
      · exact congrArg Host.Outcome.next (performNow_answers hc (lnkRetrain_down hn hres h))
      · exact congrArg Host.Outcome.next (performNow_answers hc (lnkRetrain_disabled hn hres h hr he))

end Sys2Proof.Proofs
end

section
/-! Reduce-scatter, its acknowledgements and its close, the global gradient norm, and their commands (R399 to R409, R416,
R417); the statement of 12_links_collectives.md on them. -/

namespace Sys2Proof.Machine

-- What sending leaves alone.

section Sending

variable {α : Type} {f : State → α} (hfab : ∀ x t, f { t with fab := x } = f t)
  (hbump : ∀ id inst n t, f (bump id inst n t) = f t) (hraise : ∀ code src p t, f (raise code src p t) = f t)

include hfab

theorem digest_view (sent : Bool) (peer : Nat) (i : Instr) (s : State) : f (digest sent peer i s) = f s := by
  unfold digest
  split
  · rfl
  · dsimp only
    split
    · rfl
    · exact hfab _ s

include hbump

theorem pumpPort_view (q : Nat) (s : State) : f (pumpPort q s) = f s := by
  have hset : ∀ p t, f (setPort q p t) = f t := fun p t => hfab _ t
  have hcontrol : ∀ t, f (sendControl q t) = f t := by
    intro t
    unfold sendControl
    dsimp only
    split
    · exact hset _ t
    · rfl
  have hpackets : ∀ n t, f (sendPackets q n t) = f t := by
    intro n t
    refine foldl_view f (fun u _ => ?_) _ t
    split
    · exact (hbump _ _ _ _).trans (hset _ u)
    · rfl
  unfold pumpPort
  dsimp only
  split
  · rfl
  · refine (hfab _ _).trans ((hpackets _ _).trans ((hcontrol _).trans ?_))
    split
    · exact hset _ s
    · rfl

include hraise

theorem routeFrom_view (o : Nat) (i : Instr) (s : State) : f (routeFrom o i s).1 = f s := by
  unfold routeFrom
  split
  · rfl
  · split
    · show f (unroutable i s) = f s
      unfold unroutable
      exact (hraise _ _ _ _).trans (hbump _ _ _ s)
    · split
      · exact hfab _ s
      · exact (pumpPort_view hfab hbump _ _).trans (hfab _ s)

/-- Of what neither the ports, nor a count, nor an event changes, sending a packet changes nothing. -/
theorem sendPlain_view (i : Instr) (s : State) : f (sendPlain i s) = f s := by
  have hroute : f (routePacket i s).1 = f s := by
    unfold routePacket
    split
    · rfl
    · exact routeFrom_view hfab hbump hraise _ i s
  unfold sendPlain sendPacket
  split
  · rfl
  · split
    · rfl
    · dsimp only
      split
      · exact (digest_view hfab _ _ _ _).trans hroute
      · exact hroute

end Sending

theorem sendPlain_now (i : Instr) (s : State) : (sendPlain i s).now = s.now :=
  sendPlain_view (f := (·.now)) (fun _ _ => rfl) (fun _ _ _ _ => rfl) (fun _ _ _ _ => by rw [raise_frame]) i s

-- A REDUCE_SCATTER begins (R400, R401).

section Begin

variable {d : Nat} {k : Coll} {s : State}
  (hk : s.fab.colls.find? (fun c => c.die == d && cdKind c.desc != 2 && !c.started) = some k)

include hk

theorem reduceScatterS_sitsOut (h : sittingOut s = true ∨ s.chk.forfeited = true) : reduceScatterS d s = s := by
  simp only [reduceScatterS, hk, if_pos h]

variable (hsit : sittingOut s = false) (hforf : s.chk.forfeited = false)

include hsit hforf

theorem reduceScatterS_badDesc (h : rsDescOk s k.desc = false) : reduceScatterS d s = endColl k (badDesc s) := by
  simp [reduceScatterS, hk, hsit, hforf, h]

theorem reduceScatterS_starts {tb : Table} (ht : table s (cdTable k.desc) = some tb) (h : rsDescOk s k.desc = true) :
    reduceScatterS d s = checkColls ((cutUnits tb (unitRows (cdFmt k.desc)) (cdCount k.desc) (cdFirst k.desc)
      (cdFirst k.desc + cdCount k.desc - 1)).foldl (sendUnit k) (updColl k.no (fun x => { x with started := true }) s)) := by
  simp [reduceScatterS, hk, hsit, hforf, h, ht]

end Begin

-- A contribution at its owner (R402).

section Unit

variable {t row nrows fmt : Nat} {u : State} {tb : Table} (ht : table u t = some tb)

/-- Every row of the unit is homed at this package. -/
def unitHomed (u : State) (tb : Table) (row nrows : Nat) : Bool :=
  ((List.range nrows).map (fun k => row + k)).all (fun r => r < tb.rows && tb.defaultHome r == pkgNo u)

/-- The rows of the unit as FP32. -/
def unitElems (row nrows fmt : Nat) (data : List Byte) : List (List W32) :=
  ((List.range nrows).map (fun k => row + k)).map (fun r => unitRow fmt data (r - row))

/-- Some element of the unit is not finite. -/
def unitOdd (row nrows fmt : Nat) (data : List Byte) : Bool :=
  (unitElems row nrows fmt data).any (fun l => l.any nonfinite32)

include ht

theorem addUnit_refused {src step : Nat} {data : List Byte}
    (h : tb.bind = none ∨ unitHomed u tb row nrows = false ∨ fmtAgrees u t fmt = false) :
    addUnit src t row nrows fmt step data u = ({ status := 2, late := false }, bump Cnt.rdRefused 0 1 u) := by
  simp only [addUnit, ht]
  refine if_pos ?_
  rcases h with h | h | h
  · exact .inl (Option.isNone_iff_eq_none.mpr h)
  · exact .inr (.inl (by rw [← unitHomed, h]; rfl))
  · exact .inr (.inr (by rw [h]; rfl))

variable (hbound : tb.bind.isSome = true) (hhome : unitHomed u tb row nrows = true) (hfmt : fmtAgrees u t fmt = true)

include hbound hhome hfmt

omit ht in
theorem unit_accepted : ¬ (tb.bind.isNone = true ∨ (!unitHomed u tb row nrows) = true ∨ (!fmtAgrees u t fmt) = true) := by
  simp [← Option.not_isSome, hbound, hhome, hfmt]

theorem addUnit_nonfinite {src step : Nat} {data : List Byte} (hodd : unitOdd row nrows fmt data = true)
    (hcfg : u.fab.rdCfg.nonfiniteAdd = false) : addUnit src t row nrows fmt step data u =
      ({ status := 1, late := false }, raise Ev.rdNonfinite (srcOf 11 t) [] (bump Cnt.rdNonfinite 0 1 u)) := by
  simp only [addUnit, ht]
  refine (if_neg (unit_accepted hbound hhome hfmt)).trans (if_pos ?_)
  rw [hcfg]
  exact (Bool.and_true _).trans hodd

theorem addUnit_adds {src step : Nat} {data : List Byte}
    (h : unitOdd row nrows fmt data = false ∨ u.fab.rdCfg.nonfiniteAdd = true) :
    let rows := (List.range nrows).map (fun k => row + k)
    let late := rows.any (rowClosed (rdBuf tb step))
    let b := (rows.zip (unitElems row nrows fmt data)).foldl (fun b e => addRow (activeMembers u) src u.now b e.1 e.2)
      (rdBuf tb step)
    let v := bump Cnt.rdContribIn 0 1 (setTable t { tb with bufs := mapSet tb.bufs step b } u)
    let w := if unitOdd row nrows fmt data then bump Cnt.rdNonfiniteAdd 0 1 v else v
    addUnit src t row nrows fmt step data u =
      ({ status := 0, late := late }, if late then bump Cnt.rdLateAdd 0 1 w else w) := by
  intro rows late b v w
  simp only [addUnit, ht]
  refine (if_neg (unit_accepted hbound hhome hfmt)).trans (if_neg ?_)
  show ¬ (unitOdd row nrows fmt data && !u.fab.rdCfg.nonfiniteAdd) = true
  rcases h with h | h <;> simp [h]

end Unit

-- The acknowledgement of a contribution, and the close of a shard (R403, R404).

theorem recvRdAck_contrib {h : Hdr} {p : Pend} {n : Nat} {s : State} (hf : findPend s h.tag = some p)
    (hk : p.kind = .contrib n) : recvRdAck h s = ackContrib h.tag s := by
  simp only [recvRdAck, hf, hk]

theorem rdAckTimeoutS_contrib {tag n : Nat} {p : Pend} {s : State} (hf : findPend s tag = some p)
    (hk : p.kind = .contrib n) :
    let u := reachTime (p.time + s.fab.rdCfg.ackUs * 1000) s
    rdAckTimeoutS tag s = ackContrib tag (raise Ev.rdAckTimeout (srcOf 13 p.dst) [] (bump Cnt.rdAckTimeout 0 1 u)) := by
  simp only [rdAckTimeoutS, hf, hk]

theorem shardCloseS_bound {t : Nat} {tb : Table} {j : Job} {s : State} (ht : table s t = some tb) (hj : s.job = some j)
    (hb : tb.bind.isSome = true) :
    let u := reachTime (j.nominal - j.lead - shardLead s t) s
    shardCloseS t s = checkColls (setTable t { tb with
      bufs := mapSet tb.bufs u.step { rdBuf tb u.step with closedAll := true } } u) := by
  simp [shardCloseS, ht, hj, ← Option.not_isSome, hb]

-- The global norm (R407 to R409).

/-- The sum of the partials that the root holds, and their flag. -/
def rootSum (s : State) : W64 × Bool :=
  s.fab.gnRoot.foldl (fun (a : W64 × Bool) e => (add64 a.1 e.2.1, a.2 || e.2.2)) (0, false)

/-- The root's collection is closed, the members left out counted. -/
def rootClosed (j : Job) (s : State) : State :=
  let missing := countIf (fun p => (mapGet s.fab.gnRoot p).isNone) j.members
  let v := { s with fab := { s.fab with gnClosed := true } }
  if missing = 0 then v else bump Cnt.rdGnExcluded 0 missing v

theorem rootClosed_gnRoot (j : Job) (s : State) : (rootClosed j s).fab.gnRoot = s.fab.gnRoot := by
  unfold rootClosed
  dsimp only
  split <;> rfl

theorem reachTime_fab (n : Nat) (s : State) : (reachTime n s).fab = s.fab := by rw [reachTime, advance_frame]

section Norm

variable {j : Job} {s : State} (hj : s.job = some j)

include hj

theorem gnResultTake_of_job (total : W64) (count : Nat) (odd : Bool) :
    let u := (treeChildren s j).foldl (fun s c => sendPlain (.gnResult (mkHdr s c 0) total count odd) s) s
    gnResultTake total count odd s = if u.fab.gnApplied then u else applyGn total odd u := by
  simp only [gnResultTake, hj]

theorem closeGn_root (hm : j.master = pkgNo s) (hc : s.fab.gnClosed = false) (hr : s.fab.gnRoot ≠ []) :
    closeGn s = gnResultTake (rootSum s).1 s.fab.gnRoot.length (rootSum s).2 (rootClosed j s) := by
  have hclose : closeGn s =
      gnResultTake (rootSum s).1 (rootClosed j s).fab.gnRoot.length (rootSum s).2 (rootClosed j s) := by
    unfold closeGn
    split
    · next h => cases hj.symm.trans h
    · next h =>
      cases hj.symm.trans h
      exact if_neg (by simp [hm, hc, hr])
  rw [hclose, rootClosed_gnRoot]

theorem gnRootCloseS_closes (hm : j.master = pkgNo s) (hc : s.fab.gnClosed = false) (hr : s.fab.gnRoot ≠ []) :
    let u := reachTime (j.nominal - j.lead - gnLead s) s
    gnRootCloseS s = gnResultTake (rootSum u).1 u.fab.gnRoot.length (rootSum u).2 (rootClosed j u) := by
  intro u
  have hfab : u.fab = s.fab := reachTime_fab _ s
  have hroot : gnRootCloseS s = closeGn u := by
    simp only [gnRootCloseS, hj]
    rfl
  rw [hroot, closeGn_root ((reachTime_job _ s).trans hj) (hm.trans (pkgNo_reachTime _ s).symm) (hfab ▸ hc) (hfab ▸ hr)]

theorem gnPartialTake_root (p : Nat) (x : W64) (odd : Bool) (hm : j.master = pkgNo s) (hc : s.fab.gnClosed = false) :
    let u := { s with fab := { s.fab with gnRoot := mapSet s.fab.gnRoot p (x, odd) } }
    gnPartialTake p x odd s =
      if j.members.all (fun m => j.sitting.contains m || (mapGet u.fab.gnRoot m).isSome) then closeGn u else u := by
  unfold gnPartialTake
  rw [hj]
  exact if_neg (by simp [hm, hc])

end Norm

theorem mapSet_ne_nil {α : Type} (m : AMap α) (k : Nat) (v : α) : mapSet m k v ≠ [] := by
  intro h
  have hg := mapGet_mapSet_same m k v
  rw [h] at hg
  cases hg

/-- A message of the global norm in the running step and epoch has its effect (R76, R408). -/
theorem exec_currentNorm {i : Instr} {h : Hdr} {s t : State} (hexec : exec i s = .next (takeNorm i s)) (c : current s i h)
    (hk : stepKind i = .norm) (hp : poolAccess i = false) (ht : perform i s = t) :
    exec i s = .next (returnCredits i h t) := by
  subst ht
  obtain ⟨a, -, -, -, -, hnorm⟩ := c
  obtain ⟨hstep, hepoch⟩ := hnorm (.inr hk)
  have hi : hdrOf i = some h := a.1
  have hjudged : judgeStep i h s = perform i s := by
    have hnear : ¬ stepOf s + 2 ≤ h.step := by omega
    have hnotOld : ¬ h.step < stepOf s := by omega
    simp only [judgeStep, if_neg hnear, hk, if_neg hnotOld, if_pos hstep, handle, hi, hp, Bool.false_eq_true, if_false]
  rw [hexec, takeNorm, receive_addressed _ a, if_neg (Nat.not_lt.mpr hepoch), hjudged]

/-- CLIP is set for every GNORM task of this package (R409). -/
theorem applyGn_of_colls {s : State} {k : Coll} {l : List Coll} (hk : gnColls s = k :: l) (total : W64) (odd : Bool) :
    let w := clipOf (cdClip k.desc) total odd
    let u := setClip w { s with fab := { s.fab with gnApplied := true } }
    let v := if !isZero (val32 (cdClip k.desc)) ∧ (!isFin (val64 total) ∨ odd) then raise Ev.rdGnNonfinite 0 [] u else u
    let x := if ltVal (val32 w) (val32 one32) then bump Cnt.rdClip 0 1 v else v
    applyGn total odd s = (k :: l).foldl (fun s c => endColl c s) x := by
  simp only [applyGn, hk]

section Gnorm

variable {d : Nat} {k : Coll} {j : Job} {s : State} (hj : s.job = some j)
  (hk : s.fab.colls.find? (fun c => c.die == d && cdKind c.desc == 2 && !c.started) = some k)

include hj hk

theorem gnormS_badDesc (h : gnDescOk k.desc = false) : gnormS d s = endColl k (badDesc s) := by
  simp [gnormS, hj, hk, h]

variable (hd : gnDescOk k.desc = true)

include hd

theorem gnormS_applied (h : s.fab.gnApplied = true) : gnormS d s = endColl k s := by
  simp [gnormS, hj, hk, hd, h]

/-- A package that is not the root sends its partial, and waits for the result before the cut-off. -/
theorem gnormS_sends (ha : s.fab.gnApplied = false) (hm : j.master ≠ pkgNo s) (hc : s.now + j.lead < j.nominal) :
    let u := updColl k.no (fun x => { x with started := true }) s
    let v := sendPlain (.gnPartial (mkHdr u j.master 0) (pkgPartial u).1 (pkgPartial u).2) u
    v.fab.gnResult = none → gnormS d s = v := by
  intro u v hr
  have hv : v.now = s.now := sendPlain_now _ u
  have hm' : ¬ j.master = pkgNo u := hm
  unfold gnormS
  rw [hk, hj]
  dsimp only
  rw [if_neg (by simp [hd]), if_neg (by simp [ha]), if_neg hm', hr]
  refine if_neg ?_
  show ¬ j.nominal ≤ v.now + j.lead
  omega

end Gnorm

-- Commands (R416, R417).

section Commands

variable {b : List Byte} {s : State}

theorem rdConfig_sets (h1 : field b 1 15 = 0) (h2 : field b 32 32 = 0) (hlo : 10 ≤ field b 16 16)
    (hhi : field b 16 16 ≤ 10000) : rdConfig b s =
      ({ s with fab := { s.fab with rdCfgNext := { nonfiniteAdd := flag b 0, ackUs := field b 16 16 } } }, okWith []) :=
  if_neg (by omega)

theorem rdConfig_badParam (h : field b 1 15 ≠ 0 ∨ field b 32 32 ≠ 0 ∨ field b 16 16 < 10 ∨ 10000 < field b 16 16) :
    rdConfig b s = (s, failWith St.badParam 0) := if_pos h

theorem rdBind_noTable (ht : table s (field b 0 8) = none) : rdBind b s = (s, failWith St.badParam 1) := by
  simp only [rdBind, ht]

section Bind

variable {tb : Table} (ht : table s (field b 0 8) = some tb)

include ht

theorem rdBind_badParam (h : field b 10 54 ≠ 0 ∨ tb.width ≠ 256 ∨ tb.place ≠ 1 ∨ tb.migEnable = true) :
    rdBind b s = (s, failWith St.badParam 1) := by
  simp only [rdBind, ht]
  exact if_pos h

variable (hfit : field b 10 54 = 0 ∧ tb.width = 256 ∧ tb.place = 1 ∧ tb.migEnable = false)

include hfit

omit ht in
theorem rdBind_fits : ¬ (field b 10 54 ≠ 0 ∨ tb.width ≠ 256 ∨ tb.place ≠ 1 ∨ tb.migEnable = true) := by
  obtain ⟨h1, h2, h3, h4⟩ := hfit
  simp [h1, h2, h3, h4]

theorem rdBind_unbinds (hu : flag b 9 = true) : rdBind b s = (setTable (field b 0 8)
    { tb with bind := none, rdRegions := [], bufs := [], clip := 0x3F800000 }
    (tb.rdRegions.foldl (fun s id => destroyRegion id s) s), okWith []) := by
  have hunbind : unbind (field b 0 8) s = setTable (field b 0 8)
      { tb with bind := none, rdRegions := [], bufs := [], clip := 0x3F800000 }
      (tb.rdRegions.foldl (fun s id => destroyRegion id s) s) := by
    simp only [unbind, ht]
  simp only [rdBind, ht, if_neg (rdBind_fits hfit), if_pos hu, hunbind]

variable (hu : flag b 9 = false)

include hu

theorem rdBind_inUse (h : tb.bind.isSome = true ∨ 64 ≤ boundTables s) : rdBind b s = (s, failWith St.inUse 2) := by
  simp only [rdBind, ht]
  exact (if_neg (rdBind_fits hfit)).trans ((if_neg (ne_true_of_eq_false hu)).trans (if_pos h))

variable (hnew : tb.bind = none) (hroom : boundTables s < 64)

include hnew hroom

omit ht hfit hu in
theorem rdBind_asks : ¬ (tb.bind.isSome = true ∨ 64 ≤ boundTables s) := by simp [hnew, hroom]

theorem rdBind_noSpace (ha : rdAlloc (localRows tb.payload tb.homes (pkgNo s) * 1056) s = none) :
    rdBind b s = (s, failWith St.noSpace 3) := by
  simp [rdBind, ht, rdBind_fits hfit, hu, rdBind_asks hnew hroom, ha]

theorem rdBind_binds {ids : List Nat} {u : State}
    (ha : rdAlloc (localRows tb.payload tb.homes (pkgNo s) * 1056) s = some (ids, u)) : rdBind b s =
      (setTable (field b 0 8) { tb with bind := some (flag b 8), rdRegions := ids, bufs := [], clip := 0x3F800000 } u,
        okWith []) := by
  simp [rdBind, ht, rdBind_fits hfit, hu, rdBind_asks hnew hroom, ha]

end Bind

theorem rdDigestRead_answers (h1 : field b 76 4 = 0) (hlo : 1 ≤ field b 80 16) (hhi : field b 80 16 ≤ 4096)
    (hkept : digestKept s (field b 0 64) = true) : rdDigestRead b s = okWith ((List.range (field b 80 16)).flatMap (fun k =>
      match if field b 64 12 + k < 4096 then mapGet s.fab.digests (field b 0 64 * 4096 + (field b 64 12 + k)) else none with
      | some d => if d.sentCnt = 0 ∧ d.recvCnt = 0 then [] else digestEntry (field b 64 12 + k) d
      | none => [])) := by
  refine if_neg ?_
  rintro (h | h | h | h)
  · exact h h1
  · omega
  · omega
  · rw [hkept] at h
    cases h

theorem rdDigestRead_badParam (h : field b 76 4 ≠ 0 ∨ field b 80 16 = 0 ∨ 4096 < field b 80 16
      ∨ digestKept s (field b 0 64) = false) : rdDigestRead b s = failWith St.badParam 0 :=
  if_pos (h.imp_right (Or.imp_right (Or.imp_right fun e => by rw [e]; rfl)))

end Commands

end Sys2Proof.Machine

namespace Sys2Proof.Proofs

open Sys2Proof.Machine

/-- Settles O53: one equation per row and outcome; a REDUCE_SCATTER also waits for its reads (`takesEffect_of_whenOpen`), a
message of the norm is judged by its own epoch and step (`exec_currentNorm`). Which FMT a table's tasks agree on is
assumption log 31, GN_LEAD_NS of the root's own tasks and the members counted as left out log 54. -/
theorem reductionAndNorm : Obligations.ReductionAndNorm := by
  intro s finish started bad
  refine ⟨fun d k hd hk => ?_, fun h row t nrows fmt data => ?_, fun tag p n hf hkind => ⟨fun h row t st late => ?_, ?_⟩,
    fun t tb j ht hj hb => ?_, fun d k j hd hj hk => ⟨fun h => ?_, fun h ha => ?_, fun h ha hr hm hc => ?_⟩,
    fun j hj => ⟨fun h x odd => ?_, fun hm hc hr => ?_, fun h total count odd => ?_⟩, fun total odd k l hk => ?_,
    fun src c => ?_⟩
  · have hexec : exec (.reduceScatter d) s = .next (whenOpen d (reduceScatterS d) s) :=
      onUnit_next (decide_eq_true hd) rfl
    refine ⟨fun hsit => ?_, fun hsit hforf => ⟨fun h => ?_, fun tb ht h => ?_⟩⟩
    · exact takesEffect_of_whenOpen hexec (reduceScatterS_sitsOut (s := rowBegun d s) hk hsit)
    · exact takesEffect_of_whenOpen hexec (reduceScatterS_badDesc (s := rowBegun d s) hk hsit hforf h)
    · exact takesEffect_of_whenOpen hexec (reduceScatterS_starts (s := rowBegun d s) hk hsit hforf ht h)
  · intro i hc u r
    refine ⟨exec_current_of_perform rfl hc rfl rfl,
      fun tb ht => ⟨fun h => ?_, fun hb hh hf => ⟨fun ho hcfg => ?_, fun h => ?_⟩⟩⟩
    · exact addUnit_refused ht h
    · exact addUnit_nonfinite ht hb hh hf ho hcfg
    · exact addUnit_adds ht hb hh hf h
  · intro i hc htag hp
    subst htag
    exact exec_current_of_perform rfl hc rfl (recvRdAck_contrib hp hkind)
  · exact congrArg Host.Outcome.next (rdAckTimeoutS_contrib hf hkind)
  · exact congrArg Host.Outcome.next (shardCloseS_bound ht hj hb)
  · exact onUnit_next (decide_eq_true hd) (gnormS_badDesc hj hk h)
  · exact onUnit_next (decide_eq_true hd) (gnormS_applied hj hk h ha)
  · intro u own p v hv
    exact onUnit_next (decide_eq_true hd) (gnormS_sends hj hk h ha hm hc hv)
  · intro i hc hm hopen
    refine exec_currentNorm rfl hc rfl rfl ((gnPartialTake_root hj h.src x odd hm hopen).trans ?_)
    exact congrArg (ite _ · _) (closeGn_root hj hm hopen (mapSet_ne_nil _ _ _))
  · exact congrArg Host.Outcome.next (gnRootCloseS_closes hj hm hc hr)
  · intro i hc
    exact exec_currentNorm rfl hc rfl rfl (gnResultTake_of_job hj total count odd)
  · exact applyGn_of_colls hk total odd
  · intro b t
    refine ⟨fun hc => ⟨fun h1 h2 hlo hhi => ?_, fun h => ?_⟩,
      fun hc => ⟨fun ht => ?_, fun tb ht => ⟨fun h => ?_, fun h1 h2 h3 h4 =>
      ⟨fun hu => ?_, fun hu h => ?_, fun hu hnew hroom => ⟨fun ha => ?_, fun ids u ha => ?_⟩⟩⟩⟩,
      fun hc => ⟨fun h1 hlo hhi hkept => ?_, fun h => ?_⟩⟩
    · exact congrArg Host.Outcome.next (performNow_answers hc (rdConfig_sets h1 h2 hlo hhi))
    · exact congrArg Host.Outcome.next (performNow_answers hc (rdConfig_badParam h))
    · exact congrArg Host.Outcome.next (performNow_answers hc (rdBind_noTable ht))
    · exact congrArg Host.Outcome.next (performNow_answers hc (rdBind_badParam ht h))
    · exact congrArg Host.Outcome.next (performNow_answers hc (rdBind_unbinds ht ⟨h1, h2, h3, h4⟩ hu))
    · exact congrArg Host.Outcome.next (performNow_answers hc (rdBind_inUse ht ⟨h1, h2, h3, h4⟩ hu h))
    · exact congrArg Host.Outcome.next (performNow_answers hc (rdBind_noSpace ht ⟨h1, h2, h3, h4⟩ hu hnew hroom ha))
    · exact congrArg Host.Outcome.next (performNow_answers hc (rdBind_binds ht ⟨h1, h2, h3, h4⟩ hu hnew hroom ha))
    · exact congrArg Host.Outcome.next (performQuery_answers hc (rdDigestRead_answers h1 hlo hhi hkept))
    · exact congrArg Host.Outcome.next (performQuery_answers hc (rdDigestRead_badParam h))

end Sys2Proof.Proofs
end

section
/-! What a device reset leaves (R427, R493): one frame for every bring-up that begins. -/

namespace Sys2Proof.Machine

-- What a change of device state and the recording of latched events leave alone.

theorem setDev_mbx (d : DevState) (s : State) : (setDev d s).host.mbx = s.host.mbx := by
  unfold setDev
  split
  · rfl
  · rw [stateChanged, pkgEvt_mbx]

theorem raiseAt_frame (code src time : Nat) (payload : List Byte) (s : State) : raiseAt code src time payload s =
    { s with ctr := (raiseAt code src time payload s).ctr, evr := (raiseAt code src time payload s).evr } := by
  unfold raiseAt
  rw [(enqueue_cases code src time payload (countRaising code src s)).2]
  rfl

/-- `t` is `s` but for counters and the recorder. -/
def recordedOnly (s t : State) : Prop := t = { s with ctr := t.ctr, evr := t.evr }

theorem recordedOnly.foldl {α : Type} {f : State → α → State} (hf : ∀ s a, recordedOnly s (f s a)) (l : List α) (s : State) :
    recordedOnly s (l.foldl f s) := by
  induction l generalizing s with
  | nil => rfl
  | cons a l ih =>
    have h := ih (f s a)
    unfold recordedOnly at h ⊢
    rw [List.foldl_cons, h, hf s a]

/-- Recording the latched events empties the latches, and changes counters and the recorder besides. -/
theorem recordLatched_frame (s : State) : recordLatched s = { s with
    pkg := { s.pkg with latched := [] }
    ctr := (recordLatched s).ctr
    evr := (recordLatched s).evr } :=
  recordedOnly.foldl (fun t (l : Latched) => raiseAt_frame l.code 0 l.time l.payload t) s.pkg.latched
    { s with pkg := { s.pkg with latched := [] } }

theorem countDiscards_frame (n : Nat) (s : State) : countDiscards n s = { s with
    ctr := (countDiscards n s).ctr
    evr := (countDiscards n s).evr
    flash := { s.flash with brg := { s.flash.brg with memEvent := (countDiscards n s).flash.brg.memEvent } } } := by
  unfold countDiscards
  split
  · rfl
  · rw [raise_frame]
    rfl

-- A bring-up begins (R493, R494).

/-- Beside what the reset of the dies gives, the start of a bring-up leaves the mode asked for, the device in BRINGUP, and
the latched events recorded. -/
theorem startBringup_frame (pcie : Bool) (mode : Nat) (s : State) : startBringup pcie mode s =
    { resetDies pcie true s with
      dev := .bringup
      stateSeq := (startBringup pcie mode s).stateSeq
      ctr := (startBringup pcie mode s).ctr
      evr := (startBringup pcie mode s).evr
      chk := (startBringup pcie mode s).chk
      host := (startBringup pcie mode s).host
      pkg := { keptPackage s with latched := [] }
      brg := { (resetDies pcie true s).brg with requested := mode }
      flash := { resetFlash true s with brg := { (resetFlash true s).brg with
        memEvent := (startBringup pcie mode s).flash.brg.memEvent } } } := by
  unfold startBringup
  dsimp only
  rw [countDiscards_frame, setDev_frame, recordLatched_frame]
  rfl

theorem startBringup_mbx (pcie : Bool) (mode : Nat) (s : State) : (startBringup pcie mode s).host.mbx =
    mapVals (fun _ m => { closedMailbox with window := m.window }) s.host.mbx := by
  unfold startBringup
  dsimp only
  rw [countDiscards_frame, setDev_mbx, recordLatched_frame]
  rfl

theorem mailbox_startBringup (pcie : Bool) (mode : Nat) (s : State) (n : Nat) :
    (mailbox (startBringup pcie mode s) n).phase = .closed := by
  unfold mailbox mapGetD
  rw [startBringup_mbx, mapGet_mapVals]
  cases mapGet s.host.mbx n with
  | none => rfl
  | some m => rfl

theorem startBringup_softKept (pcie : Bool) (mode : Nat) (s : State) :
    softKept s.flash.softMap (startBringup pcie mode s).flash.softMap := by
  rw [startBringup_frame]
  exact (resetFlash_keeps true s).1

end Sys2Proof.Machine
end

section
/-! The mailboxes and BAR registers of the host, the resets of the function, the take-up, checks and completion of a command,
and load shedding (R423 to R447, R591); the statement of 13_host_mailboxes.md on them. -/

namespace Sys2Proof.Machine

-- What the host does to a mailbox (R430, R434).

theorem onBar_reaches {s : State} (hr : reachable s = true) (f : State → State) : onBar f s = f s := if_pos hr

section Mailbox

variable {n : Nat} {s : State}

theorem exec_onMailbox {i : Instr} {f : State → State} {t : State} (hexec : exec i s = onUnit (n < 64) (onBar f s))
    (hn : n < 64) (hr : reachable s = true) (ht : f s = t) : exec i s = .next t :=
  hexec.trans (onUnit_next (decide_eq_true hn) ((onBar_reaches hr f).trans ht))

theorem exec_mbxWindowWrite {o : Nat} {data : List Byte} (hn : n < 64) (hr : reachable s = true)
    (ho : o + data.length ≤ 1048576) : exec (.mbxWindowWrite n o data) s = .next (windowWrite n o data s) :=
  onUnit_next (by simp [hn, ho]) (onBar_reaches hr _)

theorem windowWrite_lands {o : Nat} {data : List Byte} (h : (mailbox s n).phase = .closed ∨ (mailbox s n).phase = .idle) :
    windowWrite n o data s =
      setMailbox n { mailbox s n with window := splice (mailbox s n).window o data } s := by
  unfold windowWrite
  rcases h with h | h <;> simp [h]

theorem windowWrite_dropped {o : Nat} {data : List Byte}
    (h : (mailbox s n).phase = .posted ∨ (mailbox s n).phase = .executing) :
    windowWrite n o data s = bump Cnt.mbxWinWrDrop n 1 s := by
  unfold windowWrite
  rcases h with h | h <;> simp [h]

theorem openMbx_closed (irqEn : Bool) (h : (mailbox s n).phase = .closed) : openMbx n irqEn s = setMailbox n (
    if retValid (mailbox s n) && s.host.busMaster then { mailbox s n with phase := .idle, irqEn := irqEn }
    else { mailbox s n with irqEn := irqEn, lastStatus := St.badParam }) s := by
  simp only [openMbx, h]
  exact (apply_ite (setMailbox n · s) _ _ _).symm

theorem openMbx_open (irqEn : Bool) (h : (mailbox s n).phase ≠ .closed) : openMbx n irqEn s =
    if (mailbox s n).closing then s else setMailbox n { mailbox s n with irqEn := irqEn } s := by
  unfold openMbx
  dsimp only
  split
  · next hc => exact absurd hc h
  · rfl

/-- What OPEN written 0 makes of mailbox `n`, by its state (R434). -/
def afterClose (n : Nat) (irqEn : Bool) (s : State) : MbxPhase → State
  | .closed => setMailbox n { mailbox s n with irqEn := irqEn } s
  | .idle => setMailbox n { mailbox s n with irqEn := irqEn, phase := .closed } s
  | .posted => bump Cnt.mbxAbort n 1 (setMailbox n { mailbox s n with irqEn := irqEn, phase := .closed } s)
  | .executing => setMailbox n { mailbox s n with irqEn := irqEn, closing := true } s

theorem closeMbx_of_phase (irqEn : Bool) {p : MbxPhase} (h : (mailbox s n).phase = p) :
    closeMbx n irqEn s = afterClose n irqEn s p := by
  subst h
  rfl

theorem abortMbx_posted (h : (mailbox s n).phase = .posted) :
    abortMbx n s = bump Cnt.mbxAbort n 1 (completePosted n St.aborted s) := by
  simp only [abortMbx, h]

theorem abortMbx_ignored (h : (mailbox s n).phase ≠ .posted) : abortMbx n s = bump Cnt.mbxPostIgnored n 1 s := by
  unfold abortMbx
  split
  · next hp => exact absurd hp h
  · rfl

theorem postMbx_idle (v : Nat) (h : (mailbox s n).phase = .idle) :
    let u := setMailbox n { mailbox s n with phase := .posted, postValue := v, postTime := s.now } s
    postMbx n v s = if s.sm.state = .failed then completePosted n St.smFailed u else u := by
  simp only [postMbx, h]
  rfl

theorem postMbx_ignored (v : Nat) (h : (mailbox s n).phase ≠ .idle) : postMbx n v s = bump Cnt.mbxPostIgnored n 1 s := by
  unfold postMbx
  dsimp only
  split
  · next hp => exact absurd hp h
  · rfl

theorem postTimeoutS_posted (hp : (mailbox s n).phase = .posted) (ht : field (mailbox s n).window 96 32 ≠ 0) :
    postTimeoutS n s = completePosted n St.timeout
      (reachTime ((mailbox s n).postTime + field (mailbox s n).window 96 32 * 1000000) s) := if_pos ⟨hp, ht⟩

end Mailbox

-- Register writes (R424 to R433).

section Register

variable {s : State} {o v : Nat}

/-- A write of 4 bytes to an aligned offset of BAR0. -/
theorem exec_bar0 (hr : reachable s = true) (ho : o % 4 = 0) (hv : v < 2 ^ 32) :
    exec (.registerWrite 0 o 4 v) s = .next (bar0Write o v s) := by
  have h : registerWriteS 0 o 4 v s = bar0Write o (v % 2 ^ 32) s := (if_pos rfl).trans (if_pos ⟨rfl, ho⟩)
  rw [Nat.mod_eq_of_lt hv] at h
  exact congrArg Host.Outcome.next ((onBar_reaches hr _).trans h)

theorem resetWrite_badKey (h : v / 256 % 256 ≠ 0xA5) : resetWrite v s = dropBar s := if_pos h

theorem resetWrite_resets (hk : v / 256 % 256 = 0xA5) (h : v % 2 = 1) :
    resetWrite v s = deviceReset (bit (v / 2 % 2 == 1)) s := by
  have hmode : bit (v / 2 % 2 == 1) = v / 2 % 2 := by
    rcases Nat.mod_two_eq_zero_or_one (v / 2) with e | e <;> rw [e] <;> rfl
  rw [hmode]
  exact (if_neg (not_not_intro hk)).trans (if_pos h)

/-- The control registers of the mailboxes stand in BAR0 from 0x10000 on (R424). -/
theorem bar0Write_mailbox {n k : Nat} (hn : n < 64) (hk : k < 64) :
    bar0Write (0x10000 + 64 * n + k) v s = mbxRegWrite n k v s := by
  have h1 : 0x10000 + 64 * n + k ≠ 0x1008 := by omega
  have h2 : 0x10000 + 64 * n + k ≠ 0x1010 := by omega
  have h3 : 0x10000 + 64 * n + k ≠ 0x1014 := by omega
  have h4 : 0x10000 ≤ 0x10000 + 64 * n + k ∧ 0x10000 + 64 * n + k < 0x11000 := by omega
  have hdiv : (0x10000 + 64 * n + k - 0x10000) / 64 = n := by omega
  have hmod : (0x10000 + 64 * n + k - 0x10000) % 64 = k := by omega
  unfold bar0Write
  rw [if_neg h1, if_neg h2, if_neg h3, if_pos h4, hdiv, hmod]

theorem exec_mailboxRegister {n k : Nat} (hr : reachable s = true) (hn : n < 64) (hk : k < 64) (ha : k % 4 = 0)
    (hv : v < 2 ^ 32) : exec (.registerWrite 0 (0x10000 + 64 * n + k) 4 v) s = .next (mbxRegWrite n k v s) :=
  (exec_bar0 hr (by omega) hv).trans (congrArg Host.Outcome.next (bar0Write_mailbox hn hk))

theorem bar0Write_low (h : o < 0x1008) : bar0Write o v s = dropBar s := by
  unfold bar0Write
  rw [if_neg (by omega), if_neg (by omega), if_neg (by omega), if_neg (by omega), if_neg (by omega)]

theorem mbxRegWrite_control {n : Nat} (h : v.testBit 2 = false) : mbxRegWrite n 0x0C v s =
    if v.testBit 0 then openMbx n (v.testBit 1) s else closeMbx n (v.testBit 1) s := by
  show (let s := if v.testBit 2 then abortMbx n s else s
    if v.testBit 0 then openMbx n (v.testBit 1) s else closeMbx n (v.testBit 1) s) = _
  rw [h]
  rfl

theorem toLE_length (n x : Nat) : (toLE n x).length = n := by
  induction n generalizing x with
  | zero => rfl
  | succ n ih => rw [toLE, List.length_cons, ih]

/-- BAR2 holds the windows, 1 MiB each (R430). -/
theorem exec_bar2 {n : Nat} (hr : reachable s = true) (hn : n < 64) (ho : o + 4 ≤ 1048576) :
    exec (.registerWrite 2 (1048576 * n + o) 4 v) s = exec (.mbxWindowWrite n o (toLE 4 v)) s := by
  have hdiv : (1048576 * n + o) / 1048576 % 64 = n := by omega
  have hmod : (1048576 * n + o) % 1048576 = o := by omega
  have hwrite : registerWriteS 2 (1048576 * n + o) 4 v s =
      windowWrite ((1048576 * n + o) / 1048576 % 64) ((1048576 * n + o) % 1048576) (toLE 4 v) s := rfl
  rw [exec_mbxWindowWrite hn hr (by rw [toLE_length]; exact ho)]
  rw [hdiv, hmod] at hwrite
  exact congrArg Host.Outcome.next ((onBar_reaches hr _).trans hwrite)

end Register

-- PKG_EVT_STATUS (R12, R13, R428).

/-- The bits of a word that lists single bits are those listed. -/
theorem testBit_packNat_bits (l : List Nat) (i : Nat) :
    (packNat (l.map (fun k => (k, 1, 1)))).testBit i = l.any (fun k => k == i) := by
  induction l with
  | nil => exact Nat.zero_testBit i
  | cons k l ih =>
    have hone : (1 % 2 ^ 1) <<< k = 2 ^ k := Nat.one_shiftLeft k
    rw [List.map_cons, packNat, Nat.testBit_or, ih, List.any_cons, hone, Nat.testBit_two_pow]
    rfl

/-- A bit of PKG_EVT_STATUS clears where 1 is written, unless the hardware set it in this cycle. -/
theorem testBit_evtStatusWrite {i : Nat} (v : W32) (s : State) (hi : i < 32) :
    (evtStatusWrite v s).host.evtStatus.toNat.testBit i = (s.host.evtStatus.toNat.testBit i
      && (!v.toNat.testBit i || s.host.evtSet.any (fun e => e.1 == i && e.2 == s.now))) := by
  have hheld : (packNat ((s.host.evtSet.filter (fun e => e.2 == s.now)).map (fun e => (e.1, 1, 1)))).testBit i =
      s.host.evtSet.any (fun e => e.1 == i && e.2 == s.now) := by
    calc _ = (packNat (((s.host.evtSet.filter (fun e => e.2 == s.now)).map (fun e => e.1)).map
          (fun k => (k, 1, 1)))).testBit i := by
          rw [List.map_map]
          rfl
      _ = (s.host.evtSet.filter (fun e => e.2 == s.now)).any (fun e => e.1 == i) := by
          rw [testBit_packNat_bits, List.any_map]
          rfl
      _ = _ := by
          rw [List.any_filter]
          exact congrArg _ (funext fun e => Bool.and_comm _ _)
  simp only [evtStatusWrite, BitVec.testBit_toNat, BitVec.getLsbD_and, BitVec.getLsbD_not, BitVec.getLsbD_ofNat, hi,
    decide_true, Bool.true_and, hheld, Bool.not_and, Bool.not_not]

-- Take-up and its checks (R441, R445).

section TakeUp

variable {n : Nat} {s : State} (hs : smServes s = true) (hn : nextTakeUp s = some n)

include hs hn

theorem takeUpS_accepts (hv : validate (postedSlot (mailbox s n)) (some (mailbox s n).postValue)
      ((mailbox s n).retSize - 64) s = none) :
    takeUpS n s = setMailbox n { mailbox s n with phase := .executing, slot := some (postedSlot (mailbox s n)) } s := by
  simp [takeUpS, hs, hn, hv]

theorem takeUpS_rejects {st k : Nat} (hv : validate (postedSlot (mailbox s n)) (some (mailbox s n).postValue)
      ((mailbox s n).retSize - 64) s = some (st, k)) :
    takeUpS n s = noteBadSig (srcOf 9 n) st (setMailbox n { mailbox s n with
      phase := .executing
      slot := some { postedSlot (mailbox s n) with done := some (failStep st k) } } s) := by
  simp [takeUpS, hs, hn, hv]

end TakeUp

section Validate

variable {c : Slot} {v : Option Nat} {room : Nat} {s : State}

theorem validate_badHeader (h : headerOk c.header v = false) : validate c v room s = some (St.badHeader, 1) := by
  simp [validate, h]

variable (hh : headerOk c.header v = true)

include hh

theorem validate_badCrc (h : crcOk c.header c.payload = false) : validate c v room s = some (St.badCrc, 2) := by
  simp [validate, hh, h]

variable (hcrc : crcOk c.header c.payload = true)

include hcrc

theorem validate_badOpcode (h : cmdInfo c.opcode = none) : validate c v room s = some (St.badOpcode, 3) := by
  simp [validate, hh, hcrc, h]

variable {i : CmdInfo} (hi : cmdInfo c.opcode = some i)

/-- The bytes that the payload of a command takes with its trailer (R436, R437). -/
def lengthDue (s : State) (c : Slot) : Nat :=
  cmdLen s c.opcode (c.payload.take (c.payload.length - trailerLen c.header)) + trailerLen c.header

include hi

theorem validate_badLength (h : c.payload.length ≠ lengthDue s c) : validate c v room s = some (St.badLength, 4) := by
  simp only [validate, hh, hcrc, hi]
  exact if_pos h

variable (hlen : c.payload.length = lengthDue s c)

include hlen

theorem validate_badSig (h : flag c.header 17 ≠ i.signed ∨ (i.signed = true ∧ trailerOk s c.header c.payload = false)) :
    validate c v room s = some (St.badSig, 5) := by
  simp only [validate, hh, hcrc, hi]
  refine (if_neg (not_not_intro hlen)).trans ?_
  by_cases hf : flag c.header 17 = i.signed
  · obtain ⟨hs, ht⟩ := h.resolve_left (not_not_intro hf)
    exact (if_neg (not_not_intro hf)).trans (if_pos (by simp [hs, ht]))
  · exact if_pos hf

variable (hflag : flag c.header 17 = i.signed) (hsig : i.signed = true → trailerOk s c.header c.payload = true)

include hflag hsig

/-- A command that passes steps 1 to 5 is judged by state, master, room and objects. -/
theorem validate_signed : validate c v room s = if !accepts i.accept s.dev then some (St.badState, 6)
    else if !masterOk s i then some (St.notMaster, 7)
    else if room < cmdMaxResp s c.opcode c.payload then some (St.retSmall, 8)
    else if (cmdObjs s c.opcode c.payload).any (fun o => (heldObjs s).any (holdConflict o)) then some (St.busy, 9)
    else none := by
  simp only [validate, hh, hcrc, hi]
  refine (if_neg (not_not_intro hlen)).trans ((if_neg (not_not_intro hflag)).trans (if_neg ?_))
  cases hs : i.signed
  · simp
  · simp [hsig hs]

theorem validate_badState (h : accepts i.accept s.dev = false) : validate c v room s = some (St.badState, 6) := by
  rw [validate_signed hh hcrc hi hlen hflag hsig, h]
  rfl

theorem validate_notMaster (ha : accepts i.accept s.dev = true) (h : masterOk s i = false) :
    validate c v room s = some (St.notMaster, 7) := by
  rw [validate_signed hh hcrc hi hlen hflag hsig, ha, h]
  rfl

end Validate

-- Completions (R439, R591).

section Completion

variable {n : Nat} {c : Slot} {r : Completion} {s : State} (hp : (mailbox s n).phase = .executing)
  (hc : (mailbox s n).slot = some c) (hr : c.done = some r)

include hp hc hr

theorem completeMbx_held (hb : (s.host.busMaster && reachable s) = false) :
    completeMbx n s = setMailbox n { mailbox s n with held := true } s := by
  simp only [completeMbx, hc, hr, hb, hp, ne_eq, not_true_eq_false, if_false, Bool.false_eq_true]

theorem completeMbx_written (hb : (s.host.busMaster && reachable s) = true) : completeMbx n s = writeCompletion n c r s := by
  simp only [completeMbx, hc, hr, hb, hp, ne_eq, not_true_eq_false, if_false, if_true]

end Completion

-- Shedding (R447).

section Shed

variable {k : Nat} {s : State} (hs : smServes s = true)

include hs

theorem shedWindowS_rises (h : s.sm.shed < shedLevel k) : shedWindowS k s =
    raise Ev.mbxShed 0 [] { s with sm := { s.sm with shed := shedLevel k, below := 0 } } := by
  simp [shedWindowS, hs, h]

theorem shedWindowS_stays (h : shedLevel k ≤ s.sm.shed) (hk : 60 ≤ k) :
    shedWindowS k s = { s with sm := { s.sm with below := 0 } } := by
  simp [shedWindowS, hs, Nat.not_lt.mpr h, Nat.not_lt.mpr hk]

theorem shedWindowS_falls (hk : k < 60) : shedWindowS k s = { s with sm := (
    if 9 ≤ s.sm.below then { s.sm with shed := s.sm.shed - 1, below := 0 }
    else { s.sm with below := s.sm.below + 1 }) } := by
  have hl : shedLevel k = 0 := by
    unfold shedLevel
    rw [if_neg (by omega), if_neg (by omega), if_neg (by omega)]
  simp only [shedWindowS, hs, hl, if_pos hk, Nat.not_lt_zero, if_false, Bool.not_true, Bool.false_eq_true,
    Nat.succ_le_succ_iff]
  split <;> rfl

end Shed

end Sys2Proof.Machine

namespace Sys2Proof.Proofs

open Sys2Proof.Machine

/-- Settles O54: one equation per row, state of the mailbox, register offset and step of the checks. What memory and time hold
after a device reset is assumption logs 13 and 17, the PCIe registers after a Function Level Reset log 11, the geometry of
a closing mailbox log 49, the payload of EV_MBX_FLR log 18. -/
theorem mailboxesServe : Obligations.MailboxesServe := by
  intro n s hn m ignored hardware
  refine ⟨fun hr => ?_, fun hs hnext => ?_, fun c v room => ?_, fun t hp ht ht0 => ?_, fun c r hp hc hd => ?_, fun k hs => ?_⟩
  · refine ⟨fun o data ho => ⟨fun h => ?_, fun h => ?_⟩, fun irqEn => ⟨fun h => ?_, fun h => ?_, fun h => ?_, fun h => ?_,
      fun h => ?_, fun h => ?_⟩, fun h => ?_, fun h => ?_, fun v => ⟨fun h => ?_, fun h => ?_⟩, fun o v hv => ?_,
      fun v => ?_, fun full => ?_, ⟨?_, ?_⟩, ?_, ?_, ?_⟩
    · rw [exec_mbxWindowWrite hn hr ho, windowWrite_lands h]
    · rw [exec_mbxWindowWrite hn hr ho, windowWrite_dropped h]
    · exact exec_onMailbox rfl hn hr (openMbx_closed irqEn h)
    · exact exec_onMailbox rfl hn hr (openMbx_open irqEn h)
    · exact exec_onMailbox rfl hn hr (closeMbx_of_phase irqEn h)
    · exact exec_onMailbox rfl hn hr (closeMbx_of_phase irqEn h)
    · exact exec_onMailbox rfl hn hr (closeMbx_of_phase irqEn h)
    · exact exec_onMailbox rfl hn hr (closeMbx_of_phase irqEn h)
    · exact exec_onMailbox rfl hn hr (abortMbx_posted h)
    · exact exec_onMailbox rfl hn hr (abortMbx_ignored h)
    · exact exec_onMailbox rfl hn hr (postMbx_idle v h)
    · exact exec_onMailbox rfl hn hr (postMbx_ignored v h)
    · intro dropped
      refine ⟨fun ho => ⟨fun hk => ?_, fun hk h1 => ?_⟩, fun ho => ?_, fun ho => ?_, fun ho => ?_,
        fun ho => ⟨fun h => ?_, fun h => ?_⟩, fun ho hb => ?_, fun ho ha => ?_, ?_, fun ho => exec_bar2 hr hn ho⟩
      · subst ho
        exact (exec_bar0 hr rfl hv).trans (congrArg Host.Outcome.next (resetWrite_badKey hk))
      · subst ho
        exact (exec_bar0 hr rfl hv).trans (congrArg Host.Outcome.next ((resetWrite_resets hk h1).trans
          (onBar_reaches hr _).symm))
      · subst ho
        exact (exec_bar0 hr rfl hv).trans (congrArg Host.Outcome.next (onBar_reaches hr _).symm)
      · subst ho
        exact exec_bar0 hr rfl hv
      · subst ho
        exact (exec_mailboxRegister hr hn (by decide) rfl hv).trans (exec_onMailbox rfl hn hr rfl).symm
      · subst ho
        exact (exec_mailboxRegister hr hn (by decide) rfl hv).trans (congrArg Host.Outcome.next (if_neg h))
      · subst ho
        exact (exec_mailboxRegister hr hn (by decide) rfl hv).trans (congrArg Host.Outcome.next (if_pos h))
      · subst ho
        rw [exec_mailboxRegister hr hn (by decide) rfl hv, mbxRegWrite_control hb]
        split
        · exact (exec_onMailbox rfl hn hr rfl).symm
        · exact (exec_onMailbox rfl hn hr rfl).symm
      · exact (exec_bar0 hr ha hv).trans (congrArg Host.Outcome.next (bar0Write_low ho))
      · exact congrArg Host.Outcome.next (onBar_reaches hr _)
    · exact ⟨_, congrArg Host.Outcome.next (onBar_reaches hr _), fun i hi => testBit_evtStatusWrite v s hi, rfl⟩
    · have ht : onBar (deviceReset (bit full)) s = startBringup true (bit full) s := onBar_reaches hr _
      have hf : ∀ {α : Type} (f : State → α), _ := fun {α} f => congrArg f (startBringup_frame true (bit full) s)
      exact ⟨_, congrArg Host.Outcome.next ht, hf (·.dev), hf (·.brg.requested), hf (·.fuse), hf (·.meter), hf (·.now),
        hf (·.job), hf (·.mem), startBringup_softKept _ _ s, hf (·.sm.state), mailbox_startBringup _ _ s⟩
    · exact congrArg Host.Outcome.next (onBar_reaches hr hostReset)
    · exact congrArg Host.Outcome.next (onBar_reaches hr hostReset)
    · exact congrArg Host.Outcome.next (onBar_reaches hr busMasterSetS)
    · exact congrArg Host.Outcome.next (onBar_reaches hr _)
    · exact congrArg Host.Outcome.next (onBar_reaches hr functionUnmaskS)
  · refine ⟨fun hv => ?_, fun st k hv => ?_⟩
    · exact onUnit_next (decide_eq_true hn) (takeUpS_accepts hs hnext hv)
    · exact onUnit_next (decide_eq_true hn) (takeUpS_rejects hs hnext hv)
  · refine ⟨validate_badHeader, validate_badCrc, fun hh hcrc => ⟨validate_badOpcode hh hcrc, fun i hi => ?_⟩⟩
    exact ⟨validate_badLength hh hcrc hi, validate_badSig hh hcrc hi,
      fun hlen hf hsig => ⟨validate_badState hh hcrc hi hlen hf hsig, validate_notMaster hh hcrc hi hlen hf hsig⟩⟩
  · subst ht
    exact onUnit_next (decide_eq_true hn) (postTimeoutS_posted hp ht0)
  · refine ⟨fun hb => ?_, fun hb => ?_⟩
    · exact onUnit_next (decide_eq_true hn) (completeMbx_held hp hc hd hb)
    · exact onUnit_next (decide_eq_true hn) (completeMbx_written hp hc hd hb)
  · refine ⟨fun h => ?_, fun h hk => ?_, fun hk => ?_⟩
    · exact congrArg Host.Outcome.next (shedWindowS_rises hs h)
    · exact congrArg Host.Outcome.next (shedWindowS_stays hs h hk)
    · exact congrArg Host.Outcome.next (shedWindowS_falls hs hk)

end Sys2Proof.Proofs
end

section
/-! The sideband: command packets, MCTP control messages, PLDM monitoring and firmware update, and the two mailbox queries
(R449 to R451, R558 to R561, R586); the statement of 13_host_mailboxes.md on them. -/

namespace Sys2Proof.Machine

-- Command packets (R451).

section Packet

variable {packet : List Byte} {s : State} (hs : sideServes s = true) (hfree : s.host.side = none)

/-- The command that a packet on the sideband carries. -/
def packetSlot (packet : List Byte) (s : State) : Slot :=
  { header := slice packet 0 64
    payload := slice packet 64 (Nat.min (field (slice packet 0 64) 64 32) 1048512)
    opcode := field (slice packet 0 64) 0 16
    postTime := s.now
    waits := false
    stale := false
    done := none }

include hs hfree

theorem mctpCommandS_executes (hv : sideValidate (packetSlot packet s) (bump Cnt.mbxMctpCmd 0 1 s) = none) :
    let u := bump Cnt.mbxMctpCmd 0 1 s
    mctpCommandS packet s = { u with host := { u.host with side := some (packetSlot packet s) } } := by
  unfold packetSlot at hv
  simp only [mctpCommandS, hs, hfree, hv]
  rfl

theorem mctpCommandS_answers {st k : Nat}
    (hv : sideValidate (packetSlot packet s) (bump Cnt.mbxMctpCmd 0 1 s) = some (st, k)) : mctpCommandS packet s =
      noteBadSig 0 st (answerSide (packetSlot packet s) (failStep st k) (bump Cnt.mbxMctpCmd 0 1 s)) := by
  unfold packetSlot at hv
  simp only [mctpCommandS, hs, hfree, hv]
  rfl

end Packet

-- Messages that are answered from the state (R450, R586).

theorem exec_mctpControl {s : State} (h : s.dev ≠ .off) (m : MctpControl) :
    exec (.mctpControl m) s = .next (mctpControlS m s) := congrArg Host.Outcome.next (if_neg h)

theorem sideServed_of {s : State} (h : s.dev = .standby ∨ (s.dev ≠ .off ∧ s.sm.state = .running)) : sideServed s = true := by
  rcases h with h | ⟨h, hr⟩ <;> simp [sideServed, *]

section Served

variable {s : State} (hs : sideServed s = true)

include hs

theorem exec_pldmMessage (m : PldmMsg) : exec (.pldmMessage m) s = .next (pldmMessageS m s) :=
  congrArg Host.Outcome.next (if_pos hs)

theorem exec_pldmFirmware {m : PldmFw} {t : State} (ht : pldmFwS m s = t) : exec (.pldmFirmwareUpdate m) s = .next t :=
  congrArg Host.Outcome.next ((if_pos hs).trans ht)

theorem exec_sensor {id inst : Nat} {v : Int} (hv : pldmSensor s id inst = some v) :
    exec (.pldmMessage (.getSensor id inst)) s = .next (sideSay (.pldm .done [v]) s) := by
  rw [exec_pldmMessage hs]
  simp only [pldmMessageS, hv]

theorem exec_noSensor {id inst : Nat} (hv : pldmSensor s id inst = none) :
    exec (.pldmMessage (.getSensor id inst)) s = .next (sideSay (.pldm .failed []) s) := by
  rw [exec_pldmMessage hs]
  simp only [pldmMessageS, hv]

end Served

theorem pldmSensor_none {s : State} {id inst : Nat} (h : id < 0x0100 ∨ 0x0104 < id ∨ (id < 0x0103 ∧ inst ≠ 0)
    ∨ (0x0103 ≤ id ∧ nDies s ≤ inst)) : pldmSensor s id inst = none := by
  unfold pldmSensor
  split
  · exact if_neg (by omega)
  · exact if_neg (by omega)
  · exact if_neg (by omega)
  · exact if_neg (by omega)
  · exact if_neg (by omega)
  · rfl

-- The firmware update over PLDM (R450, R558, R560).

section Update

variable {s : State}

theorem pldmFwS_refused {k : Nat} (h : pldmFwAllowed s = false) :
    pldmFwS (.requestUpdate k) s = sideSay (.pldm .failed []) s := by
  simp only [pldmFwS, h]
  rfl

theorem pldmFwS_busy {k : Nat} (h : pldmFwAllowed s = true) (hb : flashBusy s = true) :
    pldmFwS (.requestUpdate k) s = sideSay (.pldm .busy []) s := by
  simp only [pldmFwS, h, hb]
  rfl

theorem pldmFwS_badSize {k : Nat} (h : pldmFwAllowed s = true) (hb : flashBusy s = false)
    (hk : k < 320 ∨ 67108864 < k ∨ k % 64 ≠ 0) : pldmFwS (.requestUpdate k) s = sideSay (.pldm .failed []) s := by
  simp only [pldmFwS, h, hb]
  exact if_pos hk

theorem pldmFwS_opens {k : Nat} (h : pldmFwAllowed s = true) (hb : flashBusy s = false)
    (hlo : 320 ≤ k) (hhi : k ≤ 67108864) (hk : k % 64 = 0) :
    pldmFwS (.requestUpdate k) s = sideSay (.pldm .done []) (fwOpenS k true s) := by
  have hsize : ¬ (k < 320 ∨ (flashArea .slotA).2 < k ∨ k % 64 ≠ 0) := by
    show ¬ (k < 320 ∨ 67108864 < k ∨ k % 64 ≠ 0)
    omega
  simp only [pldmFwS, h, hb]
  exact if_neg hsize

section Session

variable {f : FwSession} (hf : s.fw = some f) (hp : f.pldm = true)

include hf hp

theorem pldmFwS_data {o : Nat} {d : List Byte} (ho : o % 64 = 0) (hd : d.length % 64 = 0) (hn : o + d.length ≤ f.imageBytes) :
    pldmFwS (.data o d) s = sideSay (.pldm .done []) (fwDataS o d s) := by
  simp only [pldmFwS, hf]
  exact if_pos ⟨hp, ho, hd, hn⟩

omit hp in
theorem pldmFwS_badData {o : Nat} {d : List Byte} (h : o % 64 ≠ 0 ∨ d.length % 64 ≠ 0 ∨ f.imageBytes < o + d.length) :
    pldmFwS (.data o d) s = sideSay (.pldm .failed []) s := by
  simp only [pldmFwS, hf]
  refine if_neg ?_
  rintro ⟨-, ho, hd, hn⟩
  omega

theorem pldmFwS_complete : pldmFwS .complete s = sideSay
    (.pldm (if (fwCommitS f.imageBytes s).2.isNone then .done else .failed)
      ((fwCommitS f.imageBytes s).2.toList.map (fun c => (c : Int)))) (fwCommitS f.imageBytes s).1 := by
  simp only [pldmFwS, hf, if_pos hp]

theorem pldmFwS_cancel : pldmFwS .cancel s =
    sideSay (.pldm .done []) (setBootHdr (markSlot (inactive s) false false) { s with fw := none }) := by
  simp only [pldmFwS, hf, if_pos hp]

end Session

theorem pldmFwS_activates (hf : s.fw = none) {b : Bool} (hb : lastValid s = some b) :
    pldmFwS .activate s = sideSay (.pldm .done []) (fwActivateS b s) := by
  simp only [pldmFwS, hb, hf, Option.isNone_none, if_true]

theorem pldmFwS_nothingValid (hb : lastValid s = none) : pldmFwS .activate s = sideSay (.pldm .failed []) s := by
  simp only [pldmFwS, hb]

end Update

end Sys2Proof.Machine

namespace Sys2Proof.Proofs

open Sys2Proof.Machine

/-- Settles O55: one equation per message and outcome. The values that R450 leaves to its standards stay open (assumption
log 21). -/
theorem sidebandAnswers : Obligations.SidebandAnswers := by
  intro s say
  refine ⟨fun packet hs hfree => ?_, fun h => ?_, fun h => ?_, fun src c => ⟨fun hc => ?_, fun hc => ?_⟩⟩
  · exact ⟨fun hv => congrArg Host.Outcome.next (mctpCommandS_executes hs hfree hv),
      fun st k hv => congrArg Host.Outcome.next (mctpCommandS_answers hs hfree hv)⟩
  · exact ⟨fun e => exec_mctpControl h _, exec_mctpControl h _, ⟨_, exec_mctpControl h _⟩, ⟨_, exec_mctpControl h _⟩,
      exec_mctpControl h _, fun k => exec_mctpControl h _⟩
  · have hs := sideServed_of h
    refine ⟨⟨_, exec_pldmMessage hs _⟩, ⟨_, exec_pldmMessage hs _⟩, exec_pldmMessage hs _, ⟨_, exec_pldmMessage hs _⟩,
      exec_pldmMessage hs _, fun k => exec_pldmMessage hs _, exec_sensor hs rfl, exec_sensor hs rfl, exec_sensor hs rfl,
      fun d hd => ⟨exec_sensor hs (if_pos hd), exec_sensor hs (if_pos hd)⟩,
      fun id inst hid => exec_noSensor hs (pldmSensor_none hid), fun k => ?_, fun f hf hp => ?_, fun hf => ?_⟩
    · exact ⟨fun ha => exec_pldmFirmware hs (pldmFwS_refused ha), fun ha hb => exec_pldmFirmware hs (pldmFwS_busy ha hb),
        fun ha hb => ⟨fun hk => exec_pldmFirmware hs (pldmFwS_badSize ha hb hk),
          fun hlo hhi hk => exec_pldmFirmware hs (pldmFwS_opens ha hb hlo hhi hk)⟩⟩
    · refine ⟨fun o d => ⟨fun ho hd hn => ?_, fun hbad => ?_⟩, ⟨fun hr => ?_, fun k hr => ?_⟩, ?_⟩
      · exact exec_pldmFirmware hs (pldmFwS_data hf hp ho hd hn)
      · exact exec_pldmFirmware hs (pldmFwS_badData hf hbad)
      · refine exec_pldmFirmware hs ((pldmFwS_complete hf hp).trans ?_)
        rw [hr]
        rfl
      · refine exec_pldmFirmware hs ((pldmFwS_complete hf hp).trans ?_)
        rw [hr]
        rfl
      · exact exec_pldmFirmware hs (pldmFwS_cancel hf hp)
    · exact ⟨fun b hb => exec_pldmFirmware hs (pldmFwS_activates hf hb),
        fun hb => exec_pldmFirmware hs (pldmFwS_nothingValid hb)⟩
  · exact congrArg Host.Outcome.next (performQuery_answers hc rfl)
  · exact congrArg Host.Outcome.next (performQuery_answers hc rfl)

end Sys2Proof.Proofs
end

section
/-! How a tile settles, retests, fencing and the moves of logical cores, field tests, and the commands of R485 (R459 to
R487); the statement of 14_checking_faults.md on them. -/

namespace Sys2Proof.Machine

-- Executions of a tile (R460, R462, R471).

theorem exec_checkExecutionDone {s : State} {cap die k : Nat} {v : TileValue} (hd : die < nDies s) (hk : k < 10) :
    exec (.checkExecutionDone cap die k v) s = .next (fromCore die k (checkDoneS cap die k v) s) :=
  onUnit_present _ (by simp [hd, hk])

theorem exec_retestDone {s : State} {u : PhysUnit} {cap : Nat} {v : TileValue} (hd : u.die < nDies s) (hk : u.k < 10) :
    exec (.retestDone u cap v) s = .next (fromCore u.die u.k (retestS u cap v) s) :=
  onUnit_present _ (by simp [hd, hk])

theorem fromCore_fenced {s : State} {die k : Nat} (f : State → State) (h : (physCore s (10 * die + k)).role = .fenced) :
    fromCore die k f s = bump Cnt.fncDiscard (10 * die + k) 1 s := if_pos h

theorem fromCore_good {s : State} {die k : Nat} (f : State → State) (h : (physCore s (10 * die + k)).role ≠ .fenced) :
    fromCore die k f s = f s := if_neg h

/-- Capsule `c` with one more execution, by unit `u`. -/
def withExecution (c : Capsule) (u : PhysUnit) (v : TileValue) : Capsule :=
  { c with execs := c.execs ++ [{ unit := u, value := v }] }

theorem withExecution_values (c : Capsule) (u : PhysUnit) (v : TileValue) :
    (withExecution c u v).execs.map (fun e => e.value) = c.execs.map (fun e => e.value) ++ [v] := List.map_append ..

theorem checkDoneS_judges {s : State} {cap die k : Nat} {c : Capsule} {u : PhysUnit} (v : TileValue)
    (hc : s.chk.capsules.find? (fun c => c.id == cap) = some c) (hn : c.next = some u) (hd : u.die = die) (hk : u.k = k) :
    checkDoneS cap die k v s = judgeTile (withExecution c u v) (bump Cnt.chkExec (unitIndex u) 1 s) := by
  simp only [checkDoneS, hc, hn]
  exact if_pos ⟨hd, hk⟩

section Judge

variable {d : Capsule} (s : State) {a b x p v : TileValue}

theorem judgeTile_agree (h : d.execs.map (fun e => e.value) = [a, v]) (hv : v = a) :
    judgeTile d s = settle d a (bump Cnt.chkAgree (d.eng / 3) 1 s) := by
  simp only [judgeTile, h]
  exact if_pos hv

theorem judgeTile_disagree (h : d.execs.map (fun e => e.value) = [a, v]) (hv : v ≠ a) :
    judgeTile d s = callNext { d with next := none } (raise Ev.chkDisagree (srcOf 3 (d.eng / 3)) [] s) := by
  simp only [judgeTile, h]
  exact if_neg hv

theorem judgeTile_thirdFirst (h : d.execs.map (fun e => e.value) = [a, b, v]) (hv : v = a) :
    judgeTile d s = settle d a (bump Cnt.chkThird (d.eng / 3) 1 s) := by
  simp only [judgeTile, h]
  exact if_pos hv

theorem judgeTile_thirdSecond (h : d.execs.map (fun e => e.value) = [a, b, v]) (ha : v ≠ a) (hb : v = b) :
    judgeTile d s = settle d b (bump Cnt.chkThird (d.eng / 3) 1 s) := by
  simp only [judgeTile, h]
  exact (if_neg ha).trans (if_pos hb)

theorem judgeTile_thirdOther (h : d.execs.map (fun e => e.value) = [a, b, v]) (ha : v ≠ a) (hb : v ≠ b)
    (hn : (nextUnit (bump Cnt.chkThird (d.eng / 3) 1 s) { d with next := none }).isSome = true) :
    judgeTile d s = callNext { d with next := none }
      (bump Cnt.chkFresh (d.eng / 3) 1 (bump Cnt.chkThird (d.eng / 3) 1 s)) := by
  simp only [judgeTile, h]
  exact (if_neg ha).trans ((if_neg hb).trans (if_pos hn))

theorem judgeTile_firstFresh (h : d.execs.map (fun e => e.value) = [a, b, x, v]) :
    judgeTile d s = callNext { d with next := none } s := by
  simp only [judgeTile, h]

theorem judgeTile_freshAgree (h : d.execs.map (fun e => e.value) = [a, b, x, p, v]) (hv : v = p) :
    judgeTile d s = settle d p s := by
  simp only [judgeTile, h]
  exact if_pos hv.symm

theorem judgeTile_freshDiffer (h : d.execs.map (fun e => e.value) = [a, b, x, p, v]) (hv : v ≠ p) :
    judgeTile d s = leaveUnsettled d (putCapsule { d with next := none } s) := by
  simp only [judgeTile, h]
  exact if_neg (Ne.symm hv)

end Judge

-- Retests (R467, R468).

section Retest

variable {s : State} {u : PhysUnit} {cap : Nat} {v : TileValue} {c : Capsule}
  (hc : s.chk.capsules.find? (fun c => c.id == cap && c.retests.contains u) = some c)

include hc

theorem retestS_differs (h : c.standing ≠ some v) : retestS u cap v s = fenceCore u (addHistory 2 u 0
    (bump Cnt.chkExec (unitIndex u) 1 (putCapsule { c with retests := c.retests.erase u } s))) := by
  have hne : (some v == c.standing) = false := beq_eq_false_iff_ne.mpr (Ne.symm h)
  simp only [retestS, hc, hne]
  rfl

theorem retestS_agrees (h : c.standing = some v) : retestS u cap v s = chargeTransient 1 u
    (bump Cnt.chkExec (unitIndex u) 1 (putCapsule { c with retests := c.retests.erase u } s)) := by
  have heq : (some v == c.standing) = true := beq_iff_eq.mpr h.symm
  simp only [retestS, hc, heq]
  rfl

end Retest

-- Fencing and the moves of logical cores (R470 to R475).

theorem fenceCore_already {s : State} {u : PhysUnit} (h : (physCore s (10 * u.die + u.k)).role = .fenced ∨
    (physCore s (10 * u.die + u.k)).role = .fusedBad) : fenceCore u s = s := if_pos h

theorem fenceCore_good {s : State} {u : PhysUnit} (hf : (physCore s (10 * u.die + u.k)).role ≠ .fenced)
    (hb : (physCore s (10 * u.die + u.k)).role ≠ .fusedBad) :
    let key := 10 * u.die + u.k
    let t := raise Ev.fncFence (srcOf 2 key) [] (bump Cnt.fncFence 0 1
      (addSoft (softEntry 1 u.die u.k 0 0 false false s) s))
    let served := sortNat (servedBy (physCore s key))
    let w := if served = [] then t else served.foldl (fun s lc => stopCore lc s) (forfeit t)
    let y := setCore key { bareCore with role := .fenced, fenceUnit := engNo u.eng } w
    let x := dropCapsules u.die u.k { y with chk := { y.chk with
      movedFrom := served.foldl (fun m lc => mapSet m lc key) y.chk.movedFrom } }
    fenceCore u s = served.foldl (fun s lc => moveCore u.die lc s) x := if_neg (not_or.mpr ⟨hf, hb⟩)

section Move

variable {s : State} {die key : Nat} {p : PhysCore} (lc : Nat)

theorem moveCore_siding (h : lowestSiding s die = some (key, p)) : moveCore die lc s = bump Cnt.fncSidingUse 0 1
    (setCore key { p with role := .serving, lc := some lc, copying := setInsert lc p.copying } s) := by
  simp only [moveCore, h]

theorem moveCore_fails (hs : lowestSiding s die = none)
    (h : s.chk.spares.sliceOk = false ∨ chooseHost s die = none) : moveCore die lc s = failPackage s := by
  have hn : (if s.chk.spares.sliceOk then chooseHost s die else none) = none := by
    rcases h with h | h <;> simp [h]
  simp only [moveCore, hs, hn]

theorem moveCore_guest (hs : lowestSiding s die = none) (hok : s.chk.spares.sliceOk = true)
    (h : chooseHost s die = some (key, p)) : moveCore die lc s = guestRegion die (setCore key { p with
      role := .hosting
      guests := p.guests ++ [lc]
      copying := setInsert lc p.copying
      active := if p.active.isSome then p.active else p.lc } s) := by
  simp only [moveCore, hs, hok, h, if_true]

end Move

-- Copies and rebuilds (R472, R480).

theorem exec_sidingCopyDone {s : State} {lc : Nat} (poisoned : List Nat) (hl : lc < nLc s)
    (hu : underCopy s lc = true) (hf : s.chk.forfeited = false) : exec (.sidingCopyDone lc poisoned) s =
    .next (poisoned.foldl (fun s a => poisonCore lc a s) { s with chk := { s.chk with
      movedFrom := mapDel s.chk.movedFrom lc
      cores := mapVals (fun _ (p : PhysCore) => { p with copying := p.copying.filter (fun c => c != lc) }) s.chk.cores } }) :=
  (onUnit_present _ (decide_eq_true hl)).trans (congrArg Host.Outcome.next (if_pos ⟨hu, by rw [hf]; rfl⟩))

section Rebuild

variable {s : State} {dead p : Nat} {x : Subst}
  (hx : s.chk.substs.find? (fun x => x.dead == dead && !x.rebuilt) = some x) (hp : x.spare = some p)

include hx hp

theorem spareRebuilt_elsewhere (h : p ≠ pkgNo s) : spareRebuilt dead s = setSubst dead { x with rebuilt := true } s := by
  have hne : ¬ x.spare = some (pkgNo (setSubst dead { x with rebuilt := true } s)) := fun e =>
    h (Option.some.inj (hp.symm.trans e))
  simp only [spareRebuilt, hx]
  exact (if_neg (by simp [hp])).trans (if_neg hne)

theorem spareRebuilt_here (h : p = pkgNo s) :
    let u := setSubst dead { x with rebuilt := true } s
    spareRebuilt dead s = (u.pool.tables.flatMap
      (fun e => (e.2.heirs.filter (fun h => h.dead == dead)).filterMap (fun h => h.region))).foldl fillRegion u := by
  have heq : x.spare = some (pkgNo (setSubst dead { x with rebuilt := true } s)) := hp.trans (congrArg some h)
  simp only [spareRebuilt, hx]
  exact (if_neg (by simp [hp])).trans (if_pos heq)

end Rebuild

-- Field tests (R483, R484).

/-- An automatic test begins as one of 20 s that no command asked for (R483). -/
theorem beginTest_auto (u : State) : beginTest 0 false { u with chk := { u.chk with autoDone := true } } =
    { u with chk := { u.chk with
      autoDone := true
      field := some { since := u.now, seconds := 20, byCommand := false, stopped := false } } } := rfl

theorem autoTestS_begins {s : State} (hr : s.dev = .ready) (hj : s.job = none) (ha : s.chk.autoField = true)
    (hd : s.chk.autoDone = false) (hf : s.chk.field = none) (hc : commandRuns s = false) :
    let u := reachTime (s.chk.readySince + s.chk.idleS * 1000000000) s
    autoTestS s = { u with chk := { u.chk with
      autoDone := true
      field := some { since := u.now, seconds := 20, byCommand := false, stopped := false } } } := by
  have hall : s.dev = .ready ∧ s.job.isNone ∧ s.chk.autoField ∧ !s.chk.autoDone ∧ s.chk.field.isNone ∧ !commandRuns s := by
    simp [hr, hj, ha, hd, hf, hc]
  exact (if_pos hall).trans (beginTest_auto _)

theorem testEndS_ends {s : State} {f : FieldTest} (tiles : Nat) (charged : List (PhysUnit × Bool))
    (hf : s.chk.field = some f) :
    let t := if f.stopped then s else reachTime (f.since + f.seconds * 1000000000) s
    let units := charged.filter (fun e => e.1.die < nDies t && e.1.k < 10)
    let u := units.foldl (fun s e => chargeUnit 3 e.1 e.2 (bump Cnt.chkExec (unitIndex e.1) 1 s))
      (bump Cnt.chkFieldTile 0 tiles { t with chk := { t.chk with field := none } })
    let w := raise Ev.chkFieldDone 0 [] u
    testEndS tiles charged s = if f.byCommand then answerWaiting 0x0D02 (okWith (pack 8
      [(0, 32, sat 0xFFFFFFFF tiles), (32, 16, sat 0xFFFF units.length), (48, 1, bit f.stopped)])) w else w := by
  simp only [testEndS, hf]
  rfl

-- The commands (R483 to R487).

/-- The payload of CMD_CHK_CONFIG is out of range. -/
def chkConfigOff (p : List Byte) : Prop :=
  256 < field p 0 9 ∨ field p 10 6 ≠ 0 ∨ field p 24 40 ≠ 0 ∨ (field p 16 8 ≠ 0 ∧ field p 16 8 < 10)

theorem chkConfig_badParam {p : List Byte} {s : State} (h : chkConfigOff p) :
    chkConfig p s = (s, failWith St.badParam 0) := if_pos h

theorem chkConfig_sets {p : List Byte} {s : State} (h : ¬ chkConfigOff p) :
    chkConfig p s = ({ s with chk := { s.chk with
      rateNext := if field p 0 9 = 0 then 64 else field p 0 9
      autoField := flag p 9
      idleS := if field p 16 8 = 0 then 60 else field p 16 8 } }, okWith []) := if_neg h

/-- The payload of CMD_CHK_FIELD_TEST is out of range. -/
def fieldTestOff (p : List Byte) : Prop := field p 8 56 ≠ 0 ∨ 120 < field p 0 8 ∨ (field p 0 8 ≠ 0 ∧ field p 0 8 < 5)

theorem chkFieldTest_badParam {c : Slot} {s : State} (h : fieldTestOff c.payload) :
    chkFieldTest c s = .done s (failWith St.badParam 0) := if_pos h

theorem chkFieldTest_inUse {c : Slot} {s : State} (h : ¬ fieldTestOff c.payload) (hf : s.chk.field.isSome = true) :
    chkFieldTest c s = .done s (failWith St.inUse 0) := (if_neg h).trans (if_pos hf)

theorem chkFieldTest_begins {c : Slot} {s : State} (h : ¬ fieldTestOff c.payload) (hf : s.chk.field = none) :
    chkFieldTest c s = .wait (beginTest (field c.payload 0 8) true s) :=
  (if_neg h).trans (if_neg (by simp [hf]))

theorem historyRead_badParam {p : List Byte} {s : State}
    (h : field p 32 16 = 0 ∨ 16384 < field p 32 16 ∨ field p 48 16 ≠ 0) : historyRead p s = failWith St.badParam 0 :=
  if_pos h

theorem historyRead_answers {p : List Byte} {s : State} (hlo : 1 ≤ field p 32 16) (hhi : field p 32 16 ≤ 16384)
    (hr : field p 48 16 = 0) :
    historyRead p s = okWith (((heldHistory s).drop (field p 0 32)).take (field p 32 16) |>.flatMap historyBytes) :=
  if_neg (by omega)

/-- The package numbers of the spare entries of CMD_FNC_SPARES_SET. -/
def spareNumbers (p : List Byte) : List Nat := ((List.range (field p 8 4)).map (spareEntry p)).map (fun e => e.1)

/-- Reserved bits of CMD_FNC_SPARES_SET are set, or a package stands in it twice. -/
def sparesOff (p : List Byte) : Prop :=
  field p 6 2 ≠ 0 ∨ field p 12 52 ≠ 0 ∨ (setUnion [] (spareNumbers p)).length ≠ (spareNumbers p).length
    ∨ (List.range (field p 8 4)).any (fun i => field p ((8 + 520 * i) * 8 + 12) 52 != 0) = true

theorem sparesSet_tooMany {p : List Byte} {s : State} (h : 8 < field p 0 4 ∨ 8 < field p 8 4) :
    sparesSet p s = (s, failWith St.badParam 0) := if_pos (h.imp_right Or.inl)

theorem sparesSet_badParam {p : List Byte} {s : State} (hn : field p 8 4 ≤ 8) (h : sparesOff p) :
    sparesSet p s = (s, failWith St.badParam 0) := by
  have hmin : Nat.min (field p 8 4) 8 = field p 8 4 := Nat.min_eq_left hn
  simp only [sparesSet, hmin]
  obtain h | h | h | h := h
  · exact if_pos (.inr (.inr (.inl h)))
  · exact if_pos (.inr (.inr (.inr (.inl h))))
  · exact if_pos (.inr (.inr (.inr (.inr (.inr h)))))
  · exact if_pos (.inr (.inr (.inr (.inr (.inl h)))))

theorem sparesSet_sets {p : List Byte} {s : State} (hl : field p 0 4 ≤ 8) (hn : field p 8 4 ≤ 8) (h : ¬ sparesOff p) :
    sparesSet p s = ({ s with chk := { s.chk with sparesNext :=
      { deadLeft := if field p 0 4 = 0 then 2 else field p 0 4
        sliceOk := flag p 4
        mirror := flag p 5
        spares := (List.range (field p 8 4)).map (spareEntry p) } } }, okWith []) := by
  have hmin : Nat.min (field p 8 4) 8 = field p 8 4 := Nat.min_eq_left hn
  obtain ⟨h6, h12, hdup, hres⟩ : _ ∧ _ ∧ _ ∧ _ := by simpa only [sparesOff, not_or] using h
  simp only [sparesSet, hmin]
  exact if_neg (by
    rintro (h | h | h | h | h | h)
    · omega
    · omega
    · exact h6 h
    · exact h12 h
    · exact hres h
    · exact hdup h)

end Sys2Proof.Machine

namespace Sys2Proof.Proofs

open Sys2Proof.Machine

/-- Settles O56: one equation per execution of a tile, retest, fencing, move and command. EV_CHK_DISAGREE at a second
execution only is assumption log 43; the 20 s of an automatic test, ST_IN_USE for a second test and the kinds of the
charges are log 44; the area of R42 is log 58. -/
theorem checksFenceAndTest : Obligations.ChecksFenceAndTest := by
  intro s
  refine ⟨fun cap die k v c u hd hk hc hn hud huk => ?_, fun u cap v c hd hk hc => ?_, fun u => ?_, fun die lc => ?_,
    fun lc poisoned hl hu hf => ?_, fun dead x p hx hp => ?_, ?_, fun hr hj ha hd hf hc => ?_,
    fun f tiles charged hf => ?_, fun src c => ?_⟩
  · intro i d off lc t
    have judged : ∀ {y : State}, (physCore s (10 * die + k)).role ≠ .fenced → judgeTile (withExecution c u v) t = y →
        exec i s = .next y := fun hg hy => (exec_checkExecutionDone hd hk).trans (congrArg Host.Outcome.next
      ((fromCore_good _ hg).trans ((checkDoneS_judges v hc hn hud huk).trans hy)))
    have values : ∀ {l : List TileValue}, c.execs.map (fun e => e.value) = l →
        (withExecution c u v).execs.map (fun e => e.value) = l ++ [v] := fun hl =>
      (withExecution_values c u v).trans (congrArg (· ++ [v]) hl)
    refine ⟨fun h => (exec_checkExecutionDone hd hk).trans (congrArg Host.Outcome.next (fromCore_fenced _ h)),
      fun hg => ⟨fun a hl => ⟨?_, ?_⟩, fun a b hl => ⟨?_, ?_, ?_⟩, fun a b x hl => ?_, fun a b x p hl => ⟨?_, ?_⟩⟩⟩
    · exact fun hv => judged hg (judgeTile_agree t (values hl) hv)
    · exact fun hv => judged hg (judgeTile_disagree t (values hl) hv)
    · exact fun hv => judged hg (judgeTile_thirdFirst t (values hl) hv)
    · exact fun ha hb => judged hg (judgeTile_thirdSecond t (values hl) ha hb)
    · exact fun ha hb hsome => judged hg (judgeTile_thirdOther t (values hl) ha hb hsome)
    · exact judged hg (judgeTile_firstFresh t (values hl))
    · exact fun hv => judged hg (judgeTile_freshAgree t (values hl) hv)
    · exact fun hv => judged hg (judgeTile_freshDiffer t (values hl) hv)
  · have told : ∀ {y : State}, fromCore u.die u.k (retestS u cap v) s = y → exec (.retestDone u cap v) s = .next y :=
      fun hy => (exec_retestDone hd hk).trans (congrArg Host.Outcome.next hy)
    exact ⟨fun h => told (fromCore_fenced _ h), fun hg h => told ((fromCore_good _ hg).trans (retestS_differs hc h)),
      fun hg h => told ((fromCore_good _ hg).trans (retestS_agrees hc h))⟩
  · exact ⟨fenceCore_already, fenceCore_good⟩
  · exact ⟨fun key p => moveCore_siding lc, moveCore_fails lc, fun key p => moveCore_guest lc⟩
  · exact exec_sidingCopyDone poisoned hl hu hf
  · exact ⟨fun h => congrArg Host.Outcome.next (spareRebuilt_elsewhere hx hp h),
      fun h => congrArg Host.Outcome.next (spareRebuilt_here hx hp h)⟩
  · exact rfl
  · exact congrArg Host.Outcome.next (autoTestS_begins hr hj ha hd hf hc)
  · exact congrArg Host.Outcome.next (testEndS_ends tiles charged hf)
  · refine ⟨fun hc => ⟨fun h => ?_, fun h => ?_⟩, fun hc => ?_, fun hc => ⟨fun h => ?_, fun h hf => ?_, fun h hf => ?_⟩,
      fun hc => ?_, fun hc => ⟨fun h => ?_, fun hlo hhi hr => ?_⟩, fun hc => ⟨fun h => ?_, fun hl hn h => ?_,
      fun hl hn h => ?_⟩⟩
    · exact congrArg Host.Outcome.next (performNow_answers hc (chkConfig_badParam h))
    · exact congrArg Host.Outcome.next (performNow_answers hc (chkConfig_sets h))
    · exact congrArg Host.Outcome.next (performQuery_answers hc rfl)
    · exact congrArg Host.Outcome.next (performCmd_done hc (chkFieldTest_badParam h))
    · exact congrArg Host.Outcome.next (performCmd_done hc (chkFieldTest_inUse h hf))
    · exact congrArg Host.Outcome.next (performCmd_wait hc (chkFieldTest_begins h hf))
    · exact congrArg Host.Outcome.next (performQuery_answers hc rfl)
    · exact congrArg Host.Outcome.next (performQuery_answers hc (historyRead_badParam h))
    · exact congrArg Host.Outcome.next (performQuery_answers hc (historyRead_answers hlo hhi hr))
    · exact congrArg Host.Outcome.next (performNow_answers hc (sparesSet_tooMany h))
    · exact congrArg Host.Outcome.next (performNow_answers hc (sparesSet_badParam hn h))
    · exact congrArg Host.Outcome.next (performNow_answers hc (sparesSet_sets hl hn h))

end Sys2Proof.Proofs
end

section
/-! Bring-up: what its phases find, the decision of phase 4, and the commands of R508 (R494 to R512); the statement of
15_bringup.md on them. -/

namespace Sys2Proof.Machine

-- The phases (R494, R496, R558).

section Phases

variable {s : State} (found : List Finding)

theorem phaseDoneS_tests (hd : s.dev = .bringup) (hlo : 1 ≤ s.brg.phase) (hhi : s.brg.phase < 4)
    (hr : s.sm.state = .running) :
    let u := found.foldl (applyFound s.brg.phase) s
    phaseDoneS found s = { u with brg := { u.brg with phase := u.brg.phase + 1 } } :=
  (if_neg (not_not.mpr hd)).trans ((if_neg (by omega)).trans (if_pos ⟨hhi, hr⟩))

theorem phaseDoneS_start (hd : s.dev = .bringup) (h0 : s.brg.phase = 0) : phaseDoneS found s = endStart found s :=
  (if_neg (not_not.mpr hd)).trans (if_pos h0)

/-- The state in which phase 0 asks whether the firmware runs. -/
def firmwareTried (s : State) : State := if s.boot.started then s else bootFirmware s

theorem endStart_stays (h : (firmwareTried s).boot.started = false) : endStart found s = firmwareTried s :=
  if_neg (ne_true_of_eq_false h)

theorem endStart_trains (h : (firmwareTried s).boot.started = true) :
    let v := found.foldl (applyFound 0) (firmwareTried s)
    let x := trainAll (chooseMode v)
    endStart found s = { x with brg := { x.brg with phase := 1 } } := if_pos h

end Phases

-- What the tests find (R498 to R500, R503, R504).

section Findings

variable {s : State} {d k p : Nat}

/-- What a finding does in phase `n`, where the units that it names exist. -/
def takenIn (n : Nat) (s : State) : Finding → State
  | .dieMissing d => { s with brg := { s.brg with diesBad := setInsert d s.brg.diesBad } }
  | .couplingBad c => { s with brg := { s.brg with couplingsBad := setInsert c s.brg.couplingsBad } }
  | f =>
    if n = 1 then sramFinding f s else if n = 2 then coreFinding f s else if n = 3 then memFinding f s else s

theorem applyFound_ok (n : Nat) (f : Finding) (h : findingOk s f = true) : applyFound n s f = takenIn n s f := by
  have hn : ¬ (!findingOk s f) = true := by rw [h]; exact Bool.false_ne_true
  refine (if_neg hn).trans ?_
  cases f <;> rfl

theorem core_findingOk (hd : d < nDies s) (hk : k < 10) : (decide (d < nDies s) && decide (k < 10)) = true := by
  simp [hd, hk]

theorem findCore_known (h : coreBad s d k = true) : findCore d k s = s := if_pos h

theorem findCore_new (h : coreBad s d k = false) : findCore d k s = raise Ev.brgCoreBad (srcOf 2 (10 * d + k)) []
    (bump Cnt.brgCoreBad 0 1 (noteFound (softEntry 1 d k 0 0 true false s) s)) := if_neg (ne_true_of_eq_false h)

theorem findChan_known (h : chanBad s p = true) : findChan p s = s := if_pos h

theorem findChan_new (h : chanBad s p = false) :
    let u := noteFound (softEntry 6 (p / 256) (p / 128) (p % 128) 0 true false s) s
    findChan p s = raise Ev.brgChFail (srcOf 6 p) [] (bump Cnt.brgChFail 0 1
      { u with brg := { u.brg with fullDirty := true } }) := if_neg (ne_true_of_eq_false h)

theorem findStackRow_repaired (row : Nat) (h : sparesUsed s p < 32) :
    let v := { s with brg := { s.brg with fullDirty := true } }
    findStackRow p row s = bump Cnt.brgStackRowRepair p 1
      (noteFound (softEntry 5 (p / 256) (p / 128) (p % 128) row true true v) v) := if_pos h

theorem findStackRow_full (row : Nat) (h : 32 ≤ sparesUsed s p) :
    let v := { s with brg := { s.brg with fullDirty := true } }
    findStackRow p row s = findChan p (noteFound (softEntry 5 (p / 256) (p / 128) (p % 128) row true false v) v) :=
  if_neg (Nat.not_lt.mpr h)

theorem applyFound_stackRow (hp : p < nChans s) (row : Nat) :
    applyFound 3 s (.stackRow p row) = if chanBad s p then s else findStackRow p row s :=
  applyFound_ok 3 (.stackRow p row) (decide_eq_true hp)

theorem applyFound_nominal (hp : p < nChans s) (hm : s.brg.mode = 2) : applyFound 3 s (.channelNominal p) = s := by
  refine (applyFound_ok 3 (.channelNominal p) (decide_eq_true hp)).trans (if_neg ?_)
  rw [hm]
  decide

theorem applyFound_marginal (hp : p < nChans s) (hm : s.brg.mode = 2) : applyFound 3 s (.channelMarginal p) = s := by
  refine (applyFound_ok 3 (.channelMarginal p) (decide_eq_true hp)).trans (if_neg ?_)
  rintro ⟨h1, -⟩
  rw [hm] at h1
  cases h1

end Findings

-- The decision of phase 4 (R504 to R507).

section Decision

variable {s : State} (hd : s.dev = .bringup) (hph : s.brg.phase = 4) (hr : s.sm.state = .running)
  (hbusy : (List.range (nPorts s)).any (fun q => (port s q).st == .training) = false)
  (hx : anyExecuting 0x0E02 s = false)

include hd hph hr hbusy hx

/-- The state that the decision judges: the merged map taken, a full pass recorded, phase 5. -/
def judgedState (s : State) : State := endBringup (recordFull (reconcile (countRejects s)))

theorem decideS_goesOn : ¬ (s.dev ≠ .bringup ∨ s.brg.phase ≠ 4 ∨ s.sm.state ≠ .running
    ∨ (List.range (nPorts s)).any (fun q => (port s q).st == .training) ∨ anyExecuting 0x0E02 s) := by
  rintro (h | h | h | h | h)
  · exact h hd
  · exact h hph
  · exact h hr
  · exact ne_true_of_eq_false hbusy h
  · exact ne_true_of_eq_false hx h

theorem decideS_ready {m : Nat} {degraded : Bool} (hw : limitedWhy (judgedState s) = 0)
    (hc : coresPerDie (judgedState s) = some (m, degraded)) :
    decideS s = setDevHw .ready (becomeReady m degraded (judgedState s)) := by
  unfold judgedState at hw hc ⊢
  simp only [decideS, if_neg (decideS_goesOn hd hph hr hbusy hx), hw, hc]

theorem decideS_limited (hw : limitedWhy (judgedState s) ≠ 0) :
    decideS s = setDevHw .limited (becomeLimited (limitedWhy (judgedState s)) (judgedState s)) := by
  unfold judgedState at hw ⊢
  simp only [decideS, if_neg (decideS_goesOn hd hph hr hbusy hx)]
  split
  · next h _ => exact absurd h hw
  · rfl

end Decision

theorem deferredS_resets {s : State} {t mode : Nat} (h : s.brg.resetAt = some (t, mode)) :
    deferredS s = startBringup true mode (reachTime t s) := by
  simp only [deferredS, h, deviceReset]

-- The commands (R508 to R512).

section Commands

variable {s : State} {src : CmdSrc} {p : List Byte}

theorem brgStart_badMode (h : 2 < field p 0 2 ∨ field p 2 62 ≠ 0) : brgStart src p s = (s, failWith St.badParam 1) :=
  if_pos h

theorem brgStart_noQuick (hm : field p 0 2 = 2) (hr : field p 2 62 = 0) (hq : quickOk s = false) :
    brgStart src p s = (s, failWith St.badParam 2) :=
  (if_neg (by omega)).trans (if_pos ⟨hm, by rw [hq]; rfl⟩)

theorem brgStart_defers (hm : field p 0 2 ≤ 2) (hr : field p 2 62 = 0) (hq : field p 0 2 = 2 → quickOk s = true) :
    brgStart src p s = (deferOrphan src (field p 0 2) { s with
      flash := { s.flash with brg := { s.flash.brg with startMode := field p 0 2 } } }, okWith []) := by
  refine (if_neg (by omega)).trans (if_neg ?_)
  rintro ⟨h2, hno⟩
  rw [hq h2] at hno
  cases hno

/-- The payload of CMD_BRG_ALLOW_DEGRADED is out of range. -/
def allowOff (p : List Byte) : Prop :=
  field p 4 60 ≠ 0 ∨ (flag p 0 = true ∧ field p 1 3 = 0) ∨ (flag p 0 = false ∧ field p 1 3 ≠ 0)

/-- What CMD_BRG_ALLOW_DEGRADED keeps in flash (R510). -/
def allowKept (p : List Byte) (s : State) : State :=
  { s with flash := { s.flash with brg := { s.flash.brg with allow := flag p 0, minLc := field p 1 3 } } }

theorem allowDegraded_badParam (h : allowOff p) : allowDegraded p s = (s, failWith St.badParam 0) :=
  if_pos (by simpa only [allowOff, Bool.not_eq_true'] using h)

theorem allowDegraded_kept (h : ¬ allowOff p) : allowDegraded p s =
    (match s.dev, s.brg.limitedWhy, coresPerDie (allowKept p s) with
    | .limited, 1, some (m, degraded) => (setDev .ready (becomeReady m degraded (allowKept p s)), okWith [])
    | _, _, _ => (allowKept p s, okWith [])) :=
  (if_neg (by simpa only [allowOff, Bool.not_eq_true'] using h)).trans rfl

theorem allowDegraded_ready {m : Nat} {degraded : Bool} (h : ¬ allowOff p) (hd : s.dev = .limited)
    (hw : s.brg.limitedWhy = 1) (hc : coresPerDie (allowKept p s) = some (m, degraded)) :
    allowDegraded p s = (setDev .ready (becomeReady m degraded (allowKept p s)), okWith []) := by
  rw [allowDegraded_kept h, hd, hw, hc]
  rfl

theorem allowDegraded_only (h : ¬ allowOff p)
    (hno : s.dev ≠ .limited ∨ s.brg.limitedWhy ≠ 1 ∨ coresPerDie (allowKept p s) = none) :
    allowDegraded p s = (allowKept p s, okWith []) := by
  rw [allowDegraded_kept h]
  split
  · next hd hw hc =>
    rcases hno with h | h | h
    · exact absurd hd h
    · exact absurd hw h
    · exact nomatch hc.symm.trans h
  · rfl

theorem faultMapRead_badParam (h : field p 32 16 = 0 ∨ 32768 < field p 32 16 ∨ field p 48 16 ≠ 0) :
    faultMapRead p s = failWith St.badParam 0 := if_pos h

theorem faultMapRead_answers (hlo : 1 ≤ field p 32 16) (hhi : field p 32 16 ≤ 32768) (hr : field p 48 16 = 0) :
    faultMapRead p s = okWith (((faultMap s).drop (field p 0 32)).take (field p 32 16) |>.flatMap faultBytes) :=
  if_neg (by omega)

end Commands

end Sys2Proof.Machine

namespace Sys2Proof.Proofs

open Sys2Proof.Machine

/-- Settles O57: one equation per phase, finding, decision and command. ALLOW_DEGRADED held back in LIMITED is assumption
log 56 (DEDUCED), what findings count is log 46, and the payload of EV_BRG_LIMITED is log 18. -/
theorem bringupProceeds : Obligations.BringupProceeds := by
  intro s note
  refine ⟨fun found hd => ⟨fun hlo hhi hr => ?_, fun h0 => ⟨fun h => ?_, fun h => ?_⟩⟩, fun d k bank row hd hk => ?_,
    fun p hp => ?_, fun hd hph hr hbusy hx => ⟨fun m degraded hw hc => ?_, fun hw => ?_⟩, fun t mode h => ?_,
    fun src c => ⟨fun hc => ?_, fun hc => ?_, fun hc => ?_, fun hc => ?_⟩⟩
  · exact congrArg Host.Outcome.next (phaseDoneS_tests found hd hlo hhi hr)
  · exact congrArg Host.Outcome.next ((phaseDoneS_start found hd h0).trans (endStart_stays found h))
  · exact congrArg Host.Outcome.next ((phaseDoneS_start found hd h0).trans (endStart_trains found h))
  · exact ⟨applyFound_ok 1 (.coreRow d k bank row true) (core_findingOk hd hk),
      applyFound_ok 1 (.coreRow d k bank row false) (core_findingOk hd hk), findCore_known, findCore_new,
      fun e => applyFound_ok 2 (.coreMinority ⟨d, k, e⟩ false) (core_findingOk hd hk),
      fun n => applyFound_ok n (.dieMissing d) (decide_eq_true hd), fun n c hc => applyFound_ok n (.couplingBad c) hc⟩
  · refine ⟨fun hb => ⟨findChan_known hb, fun row => ?_⟩, fun hb => ⟨findChan_new hb, fun row => ⟨fun h => ?_, fun h => ?_⟩⟩,
      fun hm => ⟨applyFound_nominal hp hm, applyFound_marginal hp hm⟩⟩
    · exact (applyFound_stackRow hp row).trans (if_pos hb)
    · exact (applyFound_stackRow hp row).trans ((if_neg (ne_true_of_eq_false hb)).trans (findStackRow_repaired row h))
    · exact (applyFound_stackRow hp row).trans ((if_neg (ne_true_of_eq_false hb)).trans (findStackRow_full row h))
  · exact congrArg Host.Outcome.next (decideS_ready hd hph hr hbusy hx hw hc)
  · exact congrArg Host.Outcome.next (decideS_limited hd hph hr hbusy hx hw)
  · exact congrArg Host.Outcome.next (deferredS_resets h)
  · exact ⟨fun h => congrArg Host.Outcome.next (performNow_answers hc (brgStart_badMode h)),
      fun hm hr hq => congrArg Host.Outcome.next (performNow_answers hc (brgStart_noQuick hm hr hq)),
      fun hm hr hq => congrArg Host.Outcome.next (performNow_answers hc (brgStart_defers hm hr hq))⟩
  · exact congrArg Host.Outcome.next (performQuery_answers hc rfl)
  · refine ⟨fun hd => ⟨fun h => ?_, fun h => ?_⟩, fun hd hb => ?_, fun hd hb h => ⟨fun m degraded hw hm => ?_, fun hno => ?_⟩⟩
    · exact (execCmdBrgAllowDegraded_free (.inl hd)).trans
        (congrArg Host.Outcome.next (performNow_answers hc (allowDegraded_badParam h)))
    · exact (execCmdBrgAllowDegraded_free (.inl hd)).trans
        (congrArg Host.Outcome.next (performNow_answers hc (allowDegraded_only h (.inl hd))))
    · exact congrArg Host.Outcome.next (if_pos ⟨hd, hb⟩)
    · exact (execCmdBrgAllowDegraded_free (.inr hb)).trans
        (congrArg Host.Outcome.next (performNow_answers hc (allowDegraded_ready h hd hw hm)))
    · exact (execCmdBrgAllowDegraded_free (.inr hb)).trans
        (congrArg Host.Outcome.next (performNow_answers hc (allowDegraded_only h (.inr hno))))
  · exact ⟨fun h => congrArg Host.Outcome.next (performQuery_answers hc (faultMapRead_badParam h)),
      fun hlo hhi hr => congrArg Host.Outcome.next (performQuery_answers hc (faultMapRead_answers hlo hhi hr))⟩

end Sys2Proof.Proofs
end

section
/-! The event recorder: admission, the spill, freezes, the summary, and its commands (R518 to R533); the statement of
16_event_recorder.md on them. -/

namespace Sys2Proof.Machine

-- Admission to the ring (R518 to R521, R525).

/-- Between `s` and `t` records move to the ring: counters, messages to the host, and the recorder but for its
statistics, its histograms and a freeze. -/
structure RecorderMoves (s t : State) : Prop where
  frame : t = { s with evr := t.evr, ctr := t.ctr, host := t.host }
  stats : t.evr.stats = s.evr.stats
  hists : t.evr.hists = s.evr.hists
  freeze : t.evr.freeze = s.evr.freeze

theorem RecorderMoves.refl (s : State) : RecorderMoves s s := ⟨rfl, rfl, rfl, rfl⟩

theorem RecorderMoves.trans {s t u : State} (h : RecorderMoves s t) (h' : RecorderMoves t u) : RecorderMoves s u :=
  ⟨h'.frame.trans (by rw [h.frame]), h'.stats.trans h.stats, h'.hists.trans h.hists, h'.freeze.trans h.freeze⟩

theorem RecorderMoves.fold {α : Type} {f : State → α → State} (hf : ∀ s a, RecorderMoves s (f s a)) :
    ∀ (l : List α) (s : State), RecorderMoves s (l.foldl f s)
  | [], s => .refl s
  | a :: l, s => (hf s a).trans (RecorderMoves.fold hf l (f s a))

theorem RecorderMoves.flash {s t : State} (h : RecorderMoves s t) : t.flash = s.flash := by rw [h.frame]

theorem bump_moves (id inst n : Nat) (s : State) : RecorderMoves s (bump id inst n s) := ⟨rfl, rfl, rfl, rfl⟩

theorem putRec_moves (r : Rec) (s : State) : RecorderMoves s (putRec r s) := ⟨rfl, rfl, rfl, rfl⟩

theorem pkgEvt_moves (i : Nat) (s : State) : RecorderMoves s (pkgEvt i s) := by
  rw [pkgEvt_frame]
  exact ⟨rfl, rfl, rfl, rfl⟩

theorem countLost_moves (gone : List Rec) (s : State) : RecorderMoves s (countLost gone s) := by
  unfold countLost
  dsimp only
  split
  · exact .refl s
  · exact bump_moves _ _ _ s

theorem countRemoved_moves (gone : List Rec) (s : State) : RecorderMoves s (countRemoved gone s) := by
  unfold countRemoved
  refine .trans ?_ (countLost_moves gone _)
  split
  · exact .refl s
  · exact bump_moves _ _ _ s

theorem countRemoved_evr (gone : List Rec) (s : State) : (countRemoved gone s).evr = s.evr := by
  unfold countRemoved countLost
  dsimp only
  repeat' split
  all_goals rfl

/-- What making room for a record leaves and removes (R518, R521). -/
def roomFor (r : Rec) (s : State) : List Rec × List Rec :=
  makeRoom r.sev (recLen r + if needsAnchor s.evr.ring r.time then 16 else 0) s.evr.ring.length s.evr.ring []

/-- The record fits once room is made for it. -/
def fits (r : Rec) (s : State) : Prop :=
  ringBytes (roomFor r s).1 + (recLen r + if needsAnchor s.evr.ring r.time then 16 else 0) ≤ ringCap

/-- The anchor of a record (R518). -/
def anchorOf (r : Rec) : Rec :=
  { seq := 0, code := Ev.evrTime, sev := 0, src := 0, time := r.time, payload := pay64 r.time }

/-- The state with room made, and the anchor in the ring where the record needs one. -/
def anchored (r : Rec) (s : State) : State :=
  let t := countRemoved (roomFor r s).2 { s with evr := { s.evr with ring := (roomFor r s).1 } }
  if needsAnchor s.evr.ring r.time then putRec (anchorOf r) t else t

theorem anchored_moves (r : Rec) (s : State) : RecorderMoves s (anchored r s) := by
  have hroom : RecorderMoves s { s with evr := { s.evr with ring := (roomFor r s).1 } } := ⟨rfl, rfl, rfl, rfl⟩
  unfold anchored
  dsimp only
  split
  · exact (hroom.trans (countRemoved_moves _ _)).trans (putRec_moves _ _)
  · exact hroom.trans (countRemoved_moves _ _)

theorem anchored_evr (r : Rec) (s : State) : (anchored r s).evr.queue = s.evr.queue
    ∧ (anchored r s).evr.nextSeq = s.evr.nextSeq + bit (needsAnchor s.evr.ring r.time) := by
  unfold anchored
  dsimp only
  split
  · next h => rw [h]; exact ⟨by simp only [putRec, bump_evr, countRemoved_evr], by
      simp only [putRec, bump_evr, countRemoved_evr]; rfl⟩
  · next h => rw [eq_false_of_ne_true h, countRemoved_evr]; exact ⟨rfl, rfl⟩

theorem admitRec_fits {r : Rec} {s : State} (h : fits r s) :
    let t := anchored r s
    let u := putRec r { t with evr := { t.evr with ring := pruneAnchors t.evr.ring } }
    admitRec r s = if 3 ≤ r.sev then pkgEvt 1 u else u := if_neg (Nat.not_lt.mpr h)

theorem admitRec_drops {r : Rec} {s : State} (h : ¬ fits r s) : admitRec r s = bump Cnt.evrDropFull 0 1
    (if r.seq = 0 then { s with evr := { s.evr with nextSeq := s.evr.nextSeq + 1 } } else s) :=
  if_pos (Nat.not_le.mp h)

theorem admitRec_moves (r : Rec) (s : State) : RecorderMoves s (admitRec r s) := by
  by_cases h : fits r s
  · rw [admitRec_fits h]
    have hprune : RecorderMoves (anchored r s) { anchored r s with evr := { (anchored r s).evr with
        ring := pruneAnchors (anchored r s).evr.ring } } := ⟨rfl, rfl, rfl, rfl⟩
    have hput := ((anchored_moves r s).trans hprune).trans (putRec_moves r _)
    dsimp only
    split
    · exact hput.trans (pkgEvt_moves 1 _)
    · exact hput
  · rw [admitRec_drops h]
    refine .trans ?_ (bump_moves _ _ _ _)
    split
    · exact ⟨rfl, rfl, rfl, rfl⟩
    · exact .refl s

/-- A record without a number takes the next one as it enters the ring, behind the number of its anchor. -/
theorem admitRec_evr {r : Rec} {s : State} (h : fits r s) (h0 : r.seq = 0) :
    (admitRec r s).evr.queue = s.evr.queue
    ∧ (admitRec r s).evr.ring.getLast? = some { r with seq := (admitRec r s).evr.newestSeq }
    ∧ (admitRec r s).evr.newestSeq = s.evr.nextSeq + bit (needsAnchor s.evr.ring r.time)
    ∧ (admitRec r s).evr.nextSeq = s.evr.nextSeq + bit (needsAnchor s.evr.ring r.time) + 1 := by
  obtain ⟨hqueue, hnext⟩ := anchored_evr r s
  have hevr : (admitRec r s).evr = (putRec r { anchored r s with evr := { (anchored r s).evr with
      ring := pruneAnchors (anchored r s).evr.ring } }).evr := by
    rw [admitRec_fits h]
    dsimp only
    split
    · rw [pkgEvt_frame]
    · rfl
  have hfresh : (r.seq == 0) = true := beq_iff_eq.mpr h0
  simp only [hevr, putRec, bump_evr, hfresh, if_true, List.getLast?_concat, hqueue, hnext, and_self]

theorem frozenRec_moves (r : Rec) (s : State) : RecorderMoves s (frozenRec r s) := by
  have hnext : RecorderMoves s { s with evr := { s.evr with nextSeq := s.evr.nextSeq + 1 } } := ⟨rfl, rfl, rfl, rfl⟩
  unfold frozenRec
  dsimp only
  split
  · exact ⟨rfl, rfl, rfl, rfl⟩
  · exact hnext.trans (bump_moves _ _ _ _)

theorem takeEvent_moves (s : State) : RecorderMoves s (takeEvent s) := by
  unfold takeEvent
  split
  · exact .refl s
  · next r rest _ =>
    have htaken : RecorderMoves s { s with evr := { s.evr with queue := rest } } := ⟨rfl, rfl, rfl, rfl⟩
    dsimp only
    split
    · exact htaken.trans (frozenRec_moves r _)
    · exact htaken.trans (admitRec_moves r _)

theorem drainQueue_moves (s : State) : RecorderMoves s (drainQueue s) :=
  .fold (fun s _ => takeEvent_moves s) s.evr.queue s

theorem raise_freeze (code src : Nat) (payload : List Byte) (s : State) :
    (raise code src payload s).evr.freeze = s.evr.freeze := by
  unfold raise enqueue
  rw [noteMemEvent_eq]
  dsimp only
  repeat' split
  all_goals rfl

theorem raiseDirect_freeze (code src : Nat) (payload : List Byte) (s : State) :
    (raiseDirect code src payload s).evr.freeze = s.evr.freeze := by
  have hraised : (raise code src payload (drainQueue s)).evr.freeze = s.evr.freeze :=
    (raise_freeze code src payload _).trans (drainQueue_moves s).freeze
  unfold raiseDirect
  dsimp only
  split
  · exact hraised
  · exact (admitRec_moves _ _).freeze.trans hraised

section Admit

variable {s : State} {r : Rec} {rest : List Rec} (hs : s.sm.state = .running) (hq : s.evr.queue = r :: rest)

include hs hq

theorem eventAdmitS_admits (hf : s.evr.freeze = none) :
    eventAdmitS s = admitRec r { s with evr := { s.evr with queue := rest } } := by
  have hrun : ¬ s.sm.state ≠ .running := not_not.mpr hs
  simp only [eventAdmitS, if_neg hrun, takeEvent, hq, hf]

theorem eventAdmitS_frozen {f : Freeze} (hf : s.evr.freeze = some f) :
    eventAdmitS s = frozenRec r { s with evr := { s.evr with queue := rest } } := by
  have hrun : ¬ s.sm.state ≠ .running := not_not.mpr hs
  simp only [eventAdmitS, if_neg hrun, takeEvent, hq, hf]

end Admit

theorem tokenRefillS_at {s : State} {code t : Nat} (h : (bucketOf s code).next = some t) :
    let u := reachTime t s
    tokenRefillS code s = { u with evr := { u.evr with buckets := mapSet u.evr.buckets code (bucketDue u code) } } := by
  simp only [tokenRefillS, h]

-- Spill, freeze and summary (R523, R525, R533).

theorem spillBatchS_running {s : State} (hs : s.sm.state = .running) :
    let u := if 262144 ≤ ringBytes (unspilled s) then s else reachTime (s.evr.lastSpill + 10000000000) s
    let rs := sortBy (fun a b => a.seq ≤ b.seq) (unspilled u)
    let v := { u with
      flash := { u.flash with spill := rs.foldl spillRec u.flash.spill }
      evr := { u.evr with
        lastSpill := u.now
        spilledTo := rs.foldl (fun m r => if m < r.seq then r.seq else m) u.evr.spilledTo } }
    spillBatchS s = if rs.isEmpty then v else bump Cnt.evrSpillBytes 0 (ringBytes rs) v :=
  if_neg (not_not.mpr hs)

theorem endFreeze_none {s : State} (h : s.evr.freeze = none) : endFreeze s = s := by
  simp only [endFreeze, h]

theorem endFreeze_some {s : State} {f : Freeze} (h : s.evr.freeze = some f) :
    let u := drainQueue s
    let v := u.evr.fatalHold.foldl (fun s r => admitRec r s) { u with evr := { u.evr with
      freeze := none
      fatalHold := [] } }
    endFreeze s = raiseDirect Ev.evrUnfrozen 0 (pay64 (ctrGet v Cnt.evrFrozen 0 - f.startCount)) v := by
  simp only [endFreeze, h]

theorem reachTime_evr (t : Nat) (s : State) : (reachTime t s).evr = s.evr := by rw [reachTime, advance_frame]

theorem freezeTimeoutS_ends {s : State} {f : Freeze} (h : s.evr.freeze = some f) :
    freezeTimeoutS s = endFreeze (reachTime f.expires s) := by
  simp only [freezeTimeoutS, h]

theorem summaryRefreshS_running {s : State} (hs : s.sm.state = .running) : summaryRefreshS s =
    pkgEvt 3 { s with evr := { s.evr with summaryGen := s.evr.summaryGen + 2, summary := summaryBytes s } } :=
  if_neg (not_not.mpr hs)

-- The commands that read (R526 to R532).

section Read

variable {p : List Byte} {s : State}

theorem evrRead_badParam (h : field p 0 2 = 3 ∨ field p 2 62 ≠ 0 ∨ field p 128 32 < 64 ∨ 524288 < field p 128 32) :
    evrRead p s = failWith St.badParam 0 := if_pos h

theorem evrSource_eq (n : Nat) : evrSource s n = if n = 0 then sortBy (fun a b => a.seq ≤ b.seq) s.evr.ring
    else if n = 1 then s.flash.spill.flatten else s.flash.clearLog := by
  unfold evrSource
  split
  · rfl
  · rfl
  · next h0 h1 => rw [if_neg h0, if_neg h1]

theorem evrRead_answers
    (h : ¬ (field p 0 2 = 3 ∨ field p 2 62 ≠ 0 ∨ field p 128 32 < 64 ∨ 524288 < field p 128 32)) :
    let rs := if field p 0 2 = 0 then sortBy (fun a b => a.seq ≤ b.seq) s.evr.ring
      else if field p 0 2 = 1 then s.flash.spill.flatten else s.flash.clearLog
    let oldest := match rs with
      | r :: _ => r.seq
      | [] => s.evr.nextSeq
    evrRead p s = okWith (toLE 8 s.evr.nextSeq ++ toLE 8 oldest
      ++ takeRecords (field p 64 64) (field p 128 32 - 16) rs) := by
  intro rs
  have hrs : evrSource s (field p 0 2) = rs := evrSource_eq _
  exact (if_neg h).trans (hrs ▸ rfl)

/-- The payload of CMD_EVR_HIST_READ is out of range. -/
def histReadOff (p : List Byte) : Prop :=
  2 ≤ field p 0 2 ∨ field p 2 14 ≠ 0 ∨ field p 32 16 = 0 ∨ 4096 < field p 32 16

theorem evrHistRead_badParam (h : histReadOff p) : evrHistRead p s = failWith St.badParam 0 := if_pos h

theorem evrHistRead_answers (h : ¬ histReadOff p) : evrHistRead p s = okWith (
    if field p 0 2 = 0 then (((s.evr.stats.drop (field p 16 16)).take (field p 32 16)).map (statBytes s)).flatten
    else ((((sensorList s).drop (field p 16 16)).take (field p 32 16)).map
      (fun e => histBytes e.1 e.2 (histOf s e.1 e.2))).flatten) :=
  (if_neg h).trans (apply_ite okWith _ _ _).symm

theorem counterRanges_eq : counterRanges p = (List.range (field p 0 8)).map (fun i => (field p (64 + 64 * i) 16,
    field p (80 + 64 * i) 16, field p (96 + 64 * i) 16, field p (112 + 64 * i) 16)) := by
  refine List.map_congr_left fun i _ => ?_
  have h16 : 80 + 64 * i = 64 + 64 * i + 16 := by omega
  have h32 : 96 + 64 * i = 64 + 64 * i + 32 := by omega
  have h48 : 112 + 64 * i = 64 + 64 * i + 48 := by omega
  rw [h16, h32, h48]

/-- A range of CMD_EVR_COUNTERS_READ that it does not allow. -/
def badRange (r : Nat × Nat × Nat × Nat) : Bool := r.2.2.1 == 0 || 4096 < r.2.2.1 || r.2.2.2 != 0

/-- The payload of CMD_EVR_COUNTERS_READ, with ranges `rs`, is out of range. -/
def countersOff (p : List Byte) (rs : List (Nat × Nat × Nat × Nat)) : Prop :=
  field p 0 8 = 0 ∨ 64 < field p 0 8 ∨ field p 8 56 ≠ 0 ∨ rs.any badRange = true
    ∨ 65536 < sumNat (rs.map (fun r => r.2.2.1))

theorem evrCountersRead_eq {rs : List (Nat × Nat × Nat × Nat)} [Decidable (countersOff p rs)] (hrs : counterRanges p = rs) :
    evrCountersRead p s = if countersOff p rs then failWith St.badParam 0
      else okWith (toLE 8 s.now ++ toLE 8 s.now ++ (rs.map (fun r =>
        ((List.range r.2.2.1).map (fun k => toLE 8 (ctrGet s r.1 (r.2.1 + k)))).flatten)).flatten) := by
  have hor : countersOff p rs ↔ (field p 0 8 = 0 ∨ 64 < field p 0 8 ∨ field p 8 56 ≠ 0)
      ∨ rs.any badRange = true ∨ 65536 < sumNat (rs.map (fun r => r.2.2.1)) := by
    simp only [countersOff, or_assoc]
  rw [if_congr hor rfl rfl, ite_or (P := field p 0 8 = 0 ∨ 64 < field p 0 8 ∨ field p 8 56 ≠ 0),
    ite_or (P := rs.any badRange = true), ← hrs]
  rfl

theorem evrPhaseRead_badParam (h : field p 64 16 = 0 ∨ 4096 < field p 64 16) :
    evrPhaseRead p s = failWith St.badParam 0 := if_pos h

theorem evrPhaseRead_answers (hlo : 1 ≤ field p 64 16) (hhi : field p 64 16 ≤ 4096) : evrPhaseRead p s =
    okWith (((s.evr.phases.filter (fun e => field p 0 64 ≤ e.step)).take (field p 64 16)).map phaseBytes).flatten :=
  if_neg (by omega)

end Read

-- The commands that set (R520, R524, R525, R532).

section Set

variable {p : List Byte} {s : State}

theorem evrFreeze_badParam (h : 600 < field p 0 16) : evrFreeze p s = (s, failWith St.badParam 0) := if_pos h

/-- The seconds of a freeze (R532). -/
def freezeSecs (p : List Byte) : Nat := if field p 0 16 = 0 then 60 else field p 0 16

theorem evrFreeze_prolongs {f : Freeze} (h : field p 0 16 ≤ 600) (hf : s.evr.freeze = some f) :
    evrFreeze p s = ({ s with evr := { s.evr with
      freeze := some { expires := s.now + freezeSecs p * 1000000000, startCount := f.startCount } } }, okWith []) := by
  simp only [evrFreeze, if_neg (Nat.not_lt.mpr h), hf, Option.isSome_some, if_true, freezeSecs]

theorem evrFreeze_begins (h : field p 0 16 ≤ 600) (hf : s.evr.freeze = none) :
    let u := raiseDirect Ev.evrFrozen 0 [] s
    evrFreeze p s = ({ u with evr := { u.evr with
      freeze := some { expires := u.now + freezeSecs p * 1000000000, startCount := ctrGet u Cnt.evrFrozen 0 } } },
      okWith []) := by
  have hu : (raiseDirect Ev.evrFrozen 0 [] s).evr.freeze = none := (raiseDirect_freeze _ _ _ s).trans hf
  simp only [evrFreeze, if_neg (Nat.not_lt.mpr h), hf, Option.isSome_none, Bool.false_eq_true, if_false, hu, freezeSecs]

theorem evrClear_badParam (h : field p 0 2 = 0 ∨ field p 2 6 ≠ 0) : evrClear p s = (s, failWith St.badParam 0) := if_pos h

theorem evrClear_full (h0 : field p 0 2 ≠ 0) (h6 : field p 2 6 = 0) (hf : 1024 ≤ s.flash.clearLog.length) :
    evrClear p s = (s, failWith St.noSpace 0) := (if_neg (by omega)).trans (if_pos hf)

/-- What RECORDS removes: the records of ring and spill (R524). -/
def recordsCleared (scope : Nat) (s : State) : State :=
  if scope % 2 = 1 then
    countLost (s.evr.ring.filter (fun r => !isAnchor r && r.code != Ev.evrCleared))
      { s with evr := { s.evr with ring := clearedRing s.evr.ring }, flash := { s.flash with spill := [] } }
  else s

/-- What STATISTICS removes: the statistics, their counters and the histograms (R524). -/
def statsCleared (scope : Nat) (s : State) : State :=
  if 2 ≤ scope then
    clearCtrs (fun i => i == Cnt.evrRaised || i == Cnt.evrSuppress)
      { s with evr := { s.evr with stats := [], hists := [], batch := batchNow s } }
  else s

/-- The record of a clear (R524). -/
def clearRec (p : List Byte) (s : State) : Rec :=
  { seq := 0, code := Ev.evrCleared, sev := evSev Ev.evrCleared, src := 0, time := s.now,
    payload := clearedPayload p s.step }

/-- The state that a clear leaves before it is recorded: what SCOPE names removed, and the nonce kept (R438, R524). -/
def cleared (p : List Byte) (s : State) : State :=
  recordNonce (field p 72 8) (field p 8 64) (statsCleared (field p 0 2) (recordsCleared (field p 0 2) s))

/-- The state that CMD_EVR_CLEAR leaves, but for the clear log. -/
def clearRecorded (p : List Byte) (s : State) : State :=
  admitRec (clearRec p (cleared p s)) (drainQueue (countRaising Ev.evrCleared 0 (cleared p s)))

/-- The clear log with one more record, numbered as the last that the ring took. -/
def logClear (r : Rec) (s : State) : State :=
  { s with flash := { s.flash with clearLog := s.flash.clearLog ++ [{ r with seq := s.evr.nextSeq - 1 }] } }

theorem logClear_evr (r : Rec) (s : State) : (logClear r s).evr = s.evr := rfl

theorem logClear_spill (r : Rec) (s : State) : (logClear r s).flash.spill = s.flash.spill := rfl

theorem logClear_clearLog (r : Rec) (s : State) :
    (logClear r s).flash.clearLog = s.flash.clearLog ++ [{ r with seq := s.evr.nextSeq - 1 }] := rfl

/-- The state that CMD_EVR_CLEAR leaves. -/
def clearLogged (p : List Byte) (s : State) : State := logClear (clearRec p (cleared p s)) (clearRecorded p s)

theorem evrClear_clears (h0 : field p 0 2 ≠ 0) (h6 : field p 2 6 = 0) (hf : s.flash.clearLog.length < 1024) :
    evrClear p s = (clearLogged p s, okWith []) := by
  have h1 : ¬ (field p 0 2 = 0 ∨ field p 2 6 ≠ 0) := by omega
  unfold clearLogged logClear clearRecorded clearRec cleared statsCleared recordsCleared
  simp only [evrClear, if_neg h1, if_neg (Nat.not_le.mpr hf)]

theorem recordsCleared_now (n : Nat) (s : State) : (recordsCleared n s).now = s.now := by
  unfold recordsCleared
  split
  · rw [(countLost_moves _ _).frame]
  · rfl

theorem recordsCleared_flash (n : Nat) (s : State) :
    (recordsCleared n s).flash = { s.flash with spill := if n % 2 = 1 then [] else s.flash.spill } := by
  unfold recordsCleared
  split
  · rw [(countLost_moves _ _).flash]
  · rfl

theorem recordsCleared_evr (n : Nat) (s : State) : (recordsCleared n s).evr.stats = s.evr.stats
    ∧ (recordsCleared n s).evr.hists = s.evr.hists := by
  unfold recordsCleared
  split
  · exact ⟨(countLost_moves _ _).stats, (countLost_moves _ _).hists⟩
  · exact ⟨rfl, rfl⟩

theorem statsCleared_frame (n : Nat) (s : State) : (statsCleared n s).now = s.now ∧ (statsCleared n s).flash = s.flash := by
  unfold statsCleared
  split <;> exact ⟨rfl, rfl⟩

theorem statsCleared_cleared {n : Nat} (h : 2 ≤ n) (s : State) : (statsCleared n s).evr.stats = []
    ∧ (statsCleared n s).evr.hists = [] := by
  rw [statsCleared, if_pos h]
  exact ⟨rfl, rfl⟩

theorem statsCleared_kept {n : Nat} (h : n < 2) (s : State) : statsCleared n s = s := if_neg (Nat.not_le.mpr h)

/-- Recording the clear changes neither flash nor, but for its own raising, the statistics and histograms. -/
theorem clearRecorded_moves (p : List Byte) (s : State) :
    RecorderMoves (countRaising Ev.evrCleared 0 (cleared p s)) (clearRecorded p s) :=
  (drainQueue_moves _).trans (admitRec_moves _ _)

theorem cleared_now (p : List Byte) (s : State) : (cleared p s).now = s.now :=
  (statsCleared_frame _ _).1.trans (recordsCleared_now _ s)

theorem clearRecorded_spill (p : List Byte) (s : State) :
    (clearRecorded p s).flash.spill = if field p 0 2 % 2 = 1 then [] else s.flash.spill := by
  rw [(clearRecorded_moves p s).flash]
  show (statsCleared (field p 0 2) (recordsCleared (field p 0 2) s)).flash.spill = _
  rw [(statsCleared_frame _ _).2, recordsCleared_flash]

theorem clearRecorded_clearLog (p : List Byte) (s : State) : (clearRecorded p s).flash.clearLog = s.flash.clearLog := by
  rw [(clearRecorded_moves p s).flash]
  show (statsCleared (field p 0 2) (recordsCleared (field p 0 2) s)).flash.clearLog = _
  rw [(statsCleared_frame _ _).2, recordsCleared_flash]

/-- Two states of one time and the same statistics take a raising alike. -/
theorem countRaising_stats {s t : State} (code src : Nat) (hn : s.now = t.now) (hs : s.evr.stats = t.evr.stats) :
    (countRaising code src s).evr.stats = (countRaising code src t).evr.stats := by
  simp only [countRaising, bump_evr, hn, hs]

theorem clearLogged_spill (p : List Byte) (s : State) :
    (clearLogged p s).flash.spill = if field p 0 2 % 2 = 1 then [] else s.flash.spill :=
  (logClear_spill _ _).trans (clearRecorded_spill p s)

/-- One record of the clear, with its time, joins the clear log. -/
theorem clearLogged_clearLog (p : List Byte) (s : State) : ∃ e : Rec,
    (clearLogged p s).flash.clearLog = s.flash.clearLog ++ [e] ∧ e.code = Ev.evrCleared ∧ e.time = s.now := by
  unfold clearLogged
  rw [logClear_clearLog, clearRecorded_clearLog]
  exact ⟨_, rfl, rfl, cleared_now p s⟩

theorem clearLogged_stats {p : List Byte} (h : 2 ≤ field p 0 2) (s : State) : (clearLogged p s).evr.stats =
    (countRaising Ev.evrCleared 0 { s with evr := { s.evr with stats := [] } }).evr.stats := by
  unfold clearLogged
  rw [logClear_evr, (clearRecorded_moves p s).stats]
  exact countRaising_stats _ _ (cleared_now p s) (statsCleared_cleared h _).1

theorem clearLogged_hists (p : List Byte) (s : State) :
    (clearLogged p s).evr.hists = if 2 ≤ field p 0 2 then [] else s.evr.hists := by
  unfold clearLogged
  rw [logClear_evr, (clearRecorded_moves p s).hists]
  show (statsCleared (field p 0 2) (recordsCleared (field p 0 2) s)).evr.hists = _
  split
  · next h => exact (statsCleared_cleared h _).2
  · next h => rw [statsCleared_kept (Nat.not_le.mp h), (recordsCleared_evr _ s).2]

theorem evrConfig_reserved (h : field p 1 15 ≠ 0) : evrConfig p s = (s, failWith St.badParam 0) := if_pos h

theorem evrConfig_rate (hr : field p 1 15 = 0) (hk : field p 0 1 = 0) (hid : evKnown (field p 16 16) = true)
    (ht : field p 16 16 ≠ Ev.evrTime) (hc : field p 16 16 ≠ Ev.evrCleared) (hrate : field p 32 16 ≤ 1000)
    (hburst : field p 48 16 ≤ 1024) (hres : field p 64 64 = 0) : evrConfig p s = (setRate (field p 16 16)
      (if field p 32 16 = 0 then 16 else field p 32 16) (if field p 48 16 = 0 then 64 else field p 48 16) s, okWith []) := by
  refine (if_neg (not_not.mpr hr)).trans ((if_pos hk).trans (if_neg ?_))
  simp [hid, ht, hc, hrate, hburst, hres]

theorem evrConfig_range (hr : field p 1 15 = 0) (hk : field p 0 1 = 1) (hid : (sensorRange (field p 16 16)).isSome = true)
    (hres : field p 48 16 = 0) (hinst : field p 32 16 < sensorInsts s (field p 16 16)) (hall : field p 32 16 ≠ 0xFFFF)
    (hlo : toSigned 32 (field p 64 32) < toSigned 32 (field p 96 32))
    (hdiv : (toSigned 32 (field p 96 32) - toSigned 32 (field p 64 32)) % 32 = 0) : evrConfig p s =
    (setRange (field p 16 16) (field p 32 16) (toSigned 32 (field p 64 32)) (toSigned 32 (field p 96 32)) s, okWith []) := by
  refine (if_neg (not_not.mpr hr)).trans ((if_neg (by omega)).trans ((if_neg ?_).trans (if_neg hall)))
  have hsome : (sensorRange (field p 16 16)).isNone = false := by
    rw [← Option.not_isSome, hid]
    rfl
  simp [hsome, hres, hinst, hlo, hdiv]

end Set

end Sys2Proof.Machine

namespace Sys2Proof.Proofs

open Sys2Proof.Machine

/-- Settles O58: one equation per move of the recorder and per command. That a record takes its sequence number as it leaves
the queue is assumption log 19. -/
theorem recorderRecords : Obligations.RecorderRecords := by
  intro s hs
  refine ⟨fun r rest hq h0 => ?_, fun code t h => ?_, ?_,
    ⟨fun f hf => ?_, fun src c hc => ⟨fun hf => ?_, fun f hf => ?_⟩⟩, ?_,
    fun src c => ⟨fun hc => ⟨fun h => ?_, fun h => ?_⟩, fun hc => ⟨fun h => ?_, fun h => ⟨fun f hf => ?_, fun hf => ?_⟩⟩,
      fun hc => ⟨fun h => ?_, fun hscope hres hfull => ?_, fun hscope hres hroom => ?_⟩,
      fun hc => ⟨fun h => ?_, fun h => ?_⟩,
      fun hc => ⟨fun h => ?_, ?_, ?_⟩, fun hc => ?_, fun hc => ⟨fun h => ?_, fun hlo hhi => ?_⟩⟩⟩
  · intro u anchor need room
    refine ⟨fun hf hfit => ⟨admitRec r u, ?_⟩, fun hf hno => ?_, fun f hf => ?_⟩
    · obtain ⟨hqueue, hlast, hnewest, hnext⟩ := admitRec_evr (s := u) hfit h0
      have hframe := (admitRec_moves r u).frame
      exact ⟨congrArg Host.Outcome.next (eventAdmitS_admits hs hq hf), hqueue, hlast, hnewest, hnext, hframe⟩
    · exact congrArg Host.Outcome.next ((eventAdmitS_admits hs hq hf).trans
        ((admitRec_drops (s := u) (Nat.not_le.mpr hno)).trans (congrArg (bump Cnt.evrDropFull 0 1) (if_pos h0))))
    · exact congrArg Host.Outcome.next (eventAdmitS_frozen hs hq hf)
  · exact congrArg Host.Outcome.next (tokenRefillS_at h)
  · exact congrArg Host.Outcome.next (spillBatchS_running hs)
  · exact congrArg Host.Outcome.next ((freezeTimeoutS_ends hf).trans
      (endFreeze_some ((congrArg Recorder.freeze (reachTime_evr f.expires s)).trans hf)))
  · exact congrArg Host.Outcome.next (performNow_answers hc (congrArg (·, okWith []) (endFreeze_none hf)))
  · exact congrArg Host.Outcome.next (performNow_answers hc (congrArg (·, okWith []) (endFreeze_some hf)))
  · exact congrArg Host.Outcome.next (summaryRefreshS_running hs)
  · exact congrArg Host.Outcome.next (performQuery_answers hc (evrRead_badParam h))
  · exact congrArg Host.Outcome.next (performQuery_answers hc (evrRead_answers h))
  · exact congrArg Host.Outcome.next (performNow_answers hc (evrFreeze_badParam h))
  · exact congrArg Host.Outcome.next (performNow_answers hc (evrFreeze_prolongs h hf))
  · exact congrArg Host.Outcome.next (performNow_answers hc (evrFreeze_begins h hf))
  · exact congrArg Host.Outcome.next (performNow_answers hc (evrClear_badParam h))
  · exact congrArg Host.Outcome.next (performNow_answers hc (evrClear_full hscope hres hfull))
  · exact ⟨_, congrArg Host.Outcome.next (performNow_answers hc (evrClear_clears hscope hres hroom)),
      clearLogged_clearLog c.payload s, fun h => (clearLogged_spill c.payload s).trans (if_pos h),
      fun h => ⟨clearLogged_stats h s, (clearLogged_hists c.payload s).trans (if_pos h)⟩,
      fun h => (clearLogged_spill c.payload s).trans (if_neg (by omega)),
      fun h => (clearLogged_hists c.payload s).trans (if_neg (by omega))⟩
  · exact congrArg Host.Outcome.next (performQuery_answers hc (evrHistRead_badParam h))
  · exact congrArg Host.Outcome.next (performQuery_answers hc (evrHistRead_answers h))
  · exact congrArg Host.Outcome.next (performNow_answers hc (evrConfig_reserved h))
  · exact fun hr hk hid ht hcl hrate hburst hz => congrArg Host.Outcome.next
      (performNow_answers hc (evrConfig_rate hr hk hid ht hcl hrate hburst hz))
  · exact fun hr hk hid hz hinst hall hlo hdiv => congrArg Host.Outcome.next
      (performNow_answers hc (evrConfig_range hr hk hid hz hinst hall hlo hdiv))
  · have hbad : ∀ {r : Completion}, evrCountersRead c.payload s = r →
        exec (.cmdEvrCountersRead src) s = .next (recorded src c r s) := fun h =>
      congrArg Host.Outcome.next (performQuery_answers hc h)
    classical
    exact ⟨fun h => hbad ((evrCountersRead_eq counterRanges_eq).trans (if_pos h)),
      fun h => hbad ((evrCountersRead_eq counterRanges_eq).trans (if_neg h))⟩
  · exact congrArg Host.Outcome.next (performQuery_answers hc (evrPhaseRead_badParam h))
  · exact congrArg Host.Outcome.next (performQuery_answers hc (evrPhaseRead_answers hlo hhi))

end Sys2Proof.Proofs
end

section
/-! The meter, its port and reports, attestation, enrolment and the firmware update (R538 to R566); the statement of
17_meter_identity.md on them. -/

namespace Sys2Proof.Machine

-- Audit entries and reports (R548 to R551).

/-- What an audit entry does to the registers and the trail. -/
theorem audit_effect (t : Meter) (kind : Nat) (data : List Byte) :
    let n := t.regs.auditSeq + 1
    (audit kind data t).regs.auditSeq = n
    ∧ (audit kind data t).regs.auditHead = (sha512 (t.regs.auditHead ++ auditHeadBytes n t.regs.ms kind data)).take 16
    ∧ (audit kind data t).audit = auditInsert t.audit
      { seq := n, ms := t.regs.ms, kind := kind, data := (padTo 24 data).take 24,
        chain := (audit kind data t).regs.auditHead }
    ∧ (audit kind data t).regs.energy = t.regs.energy ∧ (audit kind data t).bridge = t.bridge :=
  ⟨rfl, rfl, rfl, rfl, rfl⟩

/-- What a report does to the registers, the interval and the bridge. -/
theorem report_effect (t : Meter) (acc : Option Account) (final : Bool) :
    let body := reportBody t (t.regs.reportSeq + 1) acc final
    (report acc final t).lastReport = body ++ edSign t.secret body
    ∧ (report acc final t).regs = { t.regs with reportSeq := t.regs.reportSeq + 1 }
    ∧ (report acc final t).bridge = t.bridge ++ [((report acc final t).lastReport, t.auditOut)]
    ∧ (report acc final t).intN = 0 ∧ (report acc final t).challenge = none
    ∧ (report acc final t).audit = t.audit ∧ (report acc final t).portOut = t.portOut :=
  ⟨rfl, rfl, rfl, rfl, rfl, rfl, rfl⟩

-- Samples (R538 to R543).

theorem sampleTime_frame (m : Meter) : sampleTime m = { m with
    usFrac := (sampleTime m).usFrac
    regs := { m.regs with ms := (sampleTime m).regs.ms } } := by
  unfold sampleTime
  split <;> rfl

/-- A sample's place in the interval changes no register but the largest power of the open account. -/
theorem sampleInterval_frame (mv : Nat) (ma : Int) (uw : Nat) (m : Meter) : sampleInterval mv ma uw m = { m with
    intSumV := m.intSumV + mv
    intSumI := m.intSumI + ma
    intN := m.intN + 1
    winSum := (sampleInterval mv ma uw m).winSum
    winN := (sampleInterval mv ma uw m).winN
    intPMax := (sampleInterval mv ma uw m).intPMax
    regs := { m.regs with account := (sampleInterval mv ma uw m).regs.account } } := by
  unfold sampleInterval
  dsimp only
  split <;> rfl

theorem sampleInterval_account (mv : Nat) (ma : Int) (uw : Nat) (m : Meter) :
    (sampleInterval mv ma uw m).regs.account.map (fun a => a.energy) = m.regs.account.map (fun a => a.energy) := by
  unfold sampleInterval
  dsimp only
  split
  · rfl
  · exact (Option.map_map ..).trans rfl

/-- The meter after a sample's time, energy and interval. -/
def sampled (mv : Nat) (ma : Int) (m : Meter) : Meter :=
  sampleInterval mv ma (sampleUw mv ma) (sampleEnergy (sampleUw mv ma) (sampleTime m))

theorem sampled_failed (mv : Nat) (ma : Int) {m : Meter} (h : m.selfFail = true) :
    (sampled mv ma m).regs.energy = m.regs.energy := by
  have hs : (sampleTime m).selfFail = true := by rw [sampleTime_frame, h]
  unfold sampled
  rw [sampleInterval_frame, sampleEnergy, if_pos hs, sampleTime_frame]

theorem sampled_adds (mv : Nat) (ma : Int) {m : Meter} (h : m.selfFail = false) :
    let mj := (m.frac + 4 * (mv * ma.toNat)) / 1000000000
    (sampled mv ma m).regs.energy = m.regs.energy + mj
    ∧ (sampled mv ma m).frac = (m.frac + 4 * (mv * ma.toNat)) % 1000000000
    ∧ (sampled mv ma m).pulseLow = (m.pulseLow || (m.regs.energy + mj) / 360000 != m.regs.energy / 360000)
    ∧ (sampled mv ma m).regs.account.map (fun a => a.energy) = m.regs.account.map (fun a => a.energy + mj) := by
  have hs : ¬ (sampleTime m).selfFail = true := by rw [sampleTime_frame, h]; exact Bool.false_ne_true
  unfold sampled
  rw [sampleInterval_account, sampleInterval_frame, sampleEnergy, if_neg hs, sampleTime_frame]
  exact ⟨rfl, rfl, rfl, Option.map_map ..⟩

theorem sampleEnergy_kept (uw : Nat) (m : Meter) : (sampleEnergy uw m).intN = m.intN
    ∧ (sampleEnergy uw m).intSumV = m.intSumV ∧ (sampleEnergy uw m).intSumI = m.intSumI
    ∧ (sampleEnergy uw m).overNow = m.overNow ∧ (sampleEnergy uw m).overrange = m.overrange
    ∧ (sampleEnergy uw m).regs.auditSeq = m.regs.auditSeq := by
  unfold sampleEnergy
  split <;> exact ⟨rfl, rfl, rfl, rfl, rfl, rfl⟩

theorem sampled_interval (mv : Nat) (ma : Int) (m : Meter) : (sampled mv ma m).intN = m.intN + 1
    ∧ (sampled mv ma m).intSumV = m.intSumV + mv ∧ (sampled mv ma m).intSumI = m.intSumI + ma
    ∧ (sampled mv ma m).overNow = m.overNow ∧ (sampled mv ma m).overrange = m.overrange
    ∧ (sampled mv ma m).regs.auditSeq = m.regs.auditSeq := by
  obtain ⟨hn, hv, hi, hnow, hrange, hseq⟩ := sampleEnergy_kept (sampleUw mv ma) (sampleTime m)
  unfold sampled
  rw [sampleInterval_frame, hn, hv, hi, hnow, hrange, hseq, sampleTime_frame]
  exact ⟨rfl, rfl, rfl, rfl, rfl, rfl⟩

/-- The onset of an out-of-range time is audited (R548). -/
def onsetAudited (out : Bool) (m : Meter) : Meter := if out && !m.overNow then audit 8 (energyData m) m else m

theorem onsetAudited_frame (out : Bool) (m : Meter) : onsetAudited out m = { m with
    audit := (onsetAudited out m).audit
    auditOut := (onsetAudited out m).auditOut
    regs := { m.regs with
      auditSeq := m.regs.auditSeq + bit (out && !m.overNow)
      auditHead := (onsetAudited out m).regs.auditHead } } := by
  unfold onsetAudited
  split
  · next h => rw [h]; rfl
  · next h => rw [eq_false_of_ne_true h]; rfl

theorem meterSampleM_eq (mv : Nat) (ma : Int) (m : Meter) : meterSampleM mv ma m =
    { onsetAudited (outOfRange mv ma) (sampled mv ma m) with
      overNow := outOfRange mv ma
      overrange := (onsetAudited (outOfRange mv ma) (sampled mv ma m)).overrange || outOfRange mv ma } := rfl

/-- What a sample does (R538, R541, R542, R548). -/
theorem meterSampleM_effect (mv : Nat) (ma : Int) (m : Meter) :
    let mj := (m.frac + 4 * (mv * ma.toNat)) / 1000000000
    let t := meterSampleM mv ma m
    t.regs.energy = (if m.selfFail then m.regs.energy else m.regs.energy + mj)
    ∧ (m.selfFail = false → t.frac = (m.frac + 4 * (mv * ma.toNat)) % 1000000000
      ∧ t.pulseLow = (m.pulseLow || (m.regs.energy + mj) / 360000 != m.regs.energy / 360000)
      ∧ t.regs.account.map (fun a => a.energy) = m.regs.account.map (fun a => a.energy + mj))
    ∧ t.intN = m.intN + 1 ∧ t.intSumV = m.intSumV + mv ∧ t.intSumI = m.intSumI + ma
    ∧ t.overNow = outOfRange mv ma ∧ t.overrange = (m.overrange || outOfRange mv ma)
    ∧ t.regs.auditSeq = m.regs.auditSeq + bit (outOfRange mv ma && !m.overNow) := by
  obtain ⟨hn, hv, hi, hnow, hrange, hseq⟩ := sampled_interval mv ma m
  dsimp only
  rw [meterSampleM_eq, onsetAudited_frame]
  refine ⟨?_, fun h => ?_, hn, hv, hi, rfl, congrArg (· || outOfRange mv ma) hrange, ?_⟩
  · cases h : m.selfFail with
    | true => exact sampled_failed mv ma h
    | false => exact (sampled_adds mv ma h).1
  · exact (sampled_adds mv ma h).2
  · show (sampled mv ma m).regs.auditSeq + bit (outOfRange mv ma && !(sampled mv ma m).overNow) = _
    rw [hseq, hnow]

-- The report timer and the port (R547, R551).

theorem reportTimerM_effect (m : Meter) : (reportTimerM m).regs.ms % 1000 = 0 ∧ m.regs.ms ≤ (reportTimerM m).regs.ms
    ∧ (reportTimerM m).regs.ms ≤ m.regs.ms + 1000 ∧ (reportTimerM m).regs.reportSeq = m.regs.reportSeq + 1
    ∧ (reportTimerM m).regs.energy = m.regs.energy := by
  have hms : (reportTimerM m).regs.ms =
      if m.regs.ms % 1000 = 0 ∧ m.regs.ms ≠ m.lastTimerMs then m.regs.ms else (m.regs.ms / 1000 + 1) * 1000 := by
    unfold reportTimerM reportNow
    dsimp only
    generalize (if m.regs.ms % 1000 = 0 ∧ m.regs.ms ≠ m.lastTimerMs then m.regs.ms else (m.regs.ms / 1000 + 1) * 1000) = t
    rw [(report_effect _ _ _).2.1]
    by_cases h : t = m.regs.ms
    · rw [if_pos h, h]
    · rw [if_neg h]
  have hregs : (reportTimerM m).regs.reportSeq = m.regs.reportSeq + 1 ∧ (reportTimerM m).regs.energy = m.regs.energy := by
    unfold reportTimerM reportNow
    dsimp only
    rw [(report_effect _ _ _).2.1]
    split <;> split <;> exact ⟨rfl, rfl⟩
  refine ⟨?_, ?_, ?_, hregs⟩
  all_goals rw [hms]; split <;> omega

section Port

variable {m : Meter}

theorem sealChangeM_closes (h : m.sealOpen = true) :
    sealChangeM m = reportNow (audit 2 (energyData m) { m with sealOpen := false }) := if_pos h

theorem sealChangeM_opens (h : m.sealOpen = false) : sealChangeM m = reportNow (audit 1 (energyData m) { m with
    sealOpen := true
    regs := { m.regs with sealEvents := m.regs.sealEvents + 1 } }) := if_neg (ne_true_of_eq_false h)

theorem challengeM_reports {b : List Byte} (h : b.length = 16) :
    challengeM b m = answer 0 [] (reportNow { m with challenge := some b }) := if_neg (not_not.mpr h)

theorem challengeM_refused {b : List Byte} (h : b.length ≠ 16) : challengeM b m = answer 1 [] m := if_pos h

theorem readAuditM_found {n : Nat} {e : AuditEntry} (h : m.audit.find? (fun e => e.seq == n) = some e) :
    readAuditM n m = answer 0 (auditBytes e) m := by
  simp only [readAuditM, h]

theorem readAuditM_absent {n : Nat} (h : m.audit.find? (fun e => e.seq == n) = none) : readAuditM n m = answer 1 [] m := by
  simp only [readAuditM, h]

theorem accountCloseM_closes {a : Account} (h : m.regs.account = some a) :
    accountCloseM m = answer 0 (closeAccount a m).lastReport (closeAccount a m) := by
  simp only [accountCloseM, h]

theorem accountCloseM_none (h : m.regs.account = none) : accountCloseM m = answer 1 [] m := by
  simp only [accountCloseM, h]

/-- The meter with account `id` open, from now on, with its audit entry and report (R542). -/
def accountOpened (id : Nat) (m : Meter) : Meter :=
  let a : Account := { id := id, energy := 0, startMs := m.regs.ms, pMax := 0 }
  let t := { m with regs := { m.regs with account := some a, accountSeq := m.regs.accountSeq + 1 } }
  reportNow (audit 4 (accountData t a) t)

theorem accountOpenM_opens (id : Nat) (h : m.regs.account = none) :
    accountOpenM id m = answer 0 (accountOpened id m).lastReport (accountOpened id m) := by
  simp only [accountOpenM, h]
  rfl

theorem accountOpenM_reopens (id : Nat) {a : Account} (h : m.regs.account = some a) : accountOpenM id m =
    answer 0 (accountOpened id (closeAccount a m)).lastReport (accountOpened id (closeAccount a m)) := by
  simp only [accountOpenM, h]
  rfl

theorem accountOpened_effect (id : Nat) (m : Meter) :
    (accountOpened id m).regs.account = some { id := id, energy := 0, startMs := m.regs.ms, pMax := 0 }
    ∧ (accountOpened id m).regs.reportSeq = m.regs.reportSeq + 1
    ∧ (accountOpened id m).regs.auditSeq = m.regs.auditSeq + 1 := ⟨rfl, rfl, rfl⟩

section Load

variable {b : List Byte}

theorem paramLoadM_malformed (h : b = [] ∨ b.length % 256 ≠ 0) : paramLoadM b m = answer 1 [] m :=
  if_pos (h.imp_left List.isEmpty_iff.mpr)

variable (hb : b ≠ []) (hlen : b.length % 256 = 0)

include hb hlen

theorem paramLoadM_whole : ¬ (b.isEmpty ∨ b.length % 256 ≠ 0) := by
  rintro (h | h)
  · exact hb (List.isEmpty_iff.mp h)
  · exact h hlen

theorem paramLoadM_sealed (hs : m.sealOpen = false) : paramLoadM b m = answer 2 [] m :=
  (if_neg (paramLoadM_whole hb hlen)).trans (if_pos (by rw [hs]; rfl))

variable (hs : m.sealOpen = true)

include hs

theorem paramLoadM_unsigned (hk : paramSigned m.metrologyKey b = false) : paramLoadM b m = answer 3 [] m := by
  simp [paramLoadM, hb, hlen, hs, hk]

theorem paramLoadM_full (hk : paramSigned m.metrologyKey b = true) (hf : auditFull m = true) :
    paramLoadM b m = answer 4 [] m := by
  simp [paramLoadM, hb, hlen, hs, hk, hf]

theorem paramLoadM_loads (hk : paramSigned m.metrologyKey b = true) (hf : auditFull m = false) :
    (paramLoadM b m).param.bytes = b ∧ (paramLoadM b m).param.factory = false
    ∧ (paramLoadM b m).regs.auditSeq = m.regs.auditSeq + 1 ∧ (paramLoadM b m).regs.energy = m.regs.energy
    ∧ (paramLoadM b m).portOut = m.portOut ++ [(0, [])] := by
  have hload : paramLoadM b m = answer 0 [] (audit 3 (toLE 4 m.param.version
      ++ toLE 4 (Sys2Proof.Config.paramVersion b % 2 ^ 32)
      ++ (paramDigest { m with param :=
        { factory := false, version := Sys2Proof.Config.paramVersion b % 2 ^ 32, bytes := b } }).take 16)
      { m with param := { factory := false, version := Sys2Proof.Config.paramVersion b % 2 ^ 32, bytes := b } }) := by
    simp [paramLoadM, hb, hlen, hs, hk, hf]
  rw [hload]
  exact ⟨rfl, rfl, rfl, rfl, rfl⟩

end Load

theorem badCommandM_refused {byte : Nat} (h : byte = 0 ∨ 7 < byte) : badCommandM byte m = answer 1 [] m :=
  if_neg (by omega)

end Port

-- The meter's rows.

theorem onMeter_powered {s : State} (h : s.meter.powered = true) (f : Meter → Meter) :
    onMeter f s = { s with meter := f s.meter } := if_pos h

theorem onMeter_unpowered {s : State} (h : s.meter.powered = false) (f : Meter → Meter) : onMeter f s = s :=
  if_neg (ne_true_of_eq_false h)

-- The commands (R560 to R566).

section Commands

variable {p : List Byte} {s : State}

theorem mtrReportRead_badParam (h : field p 0 8 = 0 ∨ 64 < field p 0 8) : mtrReportRead p s = failWith St.badParam 0 :=
  if_pos h

theorem mtrReportRead_answers (hlo : 1 ≤ field p 0 8) (hhi : field p 0 8 ≤ 64) : mtrReportRead p s = okWith
    (((List.range (Nat.min (field p 0 8) s.win.filled)).map
      (fun k => slotBytes s.win ((s.win.newest + 64 - k) % 64))).flatten) := if_neg (by omega)

theorem mtrAuditRead_badParam (h : field p 64 16 = 0 ∨ 256 < field p 64 16) :
    mtrAuditRead p s = failWith St.badParam 0 := if_pos h

theorem mtrAuditRead_answers (hlo : 1 ≤ field p 64 16) (hhi : field p 64 16 ≤ 256) :
    let es := (s.win.audit.map (fun e => e.2)).filter (fun e => field p 0 64 ≤ e.seq)
    mtrAuditRead p s = okWith ((((sortBy (fun a b => a.seq ≤ b.seq) es).take (field p 64 16)).map auditBytes).flatten) :=
  if_neg (by omega)

theorem ownerEnroll_refused (h : enrolChange p s = none) : ownerEnroll p s = (s, failWith St.badParam 0) := by
  simp only [ownerEnroll, h]

theorem ownerEnroll_accepted {e : Enrol} (h : enrolChange p s = some e) :
    let f := { e with updateNo := (enrol s).updateNo + 1 }
    ownerEnroll p s = (raise Ev.pkgOwnerEnroll 0 (pack 8 [(0, 8, field p 0 8), (8, 8, field p 8 4)])
      (bump Cnt.pkgEnroll 0 1 { s with flash := { s.flash with enrol1 := f, enrol2 := f } }), okWith []) := by
  simp only [ownerEnroll, h]
  rfl

/-- The size of CMD_PKG_FW_OPEN is out of range. -/
def fwOpenOff (n : Nat) : Prop := n < 320 ∨ 67108864 < n ∨ n % 64 ≠ 0

theorem slotA_bytes : (flashArea .slotA).2 = 67108864 := rfl

theorem fwOpen_badParam (h : fwOpenOff (field p 0 32)) : fwOpen p s = (s, failWith St.badParam 0) := by
  unfold fwOpen
  rw [slotA_bytes]
  exact if_pos h

theorem fwOpen_opens (h : ¬ fwOpenOff (field p 0 32)) : fwOpen p s = (fwOpenS (field p 0 32) false s, okWith []) := by
  unfold fwOpen
  rw [slotA_bytes]
  exact if_neg h

theorem fwData_closed (h : s.fw = none) : fwData p s = (s, failWith St.badParam 0) := by
  simp only [fwData, h]

theorem fwData_badParam {f : FwSession} (h : s.fw = some f) (hbad : f.pldm = true ∨ field p 0 32 % 64 ≠ 0
    ∨ field p 32 32 % 64 ≠ 0 ∨ field p 32 32 < 64 ∨ 524288 < field p 32 32 ∨ f.imageBytes < field p 0 32 + field p 32 32) :
    fwData p s = (s, failWith St.badParam 0) := by
  simp only [fwData, h]
  exact if_pos hbad

theorem fwData_writes {f : FwSession} (h : s.fw = some f) (hp : f.pldm = false) (ho : field p 0 32 % 64 = 0)
    (hn : field p 32 32 % 64 = 0) (hlo : 64 ≤ field p 32 32) (hhi : field p 32 32 ≤ 524288)
    (hfit : field p 0 32 + field p 32 32 ≤ f.imageBytes) :
    fwData p s = (fwDataS (field p 0 32) (slice p 8 (field p 32 32)) s, okWith []) := by
  simp only [fwData, h]
  refine if_neg ?_
  rw [hp]
  rintro (h | h | h | h | h | h)
  · cases h
  all_goals omega

theorem fwCommit_closed (h : s.fw = none) : fwCommit p s = (s, failWith St.badParam 1) := by
  simp only [fwCommit, h]

section Commit

variable {f : FwSession} (h : s.fw = some f) (hp : f.pldm = false)

include h hp

/-- The boot header and the session as a commit leaves them, with the slot valid or not (R560). -/
def committed (v : Option Nat) (s : State) : State :=
  setBootHdr (markSlot (inactive s) v.isNone false) { s with fw := none }

theorem fwCommit_valid (hv : imageCheck s (fwSlot s (inactive s)) (some f.imageBytes) = none) :
    fwCommit p s = (raise Ev.pkgFwCommit 0 [] (bump Cnt.pkgFwCommit 0 1 { committed none s with
      flash := { (committed none s).flash with lastCommitB := inactive s } }), okWith []) := by
  simp only [fwCommit, h, hp, Bool.false_eq_true, if_false, fwCommitS, hv]
  rfl

theorem fwCommit_rejected {k : Nat} (hv : imageCheck s (fwSlot s (inactive s)) (some f.imageBytes) = some k) :
    fwCommit p s = (raise Ev.pkgFwReject 0 (pay64 k) (bump Cnt.pkgFwReject 0 1 (committed (some k) s)),
      failWith St.badParam k) := by
  simp only [fwCommit, h, hp, Bool.false_eq_true, if_false, fwCommitS, hv]
  rfl

end Commit

theorem fwActivate_badParam {src : CmdSrc} (h : field p 1 31 ≠ 0 ∨ lastValid s = none) :
    fwActivate src p s = (s, failWith St.badParam 0) := by
  by_cases hr : field p 1 31 = 0
  · have hv : lastValid s = none := h.resolve_left (not_not.mpr hr)
    simp only [fwActivate, hr, ne_eq, not_true_eq_false, if_false, hv]
  · exact if_pos hr

theorem fwActivate_activates {src : CmdSrc} {b : Bool} (hr : field p 1 31 = 0) (hv : lastValid s = some b) :
    let u := raise Ev.pkgFwActivate 0 [] (setBootHdr (fun h => { h with activeB := b }) s)
    fwActivate src p s = (if flag p 0 then deferOrphan src 0 u else u, okWith []) := by
  simp only [fwActivate, hr, ne_eq, not_true_eq_false, if_false, hv]
  rfl

end Commands

end Sys2Proof.Machine

namespace Sys2Proof.Proofs

open Sys2Proof.Machine

/-- Settles O59: one equation per row of the meter and per command. The signature of a parameter set is assumption log 12; a
commit without a session, filled slots, audit entries held and AUTO on ACTIVATE are log 20; the enrol payload is log 18. -/
theorem meterAndIdentity : Obligations.MeterAndIdentity := by
  intro s m put say told zero
  refine ⟨audit_effect, report_effect, fun hp => ?_, fun hp i hi => ?_,
    fun src c => ⟨fun hc => ?_, fun hc => ?_, fun hc => ?_,
    fun hc => ?_, fun hc => ?_, fun hc => ?_, fun hc => ?_, fun hc => ?_⟩⟩
  · have row : ∀ {f : Meter → Meter} {t : Meter}, f m = t → Host.Outcome.next (onMeter f s) = put t := fun h =>
      congrArg Host.Outcome.next ((onMeter_powered hp _).trans (congrArg (fun t => { s with meter := t }) h))
    refine ⟨fun mv ma => ⟨_, row rfl, meterSampleM_effect mv ma m⟩, row rfl, row rfl, ⟨_, row rfl, reportTimerM_effect m⟩,
      fun h => row (sealChangeM_closes h), fun h => row (sealChangeM_opens h), row rfl,
      fun b => ⟨fun h => row (challengeM_reports h), fun h => row (challengeM_refused h)⟩,
      fun n => ⟨fun e h => row (readAuditM_found h), fun h => row (readAuditM_absent h)⟩,
      fun a h => row (accountCloseM_closes h),
      fun h => ⟨row (accountCloseM_none h), fun id => row (accountOpenM_opens id h)⟩,
      fun a0 id h => ⟨_, row (accountOpenM_reopens id h), ?_⟩, row rfl,
      fun b => ⟨fun h => row (paramLoadM_malformed h), fun hb hlen => ⟨fun hs => row (paramLoadM_sealed hb hlen hs),
        fun hs hk => row (paramLoadM_unsigned hb hlen hs hk), fun hs hk hf => row (paramLoadM_full hb hlen hs hk hf),
        fun hs hk hf => ⟨_, row rfl, paramLoadM_loads hb hlen hs hk hf⟩⟩⟩,
      fun byte h => row (badCommandM_refused h)⟩
    exact accountOpened_effect id (closeAccount a0 m)
  · have unpowered : ∀ f : Meter → Meter, Host.Outcome.next (onMeter f s) = put m := fun f =>
      congrArg Host.Outcome.next (onMeter_unpowered hp f)
    simp only [List.mem_cons, List.not_mem_nil, or_false] at hi
    obtain rfl | rfl | rfl | rfl | rfl | rfl | rfl := hi <;> exact unpowered _
  · exact ⟨fun h => congrArg Host.Outcome.next (performQuery_answers hc (mtrReportRead_badParam h)),
      fun hlo hhi => congrArg Host.Outcome.next (performQuery_answers hc (mtrReportRead_answers hlo hhi))⟩
  · exact ⟨fun h => congrArg Host.Outcome.next (performQuery_answers hc (mtrAuditRead_badParam h)),
      fun hlo hhi => congrArg Host.Outcome.next (performQuery_answers hc (mtrAuditRead_answers hlo hhi))⟩
  · exact congrArg Host.Outcome.next (performNow_answers hc rfl)
  · exact ⟨fun h => congrArg Host.Outcome.next (performNow_answers hc (ownerEnroll_refused h)),
      fun e h => congrArg Host.Outcome.next (performNow_answers hc (ownerEnroll_accepted h))⟩
  · exact ⟨fun h => congrArg Host.Outcome.next (performNow_answers hc (fwOpen_badParam h)),
      fun h => congrArg Host.Outcome.next (performNow_answers hc (fwOpen_opens h))⟩
  · exact ⟨fun h => congrArg Host.Outcome.next (performNow_answers hc (fwData_closed h)),
      fun f h => ⟨fun hbad => congrArg Host.Outcome.next (performNow_answers hc (fwData_badParam h hbad)),
        fun hpl ho hn hlo hhi hfit => congrArg Host.Outcome.next
          (performNow_answers hc (fwData_writes h hpl ho hn hlo hhi hfit))⟩⟩
  · refine ⟨fun h => congrArg Host.Outcome.next (performNow_answers hc (fwCommit_closed h)), fun f h hpl => ?_⟩
    intro b v u
    refine ⟨fun hv => ?_, fun k hv => ?_⟩
    · have hu : u = committed none s := congrArg (fun v => committed v s) hv
      rw [hu]
      exact congrArg Host.Outcome.next (performNow_answers hc (fwCommit_valid h hpl hv))
    · have hu : u = committed (some k) s := congrArg (fun v => committed v s) hv
      rw [hu]
      exact congrArg Host.Outcome.next (performNow_answers hc (fwCommit_rejected h hpl hv))
  · exact ⟨fun h => congrArg Host.Outcome.next (performNow_answers hc (fwActivate_badParam h)),
      fun b hr hv => congrArg Host.Outcome.next (performNow_answers hc (fwActivate_activates hr hv))⟩

end Sys2Proof.Proofs
end

section
/-! Supplies, reset inputs, reference clocks, thermal steps, ceilings, test access and the power commands (R573 to R588); the
statement of 18_package_power.md on them. -/

namespace Sys2Proof.Machine

-- Dies held in reset (R575).

section Held

variable {s : State} (hoff : s.dev ≠ .off) (hstandby : s.dev ≠ .standby)

include hoff hstandby

theorem holdReset_eq : holdReset s = setDev .standby (resetDies false false s) :=
  if_neg (not_or.mpr ⟨hoff, hstandby⟩)

theorem holdReset_frame : holdReset s = { resetDies false false s with
    dev := .standby
    stateSeq := (holdReset s).stateSeq
    chk := (holdReset s).chk
    host := (holdReset s).host } := by
  rw [holdReset_eq hoff hstandby]
  exact setDev_frame .standby _

theorem holdReset_resets : (holdReset s).dev = .standby ∧ (holdReset s).mem = State.reset.mem ∧ (holdReset s).job = none
    ∧ (holdReset s).now = s.now := by
  rw [holdReset_frame hoff hstandby]
  exact ⟨rfl, rfl, rfl, rfl⟩

theorem mailbox_holdReset (n : Nat) : (mailbox (holdReset s) n).phase = .closed := by
  have hmbx : (holdReset s).host.mbx = mapVals (fun _ m => { closedMailbox with window := m.window }) s.host.mbx := by
    rw [holdReset_eq hoff hstandby, setDev_mbx]
    rfl
  unfold mailbox mapGetD
  rw [hmbx, mapGet_mapVals]
  cases mapGet s.host.mbx n with
  | none => rfl
  | some m => rfl

theorem holdReset_softKept : softKept s.flash.softMap (holdReset s).flash.softMap := by
  rw [holdReset_frame hoff hstandby]
  exact (resetFlash_keeps false s).1

end Held

/-- Held dies leave fuses and meter alone. -/
theorem holdReset_leaves (s : State) : (holdReset s).fuse = s.fuse ∧ (holdReset s).meter = s.meter := by
  by_cases h : s.dev = .off ∨ s.dev = .standby
  · rw [holdReset, if_pos h]
    exact ⟨rfl, rfl⟩
  · obtain ⟨hoff, hstandby⟩ := not_or.mp h
    rw [holdReset_frame hoff hstandby]
    exact ⟨rfl, rfl⟩

-- Supplies, reset inputs and reference clocks (R573 to R578).

section Supplies

variable {s : State}

theorem vauxAppliedS_starts (romOk : Bool) (h : s.pkg.vaux = false) : vauxAppliedS romOk s = { s with
    dev := .standby
    stateSeq := 0
    pkg := { s.pkg with vaux := true, thermtrip := false, jtag := .idcode }
    meter := meterPowerUp romOk s.meter } := if_neg (ne_true_of_eq_false h)

theorem vauxLossS_off (h : s.pkg.vaux = true) : vauxLossS s = { holdReset s with
    dev := .off
    win := resetWindow
    pkg := { (holdReset s).pkg with vaux := false, latched := [] }
    meter := meterPowerDown (holdReset s).meter } := if_neg (by rw [h]; exact Bool.false_ne_true)

theorem meterPowerDown_commits (m : Meter) : (meterPowerDown m).powered = false
    ∧ (meterPowerDown m).nv = (meterPowerDown m).regs ∧ (meterPowerDown m).regs.energy = m.regs.energy
    ∧ (meterPowerDown m).regs.auditSeq = m.regs.auditSeq + 1 := ⟨rfl, rfl, rfl, rfl⟩

theorem vinRangeExitS_exits (h : s.pkg.vinRange = true) :
    let u := { s with pkg := { s.pkg with vinRange := false } }
    vinRangeExitS s = if diesRun s then raise Ev.pkgVinRange 0 [] (bump Cnt.pkgVinRange 0 1 u) else u :=
  if_neg (by rw [h]; exact Bool.false_ne_true)

theorem refclkLossS_lost (h : s.pkg.refclk = true) :
    let u := { s with pkg := { s.pkg with refclk := false } }
    refclkLossS s = if diesRun s then
      raise Ev.pkgRefclkLoss 0 [] (bump Cnt.pkgRefclkLoss 0 1 (closeMailboxes u)) else u :=
  if_neg (by rw [h]; exact Bool.false_ne_true)

theorem mayRelease_iff : mayRelease s = true ↔ s.pkg.vaux = true ∧ s.pkg.pwrgd = true ∧ s.pkg.rstN = true
    ∧ s.pkg.thermtrip = false := by
  simp only [mayRelease, Bool.and_eq_true, Bool.not_eq_true', and_assoc]

theorem pwrgdRiseS_releases (h : s.pkg.pwrgd = false) :
    let u := { s with pkg := { s.pkg with pwrgd := true, vin := true, vinRange := true, lrefclk := true } }
    pwrgdRiseS s = if s.dev = .standby ∧ s.pkg.vaux = true ∧ s.pkg.rstN = true ∧ s.pkg.thermtrip = false then
      startBringup false 0 u else u := by
  intro u
  have hrel : mayRelease u = true ↔ s.pkg.vaux = true ∧ s.pkg.rstN = true ∧ s.pkg.thermtrip = false :=
    mayRelease_iff.trans (and_congr_right fun _ => and_iff_right rfl)
  exact (if_neg (ne_true_of_eq_false h)).trans (if_congr (and_congr_right fun _ => hrel) rfl rfl)

theorem rstRiseS_releases (h : s.pkg.rstN = false) :
    let trip := s.pkg.thermtrip && s.pkg.dies.any (fun e => 760 < e.2.temp)
    let u := { s with pkg := { s.pkg with rstN := true, thermtrip := trip, lrefclk := true } }
    rstRiseS s = if s.dev = .standby ∧ s.pkg.vaux = true ∧ s.pkg.pwrgd = true ∧ trip = false then
      startBringup false 0 u else u := by
  intro trip u
  have hrel : mayRelease u = true ↔ s.pkg.vaux = true ∧ s.pkg.pwrgd = true ∧ trip = false :=
    mayRelease_iff.trans (and_congr_right fun _ => and_congr_right fun _ => and_iff_right rfl)
  exact (if_neg (ne_true_of_eq_false h)).trans (if_congr (and_congr_right fun _ => hrel) rfl rfl)

end Supplies

-- Thermal steps and CCLK (R581 to R583, R586).

theorem telemetry_pkg (id inst : Nat) (x : Int) (s : State) : (telemetry id inst x s).pkg = s.pkg := by
  unfold telemetry sample
  dsimp only
  repeat' split
  all_goals rfl

theorem exec_dieTempReport {s : State} {d : Nat} (temp : Int) (hd : d < nDies s) (hr : diesRun s = true) :
    let c := dieClock s d
    let t := telemetry 0x0104 d c.cclk (telemetry 0x0103 d temp s)
    let k := nextStep t.pkg.tjThr c.step temp
    let u := setDie d { c with temp := temp, step := k } (fillDies t)
    let v := if c.step = 0 ∧ 0 < k then raise Ev.pkgThrottle (srcOf 1 d) [] u else u
    exec (.dieTempReport d temp) s = .next (
      if 1000 ≤ temp then
        holdReset (latch Ev.pkgThermtrip (pay64 d) { v with pkg := { v.pkg with thermtrip := true } })
      else retarget v) :=
  (onUnit_present _ (decide_eq_true hd)).trans (congrArg Host.Outcome.next (if_pos hr))

section Steps

variable (thr : Nat) (temp : Int)

theorem enteredStep_le (thr : Nat) (temp : Int) : enteredStep thr temp ≤ 3 := by
  unfold enteredStep
  dsimp only
  split
  · omega
  · exact Nat.min_le_left ..

theorem heldStep_le : ∀ cur, heldStep thr temp cur ≤ cur
  | 0 => Nat.le_refl 0
  | k + 1 => by
    unfold heldStep
    split
    · exact Nat.le_refl _
    · exact Nat.le_succ_of_le (heldStep_le k)

variable {thr temp}

/-- Below the first entry temperature less 2 degrees no step is held. -/
theorem heldStep_cool (h : temp < 8 * thr - 16) : ∀ cur, heldStep thr temp cur = 0
  | 0 => rfl
  | k + 1 => by
    have hno : ¬ 8 * (thr : Int) + 24 * k - 16 ≤ temp := by omega
    exact (if_neg hno).trans (heldStep_cool h k)

/-- A temperature at or above the entry of step `j + 1` less 2 degrees does not leave that step. -/
theorem heldStep_holds {j : Nat} (h : 8 * (thr : Int) + 24 * j - 16 ≤ temp) :
    ∀ {cur : Nat}, j < cur → j + 1 ≤ heldStep thr temp cur
  | k + 1, hj => by
    by_cases hk : 8 * (thr : Int) + 24 * k - 16 ≤ temp
    · exact hj.trans_eq (if_pos hk).symm
    · have hlt : j < k := by omega
      exact (heldStep_holds h hlt).trans_eq (if_neg hk).symm

theorem nextStep_bounds {cur : Nat} (hc : cur ≤ 3) : let k := nextStep thr cur temp
    k ≤ 3 ∧ (temp < 8 * thr - 16 → k = 0) ∧ (8 * thr + 48 ≤ temp → k = 3) ∧ (cur = 0 → 8 * thr ≤ temp → 1 ≤ k)
    ∧ (∀ j, j < cur → 8 * thr + 24 * j - 16 ≤ temp → j + 1 ≤ k) := by
  intro k
  have hle : k ≤ 3 := Nat.max_le.mpr ⟨enteredStep_le thr temp, (heldStep_le thr temp cur).trans hc⟩
  have hentered : enteredStep thr temp ≤ k := Nat.le_max_left _ _
  refine ⟨hle, fun h => ?_, fun h => ?_, fun _ h => ?_, fun j hj h => (heldStep_holds h hj).trans (Nat.le_max_right _ _)⟩
  · have h0 : enteredStep thr temp = 0 := if_pos (by omega)
    show Nat.max (enteredStep thr temp) (heldStep thr temp cur) = 0
    rw [h0, heldStep_cool h cur]
    rfl
  · have h3 : enteredStep thr temp = 3 := by
      refine (if_neg (by omega)).trans (Nat.min_eq_left ?_)
      omega
    omega
  · have h1 : 1 ≤ enteredStep thr temp := by
      refine Nat.le_trans ?_ (if_neg (by omega)).ge
      exact Nat.le_min.mpr ⟨by omega, by omega⟩
    omega

end Steps

theorem powerCeilingUpdateS_runs {s : State} (vin iin p10 mhz : Nat) (h : diesRun s = true) :
    let t := telemetry 0x0102 0 p10 (telemetry 0x0101 0 iin (telemetry 0x0100 0 vin s))
    powerCeilingUpdateS vin iin p10 mhz s = retarget (fillDies { t with pkg := { t.pkg with
      vinMv := vin
      iinMa := iin
      p10Mw := p10
      pwrCeil := Nat.max 350 (Nat.min 700 (mhz / 25 * 25))
      vinRange := s.pkg.vinRange || (11000 ≤ vin && vin ≤ 13200) } }) := by
  intro t
  have ht : t.pkg = s.pkg := (telemetry_pkg ..).trans ((telemetry_pkg ..).trans (telemetry_pkg ..))
  refine (if_neg (by rw [h]; exact Bool.false_ne_true)).trans ?_
  rw [← ht]
  rfl

theorem throttleS_runs {s : State} (high : Bool) (h : diesRun s = true) :
    throttleS high s = retarget (fillDies { s with pkg := { s.pkg with throttleN := high } }) := if_pos h

theorem throttleS_held {s : State} (high : Bool) (h : diesRun s = false) :
    throttleS high s = { s with pkg := { s.pkg with throttleN := high } } := if_neg (ne_true_of_eq_false h)

theorem exec_cclkChangeDone {s : State} {d : Nat} (hd : d < nDies s) (h : (dieClock s d).changing = true) :
    exec (.cclkChangeDone d) s =
      .next (setDie d { dieClock s d with cclk := targetMhz s (dieClock s d), changing := false } s) :=
  (onUnit_present _ (decide_eq_true hd)).trans (congrArg Host.Outcome.next (if_pos h))

theorem thermalMhz_le : ∀ k, thermalMhz k ≤ 700
  | 0 | 1 | 2 => by decide
  | _ + 3 => show 350 ≤ 700 by decide

/-- The target is the lowest of the three ceilings. -/
theorem targetMhz_le (s : State) (c : DieClock) :
    targetMhz s c ≤ thermalMhz c.step ∧ targetMhz s c ≤ s.pkg.pwrCeil ∧ targetMhz s c ≤ extMhz s :=
  ⟨Nat.min_le_left _ _, (Nat.min_le_right _ _).trans (Nat.min_le_left _ _),
    (Nat.min_le_right _ _).trans (Nat.min_le_right _ _)⟩

-- Test access and the commands (R579, R584, R585).

section Access

variable {s : State}

theorem exec_jtagInstruction {i : JtagInstr} (hoff : s.dev ≠ .off) (h : i = .privateDebug → s.fuse.dbgLockBlown = true) :
    exec (.jtagInstruction i) s = .next (jtagS i s) := by
  refine (if_neg hoff).trans (if_neg ?_)
  rintro ⟨hi, hb⟩
  rw [h hi] at hb
  cases hb

theorem exec_privateDebug (hoff : s.dev ≠ .off) (hb : s.fuse.dbgLockBlown = false) :
    exec (.jtagInstruction .privateDebug) s = .refused .privateDebug :=
  (if_neg hoff).trans (if_pos ⟨rfl, by rw [hb]; rfl⟩)

/-- The payload of CMD_PKG_POWER_LIMIT is out of range. -/
def powerLimitOff (p : List Byte) (code : Code) : Prop :=
  field p 24 40 ≠ 0 ∨ (field p 0 16 ≠ 0 ∧ (field p 0 16 < codeMinW code ∨ codeMaxW code < field p 0 16))
    ∨ (field p 16 8 ≠ 0 ∧ (field p 16 8 < 85 ∨ 100 < field p 16 8))

theorem powerLimit_badParam {p : List Byte} (h : powerLimitOff p s.fuse.code) :
    powerLimit p s = (s, failWith St.badParam 0) := if_pos h

theorem powerLimit_sets {p : List Byte} (h : ¬ powerLimitOff p s.fuse.code) : powerLimit p s =
    (raise Ev.pkgPwrLimit 0 [] { s with pkg := { s.pkg with
      plW := if field p 0 16 = 0 then s.pkg.plW else field p 0 16
      tjThr := if field p 16 8 = 0 then s.pkg.tjThr else field p 16 8 } }, okWith []) := if_neg h

end Access

end Sys2Proof.Machine

namespace Sys2Proof.Proofs

open Sys2Proof.Machine

/-- Settles O60: one equation per pin, supply, clock, report and command. The refused debug instruction is assumption log 7;
memory and time of held dies are logs 13 and 17, the supplies taken as good at a rise log 22, and the payload of
EV_PKG_THERMTRIP log 18. -/
theorem packagePinsAndPower : Obligations.PackagePinsAndPower := by
  intro s pins hold
  refine ⟨fun u hoff hstandby => ?_, fun hv ok => ?_, fun hv => ?_, rfl, rfl, fun hr => ?_, rfl, fun hp => ?_, fun hp => ?_,
    rfl, rfl, fun hr => ?_, rfl, rfl, fun d temp hd hr => ?_, fun thr cur temp hc => ?_, fun vin iin p10 mhz hr => ?_,
    fun hr => ?_, fun hr => ?_, fun d hd hc => ?_, fun hoff hb => ?_, fun hoff i hi => ⟨fun ha => ?_, fun ha => ?_⟩,
    fun src c => ⟨fun hc => ?_, fun hc => ⟨fun h => ?_, fun h => ?_⟩, fun hc => ?_⟩⟩
  · obtain ⟨hdev, hmem, hjob, hnow⟩ := holdReset_resets hoff hstandby
    obtain ⟨hfuse, hmeter⟩ := holdReset_leaves u
    exact ⟨hdev, hfuse, hmeter, holdReset_softKept hoff hstandby, hmem, hjob, hnow, mailbox_holdReset hoff hstandby⟩
  · exact congrArg Host.Outcome.next (vauxAppliedS_starts ok hv)
  · obtain ⟨hfuse, hmeter⟩ := holdReset_leaves s
    obtain ⟨hpowered, hnv, henergy, hseq⟩ := meterPowerDown_commits (holdReset s).meter
    exact ⟨_, congrArg Host.Outcome.next (vauxLossS_off hv), rfl, rfl, rfl, hpowered, hnv,
      henergy.trans (congrArg (fun m => m.regs.energy) hmeter), hseq.trans (congrArg (fun m => m.regs.auditSeq + 1) hmeter),
      hfuse⟩
  · exact congrArg Host.Outcome.next (vinRangeExitS_exits hr)
  · exact congrArg Host.Outcome.next (pwrgdRiseS_releases hp)
  · exact congrArg Host.Outcome.next (rstRiseS_releases hp)
  · exact congrArg Host.Outcome.next (refclkLossS_lost hr)
  · exact exec_dieTempReport temp hd hr
  · exact nextStep_bounds hc
  · exact congrArg Host.Outcome.next (powerCeilingUpdateS_runs vin iin p10 mhz hr)
  · exact ⟨congrArg Host.Outcome.next (throttleS_runs false hr), congrArg Host.Outcome.next (throttleS_runs true hr)⟩
  · exact ⟨congrArg Host.Outcome.next (throttleS_held false hr), congrArg Host.Outcome.next (throttleS_held true hr)⟩
  · obtain ⟨htherm, hpwr, hext⟩ := targetMhz_le s (dieClock s d)
    refine ⟨_, exec_cclkChangeDone hd hc, ?_⟩
    rw [dieClock_setDie_same]
    exact ⟨rfl, htherm.trans (thermalMhz_le _), htherm, hpwr,
      fun ht => hext.trans_eq (if_neg (ne_true_of_eq_false ht)), rfl⟩
  · exact exec_privateDebug hoff hb
  · exact (exec_jtagInstruction hoff hi).trans (congrArg Host.Outcome.next (if_pos ha))
  · exact (exec_jtagInstruction hoff hi).trans (congrArg Host.Outcome.next (if_neg (ne_true_of_eq_false ha)))
  · exact congrArg Host.Outcome.next (performQuery_answers hc rfl)
  · exact congrArg Host.Outcome.next (performNow_answers hc (powerLimit_badParam h))
  · exact congrArg Host.Outcome.next (performNow_answers hc (powerLimit_sets h))
  · exact congrArg Host.Outcome.next (performQuery_answers hc rfl)

end Sys2Proof.Proofs
end
